-- ==== Sys2Proof/Word.lean ====
section
/-! DEFINITION. The words of the Wilvan WV9640: bytes and the names of its numbered units (00 R11, Table 0.4). -/

namespace Sys2Proof

/-- One byte; byte 0 of a multi-byte value holds bits [7:0] (R14). -/
abbrev Byte := BitVec 8
/-- A byte string in ascending address order. -/
abbrev Bytes := List Byte
/-- Forge die F0 to F3. -/
abbrev Die := Fin 4
/-- Link die L0 to L7. -/
abbrev LinkDie := Fin 8
/-- A lane, or a port named by its first lane. -/
abbrev Lane := Fin 512
/-- HBM stack H0 to H5. -/
abbrev Stack := Fin 6
/-- Swage array S0 to S15. -/
abbrev ArrayId := Fin 16
/-- Clause core C0 to C63. -/
abbrev CoreId := Fin 64
/-- Bridge port B.P0 to B.P3. -/
abbrev BPort := Fin 4
/-- Die-to-die link 0 to 17 of Table 1.2. -/
abbrev LinkId := Fin 18
/-- Reduction context 0 to 4,095. -/
abbrev CtxId := Fin 4096
/-- A tenancy, `gfa`[63:56]. -/
abbrev Ten := BitVec 8
/-- A 16-bit endpoint ID. -/
abbrev EpId := BitVec 16
/-- A 256-bit data header or control packet, byte 0 in bits [7:0]. -/
abbrev Word256 := BitVec 256

/-- A sparse table: (key, value) pairs with rising keys. -/
abbrev Machine.AMap (α : Type) := List (Nat × α)

end Sys2Proof
end

