-- ==== Sys2Proof/Syntax.lean ====
section
/-! DEFINITION. The commands of the block: one constructor of `Instr` per row of spec/opcode_table.json, with the
operands the row's rule names. -/

namespace Sys2Proof

/-- Where a packet enters the switch: a lane port, or a bridge attachment of a Forge die (Table 3.1). -/
inductive Ingress
  | port (p : Lane)
  | bridge (d : Die)
deriving DecidableEq, Repr

/-- A requester of the lexicon engine, as R599 identifies it per transport. -/
inductive Requester
  | inband (src : EpId) (ten : Ten)
  | issio (ip : BitVec 32) (port : BitVec 16)
  | i3c
  | mailbox (slot : Fin 64)
  | core (c : CoreId)
deriving DecidableEq, Repr

/-- One lexicon request: an entry, a first segment of 16 bits, an operation and its bytes (R598). For a clause core `seg`
is the 32-bit word number (R623). -/
structure LexReq where
  by_   : Requester
  index : BitVec 16
  sub   : BitVec 8
  seg   : BitVec 32
  op    : BitVec 4
  len   : Nat
  value : Bytes
  /-- copied from request to response, in-band only (Table 2.5) -/
  tag   : BitVec 16
deriving DecidableEq, Repr

/-- The owner a billet is charged to (Table 4.2), and the requesters that have none: an own target's answers by its index in
the switch's block of IDs, transfers bound for it, cells that arrive from the bridge, mirrored copies. -/
inductive Owner
  | ingress (p : Lane) (c : Fin 8)
  | egress (p : Lane) (c : Fin 8)
  | ctx (c : CtxId)
  | core (c : CoreId)
  | target (i : Fin 32)
  | toOwn (i : Fin 32)
  | bridge (d : Die)
  | mirror (s : Fin 8)
deriving DecidableEq, Repr

/-- Which quota table a quota write names (Table 4.5). -/
inductive QuotaTable
  | portMin | portMax | ten | ctx | core
deriving DecidableEq, Repr

/-- Which Bellows entry a parameter write names (Table 5.5). -/
inductive BelEntry
  | tq | qShape | clsWeight | tenCir | tenPir | polRate | polCtl | polPort | polTen | guardCir | guardPir
deriving DecidableEq, Repr

/-- A fault as its source raises it (Tables 17.2 and 17.4). -/
structure FaultInfo where
  code   : Nat
  source : Nat
  ten    : Option Ten
  detail : BitVec 64
  aux    : BitVec 64
deriving DecidableEq, Repr

/-- One access to a line of HBM at its line port (R319). -/
inductive LineAccess
  | read
  /-- whole-line write of 64 bytes -/
  | write (bytes : Bytes)
  /-- merge write of the bytes from offset `off` of the line on (R321) -/
  | merge (off : Fin 64) (bytes : Bytes)
  /-- read-modify-write add (R322, R341): the terms of consecutive elements of format `fmt` from element `el` of the
  line on, each given as an FP64 encoding of its internal value -/
  | add (fmt : BitVec 4) (el : Nat) (terms : List (BitVec 64))
deriving DecidableEq, Repr

/-- Errors in the stored codeword of a line when it is read: the symbol, of 68, and what is added to it in GF(2^8) (08 R313,
R314). -/
abbrev LineErr := List (Fin 68 × Byte)

/-- A PHY type of an Ethernet mode (Table 12.1): the mode, 2 or 3, the lanes it runs on, and whether it is KR rather than CR. -/
structure Phy where
  mode  : Nat
  width : Nat
  kr    : Bool
deriving DecidableEq, Repr

/-- The partner's side of Clause 73 (R491 to R493): Next Page set, the OUI and capability word of its next pages where
it sends them, the PHY types of Table 12.1 that its base page advertises, and how many other next pages it sends. -/
structure PartnerPages where
  nextPage : Bool
  oui      : BitVec 24
  cap      : BitVec 32
  phys     : List Phy
  others   : Nat
deriving DecidableEq, Repr

/-- One lane's measured eye at the slicer: h in thousandths of a mV and S in thousandths of a dB (R514), and whether its signal
comes in inverted (R488). -/
structure LaneEye where
  lane : Lane
  h    : Nat
  snr  : Int
  inv  : Bool
deriving DecidableEq, Repr

/-- The levels of a PAM4 symbol: -3, -1, +1 and +3 (R495). -/
inductive Pam
  | n3 | n1 | p1 | p3
deriving DecidableEq, Repr

/-- A received codeword (R495 to R497): the lane it came on, the five levels of each block's kind symbol as they are on the
line, the symbols of its Reed-Solomon codeword that are in error (DESIGN CHOICE, log 127), and the message sent: 300 bits of a
short codeword, 5,280 of a long one. -/
structure Codeword where
  lane  : Lane
  kinds : List (List Pam)
  errs  : Nat
  msg   : BitVec 5280
deriving DecidableEq, Repr

/-- A PCIe completion or device response outcome. -/
inductive CplStatus
  | ok | unsupported | abort | poisoned
deriving DecidableEq, Repr

/-- Why a memory device was lost (Table 13.6). -/
inductive DownCause
  | linkDown | timeout | viral
deriving DecidableEq, Repr

/-- Why the host link was lost (Table 13.6). -/
inductive HostLoss
  | linkDown | hotReset
deriving DecidableEq, Repr

/-- A CXL access (R549). -/
inductive CxlOp
  | read (units : Nat)
  | write (bytes : Bytes)
deriving DecidableEq, Repr

/-- An SPDM request M answers (R731). -/
inductive SpdmReq
  | getCertificate
  | challenge (nonce : BitVec 256)
  | getMeasurements (idx : Nat)
  | keyExchange
  /-- ends the handshake of session `sid`; `cert` is the SHA3-256 of the requester's leaf key when it authenticated -/
  | finish (sid : Nat) (cert : Option (BitVec 256))
  | endSession (sid : Nat)
deriving DecidableEq, Repr

/-- Transport an SPDM request arrives by. -/
inductive SpdmVia
  | i3c | udp (port : BitVec 16)
deriving DecidableEq, Repr

/-- What the bring-up of a cold reset meets (Table 16.1, R634 to R636, R690, R716). -/
structure BootFacts where
  fuseOk  : Bool
  /-- the offset each of the 60 crossings achieved; 7, 8 or 9 places the pointer (R690) -/
  align   : List Nat
  katOk   : Bool
  /-- bit n: a half of stack Hn fails HBM training -/
  hbmFail : BitVec 6
  /-- milliseconds from RESET_N to READY as far as the link step -/
  ms      : BitVec 32
deriving DecidableEq, Repr

/-- A temperature sensor's place (Table 20.9). -/
inductive Sensor
  | forge (d : Die) (k : Fin 16)
  | link (l : LinkDie) (k : Fin 4)
  | stack (n : Stack) (k : Fin 3)
  | bridge (k : Fin 2)
  | mgmt
deriving DecidableEq, Repr

/-- A JTAG instruction (R757). -/
inductive JtagInstr
  | bypass | boundaryScan (code : BitVec 8) | other (code : BitVec 8)
deriving DecidableEq, Repr

/-- A unit that engine parking covers (Table 16.4). -/
inductive ParkUnit
  | anvil (d : Die)
  | swage (a : ArrayId)
  | core (c : CoreId)
  | hearth (u : Fin 96)
deriving DecidableEq, Repr

/-- A memory granule (R310, R548). -/
inductive Granule
  | hbm (g : Fin 576)
  | cxl (p : BPort) (g : Fin 4096)
deriving DecidableEq, Repr

/-- A block `ten.blk.cmd` resets (R583). -/
inductive Block
  | array (a : ArrayId)
  | core (c : CoreId)
  | stack (n : Stack)
deriving DecidableEq, Repr

/-- A node of the combination tree: members of local rank `lo` to `hi` - 1 of a block (R268). -/
structure NodeId where
  block : Nat
  lo    : Nat
  hi    : Nat
deriving DecidableEq, Repr

/-- The commands: one constructor per row of spec/opcode_table.json, in its order. -/
inductive Instr
  -- 01
  | rateMonitorWindow (die : Die) (rate : BitVec 32) (mv : BitVec 16)
  | hsWindowWrite (value : BitVec 32)
  | d2dWordCorrected (link : LinkId)
  | d2dLinkStop (link : LinkId)
  -- 02, 03
  | dataHeaderReceive (src : Ingress) (hdr : Word256)
  | controlPacketReceive (src : Ingress) (pkt : Word256)
  | dataEndWordReceive (src : Ingress) (payload : Bytes) (endWord : BitVec 64)
  | creditReceive (port : Lane) (pkt : Word256)
  | crossbarCellSlot (die : Die)
  | depthReportRefresh (die : Die)
  | sprayHalvingExpire (die : Die) (port : Lane) (cls : Fin 8)
  | holeTimerExpire (src dst : EpId) (cls : Fin 8) (entropy : BitVec 8)
  | egressSelect (port : Lane)
  | egressPacketComplete (port : Lane)
  | signalHoldExpire (pkt : Word256)
  -- 04
  | billetAllocate (die : Die) (owner : Owner) (ten : Option Ten) (bytes : Nat)
  | billetFree (die : Die) (owner : Owner) (handle : BitVec 32)
  | freeRingRefill (die : Die) (pool : Fin 6) (badLines : List (Fin 16))
  | freeRingWriteback (die : Die) (pool : Fin 6)
  | poolUnitsWrite (die : Die) (units : List (Fin 5 × BitVec 16))
  | deepGibWrite (die : Die) (gib : BitVec 8)
  | billetRebuildComplete (die : Die)
  | quotaWrite (table : QuotaTable) (die : Die) (el : Nat) (value : BitVec 64)
  | billetStarvationTimeout (die : Die) (req : Nat)
  -- 05
  | belModeWrite (die : Die) (value : BitVec 8)
  | bellowsParamWrite (entry : BelEntry) (die : Die) (el : Nat) (value : BitVec 64)
  | telRingMibWrite (mib : BitVec 16)
  | telPeriodWrite (ns : BitVec 32)
  | telemetrySweep (die : Die)
  -- 07, 10
  | collDescriptorReceive (hdr : Word256) (payload : Bytes)
  | anvilContribution (hdr : Word256) (payload : Bytes)
  | anvilRootFormed (ctx : CtxId) (slot : Fin 2) (block : Nat)
  | withdrawReceive (pkt : Word256)
  | collAbortReceive (pkt : Word256)
  | collCommitReceive (pkt : Word256)
  | resultReceive (hdr : Word256) (payload : Bytes)
  | collCompleteReceive (pkt : Word256)
  | collectiveFinish (ten : Ten) (group : Fin 4096) (cseq : BitVec 32)
  | collAbortWrite (value : BitVec 64)
  | crossDieAbort (ten : Ten) (group : Fin 4096) (cseq : BitVec 32)
  | anvilLingerExpire (ctx : CtxId)
  | anvilSpillTimeout (ctx : CtxId) (slot : Fin 2) (node : NodeId)
  | spillReadbackComplete (ctx : CtxId) (slot : Fin 2) (node : NodeId) (errs : LineErr)
  | contextStarvationTimeout (die : Die) (entry : Nat)
  | collectiveStallTimeout (ctx : CtxId) (slot : Fin 2)
  | resultStagingTimeout (ctx : CtxId) (slot : Fin 2) (block : Nat)
  | updateBlockReceive (hdr : Word256) (payload : Bytes)
  | groupEntryWrite (group : Fin 4096) (value : BitVec 512)
  | libLoad (image : Bytes)
  | rv32imcInstruction (core : CoreId)
  | evwait (core : CoreId) (rd rs1 : BitVec 5)
  | evpoll (core : CoreId) (rd rs1 : BitVec 5)
  | pktsend (core : CoreId) (rd rs1 : BitVec 5)
  | lexrd (core : CoreId) (rd rs1 rs2 : BitVec 5)
  | lexwr (core : CoreId) (rd rs1 rs2 : BitVec 5)
  | balloc (core : CoreId) (rd rs1 : BitVec 5)
  | ballocn (core : CoreId) (rd rs1 : BitVec 5)
  | bfree (core : CoreId) (rs1 : BitVec 5)
  | move (core : CoreId) (rd rs1 : BitVec 5)
  | hjob (core : CoreId) (rd rs1 rs2 : BitVec 5)
  | sjob (core : CoreId) (rd rs1 rs2 : BitVec 5)
  | cabort (core : CoreId) (rs1 rs2 : BitVec 5)
  | gather (core : CoreId) (rs1 rs2 : BitVec 5)
  | time (core : CoreId) (rd rs1 : BitVec 5)
  -- 08
  | hearthJobSubmit (hdr : Word256) (payload : Bytes)
  | hearthJobStart (stack : Stack)
  | recipeStep (stack : Stack) (job : Nat) (step : Nat)
  | hearthJobComplete (stack : Stack) (job : Nat)
  | copyLine (stack : Stack) (job : Nat) (line : Nat)
  | linePortAccess (offset : BitVec 40) (access : LineAccess) (errs : LineErr)
  | patrolRead (offset : BitVec 40) (errs : LineErr)
  -- 09
  | swageOpSubmit (hdr : Word256) (payload : Bytes)
  | swageOpValidate (array : ArrayId)
  | swageLoadComplete (array : ArrayId)
  | swagePassComplete (array : ArrayId)
  | swageDrainComplete (array : ArrayId)
  | swageStreamWrite (hdr : Word256) (payload : Bytes)
  | swageStreamTimeout (array : ArrayId)
  -- 11
  | agreeArrive (pkt : Word256)
  | agreeRelease (pkt : Word256)
  | agrForce (value : BitVec 32)
  | agrBindWrite (counter : Fin 2048) (value : BitVec 32)
  | lendReportStart (counter : Fin 2048)
  -- 12
  | portEnable (port : Lane)
  | portDisable (port : Lane)
  | portRetrain (port : Lane)
  | portEnterIdle (port : Lane)
  | negotiationComplete (port : Lane) (pages : PartnerPages)
  | temperFomUpdate (eyes : List LaneEye)
  | trainingTimeout (port : Lane) (coarseDone : Bool)
  | commaReceive (lane : Lane) (tag : Option (BitVec 32))
  | codewordReceive (port : Lane) (cw : Codeword)
  | replayTimeout (port : Lane)
  | laneUnlockTimeout (lane : Lane)
  | signalLoss (port : Lane)
  | portUpTimeout (port : Lane)
  | failedPortRetry (port : Lane)
  | eidleAutoEntry (port : Lane)
  | eidleAckWaitTimeout (port : Lane)
  | eidleExitComplete (port : Lane)
  | ethFrameReceive (port : Lane) (fec : List Nat) (frame : Bytes) (fcs : BitVec 32)
  | pfcReceive (port : Lane) (classes : BitVec 8) (quanta : List (BitVec 16))
  | pfcPauseExpire (port : Lane) (cls : Fin 8)
  | pfcRepeat (port : Lane) (cls : Fin 8)
  -- 13
  | hostWrite (offset : Nat) (bytes : List (Option Byte))
  | hostRead (offset : Nat) (bytes : Nat)
  | hostReadResp (hdr : Word256) (payload : Bytes)
  | hostReadTimeout (tag : Fin 1024)
  | reverseWindowRequest (hdr : Word256) (payload : Bytes)
  | hostCompletionReceive (id : Nat) (status : CplStatus) (payload : Bytes)
  | reverseReadTimeout (id : Nat)
  | msiWrite (hdr : Word256)
  | memPortEnumerate (port : BPort) (supported : Bool) (capacity : Nat)
  | cxlAccess (port : BPort) (address : BitVec 42) (op : CxlOp)
  | cxlResponse (port : BPort) (line : Nat) (poison : Bool)
  | memDeviceTimeout (port : BPort)
  | deviceEventRecord (port : BPort) (uncorrectable : Bool) (address : BitVec 40)
  | hostLinkLoss (cause : HostLoss)
  | functionLevelReset
  | perstNFall
  | memDeviceDown (port : BPort) (cause : DownCause)
  | brgPortEnable (port : BPort)
  | brgPortDisable (port : BPort)
  | brgPortRetrain (port : BPort)
  | brgPortRelease (port : BPort)
  -- 14
  | tenActivate (ten : Ten)
  | tenQuench (ten : Ten)
  | tenAcknowledge (ten : Ten)
  | tenQuenchAll
  | tenRebind (value : BitVec 32)
  | quenchDrainComplete (ten : Ten)
  | quenchDrainTimeout (ten : Ten)
  | quenchClearComplete (ten : Ten)
  | rebindApplyComplete
  | granuleClearComplete (granule : Granule)
  | blockReset (value : BitVec 16)
  | blockResetComplete (block : Block)
  -- 15
  | lexReqReceive (src : Ingress) (pkt : Word256)
  | mailboxWrite (src : Ingress) (hdr : Word256) (payload : Bytes)
  | issioDatagram (ip : BitVec 32) (port : BitVec 16) (dstPort : BitVec 16) (secured : Option Nat) (datagram : Bytes)
  | i3cPrivateWrite (bytes : Bytes)
  | i3cPrivateRead
  | entdaa (address : BitVec 7)
  | setdasa (staticAddress address : BitVec 7)
  | rstdaa
  | getpid
  | getbcr
  | getdcr
  | enec
  | disec
  | lexRead (req : LexReq)
  | lexWrite (req : LexReq)
  | arpRequest (target : BitVec 32)
  | icmpEcho (dst : BitVec 32) (payload : Bytes)
  -- 16
  | coldReset (facts : BootFacts)
  | bootLinkTimeout
  | warmReset (facts : BootFacts)
  | memPortReturnTimeout (port : BPort)
  | enginePark (unit : ParkUnit)
  | engineWakeComplete (unit : ParkUnit)
  | park
  | parkEntryComplete
  | unpark
  | unparkComplete
  | powerSample (mw : BitVec 32)
  | powerWindowEnd
  | coolingWrite (value : BitVec 8)
  -- 17
  | faultRaise (fault : FaultInfo)
  | faultRecordClose (record : Fin 512)
  | fltAck (value : BitVec 16)
  | fltClr (value : BitVec 8)
  -- 18
  | recRecord
  | recCompare
  | recFeed
  | recStop
  | recDump
  | feedRelease
  | recDumpComplete
  | detSigRead
  -- 19
  | keyFuse (session : Option Nat) (slot : BitVec 8) (hash : BitVec 256)
  | keyRevoke (session : Option Nat) (slot : BitVec 8)
  | svnAdvance (session : Option Nat)
  | imgErase (session : Option Nat)
  | imgDataWrite (session : Option Nat) (bytes : Bytes)
  | imgVerify (session : Option Nat)
  | imgActivate (session : Option Nat)
  | imgCommandComplete
  | dbgChallenge (by_ : Requester)
  | dbgResponse (by_ : Requester) (bytes : Bytes)
  | zeroize (session : Option Nat)
  | retire (session : Option Nat)
  | spdmRequest (via : SpdmVia) (req : SpdmReq)
  -- 20
  | railLoss
  | railRestoreTimeout (facts : BootFacts)
  | sensorSample (readings : List (Sensor × Int))
  | thermCritical (sensor : Sensor)
  | ppsInEdge (width : Nat)
  | ppsLossTimeout
  | ppsOutSecond
  | jtagInstruction (instr : JtagInstr)
  | memPerstRelease (port : BPort)
  | mgtPhyResetRelease
  -- added rows
  | skewAllowanceExpire (port : Lane)
  | pcsAlignmentLock (port : Lane)
  | hostLinkUp
  | hostConfigWrite (address : BitVec 12) (value : BitVec 32)
  | msixTableWrite (offset : Nat) (value : BitVec 32)
  | ptpMessageReceive (offset : Int) (locked : Bool)
  | ptpSourceLoss
  | dhcpReply (address : BitVec 32)
  | resetNFall
  | refclkLoss (die : LinkDie)
  | shadowLoadComplete (array : ArrayId)
deriving DecidableEq, Repr

end Sys2Proof
end

