-- ==== Sys2Proof/Decode.lean ====
section
/-! DEFINITION. What a command word spells. The operation table of the spec gives no row any bits, so no word spells a
command. -/

namespace Sys2Proof

/-- The command whose row has the bits `w` of `nbits` bits: none, for no row of the table has bits. -/
def decodeTableWord (_nbits _w : Nat) : Option Instr := none

end Sys2Proof
end

