-- ==== Sys2Proof/Machine/Bits.lean ====
section
/-! DEFINITION. Bit fields, byte strings, checks and sparse tables: the plain helpers every chapter uses. -/

namespace Sys2Proof.Machine

/-- Bits [`lo` + `len` - 1 : `lo`] of a word (R13). -/
def fld (w lo len : Nat) : Nat := (w >>> lo) % 2 ^ len

/-- The word with bits [`lo` + `len` - 1 : `lo`] set to `v`. -/
def setFld (w lo len v : Nat) : Nat := w - (fld w lo len) <<< lo + (v % 2 ^ len) <<< lo

/-- Bit `n` of a word. -/
def bit (w n : Nat) : Bool := (w >>> n) % 2 == 1

/-- 1 for true, 0 for false. -/
def b2n (b : Bool) : Nat := if b then 1 else 0

/-- The field of a 256-bit header or control packet. -/
def hf (w : Word256) (lo len : Nat) : Nat := fld w.toNat lo len

/-- A header with one field replaced. -/
def hset (w : Word256) (lo len v : Nat) : Word256 := BitVec.ofNat 256 (setFld w.toNat lo len v)

/-- The little-endian value of a byte string (R14). -/
def leNat : Bytes → Nat
  | [] => 0
  | b :: bs => b.toNat + 256 * leNat bs

/-- The low `n` bytes of a value, lowest first (R14). -/
def leBytes : Nat → Nat → Bytes
  | 0, _ => []
  | n + 1, v => BitVec.ofNat 8 v :: leBytes n (v / 256)

/-- `n` zero bytes. -/
def zeros (n : Nat) : Bytes := List.replicate n 0

/-- Byte `i` of a byte string; 0 beyond its end. -/
def byteAt (bs : Bytes) (i : Nat) : Byte := bs.getD i 0

/-- `n` bytes from offset `o`, zero-filled beyond the end. -/
def slice (bs : Bytes) (o n : Nat) : Bytes :=
  let t := (bs.drop o).take n
  t ++ zeros (n - t.length)

/-- `base` with the bytes `bs` laid over it from offset `o`; nothing beyond the end of `base`. -/
def overlay (base : Bytes) (o : Nat) (bs : Bytes) : Bytes :=
  (base.take o ++ bs ++ base.drop (o + bs.length)).take base.length

/-- Ceiling division; 0 for a divisor of 0. -/
def cdiv (a b : Nat) : Nat := (a + b - 1) / b

/-- One bit of the CRC-16 of R53: polynomial 0x1021, most significant bit first. -/
def crc16Bits : Nat → Nat → Nat
  | 0, r => r
  | n + 1, r => crc16Bits n (if r ≥ 0x8000 then Nat.xor (2 * r % 65536) 0x1021 else 2 * r)

/-- CRC-16 over a byte string from register value `r`. -/
def crc16From (r : Nat) : Bytes → Nat
  | [] => r
  | b :: bs => crc16From (crc16Bits 8 (Nat.xor r (b.toNat * 256))) bs

/-- The check of R53. -/
def crc16 (bs : Bytes) : Nat := crc16From 0xFFFF bs

/-- One bit of the CRC-32 of IEEE 802.3, in its reflected form. -/
def crc32Bits : Nat → Nat → Nat
  | 0, r => r
  | n + 1, r => crc32Bits n (if r % 2 = 1 then Nat.xor (r / 2) 0xEDB88320 else r / 2)

/-- CRC-32 over a byte string from register value `r`. -/
def crc32From (r : Nat) : Bytes → Nat
  | [] => r
  | b :: bs => crc32From (crc32Bits 8 (Nat.xor r b.toNat)) bs

/-- The CRC-32 of IEEE 802.3 (R72, 10 R414): polynomial 0x04C11DB7. -/
def crc32 (bs : Bytes) : Nat := Nat.xor (crc32From 0xFFFFFFFF bs) 0xFFFFFFFF

/-- Serial arithmetic on `m` values (R89): `b` is later than `a`. -/
def later (m a b : Nat) : Bool := let d := (b + m - a % m) % m; decide (1 ≤ d ∧ d < m / 2)

/-- `later` on 32 bits (R89). -/
def later32 (a b : Nat) : Bool := later (2 ^ 32) a b

/-- Table: the value at a key. -/
def AMap.get? {α : Type} : AMap α → Nat → Option α
  | [], _ => none
  | (k, v) :: m, q => if k = q then some v else AMap.get? m q

/-- Table: the value at a key, or a default. -/
def AMap.getD {α : Type} (m : AMap α) (q : Nat) (d : α) : α := (AMap.get? m q).getD d

/-- Table: set a key, keeping the keys rising. -/
def AMap.set {α : Type} : AMap α → Nat → α → AMap α
  | [], q, x => [(q, x)]
  | (k, v) :: m, q, x =>
    if k = q then (q, x) :: m else if q < k then (q, x) :: (k, v) :: m else (k, v) :: AMap.set m q x

/-- Table: drop a key. -/
def AMap.del {α : Type} : AMap α → Nat → AMap α
  | [], _ => []
  | (k, v) :: m, q => if k = q then AMap.del m q else (k, v) :: AMap.del m q

/-- Table: set a key, listing nothing that equals the default (the canonical form). -/
def AMap.put {α : Type} [DecidableEq α] (m : AMap α) (q : Nat) (x d : α) : AMap α :=
  if x = d then AMap.del m q else AMap.set m q x

/-- Table: the keys rise strictly from `lo`. -/
def AMap.risingFrom {α : Type} : Nat → AMap α → Bool
  | _, [] => true
  | lo, (k, _) :: m => decide (lo ≤ k) && AMap.risingFrom (k + 1) m

/-- The first element that satisfies `p`, with its index. -/
def findIdx {α : Type} (p : α → Bool) : List α → Nat → Option (Nat × α)
  | [], _ => none
  | a :: as, i => if p a then some (i, a) else findIdx p as (i + 1)

/-- Drop the first element equal to `x`. -/
def eraseOne {α : Type} [DecidableEq α] (x : α) : List α → List α
  | [] => []
  | a :: as => if a = x then as else a :: eraseOne x as

/-- The least element by `f`, the first on a tie. -/
def minBy {α : Type} (f : α → Nat) : List α → Option α
  | [] => none
  | a :: as => match minBy f as with
    | none => some a
    | some b => if f a ≤ f b then some a else some b

/-- Fold an action over 0, 1, …, `n` - 1. -/
def forN {α : Type} (n : Nat) (a : α) (f : Nat → α → α) : α := (List.range n).foldl (fun x i => f i x) a

/-- Sum of a list of numbers. -/
def sumBy {α : Type} (f : α → Nat) (l : List α) : Nat := l.foldl (fun n a => n + f a) 0

end Sys2Proof.Machine
end

