-- ==== Sys2Proof/Machine/LineCode.lean ====
section
/-! DEFINITION. The code of a line of HBM: the shortened Reed–Solomon codeword of 68 symbols over GF(2^8) in which 64 data
bytes, a metadata byte of 0 and three check symbols are stored, and its decoder (08 R313, R314). -/

namespace Sys2Proof.Machine

/-- Twice a symbol: multiplication by α = 0x02 modulo the field polynomial 0x11D. -/
def gfTwice (a : Nat) : Nat := if 128 ≤ a then Nat.xor (2 * a) 0x11D else 2 * a

/-- α^`n` times a symbol. -/
def gfShift : Nat → Nat → Nat
  | 0, a => a
  | n + 1, a => gfShift n (gfTwice a)

/-- The value of a polynomial at α^`n`, its coefficients from the highest degree. -/
def gfEval (n : Nat) (l : List Nat) : Nat := l.foldl (fun v a => Nat.xor (gfShift n v) a) 0

/-- The message: the data bytes, then the metadata byte, written as 0, from the highest degree. -/
def lineMessage (bs : Bytes) : List Nat := (slice bs 0 64).map BitVec.toNat ++ [0]

/-- One step of the division by the generator (x - 1)(x - α)(x - α^2) = x^3 + 7 x^2 + 14 x + 8, for the next coefficient. -/
def genStep (r : Nat × Nat × Nat) (a : Nat) : Nat × Nat × Nat :=
  let f := Nat.xor r.1 a
  let two := gfShift 1 f
  let four := gfShift 2 f
  let eight := gfShift 3 f
  (Nat.xor r.2.1 (Nat.xor f (Nat.xor two four)), Nat.xor r.2.2 (Nat.xor two (Nat.xor four eight)), eight)

/-- The check symbols: what the message times x^3 leaves on division by the generator. -/
def lineCheck (bs : Bytes) : List Nat :=
  let r := (lineMessage bs).foldl genStep (0, 0, 0)
  [r.1, r.2.1, r.2.2]

/-- The stored codeword of a line. -/
def lineCodeword (bs : Bytes) : List Nat := lineMessage bs ++ lineCheck bs

/-- A codeword with errors added to it. -/
def addErrs (w : List Nat) (es : LineErr) : List Nat := es.foldl (fun w e => w.set e.1 (Nat.xor (w.getD e.1 0) e.2.toNat)) w

/-- What a read of a line finds. -/
inductive LineRead
  /-- no error is seen -/
  | clean (bs : Bytes)
  /-- one symbol was in error and is corrected -/
  | corrected (bs : Bytes)
  | bad
deriving DecidableEq, Repr

/-- The data bytes of a codeword. -/
def lineData (w : List Nat) : Bytes := (w.take 64).map (BitVec.ofNat 8)

/-- The decoder (R314): with the syndromes at 1, α and α^2 all 0, no error is seen; where they are e, e α^j and e α^(2j) with
e ≠ 0 and j below 68, the symbol of degree j is in error by e; else the line is uncorrectable. -/
def lineDecode (w : List Nat) : LineRead :=
  let s0 := gfEval 0 w
  let s1 := gfEval 1 w
  let s2 := gfEval 2 w
  if s0 = 0 ∧ s1 = 0 ∧ s2 = 0 then .clean (lineData w)
  else if s0 = 0 then .bad
  else
    match (List.range 68).find? (fun j => gfShift j s0 == s1 && gfShift j s1 == s2) with
    | some j => .corrected (lineData (w.set (67 - j) (Nat.xor (w.getD (67 - j) 0) s0)))
    | none => .bad

/-- A read of a line that holds `bs` and has suffered errors. -/
def lineRead (bs : Bytes) (es : LineErr) : LineRead := lineDecode (addErrs (lineCodeword bs) es)

end Sys2Proof.Machine
end

