-- ==== Sys2Proof/Config.lean ====
section
/-! DEFINITION. What the spec leaves open: constants without a body, so that nothing can be proved of their value
(log 3, log 4), applied to a counter of the state or to the operands. -/

namespace Sys2Proof.Config

/-- A free number; applied to the state's counter of free values. -/
opaque freeNat : Nat → Nat
/-- A free byte at an address; applied to the counter. -/
opaque freeByte : Nat → Nat → Byte
/-- Steps of 5 mV that the power manager takes at a die; applied to the counter and to the die's rate (16 R651, 01 R50). -/
opaque mvSteps : Nat → Nat → Nat
/-- The entropy of packets the part sends where no rule states it (02 R84: the sender chooses). -/
opaque partEntropy : Nat
/-- Where the MSI-X capability stands in the configuration space (13 R534 leaves it to PCIe). -/
opaque msixCap : Nat

/-- Place of the AER capability in the host function's configuration space (13 R533; PRESUMED PCIe, log 155). -/
opaque aerCap : Nat
/-- ML-DSA-44 verification under a public key (19): key, message, signature. -/
opaque mldsaVerify : Bytes → Bytes → Bytes → Bool
/-- ML-DSA-44 signature by a private key seed over a message (19). -/
opaque mldsaSign : Nat → Bytes → Bytes
/-- The public key of a private key seed (19). -/
opaque mldsaPub : Nat → Bytes
/-- The part's unique device secret (19). -/
opaque uds : Nat
/-- SHA3-256 of the Hokuell public key, fixed in ROM (19 R718), and the digest of M's ROM (Table 19.5). -/
opaque hokuellHash : Nat
opaque romDigest : Nat

/-- The host's max payload size and max read request size, which it sets in the function's PCIe capability (13 R545). -/
opaque hostMps : Nat
opaque hostMrrs : Nat

/-- The provisioned ID, and the bus and device characteristics, that the part's I3C target answers (15 R620). -/
opaque i3cPid : Nat
opaque i3cBcr : Nat
opaque i3cDcr : Nat

/-- The fields of a clause core's 16-byte move record, whose layout no rule gives (10 Table 10.6, log 45): field number,
then the record. 0: odd toward local memory; 1: odd for a billet, even for HBM; 2: local address; 3: handle, or offset in
the switch's HBM; 4: offset in the billet; 5: bytes. -/
opaque moveField : Nat → Nat → Nat

/-- The number by which a starvation fault names an owner (04 R174, which states no coding): its rank in R164, its unit. -/
opaque ownerCode : Nat → Nat → Nat
/-- The coded bits of a native codeword of so many symbols for a message (12 R496, R497 state no generator). -/
opaque rsCoded : Nat → Nat → Nat
/-- The 16 bytes of a flow record in HBM (03 R129 names its fields, not their places): flow key, expected number, delivered count. -/
opaque flowRecord : Nat → Nat → Nat → Nat
/-- A record of `coll.lib` (10 Table 10.10 names its fields, not their places): number, version, key index, and the first
16 bytes of the digest. -/
opaque libRecord : Nat → Nat → Nat → Nat → Nat

end Sys2Proof.Config
end

