-- ==== Sys2Proof/Machine/Regs.lean ====
section
/-! DEFINITION. The Lexicon's entries (15 R592 to R596): one definition per row of the chapters' entry tables, with
index, first subindex, element width in bytes and default; `lexRows` adds type, access, persistence and counts. -/

namespace Sys2Proof.Machine

/-- Default of an entry's elements. -/
inductive Dflt
  /-- every element the same -/
  | all (v : Nat)
  /-- the listed values, then 0 -/
  | list (vs : List Nat)
  /-- 48 each, 16 for class 7 (Table 4.5) -/
  | portMin
  /-- Table 13.3 -/
  | brgWin
  /-- bit 8c of every lane offset and class c (Table 5.5) -/
  | telSel
deriving DecidableEq, Repr

/-- One entry as the part's rules name it. -/
structure Reg where
  index : Nat
  sub   : Nat
  width : Nat
  dflt  : Dflt
deriving DecidableEq, Repr

/-- Types of Table 15.1. -/
inductive LexType
  | bool | u8 | u16 | u32 | u64 | i32 | i64 | f32 | octets | table
deriving DecidableEq, Repr

/-- Access codes of Table 15.2 that the part uses. -/
inductive Access
  | ro | rw | wo | rwq
deriving DecidableEq, Repr

/-- Persistence classes of Table 15.3. -/
inductive Pers
  | f | n | w | v | t
deriving DecidableEq, Repr

/-- One row of an entry table: the entry, how many subindices from its first, and its directory fields. -/
structure LexRow where
  reg   : Reg
  subs  : Nat
  typ   : LexType
  acc   : Access
  pers  : Pers
  count : Nat
  /-- session s has index + s (Table 3.7) -/
  perIdx : Bool
deriving DecidableEq, Repr

/-- The element defaults of `bel.tel.sel`: bit 56 l + 8 c + 0 over 128 lane offsets, as one 896-byte number. -/
def telSelDflt : Nat := (List.range 896).foldl (fun n i => n + 2 ^ (8 * i)) 0

/-- Table 13.3's cold value of window `w`. -/
def brgWinDflt (w : Nat) : Nat :=
  (if w = 0 then 2 ^ 63 + 2 ^ 47 else 0) + (w % 4) * 2 ^ 56 + w * 2 ^ 48

/-- Default of element `el`. -/
def Dflt.at (d : Dflt) (el : Nat) : Nat :=
  match d with
  | .all v => v
  | .list vs => vs.getD el 0
  | .portMin => if el % 8 = 7 then 16 else 48
  | .brgWin => brgWinDflt el
  | .telSel => telSelDflt

/-- Key of an element in the Lexicon's store. -/
def Reg.key (r : Reg) (el : Nat) : Nat := (r.index * 256 + r.sub) * 65536 + el

/-- The entry `k` subindices on (a per-die or per-unit entry). -/
def Reg.at (r : Reg) (k : Nat) : Reg := { r with sub := r.sub + k }

/-- The entry of mirror session `k` (Table 3.7). -/
def Reg.atIdx (r : Reg) (k : Nat) : Reg := { r with index := r.index + k }

/-- Greatest size of `coll.lib.load`, a signed program image (10 R442). PRESUMED: the largest OCTETS, Table 15.1. -/
def libLoadSize : Nat := 524288

/-- `id.part` (00 R9) -/
def L.idPart : Reg := ⟨0x1000, 0x01, 4, .all 0x9640⟩
/-- `id.grade` (00 R9) -/
def L.idGrade : Reg := ⟨0x1000, 0x02, 2, .all 0⟩
/-- `id.stepping` (00 R9) -/
def L.idStepping : Reg := ⟨0x1000, 0x03, 1, .all 0⟩
/-- `id.swage_map` (00 R9) -/
def L.idSwageMap : Reg := ⟨0x1000, 0x04, 2, .all 0⟩
/-- `id.hbm_map` (00 R9) -/
def L.idHbmMap : Reg := ⟨0x1000, 0x05, 1, .all 0⟩
/-- `dev.core.hs_rate` (01 R44) -/
def L.devCoreHsRate : Reg := ⟨0x2010, 0x01, 4, .all 0⟩
/-- `dev.core.hs_window` (01 R44) -/
def L.devCoreHsWindow : Reg := ⟨0x2010, 0x05, 4, .all 0x2710⟩
/-- `dev.core.vdd_mv` (01 R44) -/
def L.devCoreVddMv : Reg := ⟨0x2011, 0x01, 2, .all 0⟩
/-- `dev.d2d.status` (01 R44) -/
def L.devD2dStatus : Reg := ⟨0x2020, 0x01, 1, .all 0⟩
/-- `dev.d2d.corrected` (01 R44) -/
def L.devD2dCorrected : Reg := ⟨0x2021, 0x01, 8, .all 0⟩
/-- `fab.self.ep` (02 R97) -/
def L.fabSelfEp : Reg := ⟨0x4000, 0x01, 2, .all 0xffe0⟩
/-- `fab.eth.ethertype` (02 R97) -/
def L.fabEthEthertype : Reg := ⟨0x4000, 0x02, 2, .all 0x88b5⟩
/-- `fab.rx.malformed` (02 R97) -/
def L.fabRxMalformed : Reg := ⟨0x4001, 0x01, 8, .all 0⟩
/-- `fab.rx.poison_seen` (02 R97) -/
def L.fabRxPoisonSeen : Reg := ⟨0x4001, 0x05, 8, .all 0⟩
/-- `fab.rx.poison_made` (02 R97) -/
def L.fabRxPoisonMade : Reg := ⟨0x4001, 0x09, 8, .all 0⟩
/-- `fwd.route` (03 R145) -/
def L.fwdRoute : Reg := ⟨0x4010, 0x01, 2, .all 0⟩
/-- `fwd.uset` (03 R145) -/
def L.fwdUset : Reg := ⟨0x4011, 0x01, 64, .all 0⟩
/-- `fwd.spray.mode` (03 R145) -/
def L.fwdSprayMode : Reg := ⟨0x4012, 0x01, 1, .all 0x7f⟩
/-- `fwd.class.ruled` (03 R145) -/
def L.fwdClassRuled : Reg := ⟨0x4012, 0x02, 1, .all 0⟩
/-- `fwd.spray.hot` (03 R145) -/
def L.fwdSprayHot : Reg := ⟨0x4012, 0x03, 2, .all 0x200⟩
/-- `fwd.spray.weight` (03 R145) -/
def L.fwdSprayWeight : Reg := ⟨0x4013, 0x01, 1, .all 0x10⟩
/-- `fwd.port.role` (03 R145) -/
def L.fwdPortRole : Reg := ⟨0x4013, 0x02, 1, .all 0⟩
/-- `fwd.reseq.hole_ns` (03 R145) -/
def L.fwdReseqHoleNs : Reg := ⟨0x4014, 0x01, 4, .all 0xc350⟩
/-- `fwd.reseq.window` (03 R145) -/
def L.fwdReseqWindow : Reg := ⟨0x4014, 0x02, 2, .all 0x400⟩
/-- `fwd.reseq.records` (03 R145) -/
def L.fwdReseqRecords : Reg := ⟨0x4014, 0x03, 4, .all 0x1000000⟩
/-- `fwd.reseq.holes` (03 R145) -/
def L.fwdReseqHoles : Reg := ⟨0x4015, 0x01, 8, .all 0⟩
/-- `fwd.reseq.late` (03 R145) -/
def L.fwdReseqLate : Reg := ⟨0x4015, 0x05, 8, .all 0⟩
/-- `fwd.drop.noroute` (03 R145) -/
def L.fwdDropNoroute : Reg := ⟨0x4015, 0x09, 8, .all 0⟩
/-- `fwd.reseq.overflow` (03 R145) -/
def L.fwdReseqOverflow : Reg := ⟨0x4015, 0x0D, 8, .all 0⟩
/-- `mir.kind` (03 R145) -/
def L.mirKind : Reg := ⟨0x4020, 0x01, 1, .all 0⟩
/-- `mir.port` (03 R145) -/
def L.mirPort : Reg := ⟨0x4020, 0x02, 2, .all 0⟩
/-- `mir.match` (03 R145) -/
def L.mirMatch : Reg := ⟨0x4020, 0x03, 8, .all 0⟩
/-- `mir.mask` (03 R145) -/
def L.mirMask : Reg := ⟨0x4020, 0x04, 8, .all 0⟩
/-- `mir.dest` (03 R145) -/
def L.mirDest : Reg := ⟨0x4020, 0x05, 2, .all 0⟩
/-- `mir.trunc` (03 R145) -/
def L.mirTrunc : Reg := ⟨0x4020, 0x06, 1, .all 0⟩
/-- `mir.sample` (03 R145) -/
def L.mirSample : Reg := ⟨0x4020, 0x07, 4, .all 1⟩
/-- `mir.dropped` (03 R145) -/
def L.mirDropped : Reg := ⟨0x4020, 0x08, 8, .all 0⟩
/-- `bil.pool.units` (04 R175) -/
def L.bilPoolUnits : Reg := ⟨0x5000, 0x01, 2, .list [384, 64, 128, 128, 64]⟩
/-- `bil.pool.free` (04 R175) -/
def L.bilPoolFree : Reg := ⟨0x5001, 0x01, 4, .all 0⟩
/-- `bil.pool.low` (04 R175) -/
def L.bilPoolLow : Reg := ⟨0x5002, 0x01, 4, .all 0⟩
/-- `bil.port.min` (04 R175) -/
def L.bilPortMin : Reg := ⟨0x5003, 0x01, 2, .portMin⟩
/-- `bil.port.max` (04 R175) -/
def L.bilPortMax : Reg := ⟨0x5003, 0x02, 4, .all 0x100000⟩
/-- `bil.ten.quota` (04 R175) -/
def L.bilTenQuota : Reg := ⟨0x5004, 0x01, 8, .all 0xfffff⟩
/-- `bil.ctx.quota` (04 R175) -/
def L.bilCtxQuota : Reg := ⟨0x5005, 0x01, 8, .all 0x60000000000fffff⟩
/-- `bil.core.quota` (04 R175) -/
def L.bilCoreQuota : Reg := ⟨0x5006, 0x01, 8, .all 0x20000000004fffff⟩
/-- `bil.wait_ns` (04 R175) -/
def L.bilWaitNs : Reg := ⟨0x5007, 0x01, 4, .all 0xf4240⟩
/-- `bil.deep.classes` (04 R175) -/
def L.bilDeepClasses : Reg := ⟨0x5007, 0x02, 1, .all 0x3f⟩
/-- `bil.deep.gib` (04 R175) -/
def L.bilDeepGib : Reg := ⟨0x5008, 0x01, 1, .all 0⟩
/-- `bil.deep.thresh` (04 R175) -/
def L.bilDeepThresh : Reg := ⟨0x5008, 0x05, 4, .all 0x1000⟩
/-- `bil.deep.port_max` (04 R175) -/
def L.bilDeepPortMax : Reg := ⟨0x5009, 0x01, 2, .all 0x100⟩
/-- `bil.drop.nobuf` (04 R175) -/
def L.bilDropNobuf : Reg := ⟨0x500A, 0x01, 8, .all 0⟩
/-- `bil.lost` (04 R175) -/
def L.bilLost : Reg := ⟨0x500A, 0x05, 4, .all 0⟩
/-- `bil.deep.used` (04 R175) -/
def L.bilDeepUsed : Reg := ⟨0x500A, 0x09, 4, .all 0⟩
/-- `bel.mode` (05 R213) -/
def L.belMode : Reg := ⟨0x5800, 0x01, 1, .all 1⟩
/-- `bel.tq` (05 R213) -/
def L.belTq : Reg := ⟨0x5801, 0x01, 1, .all 0⟩
/-- `bel.q.shape` (05 R213) -/
def L.belQShape : Reg := ⟨0x5802, 0x01, 8, .all 0x1004000000000⟩
/-- `bel.cls.weight` (05 R213) -/
def L.belClsWeight : Reg := ⟨0x5803, 0x01, 1, .all 0x10⟩
/-- `bel.ten.cir` (05 R213) -/
def L.belTenCir : Reg := ⟨0x5804, 0x01, 8, .all 0⟩
/-- `bel.ten.pir` (05 R213) -/
def L.belTenPir : Reg := ⟨0x5805, 0x01, 8, .all 0xffffffffffff⟩
/-- `bel.pol.rate` (05 R213) -/
def L.belPolRate : Reg := ⟨0x5806, 0x01, 8, .all 0⟩
/-- `bel.pol.ctl` (05 R213) -/
def L.belPolCtl : Reg := ⟨0x5807, 0x01, 1, .all 4⟩
/-- `bel.pol.port` (05 R213) -/
def L.belPolPort : Reg := ⟨0x5808, 0x01, 2, .all 0xffff⟩
/-- `bel.pol.ten` (05 R213) -/
def L.belPolTen : Reg := ⟨0x5809, 0x01, 2, .all 0xffff⟩
/-- `bel.pol.count` (05 R213) -/
def L.belPolCount : Reg := ⟨0x580A, 0x01, 8, .all 0⟩
/-- `bel.guard.cir` (05 R213) -/
def L.belGuardCir : Reg := ⟨0x580B, 0x01, 8, .all 0x100000007d0⟩
/-- `bel.guard.pir` (05 R213) -/
def L.belGuardPir : Reg := ⟨0x580B, 0x02, 8, .all 0x100000004e20⟩
/-- `bel.guard.red` (05 R213) -/
def L.belGuardRed : Reg := ⟨0x580C, 0x01, 8, .all 0⟩
/-- `bel.tel.period_ns` (05 R213) -/
def L.belTelPeriodNs : Reg := ⟨0x580D, 0x01, 4, .all 0x3e8⟩
/-- `bel.tel.ring_mib` (05 R213) -/
def L.belTelRingMib : Reg := ⟨0x580D, 0x02, 2, .all 0x40⟩
/-- `bel.tel.sel` (05 R213) -/
def L.belTelSel : Reg := ⟨0x580E, 0x01, 896, .telSel⟩
/-- `bel.tel.base` (05 R213) -/
def L.belTelBase : Reg := ⟨0x580F, 0x01, 8, .all 0⟩
/-- `bel.tel.wp` (05 R213) -/
def L.belTelWp : Reg := ⟨0x580F, 0x05, 8, .all 0⟩
/-- `bel.tel.skipped` (05 R213) -/
def L.belTelSkipped : Reg := ⟨0x580F, 0x09, 8, .all 0⟩
/-- `anvil.dies` (07 R300) -/
def L.anvilDies : Reg := ⟨0x6000, 0x01, 1, .all 0xf⟩
/-- `anvil.window` (07 R300) -/
def L.anvilWindow : Reg := ⟨0x6000, 0x02, 1, .all 0x40⟩
/-- `anvil.spill.ns` (07 R300) -/
def L.anvilSpillNs : Reg := ⟨0x6000, 0x03, 4, .all 0x4e20⟩
/-- `anvil.linger_ns` (07 R300) -/
def L.anvilLingerNs : Reg := ⟨0x6000, 0x04, 4, .all 0xf4240⟩
/-- `anvil.spill.gib` (07 R300) -/
def L.anvilSpillGib : Reg := ⟨0x6001, 0x01, 1, .all 0⟩
/-- `anvil.ctx.state` (07 R300) -/
def L.anvilCtxState : Reg := ⟨0x6010, 0x01, 16, .all 0⟩
/-- `anvil.ctx.mode` (07 R300) -/
def L.anvilCtxMode : Reg := ⟨0x6010, 0x02, 16, .all 0⟩
/-- `anvil.ctx.astat` (07 R300) -/
def L.anvilCtxAstat : Reg := ⟨0x6010, 0x03, 8, .all 0xffffffff⟩
/-- `anvil.dup` (07 R300) -/
def L.anvilDup : Reg := ⟨0x6011, 0x01, 8, .all 0⟩
/-- `anvil.stale` (07 R300) -/
def L.anvilStale : Reg := ⟨0x6011, 0x05, 8, .all 0⟩
/-- `anvil.spills` (07 R300) -/
def L.anvilSpills : Reg := ⟨0x6011, 0x09, 8, .all 0⟩
/-- `hearth.job.win` (08 R350) -/
def L.hearthJobWin : Reg := ⟨0x6800, 0x01, 8, .all 0x100000⟩
/-- `hbm.scrub.s` (08 R350) -/
def L.hbmScrubS : Reg := ⟨0x6800, 0x02, 4, .all 0x15180⟩
/-- `hearth.recipe` (08 R350) -/
def L.hearthRecipe : Reg := ⟨0x6801, 0x01, 8, .all 0⟩
/-- `hearth.recipe.ten` (08 R350) -/
def L.hearthRecipeTen : Reg := ⟨0x6802, 0x01, 1, .all 0⟩
/-- `hearth.jobs.queued` (08 R350) -/
def L.hearthJobsQueued : Reg := ⟨0x6803, 0x01, 2, .all 0⟩
/-- `hbm.ecc.corr` (08 R350) -/
def L.hbmEccCorr : Reg := ⟨0x6804, 0x01, 8, .all 0⟩
/-- `hbm.ecc.uncorr` (08 R350) -/
def L.hbmEccUncorr : Reg := ⟨0x6804, 0x07, 8, .all 0⟩
/-- `hearth.job.busy` (08 R350) -/
def L.hearthJobBusy : Reg := ⟨0x6805, 0x01, 8, .all 0⟩
/-- `swage.job.win` (09 R397) -/
def L.swageJobWin : Reg := ⟨0x7000, 0x01, 8, .all 0x200000⟩
/-- `swage.stream.win` (09 R397) -/
def L.swageStreamWin : Reg := ⟨0x7000, 0x02, 8, .all 0x1000000000⟩
/-- `swage.stream.ns` (09 R397) -/
def L.swageStreamNs : Reg := ⟨0x7000, 0x03, 4, .all 0xf4240⟩
/-- `swage.chk.tol` (09 R397) -/
def L.swageChkTol : Reg := ⟨0x7000, 0x04, 1, .all 0xc⟩
/-- `swage.state` (09 R397) -/
def L.swageState : Reg := ⟨0x7001, 0x01, 4, .all 0⟩
/-- `swage.ops` (09 R397) -/
def L.swageOps : Reg := ⟨0x7002, 0x01, 8, .all 0⟩
/-- `swage.chkfail` (09 R397) -/
def L.swageChkfail : Reg := ⟨0x7002, 0x11, 8, .all 0⟩
/-- `swage.busy` (09 R397) -/
def L.swageBusy : Reg := ⟨0x7003, 0x01, 8, .all 0⟩
/-- `swage.orphan` (09 R397) -/
def L.swageOrphan : Reg := ⟨0x7003, 0x11, 8, .all 0⟩
/-- `swage.dup` (09 R397) -/
def L.swageDup : Reg := ⟨0x7004, 0x01, 8, .all 0⟩
/-- `coll.axes` (10 R448) -/
def L.collAxes : Reg := ⟨0x7800, 0x01, 4, .all 0⟩
/-- `coll.admit_ns` (10 R448) -/
def L.collAdmitNs : Reg := ⟨0x7800, 0x02, 4, .all 0x989680⟩
/-- `coll.stall_ns` (10 R448) -/
def L.collStallNs : Reg := ⟨0x7800, 0x03, 4, .all 0x5f5e100⟩
/-- `coll.abort` (10 R448) -/
def L.collAbort : Reg := ⟨0x7800, 0x04, 8, .all 0⟩
/-- `coll.coord` (10 R448) -/
def L.collCoord : Reg := ⟨0x7801, 0x01, 8, .all 0⟩
/-- `coll.child` (10 R448) -/
def L.collChild : Reg := ⟨0x7802, 0x01, 8, .all 0⟩
/-- `coll.group` (10 R448) -/
def L.collGroup : Reg := ⟨0x7803, 0x01, 64, .all 0⟩
/-- `coll.closed` (10 R448) -/
def L.collClosed : Reg := ⟨0x7804, 0x01, 4, .all 0⟩
/-- `coll.lib` (10 R448) -/
def L.collLib : Reg := ⟨0x7805, 0x01, 32, .all 0⟩
/-- `coll.lib.load` (10 R448) -/
def L.collLibLoad : Reg := ⟨0x7805, 0x02, libLoadSize, .all 0⟩
/-- `coll.core.state` (10 R448) -/
def L.collCoreState : Reg := ⟨0x7806, 0x01, 4, .all 0⟩
/-- `coll.denied` (10 R448) -/
def L.collDenied : Reg := ⟨0x7807, 0x01, 8, .all 0⟩
/-- `coll.stale` (10 R448) -/
def L.collStale : Reg := ⟨0x7807, 0x05, 8, .all 0⟩
/-- `coll.starved` (10 R448) -/
def L.collStarved : Reg := ⟨0x7807, 0x09, 8, .all 0⟩
/-- `coll.admitq` (10 R448) -/
def L.collAdmitq : Reg := ⟨0x7807, 0x0D, 4, .all 0⟩
/-- `agr.bind` (11 R481) -/
def L.agrBind : Reg := ⟨0x8000, 0x01, 4, .all 0⟩
/-- `agr.state` (11 R481) -/
def L.agrState : Reg := ⟨0x8000, 0x02, 8, .all 0⟩
/-- `agr.force` (11 R481) -/
def L.agrForce : Reg := ⟨0x8000, 0x03, 4, .all 0⟩
/-- `agr.lend_ns` (11 R481) -/
def L.agrLendNs : Reg := ⟨0x8001, 0x01, 4, .all 0x4e20⟩
/-- `agr.sig.hold_ns` (11 R481) -/
def L.agrSigHoldNs : Reg := ⟨0x8001, 0x02, 4, .all 0x30d40⟩
/-- `agr.denied` (11 R481) -/
def L.agrDenied : Reg := ⟨0x8002, 0x01, 8, .all 0⟩
/-- `agr.stale` (11 R481) -/
def L.agrStale : Reg := ⟨0x8002, 0x05, 8, .all 0⟩
/-- `agr.dup` (11 R481) -/
def L.agrDup : Reg := ⟨0x8002, 0x09, 8, .all 0⟩
/-- `agr.ahead` (11 R481) -/
def L.agrAhead : Reg := ⟨0x8002, 0x0D, 8, .all 0⟩
/-- `agr.sig.held` (11 R481) -/
def L.agrSigHeld : Reg := ⟨0x8003, 0x01, 2, .all 0⟩
/-- `agr.sig.short` (11 R481) -/
def L.agrSigShort : Reg := ⟨0x8003, 0x05, 8, .all 0⟩
/-- `agr.sig.overflow` (11 R481) -/
def L.agrSigOverflow : Reg := ⟨0x8003, 0x09, 8, .all 0⟩
/-- `agr.sig.discard` (11 R481) -/
def L.agrSigDiscard : Reg := ⟨0x8003, 0x0D, 8, .all 0⟩
/-- `link.port.width` (12 R526) -/
def L.linkPortWidth : Reg := ⟨0x3000, 0x01, 1, .all 0⟩
/-- `link.port.modes` (12 R526) -/
def L.linkPortModes : Reg := ⟨0x3000, 0x02, 1, .all 7⟩
/-- `link.port.medium` (12 R526) -/
def L.linkPortMedium : Reg := ⟨0x3000, 0x03, 1, .all 0⟩
/-- `link.port.cmd` (12 R526) -/
def L.linkPortCmd : Reg := ⟨0x3000, 0x04, 1, .all 0⟩
/-- `link.port.status` (12 R526) -/
def L.linkPortStatus : Reg := ⟨0x3001, 0x01, 4, .all 0⟩
/-- `link.partner` (12 R526) -/
def L.linkPartner : Reg := ⟨0x3001, 0x02, 4, .all 0⟩
/-- `link.lane.fom` (12 R526) -/
def L.linkLaneFom : Reg := ⟨0x3002, 0x01, 1, .all 0⟩
/-- `link.fom.floor` (12 R526) -/
def L.linkFomFloor : Reg := ⟨0x3002, 0x02, 1, .list [96, 88, 56]⟩
/-- `link.fom.hold_ns` (12 R526) -/
def L.linkFomHoldNs : Reg := ⟨0x3002, 0x03, 4, .all 0x186a0⟩
/-- `link.lane.pol` (12 R526) -/
def L.linkLanePol : Reg := ⟨0x3002, 0x04, 1, .all 0⟩
/-- `link.retry.ns` (12 R526) -/
def L.linkRetryNs : Reg := ⟨0x3003, 0x01, 4, .all 0xfa0⟩
/-- `link.retry.max` (12 R526) -/
def L.linkRetryMax : Reg := ⟨0x3003, 0x02, 1, .all 8⟩
/-- `link.idle.ns` (12 R526) -/
def L.linkIdleNs : Reg := ⟨0x3003, 0x03, 4, .all 0⟩
/-- `link.idle.max_ns` (12 R526) -/
def L.linkIdleMaxNs : Reg := ⟨0x3003, 0x04, 4, .all 0x3b9aca00⟩
/-- `link.up_ns` (12 R526) -/
def L.linkUpNs : Reg := ⟨0x3003, 0x05, 4, .all 0x77359400⟩
/-- `link.an.oui` (12 R526) -/
def L.linkAnOui : Reg := ⟨0x3004, 0x01, 4, .all 0x5ce2a7⟩
/-- `link.eth.smac_base` (12 R526) -/
def L.linkEthSmacBase : Reg := ⟨0x3004, 0x02, 8, .all 0⟩
/-- `link.eth.dmac` (12 R526) -/
def L.linkEthDmac : Reg := ⟨0x3004, 0x03, 8, .all 0xffffffffffff⟩
/-- `link.pfc.xoff` (12 R526) -/
def L.linkPfcXoff : Reg := ⟨0x3004, 0x04, 2, .all 0x200⟩
/-- `link.pfc.xon` (12 R526) -/
def L.linkPfcXon : Reg := ⟨0x3004, 0x05, 2, .all 0x400⟩
/-- `link.cnt.corr` (12 R526) -/
def L.linkCntCorr : Reg := ⟨0x3005, 0x01, 8, .all 0⟩
/-- `link.cnt.uncorr` (12 R526) -/
def L.linkCntUncorr : Reg := ⟨0x3005, 0x02, 8, .all 0⟩
/-- `link.cnt.retries` (12 R526) -/
def L.linkCntRetries : Reg := ⟨0x3005, 0x03, 8, .all 0⟩
/-- `link.cnt.downs` (12 R526) -/
def L.linkCntDowns : Reg := ⟨0x3005, 0x04, 4, .all 0⟩
/-- `link.eth.other` (12 R526) -/
def L.linkEthOther : Reg := ⟨0x3005, 0x05, 8, .all 0⟩
/-- `id.pcie.vid` (13 R555) -/
def L.idPcieVid : Reg := ⟨0x1000, 0x06, 2, .all 0⟩
/-- `id.pcie.did` (13 R555) -/
def L.idPcieDid : Reg := ⟨0x1000, 0x07, 2, .all 0⟩
/-- `brg.p0.role` (13 R555) -/
def L.brgP0Role : Reg := ⟨0x1100, 0x01, 1, .all 0⟩
/-- `brg.win.log2` (13 R555) -/
def L.brgWinLog2 : Reg := ⟨0x1100, 0x02, 1, .all 0x1e⟩
/-- `brg.win` (13 R555) -/
def L.brgWin : Reg := ⟨0x1100, 0x03, 16, .brgWin⟩
/-- `brg.rev` (13 R555) -/
def L.brgRev : Reg := ⟨0x1100, 0x04, 16, .all 0⟩
/-- `brg.rev.win` (13 R555) -/
def L.brgRevWin : Reg := ⟨0x1100, 0x05, 8, .all 0x4000000000⟩
/-- `brg.ret.win` (13 R555) -/
def L.brgRetWin : Reg := ⟨0x1100, 0x06, 8, .all 0x8000000000⟩
/-- `brg.msi.win` (13 R555) -/
def L.brgMsiWin : Reg := ⟨0x1100, 0x07, 8, .all 0x300000⟩
/-- `brg.msi.ten` (13 R555) -/
def L.brgMsiTen : Reg := ⟨0x1100, 0x08, 1, .all 0⟩
/-- `brg.rd_ns` (13 R555) -/
def L.brgRdNs : Reg := ⟨0x1101, 0x01, 4, .all 0x4c4b40⟩
/-- `brg.dma_ns` (13 R555) -/
def L.brgDmaNs : Reg := ⟨0x1101, 0x02, 4, .all 0x4c4b40⟩
/-- `brg.mem.to_ns` (13 R555) -/
def L.brgMemToNs : Reg := ⟨0x1101, 0x03, 4, .all 0xf4240⟩
/-- `brg.port.cmd` (13 R555) -/
def L.brgPortCmd : Reg := ⟨0x1101, 0x04, 1, .all 0⟩
/-- `brg.port.status` (13 R555) -/
def L.brgPortStatus : Reg := ⟨0x1102, 0x01, 4, .all 0⟩
/-- `brg.mem.cap` (13 R555) -/
def L.brgMemCap : Reg := ⟨0x1102, 0x05, 4, .all 0⟩
/-- `brg.late` (13 R555) -/
def L.brgLate : Reg := ⟨0x1103, 0x01, 8, .all 0⟩
/-- `brg.denied` (13 R555) -/
def L.brgDenied : Reg := ⟨0x1103, 0x05, 8, .all 0⟩
/-- `ten.cmd` (14 R588) -/
def L.tenCmd : Reg := ⟨0x9000, 0x01, 4, .all 0⟩
/-- `ten.rebind` (14 R588) -/
def L.tenRebind : Reg := ⟨0x9000, 0x02, 4, .all 0⟩
/-- `ten.drain_ns` (14 R588) -/
def L.tenDrainNs : Reg := ⟨0x9000, 0x03, 4, .all 0xf4240⟩
/-- `ten.state` (14 R588) -/
def L.tenState : Reg := ⟨0x9001, 0x01, 2, .all 0⟩
/-- `ten.qtime` (14 R588) -/
def L.tenQtime : Reg := ⟨0x9001, 0x02, 4, .all 0⟩
/-- `ten.ep` (14 R588) -/
def L.tenEp : Reg := ⟨0x9002, 0x01, 4, .all 0⟩
/-- `ten.port` (14 R588) -/
def L.tenPort : Reg := ⟨0x9003, 0x01, 4, .all 0⟩
/-- `ten.swage` (14 R588) -/
def L.tenSwage : Reg := ⟨0x9003, 0x02, 4, .all 0⟩
/-- `ten.hearth` (14 R588) -/
def L.tenHearth : Reg := ⟨0x9003, 0x03, 4, .all 0⟩
/-- `ten.core` (14 R588) -/
def L.tenCore : Reg := ⟨0x9003, 0x04, 4, .all 0⟩
/-- `ten.hbm` (14 R588) -/
def L.tenHbm : Reg := ⟨0x9003, 0x05, 4, .all 0⟩
/-- `ten.cxl` (14 R588) -/
def L.tenCxl : Reg := ⟨0x9003, 0x06, 4, .all 0⟩
/-- `ten.ctx` (14 R588) -/
def L.tenCtx : Reg := ⟨0x9004, 0x01, 4, .all 0⟩
/-- `ten.clr.hbm` (14 R588) -/
def L.tenClrHbm : Reg := ⟨0x9005, 0x01, 2, .all 0⟩
/-- `ten.clr.cxl` (14 R588) -/
def L.tenClrCxl : Reg := ⟨0x9005, 0x02, 2, .all 0⟩
/-- `ten.blk.cmd` (14 R588) -/
def L.tenBlkCmd : Reg := ⟨0x9006, 0x01, 2, .all 0⟩
/-- `ten.blk.inc` (14 R588) -/
def L.tenBlkInc : Reg := ⟨0x9006, 0x02, 1, .all 0⟩
/-- `ten.viol` (14 R588) -/
def L.tenViol : Reg := ⟨0x9007, 0x01, 8, .all 0⟩
/-- `ten.qdrop` (14 R588) -/
def L.tenQdrop : Reg := ⟨0x9007, 0x05, 8, .all 0⟩
/-- `ten.stale_reply` (14 R588) -/
def L.tenStaleReply : Reg := ⟨0x9007, 0x09, 8, .all 0⟩
/-- `tel.time` (15 R625) -/
def L.telTime : Reg := ⟨0xE000, 0x01, 8, .all 0⟩
/-- `tel.ptp.state` (15 R625) -/
def L.telPtpState : Reg := ⟨0xE000, 0x02, 1, .all 0⟩
/-- `tel.ptp.offset` (15 R625) -/
def L.telPtpOffset : Reg := ⟨0xE000, 0x03, 8, .all 0⟩
/-- `tel.dev.rx_bytes` (15 R625) -/
def L.telDevRxBytes : Reg := ⟨0xE001, 0x01, 4, .all 0⟩
/-- `tel.dev.tx_bytes` (15 R625) -/
def L.telDevTxBytes : Reg := ⟨0xE001, 0x02, 4, .all 0⟩
/-- `tel.dev.anvil_bytes` (15 R625) -/
def L.telDevAnvilBytes : Reg := ⟨0xE001, 0x03, 4, .all 0⟩
/-- `tel.port.rx_bytes` (15 R625) -/
def L.telPortRxBytes : Reg := ⟨0xE002, 0x01, 8, .all 0⟩
/-- `tel.port.tx_bytes` (15 R625) -/
def L.telPortTxBytes : Reg := ⟨0xE002, 0x02, 8, .all 0⟩
/-- `tel.port.rx_pkts` (15 R625) -/
def L.telPortRxPkts : Reg := ⟨0xE002, 0x03, 8, .all 0⟩
/-- `tel.port.tx_pkts` (15 R625) -/
def L.telPortTxPkts : Reg := ⟨0xE002, 0x04, 8, .all 0⟩
/-- `lex.dir` (15 R627) -/
def L.lexDir : Reg := ⟨0x1001, 0x01, 16, .all 0⟩
/-- `lex.dir.count` (15 R627) -/
def L.lexDirCount : Reg := ⟨0x1001, 0x02, 4, .all 0⟩
/-- `lex.mbox.win` (15 R627) -/
def L.lexMboxWin : Reg := ⟨0x1200, 0x01, 8, .all 0⟩
/-- `lex.inband` (15 R627) -/
def L.lexInband : Reg := ⟨0x1200, 0x02, 8, .all 0⟩
/-- `lex.core.mask` (15 R627) -/
def L.lexCoreMask : Reg := ⟨0x1200, 0x03, 8, .all 0x18000600⟩
/-- `lex.eth.mac` (15 R627) -/
def L.lexEthMac : Reg := ⟨0x1201, 0x01, 8, .all 0⟩
/-- `lex.eth.ip4` (15 R627) -/
def L.lexEthIp4 : Reg := ⟨0x1201, 0x02, 4, .all 0⟩
/-- `lex.eth.ip4.now` (15 R627) -/
def L.lexEthIp4Now : Reg := ⟨0x1201, 0x03, 4, .all 0⟩
/-- `lex.issio.port` (15 R627) -/
def L.lexIssioPort : Reg := ⟨0x1201, 0x04, 2, .all 0xba1e⟩
/-- `lex.issio.secure` (15 R627) -/
def L.lexIssioSecure : Reg := ⟨0x1201, 0x05, 1, .all 1⟩
/-- `lex.issio.allow` (15 R627) -/
def L.lexIssioAllow : Reg := ⟨0x1201, 0x06, 16, .all 0⟩
/-- `lex.i3c.sa` (15 R627) -/
def L.lexI3cSa : Reg := ⟨0x1202, 0x01, 1, .all 0x2c⟩
/-- `lex.i3c.ibi` (15 R627) -/
def L.lexI3cIbi : Reg := ⟨0x1202, 0x02, 1, .all 1⟩
/-- `lex.denied` (15 R627) -/
def L.lexDenied : Reg := ⟨0x1203, 0x01, 8, .all 0⟩
/-- `lex.malformed` (15 R627) -/
def L.lexMalformed : Reg := ⟨0x1203, 0x06, 8, .all 0⟩
/-- `lex.busy` (15 R627) -/
def L.lexBusy : Reg := ⟨0x1203, 0x0B, 8, .all 0⟩
/-- `dev.boot.status` (16 R657) -/
def L.devBootStatus : Reg := ⟨0x2000, 0x01, 4, .all 0⟩
/-- `dev.cmd` (16 R657) -/
def L.devCmd : Reg := ⟨0x2000, 0x02, 1, .all 0⟩
/-- `dev.boot.link_ns` (16 R657) -/
def L.devBootLinkNs : Reg := ⟨0x2000, 0x03, 4, .all 0x3b9aca00⟩
/-- `dev.boot.time` (16 R657) -/
def L.devBootTime : Reg := ⟨0x2000, 0x04, 4, .all 0⟩
/-- `pwr.limit` (16 R657) -/
def L.pwrLimit : Reg := ⟨0xB000, 0x01, 2, .all 0x672⟩
/-- `pwr.cooling` (16 R657) -/
def L.pwrCooling : Reg := ⟨0xB000, 0x02, 1, .all 0⟩
/-- `pwr.win_ns` (16 R657) -/
def L.pwrWinNs : Reg := ⟨0xB000, 0x03, 4, .all 0xf4240⟩
/-- `pwr.vmin` (16 R657) -/
def L.pwrVmin : Reg := ⟨0xB000, 0x04, 2, .all 0x258⟩
/-- `pwr.vmax` (16 R657) -/
def L.pwrVmax : Reg := ⟨0xB000, 0x05, 2, .all 0x352⟩
/-- `pwr.cmd` (16 R657) -/
def L.pwrCmd : Reg := ⟨0xB000, 0x06, 1, .all 0⟩
/-- `pwr.state` (16 R657) -/
def L.pwrState : Reg := ⟨0xB000, 0x07, 4, .all 0⟩
/-- `pwr.park.idle_ns` (16 R657) -/
def L.pwrParkIdleNs : Reg := ⟨0xB000, 0x08, 4, .all 0xc350⟩
/-- `pwr.park.eth` (16 R657) -/
def L.pwrParkEth : Reg := ⟨0xB000, 0x09, 1, .all 0⟩
/-- `pwr.tj_warn` (16 R657) -/
def L.pwrTjWarn : Reg := ⟨0xB000, 0x0A, 1, .all 0x64⟩
/-- `pwr.vset` (16 R657) -/
def L.pwrVset : Reg := ⟨0xB001, 0x01, 2, .all 0x2d0⟩
/-- `pwr.tj` (16 R657) -/
def L.pwrTj : Reg := ⟨0xB001, 0x05, 2, .all 0⟩
/-- `pwr.pkg_mw` (16 R657) -/
def L.pwrPkgMw : Reg := ⟨0xB002, 0x01, 4, .all 0⟩
/-- `pwr.lent_mw` (16 R657) -/
def L.pwrLentMw : Reg := ⟨0xB002, 0x02, 4, .all 0⟩
/-- `pwr.throttle` (16 R657) -/
def L.pwrThrottle : Reg := ⟨0xB002, 0x03, 1, .all 0⟩
/-- `flt.sum` (17 R684) -/
def L.fltSum : Reg := ⟨0xA000, 0x01, 8, .all 0⟩
/-- `flt.rec` (17 R684) -/
def L.fltRec : Reg := ⟨0xA001, 0x01, 32, .all 0⟩
/-- `flt.count` (17 R684) -/
def L.fltCount : Reg := ⟨0xA001, 0x02, 2, .all 0⟩
/-- `flt.ack` (17 R684) -/
def L.fltAck : Reg := ⟨0xA002, 0x01, 2, .all 0⟩
/-- `flt.clr` (17 R684) -/
def L.fltClr : Reg := ⟨0xA002, 0x02, 1, .all 0⟩
/-- `flt.merge_ns` (17 R684) -/
def L.fltMergeNs : Reg := ⟨0xA003, 0x01, 4, .all 0xf4240⟩
/-- `flt.lost` (17 R684) -/
def L.fltLost : Reg := ⟨0xA003, 0x02, 8, .all 0⟩
/-- `flt.slice` (17 R684) -/
def L.fltSlice : Reg := ⟨0xA004, 0x01, 72, .all 0⟩
/-- `id.fuse.opt` (18 R708) -/
def L.idFuseOpt : Reg := ⟨0x1000, 0x08, 4, .all 0⟩
/-- `det.sig` (18 R708) -/
def L.detSig : Reg := ⟨0xD000, 0x01, 32, .all 0⟩
/-- `det.list` (18 R708) -/
def L.detList : Reg := ⟨0xD000, 0x02, 4, .all 0⟩
/-- `det.align` (18 R708) -/
def L.detAlign : Reg := ⟨0xD000, 0x03, 1, .all 0⟩
/-- `rec.cmd` (18 R708) -/
def L.recCmd : Reg := ⟨0xD001, 0x01, 1, .all 0⟩
/-- `rec.state` (18 R708) -/
def L.recState : Reg := ⟨0xD001, 0x02, 4, .all 0⟩
/-- `rec.ports` (18 R708) -/
def L.recPorts : Reg := ⟨0xD001, 0x03, 64, .all 0⟩
/-- `rec.full` (18 R708) -/
def L.recFull : Reg := ⟨0xD001, 0x04, 64, .all 0⟩
/-- `rec.ten` (18 R708) -/
def L.recTen : Reg := ⟨0xD001, 0x05, 32, .all 0⟩
/-- `rec.flags` (18 R708) -/
def L.recFlags : Reg := ⟨0xD001, 0x06, 1, .all 0xe⟩
/-- `rec.pace` (18 R708) -/
def L.recPace : Reg := ⟨0xD001, 0x07, 2, .all 0x10⟩
/-- `rec.dump` (18 R708) -/
def L.recDump : Reg := ⟨0xD001, 0x08, 8, .all 0⟩
/-- `rec.wp` (18 R708) -/
def L.recWp : Reg := ⟨0xD002, 0x01, 8, .all 0⟩
/-- `rec.lost` (18 R708) -/
def L.recLost : Reg := ⟨0xD002, 0x05, 8, .all 0⟩
/-- `rec.div` (18 R708) -/
def L.recDiv : Reg := ⟨0xD003, 0x01, 8, .all 0⟩
/-- `rec.ndiv` (18 R708) -/
def L.recNdiv : Reg := ⟨0xD003, 0x02, 8, .all 0⟩
/-- `sec.status` (19 R738) -/
def L.secStatus : Reg := ⟨0xC000, 0x01, 4, .all 0⟩
/-- `sec.meas` (19 R738) -/
def L.secMeas : Reg := ⟨0xC000, 0x02, 32, .all 0⟩
/-- `sec.devid.pub` (19 R738) -/
def L.secDevidPub : Reg := ⟨0xC000, 0x03, 1312, .all 0⟩
/-- `sec.alias.pub` (19 R738) -/
def L.secAliasPub : Reg := ⟨0xC000, 0x04, 1312, .all 0⟩
/-- `sec.keys` (19 R738) -/
def L.secKeys : Reg := ⟨0xC001, 0x01, 32, .all 0⟩
/-- `sec.key.state` (19 R738) -/
def L.secKeyState : Reg := ⟨0xC001, 0x02, 1, .all 0⟩
/-- `sec.key.cmd` (19 R738) -/
def L.secKeyCmd : Reg := ⟨0xC001, 0x03, 40, .all 0⟩
/-- `sec.svn.min` (19 R738) -/
def L.secSvnMin : Reg := ⟨0xC001, 0x04, 2, .all 0⟩
/-- `sec.svn.cmd` (19 R738) -/
def L.secSvnCmd : Reg := ⟨0xC001, 0x05, 1, .all 0⟩
/-- `sec.img.off` (19 R738) -/
def L.secImgOff : Reg := ⟨0xC002, 0x01, 4, .all 0⟩
/-- `sec.img.data` (19 R738) -/
def L.secImgData : Reg := ⟨0xC002, 0x02, 4096, .all 0⟩
/-- `sec.img.cmd` (19 R738) -/
def L.secImgCmd : Reg := ⟨0xC002, 0x03, 1, .all 0⟩
/-- `sec.img.status` (19 R738) -/
def L.secImgStatus : Reg := ⟨0xC002, 0x04, 4, .all 0⟩
/-- `sec.dbg.chal` (19 R738) -/
def L.secDbgChal : Reg := ⟨0xC003, 0x01, 32, .all 0⟩
/-- `sec.dbg.resp` (19 R738) -/
def L.secDbgResp : Reg := ⟨0xC003, 0x02, 3734, .all 0⟩
/-- `sec.spdm.port` (19 R738) -/
def L.secSpdmPort : Reg := ⟨0xC004, 0x01, 2, .all 0xba1f⟩
/-- `sec.zeroize` (19 R738) -/
def L.secZeroize : Reg := ⟨0xC004, 0x02, 1, .all 0⟩

/-- `det.list`: the entries of Table 18.4 in ascending index and subindex (18 R694). -/
def detList : List (Nat × Nat) :=
  [(0x4014, 1), (0x4014, 2), (0x5800, 1), (0x5800, 2), (0x5800, 3), (0x5800, 4), (0x5808, 1), (0x5808, 2),
   (0x5808, 3), (0x5808, 4), (0x5809, 1), (0x5809, 2), (0x5809, 3), (0x5809, 4), (0x6801, 1), (0x6801, 2),
   (0x6801, 3), (0x6801, 4), (0x6801, 5), (0x6801, 6), (0x7000, 4), (0x7800, 1), (0x7801, 1), (0x7802, 1),
   (0x7803, 1), (0x8001, 2)]

/-- Entries of `det.list`. -/
def detListLen : Nat := 26

/-- Rows of the entry tables, part 0. -/
def lexRows0 : List LexRow := [
  ⟨L.idPart, 1, .u32, .ro, .f, 1, false⟩,
  ⟨L.idGrade, 1, .u16, .ro, .f, 1, false⟩,
  ⟨L.idStepping, 1, .u8, .ro, .f, 1, false⟩,
  ⟨L.idSwageMap, 1, .u16, .ro, .f, 1, false⟩,
  ⟨L.idHbmMap, 1, .u8, .ro, .f, 1, false⟩,
  ⟨L.devCoreHsRate, 4, .u32, .ro, .t, 1, false⟩,
  ⟨L.devCoreHsWindow, 1, .u32, .rw, .n, 1, false⟩,
  ⟨L.devCoreVddMv, 4, .u16, .ro, .t, 1, false⟩,
  ⟨L.devD2dStatus, 18, .u8, .ro, .t, 1, false⟩,
  ⟨L.devD2dCorrected, 18, .u64, .ro, .v, 1, false⟩,
  ⟨L.fabSelfEp, 1, .u16, .rwq, .n, 1, false⟩,
  ⟨L.fabEthEthertype, 1, .u16, .rwq, .n, 1, false⟩,
  ⟨L.fabRxMalformed, 4, .u64, .ro, .v, 1, false⟩,
  ⟨L.fabRxPoisonSeen, 4, .u64, .ro, .v, 1, false⟩,
  ⟨L.fabRxPoisonMade, 4, .u64, .ro, .v, 1, false⟩,
  ⟨L.fwdRoute, 1, .table, .rw, .n, 65536, false⟩,
  ⟨L.fwdUset, 64, .octets, .rw, .n, 1, false⟩,
  ⟨L.fwdSprayMode, 1, .u8, .rw, .n, 1, false⟩,
  ⟨L.fwdClassRuled, 1, .u8, .rwq, .n, 1, false⟩,
  ⟨L.fwdSprayHot, 1, .u16, .rw, .n, 1, false⟩,
  ⟨L.fwdSprayWeight, 1, .table, .rw, .n, 512, false⟩,
  ⟨L.fwdPortRole, 1, .table, .rwq, .n, 512, false⟩,
  ⟨L.fwdReseqHoleNs, 1, .u32, .rw, .n, 1, false⟩,
  ⟨L.fwdReseqWindow, 1, .u16, .rw, .n, 1, false⟩]

/-- Rows of the entry tables, part 1. -/
def lexRows1 : List LexRow := [
  ⟨L.fwdReseqRecords, 1, .u32, .rwq, .n, 1, false⟩,
  ⟨L.fwdReseqHoles, 4, .u64, .ro, .v, 1, false⟩,
  ⟨L.fwdReseqLate, 4, .u64, .ro, .v, 1, false⟩,
  ⟨L.fwdDropNoroute, 4, .u64, .ro, .v, 1, false⟩,
  ⟨L.fwdReseqOverflow, 4, .u64, .ro, .v, 1, false⟩,
  ⟨L.mirKind, 1, .u8, .rw, .n, 1, true⟩,
  ⟨L.mirPort, 1, .u16, .rw, .n, 1, true⟩,
  ⟨L.mirMatch, 1, .u64, .rw, .n, 1, true⟩,
  ⟨L.mirMask, 1, .u64, .rw, .n, 1, true⟩,
  ⟨L.mirDest, 1, .u16, .rw, .n, 1, true⟩,
  ⟨L.mirTrunc, 1, .u8, .rw, .n, 1, true⟩,
  ⟨L.mirSample, 1, .u32, .rw, .n, 1, true⟩,
  ⟨L.mirDropped, 1, .u64, .ro, .v, 1, true⟩,
  ⟨L.bilPoolUnits, 4, .table, .rwq, .n, 5, false⟩,
  ⟨L.bilPoolFree, 4, .table, .ro, .t, 5, false⟩,
  ⟨L.bilPoolLow, 4, .table, .ro, .v, 5, false⟩,
  ⟨L.bilPortMin, 1, .table, .rw, .n, 4096, false⟩,
  ⟨L.bilPortMax, 1, .table, .rw, .n, 512, false⟩,
  ⟨L.bilTenQuota, 4, .table, .rw, .n, 256, false⟩,
  ⟨L.bilCtxQuota, 4, .table, .rw, .n, 1024, false⟩,
  ⟨L.bilCoreQuota, 4, .table, .rw, .n, 16, false⟩,
  ⟨L.bilWaitNs, 1, .u32, .rw, .n, 1, false⟩,
  ⟨L.bilDeepClasses, 1, .u8, .rw, .n, 1, false⟩,
  ⟨L.bilDeepGib, 4, .u8, .rwq, .n, 1, false⟩]

/-- Rows of the entry tables, part 2. -/
def lexRows2 : List LexRow := [
  ⟨L.bilDeepThresh, 1, .u32, .rw, .n, 1, false⟩,
  ⟨L.bilDeepPortMax, 1, .table, .rw, .n, 512, false⟩,
  ⟨L.bilDropNobuf, 4, .u64, .ro, .v, 1, false⟩,
  ⟨L.bilLost, 4, .u32, .ro, .v, 1, false⟩,
  ⟨L.bilDeepUsed, 4, .u32, .ro, .t, 1, false⟩,
  ⟨L.belMode, 4, .u8, .rw, .v, 1, false⟩,
  ⟨L.belTq, 4, .table, .rwq, .n, 256, false⟩,
  ⟨L.belQShape, 4, .table, .rw, .n, 7168, false⟩,
  ⟨L.belClsWeight, 4, .table, .rw, .n, 7, false⟩,
  ⟨L.belTenCir, 4, .table, .rw, .n, 256, false⟩,
  ⟨L.belTenPir, 4, .table, .rw, .n, 256, false⟩,
  ⟨L.belPolRate, 4, .table, .rw, .n, 1024, false⟩,
  ⟨L.belPolCtl, 4, .table, .rw, .n, 1024, false⟩,
  ⟨L.belPolPort, 4, .table, .rw, .n, 1024, false⟩,
  ⟨L.belPolTen, 4, .table, .rw, .n, 2048, false⟩,
  ⟨L.belPolCount, 4, .table, .ro, .v, 3072, false⟩,
  ⟨L.belGuardCir, 1, .u64, .rw, .n, 1, false⟩,
  ⟨L.belGuardPir, 1, .u64, .rw, .n, 1, false⟩,
  ⟨L.belGuardRed, 4, .u64, .ro, .v, 1, false⟩,
  ⟨L.belTelPeriodNs, 1, .u32, .rw, .n, 1, false⟩,
  ⟨L.belTelRingMib, 1, .u16, .rwq, .n, 1, false⟩,
  ⟨L.belTelSel, 4, .octets, .rw, .n, 1, false⟩,
  ⟨L.belTelBase, 4, .u64, .ro, .t, 1, false⟩,
  ⟨L.belTelWp, 4, .u64, .ro, .t, 1, false⟩]

/-- Rows of the entry tables, part 3. -/
def lexRows3 : List LexRow := [
  ⟨L.belTelSkipped, 4, .u64, .ro, .v, 1, false⟩,
  ⟨L.anvilDies, 1, .u8, .rwq, .n, 1, false⟩,
  ⟨L.anvilWindow, 1, .u8, .rwq, .n, 1, false⟩,
  ⟨L.anvilSpillNs, 1, .u32, .rw, .n, 1, false⟩,
  ⟨L.anvilLingerNs, 1, .u32, .rw, .n, 1, false⟩,
  ⟨L.anvilSpillGib, 4, .u8, .rwq, .n, 1, false⟩,
  ⟨L.anvilCtxState, 1, .table, .ro, .t, 4096, false⟩,
  ⟨L.anvilCtxMode, 1, .table, .ro, .t, 8192, false⟩,
  ⟨L.anvilCtxAstat, 1, .table, .ro, .t, 8192, false⟩,
  ⟨L.anvilDup, 4, .u64, .ro, .v, 1, false⟩,
  ⟨L.anvilStale, 4, .u64, .ro, .v, 1, false⟩,
  ⟨L.anvilSpills, 4, .u64, .ro, .v, 1, false⟩,
  ⟨L.hearthJobWin, 1, .u64, .ro, .f, 1, false⟩,
  ⟨L.hbmScrubS, 1, .u32, .rw, .n, 1, false⟩,
  ⟨L.hearthRecipe, 6, .table, .rw, .n, 16384, false⟩,
  ⟨L.hearthRecipeTen, 6, .table, .rw, .n, 256, false⟩,
  ⟨L.hearthJobsQueued, 6, .u16, .ro, .t, 1, false⟩,
  ⟨L.hbmEccCorr, 6, .u64, .ro, .v, 1, false⟩,
  ⟨L.hbmEccUncorr, 6, .u64, .ro, .v, 1, false⟩,
  ⟨L.hearthJobBusy, 6, .u64, .ro, .v, 1, false⟩,
  ⟨L.swageJobWin, 1, .u64, .ro, .f, 1, false⟩,
  ⟨L.swageStreamWin, 1, .u64, .ro, .f, 1, false⟩,
  ⟨L.swageStreamNs, 1, .u32, .rw, .n, 1, false⟩,
  ⟨L.swageChkTol, 1, .u8, .rw, .n, 1, false⟩]

/-- Rows of the entry tables, part 4. -/
def lexRows4 : List LexRow := [
  ⟨L.swageState, 16, .u32, .ro, .t, 1, false⟩,
  ⟨L.swageOps, 16, .u64, .ro, .v, 1, false⟩,
  ⟨L.swageChkfail, 16, .u64, .ro, .v, 1, false⟩,
  ⟨L.swageBusy, 16, .u64, .ro, .v, 1, false⟩,
  ⟨L.swageOrphan, 16, .u64, .ro, .v, 1, false⟩,
  ⟨L.swageDup, 16, .u64, .ro, .v, 1, false⟩,
  ⟨L.collAxes, 1, .u32, .rwq, .n, 1, false⟩,
  ⟨L.collAdmitNs, 1, .u32, .rw, .n, 1, false⟩,
  ⟨L.collStallNs, 1, .u32, .rw, .n, 1, false⟩,
  ⟨L.collAbort, 1, .u64, .wo, .t, 1, false⟩,
  ⟨L.collCoord, 1, .table, .rw, .n, 65536, false⟩,
  ⟨L.collChild, 1, .table, .rw, .n, 64, false⟩,
  ⟨L.collGroup, 1, .table, .rw, .n, 4096, false⟩,
  ⟨L.collClosed, 1, .table, .ro, .t, 4096, false⟩,
  ⟨L.collLib, 1, .table, .ro, .n, 64, false⟩,
  ⟨L.collLibLoad, 1, .octets, .wo, .t, 1, false⟩,
  ⟨L.collCoreState, 1, .table, .ro, .t, 64, false⟩,
  ⟨L.collDenied, 4, .u64, .ro, .v, 1, false⟩,
  ⟨L.collStale, 4, .u64, .ro, .v, 1, false⟩,
  ⟨L.collStarved, 4, .u64, .ro, .v, 1, false⟩,
  ⟨L.collAdmitq, 4, .u32, .ro, .t, 1, false⟩,
  ⟨L.agrBind, 1, .table, .rw, .n, 2048, false⟩,
  ⟨L.agrState, 1, .table, .ro, .t, 2048, false⟩,
  ⟨L.agrForce, 1, .u32, .wo, .t, 1, false⟩]

/-- Rows of the entry tables, part 5. -/
def lexRows5 : List LexRow := [
  ⟨L.agrLendNs, 1, .u32, .rw, .n, 1, false⟩,
  ⟨L.agrSigHoldNs, 1, .u32, .rw, .n, 1, false⟩,
  ⟨L.agrDenied, 4, .u64, .ro, .v, 1, false⟩,
  ⟨L.agrStale, 4, .u64, .ro, .v, 1, false⟩,
  ⟨L.agrDup, 4, .u64, .ro, .v, 1, false⟩,
  ⟨L.agrAhead, 4, .u64, .ro, .v, 1, false⟩,
  ⟨L.agrSigHeld, 4, .u16, .ro, .t, 1, false⟩,
  ⟨L.agrSigShort, 4, .u64, .ro, .v, 1, false⟩,
  ⟨L.agrSigOverflow, 4, .u64, .ro, .v, 1, false⟩,
  ⟨L.agrSigDiscard, 4, .u64, .ro, .v, 1, false⟩,
  ⟨L.linkPortWidth, 1, .table, .rw, .n, 512, false⟩,
  ⟨L.linkPortModes, 1, .table, .rw, .n, 512, false⟩,
  ⟨L.linkPortMedium, 1, .table, .rw, .n, 512, false⟩,
  ⟨L.linkPortCmd, 1, .table, .wo, .t, 512, false⟩,
  ⟨L.linkPortStatus, 1, .table, .ro, .t, 512, false⟩,
  ⟨L.linkPartner, 1, .table, .ro, .t, 512, false⟩,
  ⟨L.linkLaneFom, 1, .table, .ro, .t, 512, false⟩,
  ⟨L.linkFomFloor, 1, .table, .rw, .n, 3, false⟩,
  ⟨L.linkFomHoldNs, 1, .u32, .rw, .n, 1, false⟩,
  ⟨L.linkLanePol, 1, .table, .rw, .n, 512, false⟩,
  ⟨L.linkRetryNs, 1, .u32, .rw, .n, 1, false⟩,
  ⟨L.linkRetryMax, 1, .u8, .rw, .n, 1, false⟩,
  ⟨L.linkIdleNs, 1, .u32, .rw, .n, 1, false⟩,
  ⟨L.linkIdleMaxNs, 1, .u32, .rw, .n, 1, false⟩]

/-- Rows of the entry tables, part 6. -/
def lexRows6 : List LexRow := [
  ⟨L.linkUpNs, 1, .u32, .rw, .n, 1, false⟩,
  ⟨L.linkAnOui, 1, .u32, .ro, .f, 1, false⟩,
  ⟨L.linkEthSmacBase, 1, .u64, .ro, .f, 1, false⟩,
  ⟨L.linkEthDmac, 1, .table, .rw, .n, 512, false⟩,
  ⟨L.linkPfcXoff, 1, .u16, .rw, .n, 1, false⟩,
  ⟨L.linkPfcXon, 1, .u16, .rw, .n, 1, false⟩,
  ⟨L.linkCntCorr, 1, .table, .ro, .v, 512, false⟩,
  ⟨L.linkCntUncorr, 1, .table, .ro, .v, 512, false⟩,
  ⟨L.linkCntRetries, 1, .table, .ro, .v, 512, false⟩,
  ⟨L.linkCntDowns, 1, .table, .ro, .v, 512, false⟩,
  ⟨L.linkEthOther, 1, .table, .ro, .v, 512, false⟩,
  ⟨L.idPcieVid, 1, .u16, .ro, .f, 1, false⟩,
  ⟨L.idPcieDid, 1, .u16, .ro, .f, 1, false⟩,
  ⟨L.brgP0Role, 1, .u8, .rwq, .n, 1, false⟩,
  ⟨L.brgWinLog2, 1, .u8, .rwq, .n, 1, false⟩,
  ⟨L.brgWin, 1, .table, .rw, .n, 64, false⟩,
  ⟨L.brgRev, 1, .table, .rw, .n, 64, false⟩,
  ⟨L.brgRevWin, 1, .u64, .ro, .f, 1, false⟩,
  ⟨L.brgRetWin, 1, .u64, .ro, .f, 1, false⟩,
  ⟨L.brgMsiWin, 1, .u64, .ro, .f, 1, false⟩,
  ⟨L.brgMsiTen, 1, .table, .rw, .n, 64, false⟩,
  ⟨L.brgRdNs, 1, .u32, .rw, .n, 1, false⟩,
  ⟨L.brgDmaNs, 1, .u32, .rw, .n, 1, false⟩,
  ⟨L.brgMemToNs, 1, .u32, .rw, .n, 1, false⟩]

/-- Rows of the entry tables, part 7. -/
def lexRows7 : List LexRow := [
  ⟨L.brgPortCmd, 1, .table, .wo, .t, 4, false⟩,
  ⟨L.brgPortStatus, 4, .u32, .ro, .t, 1, false⟩,
  ⟨L.brgMemCap, 4, .u32, .ro, .t, 1, false⟩,
  ⟨L.brgLate, 4, .u64, .ro, .v, 1, false⟩,
  ⟨L.brgDenied, 4, .u64, .ro, .v, 1, false⟩,
  ⟨L.tenCmd, 1, .u32, .wo, .t, 1, false⟩,
  ⟨L.tenRebind, 1, .u32, .wo, .t, 1, false⟩,
  ⟨L.tenDrainNs, 1, .u32, .rw, .n, 1, false⟩,
  ⟨L.tenState, 1, .table, .ro, .t, 256, false⟩,
  ⟨L.tenQtime, 1, .table, .ro, .v, 256, false⟩,
  ⟨L.tenEp, 1, .table, .rw, .n, 65536, false⟩,
  ⟨L.tenPort, 1, .table, .rw, .n, 512, false⟩,
  ⟨L.tenSwage, 1, .table, .rw, .n, 16, false⟩,
  ⟨L.tenHearth, 1, .table, .rw, .n, 96, false⟩,
  ⟨L.tenCore, 1, .table, .rw, .n, 64, false⟩,
  ⟨L.tenHbm, 1, .table, .rw, .n, 576, false⟩,
  ⟨L.tenCxl, 1, .table, .rw, .n, 16384, false⟩,
  ⟨L.tenCtx, 4, .table, .rw, .n, 256, false⟩,
  ⟨L.tenClrHbm, 1, .u16, .ro, .t, 1, false⟩,
  ⟨L.tenClrCxl, 1, .u16, .ro, .t, 1, false⟩,
  ⟨L.tenBlkCmd, 1, .u16, .wo, .t, 1, false⟩,
  ⟨L.tenBlkInc, 1, .table, .ro, .w, 95, false⟩,
  ⟨L.tenViol, 4, .u64, .ro, .v, 1, false⟩,
  ⟨L.tenQdrop, 4, .u64, .ro, .v, 1, false⟩]

/-- Rows of the entry tables, part 8. -/
def lexRows8 : List LexRow := [
  ⟨L.tenStaleReply, 4, .u64, .ro, .v, 1, false⟩,
  ⟨L.telTime, 1, .u64, .ro, .v, 1, false⟩,
  ⟨L.telPtpState, 1, .u8, .ro, .t, 1, false⟩,
  ⟨L.telPtpOffset, 1, .i64, .ro, .t, 1, false⟩,
  ⟨L.telDevRxBytes, 1, .table, .ro, .v, 3, false⟩,
  ⟨L.telDevTxBytes, 1, .table, .ro, .v, 3, false⟩,
  ⟨L.telDevAnvilBytes, 1, .table, .ro, .v, 3, false⟩,
  ⟨L.telPortRxBytes, 1, .table, .ro, .v, 512, false⟩,
  ⟨L.telPortTxBytes, 1, .table, .ro, .v, 512, false⟩,
  ⟨L.telPortRxPkts, 1, .table, .ro, .v, 512, false⟩,
  ⟨L.telPortTxPkts, 1, .table, .ro, .v, 512, false⟩,
  ⟨L.lexDir, 1, .table, .ro, .f, 0, false⟩,
  ⟨L.lexDirCount, 1, .u32, .ro, .f, 1, false⟩,
  ⟨L.lexMboxWin, 1, .u64, .ro, .f, 1, false⟩,
  ⟨L.lexInband, 1, .table, .rw, .n, 32, false⟩,
  ⟨L.lexCoreMask, 1, .u64, .rw, .n, 1, false⟩,
  ⟨L.lexEthMac, 1, .u64, .ro, .f, 1, false⟩,
  ⟨L.lexEthIp4, 1, .u32, .rw, .n, 1, false⟩,
  ⟨L.lexEthIp4Now, 1, .u32, .ro, .t, 1, false⟩,
  ⟨L.lexIssioPort, 1, .u16, .rw, .n, 1, false⟩,
  ⟨L.lexIssioSecure, 1, .bool, .rw, .n, 1, false⟩,
  ⟨L.lexIssioAllow, 1, .table, .rw, .n, 8, false⟩,
  ⟨L.lexI3cSa, 1, .u8, .rw, .n, 1, false⟩,
  ⟨L.lexI3cIbi, 1, .bool, .rw, .n, 1, false⟩]

/-- Rows of the entry tables, part 9. -/
def lexRows9 : List LexRow := [
  ⟨L.lexDenied, 5, .u64, .ro, .v, 1, false⟩,
  ⟨L.lexMalformed, 5, .u64, .ro, .v, 1, false⟩,
  ⟨L.lexBusy, 5, .u64, .ro, .v, 1, false⟩,
  ⟨L.devBootStatus, 1, .u32, .ro, .v, 1, false⟩,
  ⟨L.devCmd, 1, .u8, .wo, .t, 1, false⟩,
  ⟨L.devBootLinkNs, 1, .u32, .rw, .n, 1, false⟩,
  ⟨L.devBootTime, 1, .u32, .ro, .v, 1, false⟩,
  ⟨L.pwrLimit, 1, .u16, .rw, .n, 1, false⟩,
  ⟨L.pwrCooling, 1, .u8, .rwq, .n, 1, false⟩,
  ⟨L.pwrWinNs, 1, .u32, .rw, .n, 1, false⟩,
  ⟨L.pwrVmin, 1, .u16, .rw, .n, 1, false⟩,
  ⟨L.pwrVmax, 1, .u16, .rw, .n, 1, false⟩,
  ⟨L.pwrCmd, 1, .u8, .wo, .t, 1, false⟩,
  ⟨L.pwrState, 1, .u32, .ro, .v, 1, false⟩,
  ⟨L.pwrParkIdleNs, 1, .u32, .rw, .n, 1, false⟩,
  ⟨L.pwrParkEth, 1, .u8, .rw, .n, 1, false⟩,
  ⟨L.pwrTjWarn, 1, .u8, .rw, .n, 1, false⟩,
  ⟨L.pwrVset, 4, .u16, .ro, .v, 1, false⟩,
  ⟨L.pwrTj, 4, .u16, .ro, .t, 1, false⟩,
  ⟨L.pwrPkgMw, 1, .u32, .ro, .t, 1, false⟩,
  ⟨L.pwrLentMw, 1, .u32, .ro, .t, 1, false⟩,
  ⟨L.pwrThrottle, 1, .u8, .ro, .t, 1, false⟩,
  ⟨L.fltSum, 2, .u64, .ro, .w, 1, false⟩,
  ⟨L.fltRec, 1, .table, .ro, .w, 512, false⟩]

/-- Rows of the entry tables, part 10. -/
def lexRows10 : List LexRow := [
  ⟨L.fltCount, 1, .u16, .ro, .w, 1, false⟩,
  ⟨L.fltAck, 1, .u16, .wo, .t, 1, false⟩,
  ⟨L.fltClr, 1, .u8, .wo, .t, 1, false⟩,
  ⟨L.fltMergeNs, 1, .u32, .rw, .n, 1, false⟩,
  ⟨L.fltLost, 1, .u64, .ro, .w, 1, false⟩,
  ⟨L.fltSlice, 1, .octets, .ro, .v, 1, false⟩,
  ⟨L.idFuseOpt, 1, .u32, .ro, .f, 1, false⟩,
  ⟨L.detSig, 1, .octets, .ro, .t, 1, false⟩,
  ⟨L.detList, 1, .table, .ro, .f, detListLen, false⟩,
  ⟨L.detAlign, 1, .table, .ro, .v, 60, false⟩,
  ⟨L.recCmd, 1, .u8, .wo, .t, 1, false⟩,
  ⟨L.recState, 1, .u32, .ro, .w, 1, false⟩,
  ⟨L.recPorts, 1, .octets, .rw, .n, 1, false⟩,
  ⟨L.recFull, 1, .octets, .rw, .n, 1, false⟩,
  ⟨L.recTen, 1, .octets, .rw, .n, 1, false⟩,
  ⟨L.recFlags, 1, .u8, .rw, .n, 1, false⟩,
  ⟨L.recPace, 1, .u16, .rw, .n, 1, false⟩,
  ⟨L.recDump, 1, .u64, .rw, .n, 1, false⟩,
  ⟨L.recWp, 4, .u64, .ro, .w, 1, false⟩,
  ⟨L.recLost, 4, .u64, .ro, .w, 1, false⟩,
  ⟨L.recDiv, 1, .u64, .ro, .w, 1, false⟩,
  ⟨L.recNdiv, 1, .u64, .ro, .w, 1, false⟩,
  ⟨L.secStatus, 1, .u32, .ro, .v, 1, false⟩,
  ⟨L.secMeas, 1, .table, .ro, .w, 7, false⟩]

/-- Rows of the entry tables, part 11. -/
def lexRows11 : List LexRow := [
  ⟨L.secDevidPub, 1, .octets, .ro, .f, 1, false⟩,
  ⟨L.secAliasPub, 1, .octets, .ro, .t, 1, false⟩,
  ⟨L.secKeys, 1, .table, .ro, .f, 4, false⟩,
  ⟨L.secKeyState, 1, .u8, .ro, .f, 1, false⟩,
  ⟨L.secKeyCmd, 1, .octets, .wo, .t, 1, false⟩,
  ⟨L.secSvnMin, 1, .u16, .ro, .f, 1, false⟩,
  ⟨L.secSvnCmd, 1, .u8, .wo, .t, 1, false⟩,
  ⟨L.secImgOff, 1, .u32, .rw, .t, 1, false⟩,
  ⟨L.secImgData, 1, .octets, .wo, .t, 1, false⟩,
  ⟨L.secImgCmd, 1, .u8, .wo, .t, 1, false⟩,
  ⟨L.secImgStatus, 1, .u32, .ro, .v, 1, false⟩,
  ⟨L.secDbgChal, 1, .octets, .ro, .t, 1, false⟩,
  ⟨L.secDbgResp, 1, .octets, .wo, .t, 1, false⟩,
  ⟨L.secSpdmPort, 1, .u16, .rw, .n, 1, false⟩,
  ⟨L.secZeroize, 1, .u8, .wo, .t, 1, false⟩]

/-- Every row of the entry tables. -/
def lexRows : List LexRow :=
  lexRows0 ++ lexRows1 ++ lexRows2 ++ lexRows3 ++ lexRows4 ++ lexRows5 ++ lexRows6 ++ lexRows7 ++ lexRows8 ++ lexRows9 ++ lexRows10 ++ lexRows11

/-- Subindices a row names, with their indices: (index, sub). -/
def LexRow.subsList (r : LexRow) : List (Nat × Nat) :=
  if r.perIdx then (List.range 8).map (fun s => (r.reg.index + s, r.reg.sub))
  else (List.range r.subs).map (fun k => (r.reg.index, r.reg.sub + k))

/-- Whether a row names entry index:sub. -/
def LexRow.has (r : LexRow) (index sub : Nat) : Bool :=
  if r.perIdx then decide (r.reg.index ≤ index ∧ index < r.reg.index + 8 ∧ sub = r.reg.sub)
  else decide (index = r.reg.index ∧ r.reg.sub ≤ sub ∧ sub < r.reg.sub + r.subs)

/-- The row of entry index:sub. -/
def lexRow? (index sub : Nat) : Option LexRow := lexRows.find? (fun r => r.has index sub)

/-- Highest subindex of an index (R592); 0 where the index holds no entry. -/
def topSub (index : Nat) : Nat :=
  (lexRows.filter (fun r => r.subsList.any (fun p => p.1 == index))).foldl
    (fun m r => max m (if r.perIdx then r.reg.sub else r.reg.sub + r.subs - 1)) 0

/-- Insert into a rising list, without repeats. -/
def insertNat (x : Nat) : List Nat → List Nat
  | [] => [x]
  | a :: as => if x = a then a :: as else if x < a then x :: a :: as else a :: insertNat x as

/-- The indices that hold entries, ascending and without repeats. -/
def lexIndices : List Nat :=
  ((lexRows.flatMap LexRow.subsList).map Prod.fst).foldl (fun l i => insertNat i l) []

/-- Entries of the directory, subindex 0x00 included (R624). -/
def dirCount : Nat := lexIndices.length + (sumBy (fun r => if r.perIdx then 8 else r.subs) lexRows)

end Sys2Proof.Machine
end

