-- ==== Sys2Proof/Machine/State.lean ====
section
/-! DEFINITION. The state of the part as plain data: every register of the Lexicon (one sparse store), every queue,
record, timer and mode the chapters name, the root of trust, and the queue of waiting commands. -/

namespace Sys2Proof.Machine

/-- Why a run stops. -/
inductive Fault
  /-- A use that rule R`rule` lists as undefined. Raised by the meaning of the command that makes that use. Safe: the
  spec gives no effect for it, so nothing is claimed of what follows. -/
  | undefinedUse (rule : Nat)
  /-- An access to a line of HBM that is not installed (02 Table 2.6A, 08 R308). Raised by LINE_PORT_ACCESS and
  PATROL_READ. Safe: there is no line port that would serve it. -/
  | absentLine
deriving DecidableEq, Repr

/-- Why a command has no meaning. -/
inductive Refusal
  /-- No meaning yet; raised only by an arm of `exec`. Safe: nothing is claimed of the command. -/
  | notModelled (mnemonic : String)
deriving DecidableEq, Repr

/-! ### Packets and flows (02, 03) -/

/-- Where a packet came from: a lane port, a bridge attachment, or a service attachment of a Forge die. -/
inductive From
  | port (p : Lane)
  | bridge (d : Die)
  | service (d : Die)
deriving DecidableEq, Repr

/-- Where a packet goes inside this switch. -/
inductive Out
  | port (p : Lane)
  | hbm
  | cxl (p : BPort)
  | service (d : Die)
deriving DecidableEq, Repr

/-- How far a data packet has come. -/
inductive Stage
  /-- its cells stand in virtual output queues (R105) -/
  | voq
  /-- held by the resequencer (R131) -/
  | held
  /-- in its egress queue -/
  | queued
  /-- begun egress; the end word has not left -/
  | leaving
deriving DecidableEq, Repr

/-- One data packet inside the part. -/
structure DPkt where
  id      : Nat
  hdr     : Word256
  pay     : Bytes := []
  /-- none: the end word has not arrived; some true: good; some false: poison or a fault of R73 -/
  fin     : Option Bool := none
  src     : From
  inDie   : Die
  out     : Out
  egDie   : Die
  /-- 0 green, 1 yellow, 2 red (R200); kept until the packet leaves the egress die (R202) -/
  colour  : Nat := 0
  cells   : Nat
  /-- cells that have arrived at ingress -/
  here    : Nat := 0
  /-- cells that have crossed the ingress die's crossbar, for a packet bound for another die (R109) -/
  crossed : Nat := 0
  /-- cells in the egress die's buffers -/
  moved   : Nat := 0
  stage   : Stage := .voq
  /-- timebase at which it joined its egress queue (Table 5.4) -/
  joined  : Nat := 0
  /-- its place among the packets that joined egress queues -/
  ord     : Nat := 0
  /-- sent before its end word was checked (R123) -/
  cut     : Bool := false
  /-- ingress attachment of the packet (R103) -/
  att     : Nat := 0
  inBil   : List Nat := []
  /-- cells still on the ingress side that hold a reserve billet, and a shared one (R166) -/
  inRes   : Nat := 0
  inSh    : Nat := 0
  egBil   : List Nat := []
  deep    : List Nat := []
  /-- its cells wait for billets on their ingress die (04 R154, R155, R173) -/
  wait    : Bool := false
  /-- egress queue number, fixed when it joins (05 R185) -/
  qn      : Nat := 0
  /-- the fan-out set it belongs to, by the number of the set's first packet (R107) -/
  fan     : Option Nat := none
  /-- mirror session, for a copy (R138), and whether it was taken at an egress -/
  mir     : Option Nat := none
  mirEg   : Bool := false
  /-- packet this one copies -/
  orig    : Option Nat := none
  /-- HBM offset at which its payload is staged until its egress (10 R436) -/
  staged  : Option Nat := none
  /-- the two Forge dies a packet that was routed anew across them stays on (R109); empty: none yet -/
  dies    : List Nat := []
deriving DecidableEq, Repr

/-- One control packet inside the part (R102, R151). -/
structure CPkt where
  id    : Nat
  pkt   : Word256
  src   : From
  inDie : Die
  out   : Out
  egDie : Die
  /-- crossed the ingress die's control crossbar toward another die (R109) -/
  link  : Bool := false
  /-- crossed the control crossbar of its egress die and waits at egress -/
  atEg  : Bool := false
  /-- ingress attachment (R103), and its place among the packets that joined egress queues -/
  att   : Nat := 0
  ord   : Nat := 0
  /-- the two Forge dies it stays on, once it was routed anew across them -/
  dies  : List Nat := []
deriving DecidableEq, Repr

/-- A flow record (R129), held as a record and not as bytes of HBM (DEDUCED, log 126). -/
structure Flow where
  ten       : Nat
  die       : Nat
  expected  : Nat := 0
  delivered : Nat := 0
  /-- packet whose delivery has begun and not ended -/
  current   : Option Nat := none
  /-- deadline of the running hole timer (R130) -/
  timer     : Option Nat := none
  /-- no free record: delivered unresequenced (R134) -/
  overflow  : Bool := false
  /-- the record stands on chip (R129) -/
  onChip    : Bool := true
  /-- number of the record among those of the die in HBM (08 Table 8.2), where it does not -/
  slot      : Nat := 0
deriving DecidableEq, Repr

/-- A held SIGNAL (R95, 11 R471 to R476). -/
structure Held where
  pkt      : Word256
  out      : Out
  die      : Nat
  deadline : Nat
  order    : Nat
deriving DecidableEq, Repr

/-- A crossbar match (R107): it lasts from the first cell of a packet to its last. -/
structure Match where
  die : Nat
  inp : Nat
  out : Nat
  pkt : Nat
deriving DecidableEq, Repr

/-- A packet kept with the billets it occupies. -/
structure Stored where
  hdr : Word256
  pay : Bytes
  bil : List Nat := []
  /-- Forge die at which it waits -/
  die : Nat := 0
deriving DecidableEq, Repr

/-- The switching fabric's state. -/
structure Fab where
  /-- next packet number -/
  nextId : Nat := 0
  /-- next place in the egress queues -/
  nextOrd : Nat := 0
  pkts   : List DPkt := []
  ctl    : List CPkt := []
  /-- packet now arriving at an ingress, keyed by port, or 512 + k for the bridge attachment of Fk -/
  arriving : AMap Nat := []
  /-- header of the packet that arrives at a key, as received -/
  rxHdr  : AMap Word256 := []
  flows  : AMap Flow := []
  held   : List Held := []
  /-- next sequence number of the flows the part itself sends, by flow key -/
  oseq   : AMap Nat := []
  /-- tenancy of the last packet that the part sent in a flow (R88: its flows start again when that tenancy is bound) -/
  oten   : AMap Nat := []
  /-- matches in force (R107) -/
  xm     : List Match := []
  /-- grant and accept pointers (R106), keyed 256 die + attachment -/
  gptr   : AMap Nat := []
  aptr   : AMap Nat := []
  /-- pointers of the control crossbar (R108) -/
  cgptr  : AMap Nat := []
  captr  : AMap Nat := []
  /-- lane pairs whose odd port moved in the last contended slot, keyed 512 dir + pair (R104) -/
  alt    : AMap Bool := []
  /-- next attachment of a wide port (R103) -/
  rotor  : AMap Nat := []
  /-- copies of other dies' depths, keyed 4096 die + 8 port + class (R116) -/
  depth  : AMap Nat := []
  /-- weight halvings with their deadlines, keyed 4096 die + 8 port + class (R117) -/
  halve  : AMap Nat := []
  /-- mirror sample counts by session (R140) -/
  mirCnt : AMap Nat := []
  /-- data packets delivered to the service ID, waiting for their unit, with the billets they occupy -/
  svcIn  : List Stored := []
  /-- control packets delivered to the service ID -/
  svcCtl : List Word256 := []
  /-- RESULTs of the part that the command under way has lost, not yet told to their collectives (10 R431); empty between
  commands -/
  lostRes : List Word256 := []
deriving DecidableEq, Repr

/-- Credit of a port and class (R66, R122, R166). -/
structure Credit where
  /-- cells the partner will take from us -/
  tx      : Nat := 0
  /-- last running total received -/
  rxLast  : Nat := 0
  /-- reserve billets set aside and offered while the port is Up (R166) -/
  res     : Nat := 0
  /-- reserve billets that hold a cell, ingress side -/
  resUsed : Nat := 0
  /-- shared billets set aside that hold no cell -/
  shFree  : Nat := 0
  /-- pools of those of them that come from a larger pool (R162 step 3) -/
  big     : List Nat := []
  /-- shared billets that hold a cell -/
  shUsed  : Nat := 0
  /-- running total we send, modulo 2^16 -/
  total   : Nat := 0
  /-- a step of 16 shared billets is asked for and not admitted -/
  want    : Bool := false
deriving DecidableEq, Repr

/-! ### Billets (04) -/

/-- What becomes of a billet request once it is granted. -/
inductive Waiter
  | owner
  /-- BALLOC by a clause core, into register `rd` (10 Table 10.6) -/
  | balloc (rd : Nat)
  /-- BALLOCN during a rebuild (04 R155) -/
  | ballocn (rd : Nat)
  /-- a held value of a block of slot `slot` (07 R254) -/
  | held (slot block : Nat)
  /-- the cells of data packet `pkt` on its ingress die (Table 4.4) -/
  | cells (pkt : Nat)
  /-- the cells of data packet `pkt` on its egress die (R168) -/
  | xfer (pkt : Nat)
deriving DecidableEq, Repr

/-- A waiting allocation request (R162 step 4). -/
structure BilReq where
  die    : Nat
  owner  : Owner
  ten    : Option Ten
  bytes  : Nat
  since  : Nat
  warned : Bool := false
  who    : Waiter := .owner
deriving DecidableEq, Repr

/-- A granted billet: who holds it and what it is charged. -/
structure Grant where
  owner : Owner
  ten   : Option Ten
  bytes : Nat
deriving DecidableEq, Repr

/-- The free store of a pool: handle indices as (first, count) runs, oldest first (R153). The ring stands in the system
area of the die's HBM (08 Table 8.2), 16 handles to a line; `head` is the place of its oldest handle (as a list: DEDUCED, log
126). -/
structure Store where
  cache : List (Nat × Nat) := []
  ring  : List (Nat × Nat) := []
  head  : Nat := 0
  /-- freed handles that a full cache cannot take while the stack of the ring is in reset (R153, 08 R349) -/
  late  : List Nat := []
  /-- lowest free count since the last rebuild (Table 4.5) -/
  low   : Nat := 0
deriving DecidableEq, Repr

/-- Billet state. -/
structure Bil where
  /-- keyed 8 die + pool; pool 5 is the deep buffer's pages -/
  stores : AMap Store := []
  /-- granted billets by handle -/
  granted : AMap Grant := []
  waits  : List BilReq := []
  /-- bytes of billets given to contexts and cores, by 65536 handle + offset; a byte not listed is 0 (R157) -/
  data   : List Host.Cell := []
  /-- dies whose rings are being rebuilt (R155) -/
  rebuild : List Nat := []
  /-- requester last served, keyed 48 die + 8 pool + priority of R164 -/
  rr : AMap Nat := []
  /-- handles that clause cores have freed and that have not been granted since (R178) -/
  freed : List Nat := []
deriving DecidableEq, Repr

/-! ### Bellows (05) -/

/-- A level kept at a resolution of 2^-24 packet, and the time it was brought up to (R187). Absent: full. -/
structure Level where
  q    : Nat
  upto : Nat
deriving DecidableEq, Repr

/-- Scheduler state (R187 to R198). -/
structure Bel where
  /-- queue credits, keyed 7168 die + queue index -/
  qcr  : AMap Level := []
  /-- committed and peak tenancy buckets, keyed 256 die + tenancy -/
  tcom : AMap Level := []
  tpk  : AMap Level := []
  /-- meters, keyed 1024 die + meter -/
  mTc  : AMap Level := []
  mTe  : AMap Level := []
  /-- guard markers by port -/
  gTc  : AMap Level := []
  gTp  : AMap Level := []
  /-- deficits, keyed 7168 die + queue index -/
  defi : AMap Nat := []
  /-- round-robin pointers, keyed 8 port + class -/
  ptr  : AMap Nat := []
  /-- virtual time by port, finish tags keyed 8 port + class, and whether the class was eligible -/
  vt   : AMap Nat := []
  ft   : AMap Nat := []
  elig : AMap Bool := []
  /-- instant of the last telemetry sweep by die (R209) -/
  swept : AMap Nat := []
deriving DecidableEq, Repr

/-! ### Links (12) -/

/-- Port states of Table 12.7. -/
inductive PState
  | disabled | negotiating | training | aligning | up | failed
deriving DecidableEq, Repr

/-- One lane (R500 to R502, R514 to R517). -/
structure LaneSt where
  fom      : Nat := 0
  /-- first update of the present run of updates below floor -/
  below    : Option Nat := none
  locked   : Bool := false
  commas   : Nat := 0
  misses   : Nat := 0
  tagPort  : Nat := 0
  offset   : Nat := 0
  /-- since when it has been unlocked -/
  unlocked : Option Nat := none
  /-- the equaliser's setting, counted in steps, the step of the last update, and the figure before it (R516) -/
  eq       : Int := 0
  step     : Int := 0
  was      : Nat := 0
  /-- its signal comes in inverted, as training has found (R488) -/
  inv      : Bool := false
  /-- its direction is in electrical idle and it has met no comma since (R521) -/
  asleep   : Bool := false
  /-- the transmitter: the line bit at which the lane is free, codewords since the last lane tag, and coded bits that the
  scrambler has run over since (R499, R500) -/
  freeAt   : Nat := 0
  sent     : Nat := 0
  scr      : Nat := 0
deriving DecidableEq, Repr

/-- What a sequenced codeword carries: a control packet, or flits, with a bit for each that begins a data packet (R496 to
R498). -/
inductive Load
  | ctl (pkt : Word256)
  | flits (fsop : Nat) (fl : List Bytes)
deriving DecidableEq, Repr

/-- A codeword kept for replay (R503). -/
structure Kept where
  lseq  : Nat
  since : Nat
  load  : Load
deriving DecidableEq, Repr

/-- One configured port, by its first lane. -/
structure PortSt where
  st      : PState := .disabled
  mode    : Nat := 0
  width   : Nat := 0
  cause   : Nat := 0
  oos     : Bool := false
  reduced : Bool := false
  plain   : Bool := false
  locked  : Bool := false
  eidleTx : Bool := false
  eidleRx : Bool := false
  pfc     : Bool := false
  partner : Nat := 0
  /-- modes, medium and destination address in force since the last entry to Negotiating (R527) -/
  modes   : Nat := 7
  medium  : Nat := 0
  dmac    : Nat := 0xFFFFFFFFFFFF
  /-- last entry to Negotiating, to Training and to Failed -/
  negAt   : Nat := 0
  trainAt : Nat := 0
  failAt  : Nat := 0
  /-- native transmitter and receiver (R503 to R506) -/
  lseq    : Nat := 0
  kept    : List Kept := []
  resends : Nat := 0
  rxNext  : Nat := 0
  /-- the next block says `nak`; codewords are discarded until the expected one arrives (R505) -/
  nakDue  : Bool := false
  skip    : Bool := false
  /-- codewords received ahead of `rxNext`, each with the time of its arrival (R502, R505) -/
  stash   : List (Codeword × Nat) := []
  /-- the data packet whose flits arrive: its bytes so far, flits still to come, whether a discarded codeword has cut it, and
  whether a codeword discarded since opened another packet (R498, R507) -/
  rxBuf   : Bytes := []
  rxLeft  : Nat := 0
  rxCut   : Bool := false
  rxOther : Bool := false
  /-- since when nothing but idle codewords has been sent (R520) -/
  quietAt : Nat := 0
  /-- Enter-Idle asked for and not yet possible -/
  wantIdle : Bool := false
  /-- entry to electrical idle, and the temperature of the link die then, in 0.1 °C (R522) -/
  idleAt  : Nat := 0
  idleTj  : Int := 0
  /-- exit under way since (Table 12.6) -/
  exitAt  : Option Nat := none
  /-- a sequenced codeword waits for acknowledgement since (R521) -/
  ackFrom : Option Nat := none
  /-- classes paused by the partner, with their deadlines (R512) -/
  pause   : AMap Nat := []
  /-- classes for which PFC was sent, with the time of the next repeat -/
  pfcSent : AMap Nat := []
  /-- running totals last sent in a CREDIT, by class; empty: none sent since Up -/
  sentTot : List Nat := []
  /-- disabled by Parked under R645 step 3 -/
  byPark  : Bool := false
deriving DecidableEq, Repr

/-! ### Tenancies, faults, boot, power (14, 16, 17, 20) -/

/-- States of Table 14.4. -/
inductive TState
  | quenched | active | quenching | clearing
deriving DecidableEq, Repr

/-- One tenancy. -/
structure TenSt where
  st      : TState := .quenched
  stopped : Bool := false
  rbfail  : Bool := false
  cause   : Nat := 0
  /-- when it last entered Quenching -/
  since   : Nat := 0
  /-- Forge dies where admission is open, and the instants at which it closes at those where a quench is about to close it (R565) -/
  open_   : List Nat := []
  closing : List (Nat × Nat) := []
  /-- deadline of step 3 (R573) -/
  drainAt : Option Nat := none
  /-- step 3 has ended -/
  drained : Bool := false
deriving DecidableEq, Repr

/-- A running re-bind (R577). -/
structure Rebind where
  old : Nat
  new : Nat
  act : Bool
deriving DecidableEq, Repr

/-- A fault record (Table 17.3) with the end of its handling (R670). -/
structure FltRec where
  time   : Nat
  code   : Nat
  cls    : Nat
  source : Nat
  ten    : Option Nat
  inc    : Nat
  detail : Nat
  aux    : Nat
  merges : Nat := 0
  last   : Nat
  open_  : Bool := true
  /-- tenancies whose quench ends the handling -/
  waits  : List Nat := []
  /-- when it closes, once handling has ended -/
  closeAt : Nat
  /-- instant of the last fault of the record, and the faults it took at that instant (R605, R675) -/
  lastAt : Nat := 0
  lately : List FaultInfo := []
deriving DecidableEq, Repr

/-- A condemned slice (Table 17.5). -/
inductive Slice
  | port (p : Nat) | link (j : Nat) | forge (k : Nat) | stack (n : Nat) | bridge (p : Nat)
deriving DecidableEq, Repr

/-- The collector. -/
structure Flt where
  /-- faults raised in the step under way and not yet taken by the collector; empty between steps -/
  due    : List FaultInfo := []
  recs   : AMap FltRec := []
  /-- bit 124, and the instant of the last fault that was not recorded -/
  ovf    : Bool := false
  ovfAt  : Nat := 0
  /-- conditions of Table 17.5 that persist: slice, source whose line it holds, further slices shown with it -/
  held   : List (Slice × Nat × List Slice) := []
  /-- the summary word at the end of the last command, and the instant at which a rise of it signalled last (R677) -/
  seen   : Nat := 0
  sigAt  : Option Nat := none
deriving DecidableEq, Repr

/-- Fused identity (00 R9, 13 R555, 18 R708): per part. -/
structure Ident where
  grade    : Nat
  stepping : Nat
  swageMap : Nat
  hbmMap   : Nat
  fuseOpt  : Nat
  smac     : Nat
  mgmtMac  : Nat
  vid      : Nat
deriving DecidableEq, Repr

/-- What the bring-up holds (16 R631 to R641). -/
structure Boot where
  stage   : Nat := 9
  cause   : Nat := 0
  hbmBad  : Nat := 0
  slot    : Nat := 0
  warm    : Bool := false
  ready   : Bool := true
  /-- step 8 runs, since, and the bound on it that this bring-up took -/
  linkAt  : Option Nat := none
  linkNs  : Nat := 0
  /-- ports the image enables -/
  enable  : List Nat := []
  /-- lexicon section of the last verified image, retained (R639) -/
  image   : Bytes := []
  /-- milliseconds of the running bring-up before step 8 -/
  ms      : Nat := 0
  /-- memory ports that must return to Ready after a warm reset: port, capacity before, deadline (R640) -/
  returns : List (Nat × Nat × Option Nat) := []
  /-- bring-up stopped (R634, R635) -/
  error   : Bool := false
  /-- a lexicon request wrote 1 to `dev.cmd`: the warm reset starts as the command that carried it ends -/
  asked   : Bool := false
deriving DecidableEq, Repr

/-- Package states of Table 16.8. -/
inductive ParkState
  | active | parking | parked | unparking
deriving DecidableEq, Repr

/-- The power manager and parking (16 R642 to R655). -/
structure Pwr where
  state   : ParkState := .active
  /-- an Unpark waits for Parked -/
  wantUp  : Bool := false
  /-- parked units of Table 16.4 -/
  parked  : List ParkUnit := []
  /-- units waking -/
  waking  : List ParkUnit := []
  /-- effective limit in W -/
  limit   : Nat := 1650
  /-- limit, window, vmin, vmax and tj_warn in force this window (R658) -/
  cfgLimit : Nat := 1650
  cfgWin  : Nat := 1000000
  cfgVmin : Nat := 600
  cfgVmax : Nat := 850
  cfgWarn : Nat := 100
  /-- start of the window, samples of package power in mW taken in it -/
  winAt   : Nat := 0
  samples : List Nat := []
  /-- instant of the last power sample (R650), and of the last sample of the sensors (20 R761) -/
  sampled : Option Nat := none
  sensedAt : Option Nat := none
  /-- units of Table 16.4 that were not idle when the last command ended; when each of the others became idle and the
  `pwr.park.idle_ns` of its idle period, keyed by unit number, and the same for a unit that was never busy (R642, R658) -/
  busy    : List ParkUnit := []
  idleAt  : AMap (Nat × Nat) := []
  idle0   : Nat × Nat := (0, 50000)
  /-- tenancies whose lending report is active, with the power credited and how far it raised the set point of each die, in mV -/
  lent    : List (Nat × Nat × List Nat) := []
  unattain : Bool := false
  swageThrottle : Bool := false
  hearthThrottle : Bool := false
  /-- junction temperatures by sensor number in 0.1 °C (20 R761) -/
  temps   : AMap Int := []
  /-- set points of the dies when Parked was entered (Table 16.5 step 1) -/
  back    : List Nat := []
deriving DecidableEq, Repr

/-- Output levels (20 R757) and rails. -/
structure Pins where
  resetN  : Bool := true
  thermWarnN : Bool := true
  thermCritN : Bool := true
  ppsOut  : Nat := 0
  /-- memory ports whose MEM_PERST_Np is driven high -/
  memUp   : List Nat := []
  mgtPhyRst : Bool := false
  /-- a rail is below its limit -/
  railLow : Bool := false
  /-- link dies whose SD_REFCLK is absent or out of limits (R759) -/
  noClk   : List Nat := []
  /-- the last PPS_IN edge, how many successive ones lay 1 s ± 1 µs apart, and whether the servo uses them (R760) -/
  ppsLast : Option Nat := none
  ppsRun  : Nat := 0
  ppsLock : Bool := false
  /-- the IEEE 1588 servo: locked to its master, or hearing it -/
  ptpLock : Bool := false
  /-- JTAG instruction in force: 0 BYPASS -/
  jtag    : Nat := 0
  /-- die-to-die links stopped and aligned (Table 1.9); whether one is parked follows from the parked units -/
  d2dFatal : List Nat := []
  d2dUp   : List Nat := List.range 18
  /-- window in force of each rate monitor (R45), and when it began (R37) -/
  hsWin   : AMap Nat := []
  hsAt    : AMap Nat := []
deriving DecidableEq, Repr

/-- What left the part: the model's own record, newest first. -/
inductive Tx
  /-- a control packet at a port -/
  | ctl (port : Nat) (pkt : Word256)
  /-- a data packet at a port with its end word -/
  | data (port : Nat) (hdr : Word256) (pay : Bytes) (endWord : BitVec 64)
  /-- a codeword, other than idle filling that says nothing: its lane, its message, and the levels of its blocks on the line
  (R495 to R499) -/
  | codeword (port lane msg : Nat) (blocks : List (List Pam))
  /-- a comma with its lane tag, sent `n` times since the last event of the lane (R500) -/
  | comma (port lane tag n : Nat)
  /-- the base page of Clause 73 by its Next Page bit and PHY types, the two next pages by OUI and capability word, and a null
  message page (R491, R492) -/
  | basePage (port : Nat) (nextPage : Bool) (phys : List Phy)
  | nextPages (port oui cap : Nat)
  | nullPage (port : Nat)
  /-- an Ethernet frame that carries a packet (R509), and the lanes whose transmitter inverts (R488) -/
  | frame (port : Nat) (inv : List Bool) (bytes : Bytes)
  /-- a PFC frame: class and quanta -/
  | pfc (port cls quanta : Nat)
  /-- a resend of a kept codeword -/
  | resend (port lseq : Nat)
  /-- MSI-X vector: address and data (R546) -/
  | msi (addr data : Nat)
  /-- I3C in-band interrupt with its data byte (R622) -/
  | ibi (byte : Nat)
  /-- memory write, read request or completion toward the host -/
  | hostMem (addr : Nat) (bytes : Bytes)
  | hostReadReq (id addr len : Nat)
  | hostCpl (tag : Nat) (status : CplStatus) (bytes : Bytes)
  /-- an AVSBus set-point frame: die, mV (20 R754) -/
  | avs (die mv : Nat)
  /-- a management Ethernet datagram: IP, port, bytes -/
  | udp (ip port : Nat) (bytes : Bytes)
  /-- an ARP or ICMP answer -/
  | arp (ip : Nat)
  | icmp (ip : Nat) (bytes : Bytes)
  /-- an I3C answer -/
  | i3c (bytes : Bytes)
  /-- an SPDM answer -/
  | spdm (kind : Nat) (bytes : Bytes)
  /-- a PPS_OUT edge -/
  | pps (time : Nat)
deriving DecidableEq, Repr

/-! ### Clause cores (10 R441 to R446, 15 R623) -/

/-- What a core waits for. -/
inductive CoreWait
  | run
  /-- EVWAIT: the event goes to the local address, its kind to `rd` -/
  | event (addr rd : Nat)
  /-- BALLOC -/
  | billet (rd : Nat)
deriving DecidableEq, Repr

/-- One clause core. -/
structure Core where
  regs    : AMap Nat := []
  pc      : Nat := 0
  mem     : List Host.Cell := []
  running : Bool := false
  halted  : Bool := false
  prog    : Nat := 0
  /-- the event queue: 16-byte events, oldest first -/
  evq     : List Bytes := []
  /-- the selected word -/
  sel     : Nat := 0
  wait    : CoreWait := .run
deriving DecidableEq, Repr

/-! ### Bridge (13) -/

/-- Port states of Table 13.8. -/
inductive BState
  | disabled | training | enumerating | ready | down | unsupported
deriving DecidableEq, Repr

/-- A bridge port (Table 13.8). -/
structure BPortSt where
  st       : BState := .disabled
  cause    : Nat := 0
  width    : Nat := 0
  rate     : Nat := 0
  cxl      : Bool := false
  flit     : Bool := false
  /-- C in bytes, while Ready -/
  cap      : Nat := 0
  /-- a Down port released (Table 13.6) -/
  released : Bool := false
  /-- it went Down since it was last Ready -/
  lost     : Bool := false
  /-- when it was last enabled -/
  enAt     : Nat := 0
  /-- not Ready since the cold reset, which clears its device's memory (14 R579) -/
  unclear  : Bool := false
deriving DecidableEq, Repr

/-- A CXL access under way: the lines not yet returned (R549). -/
structure CxlAcc where
  port  : Nat
  addr  : Nat
  units : Nat
  /-- bytes of a write -/
  wr    : Option Bytes
  lines : List Nat
  /-- lines of a read that have returned, with their bytes as they were then -/
  got   : List (Nat × Bytes) := []
  poison : Bool := false
  /-- the packet to answer, and the die it came from -/
  req   : Option Word256
  die   : Nat := 0
  /-- when the device's answer is overdue; none: no timeout -/
  due   : Option Nat
deriving DecidableEq, Repr

/-- One READ_REQ of a host read (R539). -/
structure HostPart where
  tag   : Nat
  /-- address of the read, and units -/
  gfa   : Nat
  units : Nat
  data  : Option Bytes := none
  /-- incarnations of the target block, where the target is this part's own, and of the die that checks the request (R585) -/
  inc   : Option Nat
  dieInc : Nat := 0
  due   : Option Nat
deriving DecidableEq, Repr

/-- A host read outstanding (R539, R540). -/
structure HostRd where
  target : Nat
  bytes  : Nat
  parts  : List HostPart
  /-- rank of the worst outcome so far: 0 OK to 4 timeout, in the rows of Table 13.4 -/
  worst  : Nat := 0
deriving DecidableEq, Repr

/-- One host read of a reverse-window READ_REQ (R545). -/
structure RevPart where
  id    : Nat
  bytes : Nat
  data  : Bytes := []
  /-- every completion of it has arrived, or one that ends it -/
  fin   : Bool := false
deriving DecidableEq, Repr

/-- A reverse-window READ_REQ waiting for host completions (R545). -/
structure RevRd where
  /-- the request, and the die it came from -/
  req   : Word256
  die   : Nat := 0
  parts : List RevPart
  /-- status so far -/
  status : Nat := 0
  due   : Option Nat
deriving DecidableEq, Repr

/-- A WRITE of a host window with `ack` 1 whose ACK is awaited (R541, R585). -/
structure AckWait where
  /-- header as sent, which names the flow, the sequence number and the target -/
  hdr    : Word256
  win    : Nat
  inc    : Option Nat
  dieInc : Nat
deriving DecidableEq, Repr

/-- A memory device whose contents are undefined since it came back (Table 13.6): the index of its free bytes, and the lines
and granules that have been written or cleared since. -/
structure Unknown where
  gen   : Nat
  lines : List Nat := []
  grans : List Nat := []
deriving DecidableEq, Repr

/-- The bridge die. -/
structure Brg where
  ports  : AMap BPortSt := []
  cxl    : List CxlAcc := []
  reads  : List HostRd := []
  revs   : List RevRd := []
  /-- reverse READ_REQs waiting beyond 1,024, each with its host address and its die (R542, R545) -/
  revWait : List (Word256 × Nat × Nat) := []
  /-- posted writes of host windows whose ACKs are awaited (R541) -/
  acks   : List AckWait := []
  /-- AER status of the ports (R533): uncorrectable errors of port p at 2p, correctable ones at 2p + 1 -/
  aer    : AMap Nat := []
  nextId : Nat := 0
  nextTag : Nat := 0
  /-- tags abandoned by a timeout or a loss: later READ_RESPs are late (R540) -/
  late   : List Nat := []
  /-- MSI-X table words by byte offset, vector control masked by default; pending bits -/
  msix   : AMap Nat := []
  pba    : List Nat := []
  /-- configuration space words that differ from their defaults (R534) -/
  cfg    : AMap Nat := []
  /-- log2 S in force since the last host-port reset (Table 13.9) -/
  winLog : Nat := 30
  /-- memory ports whose device came back with undefined contents -/
  unk    : AMap Unknown := []
deriving DecidableEq, Repr

/-! ### Anvil and the collective machinery (07, 10) -/

/-- A formed node of the combination tree: local ranks `lo` to `hi` - 1 (R268, R269). -/
structure Item where
  lo    : Nat
  hi    : Nat
  /-- element encodings in the held format; none for an empty node of a COMBINE (10 R403) or a spilled one -/
  vals  : Option (List Nat)
  /-- it has no value: an empty node -/
  empty : Bool := false
  /-- when it spills (R291); none: no limit -/
  due   : Option Nat := none
  since : Nat := 0
  /-- HBM offset it was spilled to -/
  spill : Option Nat := none
  bil   : List Nat := []
deriving DecidableEq, Repr

/-- An open block of an epoch slot. -/
structure Blk where
  num    : Nat
  /-- sender and part of what has arrived -/
  got    : List (Nat × Nat) := []
  /-- contributions not yet formed into leaves -/
  stored : List Stored := []
  items  : List Item := []
  sat    : Bool := false
  xlow   : Bool := false
  xhigh  : Bool := false
deriving DecidableEq, Repr

/-- States of Table 7.6. -/
inductive SlotSt
  | idle | gathering | draining | aborting | closed
deriving DecidableEq, Repr

/-- An epoch slot (R281 to R297). -/
structure Slot where
  st      : SlotSt := .idle
  cseq    : Nat := 0
  digest  : Option Nat := none
  /-- bytes 0 to 18 of the descriptors' payload: operation word, `coll`, `root` -/
  word    : Option Nat := none
  /-- descriptors held: sender and payload -/
  desc    : List (Nat × Nat) := []
  blocks  : List Blk := []
  /-- contributions beyond the open window (Table 7.9), in order of arrival -/
  beyond  : List Stored := []
  /-- blocks whose root has formed and been handed on -/
  done    : List Nat := []
  /-- final blocks at the top that wait for the descriptors of all members (10 R423) -/
  final   : List (Nat × Bytes) := []
  cause   : Nat := 0
  astat   : Nat := 0xFFFFFFFF
  xlow    : Bool := false
  xhigh   : Bool := false
  /-- a PARTIAL, or the upward descriptor, has left toward the parent -/
  sent    : Bool := false
  /-- when it aborted -/
  abortAt : Nat := 0
  /-- it closed as its collective ended at this switch, every member told -/
  ended   : Bool := false
  /-- end of the stall limit (10 R435); none once the fault is raised -/
  stallAt : Option Nat := none
deriving DecidableEq, Repr

/-- A bound reduction context (R255). -/
structure Ctx where
  ten    : Nat
  group  : Nat
  slot0  : Slot := {}
  slot1  : Slot := {}
  /-- end of the linger time (R285) -/
  linger : Option Nat := none
deriving DecidableEq, Repr

/-- An entry of a die's admission queue (10 R421). -/
structure Adm where
  die  : Nat
  /-- a control packet (R770) or a data packet -/
  ctl  : Bool
  pkt  : Stored
  /-- starvation limit (R422); none once the fault is raised -/
  due  : Option Nat
  /-- causes for which this descriptor has raised its fault on another die (07 R297) -/
  told : List Nat := []
deriving DecidableEq, Repr

/-- A committed block whose RESULTs still wait, staged in the spill area (10 R436). -/
structure Staged where
  die   : Nat
  block : Nat
  addr  : Nat
deriving DecidableEq, Repr

/-- What the switch keeps of one collective (10). -/
structure Coll where
  ten    : Nat
  group  : Nat
  cseq   : Nat
  /-- upward descriptor sent (R417) -/
  upSent : Bool := false
  /-- blocks committed, and COMMIT sent (R424) -/
  commits : Nat := 0
  /-- COLL ABORT sent, or received from a member and passed on (R429, R430) -/
  aborted : Bool := false
  /-- final status, once known, and the `level` bits of the COMPLETE -/
  ended  : Option Nat := none
  level  : Nat := 0
  /-- members that still get the COMPLETE -/
  tell   : List Nat := []
  /-- members a RESULT has not reached (R431) -/
  failed : List Nat := []
  /-- events posted once: OPEN, ALLDESC, UPDATE_READY -/
  opened  : Bool := false
  alldesc : Bool := false
  ready   : Bool := false
  /-- blocks of the update claim written, as block and part (R439) -/
  written : List (Nat × Nat) := []
  /-- the gather of R438 step 3 has been issued; blocks gathered and committed at the top -/
  gather  : Bool := false
  gathered : List Nat := []
  /-- bytes of committed blocks, for the digest of 18 R699 -/
  bytes  : List (Nat × Bytes) := []
  /-- committed blocks, each with the time at which its RESULTs are staged, 0 for never; and staged blocks (R436) -/
  commitAt : List (Nat × Nat) := []
  staged : List Staged := []
deriving DecidableEq, Repr

/-- Anvil and the collective machinery. -/
structure Anv where
  /-- bound contexts by number -/
  ctx    : AMap Ctx := []
  admq   : List Adm := []
  colls  : List Coll := []
  /-- events that wait for room in a core's queue, oldest first (R444) -/
  late   : List (Nat × Bytes) := []
  /-- groups for which a closed `cseq` has been recorded since the tenancy was bound (R419) -/
  closed : List Nat := []
deriving DecidableEq, Repr

/-! ### Recorder (18) -/

/-- The recorder (Table 18.6). -/
structure Recd where
  /-- 0 Off, 1 Recording, 2 Comparing, 3 Feeding, 4 Stopped, 5 Dumping -/
  st    : Nat := 0
  cause : Nat := 0
  wrapped  : Bool := false
  diverged : Bool := false
  /-- record numbers by die -/
  rno   : AMap Nat := []
  /-- oldest line of each ring that starts a record (R701) -/
  oldest : AMap Nat := []
  /-- staging by die: the instant of its lines and how many (R700) -/
  stage : AMap (Nat × Nat) := []
  /-- records dropped at a die and not yet counted in a gap record -/
  gap   : AMap Nat := []
  /-- data packets whose record waits for the end word: die and line, by arriving key -/
  await : AMap (Nat × Nat) := []
  /-- next line to look at: by port, by 512 + window, and for Feed by 1024 + die -/
  cur   : AMap Nat := []
  /-- digest records already matched: die and line -/
  used  : List (Nat × Nat) := []
  /-- records not yet consumed by Compare; digest records not yet matched in Feed -/
  left  : Nat := 0
  /-- where the lines of a Dump go (R705) -/
  dumpTo : Nat := 0
  /-- start of Feed, and `time` of the first record -/
  feedAt : Nat := 0
  feedT0 : Nat := 0
deriving DecidableEq, Repr

/-! ### Agreement counters (11) -/

/-- States of Table 11.5 of a bound counter. -/
inductive AgrSt
  | waiting | gathering | up
deriving DecidableEq, Repr

/-- An arrival map: the members marked, the sum of their counts, and when a report falls due that started with its first
arrival (R461, R469). -/
structure ArrMap where
  marked : List Nat := []
  value  : Nat := 0
  /-- an arrival of the epoch after the current one came with `level` 1 (R466) -/
  forced : Bool := false
  lendAt : Option Nat := none
deriving DecidableEq, Repr

/-- One agreement counter; whether it is bound is `agr.bind`'s. -/
structure Agr where
  st      : AgrSt := .waiting
  epoch   : Nat := 0
  cur     : ArrMap := {}
  nxt     : ArrMap := {}
  forced  : Bool := false
  lending : Bool := false
deriving DecidableEq, Repr

/-! ### Hearth (08) -/

/-- States of Table 8.8 before Done; a Done job is gone. -/
inductive JobSt
  | queued | waiting | running
deriving DecidableEq, Repr

/-- One Hearth job. -/
structure Job where
  /-- its number among the part's jobs, rising in order of submission -/
  no     : Nat
  stack  : Nat
  st     : JobSt := .queued
  ten    : Nat
  desc   : Nat
  /-- traffic class of the WRITE that submitted it -/
  cls    : Nat := 0
  /-- core and index of an HJOB -/
  core   : Option (Nat × Nat) := none
  tstart : Nat := 0
  nfail  : Nat := 0
  ffail  : Nat := 0xFFFFFFFF
  astat  : Nat := 0xFFFFFFFF
  /-- copied when validated: parameter block, and the recipe up to its END (R329, R334) -/
  pblk   : Bytes := []
  recipe : List Nat := []
  /-- steps or lines applied or skipped -/
  done   : List Nat := []
  /-- when the last write was applied (Table 8.6) -/
  last   : Option Nat := none
  /-- lines of HBM the job wrote, rising -/
  wrote  : List Nat := []
deriving DecidableEq, Repr

/-! ### Swage (09) -/

/-- States of Table 9.5 before Done; a Done operation is gone. -/
inductive SwSt
  | queued | waiting | loading | running | draining
deriving DecidableEq, Repr

/-- One value of a frame: an encoding in the accumulator format, and whether a saturation touched it (R395). -/
structure Cell where
  enc : Nat
  sat : Bool := false
deriving DecidableEq, Repr

/-- One Swage operation. -/
structure SwOp where
  /-- its number among the part's operations, rising in order of submission -/
  no     : Nat
  array  : Nat
  st     : SwSt := .queued
  ten    : Nat
  desc   : Nat
  /-- traffic class of the WRITE that submitted it -/
  cls    : Nat := 0
  /-- core and index of an SJOB -/
  core   : Option (Nat × Nat) := none
  tstart : Nat := 0
  /-- `swage.stream.ns` and `swage.chk.tol` at validation (R399) -/
  ns     : Nat := 0
  tol    : Nat := 0
  /-- tile and pass in progress -/
  tile   : Nat := 0
  pass   : Nat := 0
  /-- the frame: rows of the tile in progress by 32 columns, kept while it drains -/
  frame  : List Cell := []
  /-- the tile in progress: a saturation, an uncorrectable input, a check mismatch -/
  sat    : Bool := false
  bad    : Bool := false
  miss   : Bool := false
  /-- the stationary region: the packed bytes of W, by offset from `wbase` (R359) -/
  wreg   : List Host.Cell := []
  /-- stationary tiles of which a word is uncorrectable (R389), and whether the active and the shadow sets took such a word -/
  badW   : List (Nat × Nat) := []
  badAct : Bool := false
  badSh  : Bool := false
  /-- frame of the tile in progress (R368) -/
  fr     : Nat := 0
  /-- the tile in progress is complete, and the next step waits for the frame of the array's previous operation (R368, R387) -/
  wait   : Bool := false
  /-- stationary tile in the active sets, in the shadow sets, and whether the shadow load is complete (R356) -/
  active : Option (Nat × Nat) := none
  shadow : Option (Nat × Nat) := none
  loaded : Bool := false
  /-- a swap waits for the shadow load -/
  swap   : Bool := false
  /-- bytes of A staged for the row tile in progress, by offset in A (R380) -/
  stage  : List Host.Cell := []
  /-- uncorrectable 32-byte words of the staging region, by number (R359, R389) -/
  badSt  : List Nat := []
  /-- stream WRITEs for row tiles not yet admitted -/
  held   : List Stored := []
  /-- the row tile in progress has started its first pass -/
  begun  : Bool := false
  /-- when the stream timeout ends (R381) -/
  due    : Option Nat := none
  /-- elements of C whose byte is not complete, by element number -/
  part   : AMap Nat := []
  /-- bytes of C whose 64-byte line is not complete, by offset (R382) -/
  rest   : List Host.Cell := []
  /-- bytes of C or of the spill buffer written, by offset -/
  out    : List Host.Cell := []
  /-- tiles written, and when the last write was applied or sent (Table 9.3) -/
  wrote  : Nat := 0
  last   : Option Nat := none
  nfail  : Nat := 0
  ffail  : Nat := 0xFFFFFFFF
  nchk   : Nat := 0
  fchk   : Nat := 0xFFFFFFFF
  astat  : Nat := 0xFFFFFFFF
  /-- position of `fpos` by its full number (R383) -/
  apos   : Nat := 0
deriving DecidableEq, Repr

/-! ### The lexicon engine's transports (15) -/

/-- The I3C target (R620 to R622). -/
structure I3c where
  /-- dynamic address -/
  addr  : Option Nat := none
  /-- IBIs enabled by ENEC -/
  ibi   : Bool := false
  /-- requests taken and not yet served, oldest first (R603, R621) -/
  req   : List Bytes := []
  /-- the response to the last request, once ready -/
  resp  : Option Bytes := none
  /-- the last request was refused for a full queue, so that the response to those before it is not shown (R603, R621) -/
  over_ : Bool := false
deriving DecidableEq, Repr

/-- What the lexicon engine keeps per requester, and Issio's reply caches. -/
structure LexSt where
  /-- staging copies: requester, entry, element, the bytes staged by offset in the element (R599) -/
  stage : List (Requester × Nat × Nat × List Host.Cell) := []
  /-- snapshots: requester, entry, first byte, the bytes (R601) -/
  snap  : List (Requester × Nat × Nat × Bytes) := []
  /-- bytes of WO octet entries as they stand, by entry and offset (R593, 19 R734) -/
  oct   : AMap (List Host.Cell) := []
  /-- who waits for the engine, oldest first: a Pending mailbox slot, or I3C once for each request it holds (R602, R603) -/
  order : List Requester := []
  /-- instant at which a request last joined them, and how many of the last ones joined at that instant (R602) -/
  at_   : Nat := 0
  fresh : Nat := 0
  /-- entries whose storage holds an uncorrectable word, as index and subindex (Table 15.5; no event of the spec makes one bad,
  log 158) -/
  bad   : List Nat := []
  /-- sources by address and port, most recently active first, with their last responses by `dseq`, newest first (R619) -/
  cache : List (Nat × Nat × List (Nat × Bytes)) := []
deriving DecidableEq, Repr

/-- A program of the library (10 R442, 19 R727). -/
structure Lib where
  number  : Nat
  version : Nat
  keyidx  : Nat
  code    : Bytes
deriving DecidableEq, Repr

/-! ### Root of trust (19) -/

/-- An operator key slot as its fuses hold it (R718). -/
structure KeySlot where
  hash    : Nat := 0
  fused   : Bool := false
  revoked : Bool := false
  /-- the hash matches its check word -/
  good    : Bool := true
deriving DecidableEq, Repr

/-- An SPDM session (R731). -/
structure Sess where
  id      : Nat
  via     : SpdmVia
  /-- its handshake has finished -/
  open_   : Bool := false
  /-- mutual authentication by a fused key: Crypto Officer (R713) -/
  officer : Bool := false
deriving DecidableEq, Repr

/-- Die M's root of trust. -/
structure Sec where
  /-- operator slots 1 to 4 as loaded at the last cold reset, and as now fused (R719) -/
  keys    : AMap KeySlot := []
  fuses   : AMap KeySlot := []
  /-- slot fused last, and when: it is being fused for that instant of the timebase -/
  fusing  : Option (Nat × Nat) := none
  svnMin  : Nat := 0
  svnFuse : Nat := 0
  retired : Bool := false
  /-- error state (R716) -/
  err     : Bool := false
  debug   : Nat := 0
  dbgfail : Nat := 0
  /-- nonce issued, and to whom (R734) -/
  nonce   : Option (Nat × Requester) := none
  /-- measurements 1 to 7 -/
  meas    : AMap Nat := []
  /-- CDI0, CDI1, the DeviceID and the Alias key are held; R729 makes each a function of the UDS, measurements 1 to 3 and
  the debug level, and derives them anew whenever one of those changes -/
  derived : Bool := true
  sess    : List Sess := []
  nextSess : Nat := 0
  /-- the NOR's bytes by address; an unlisted byte is erased -/
  nor     : List Host.Cell := []
  /-- command under way: 1 erase, 2 verify, 3 activate -/
  busy    : Option Nat := none
  /-- `sec.img.status`: slot and outcome of the last verification, records skipped -/
  imgSlot : Nat := 0
  imgFail : Nat := 0
  skipped : Nat := 0
  /-- security version and signing key of the running image -/
  runSvn  : Nat := 0
  runKey  : Nat := 0
deriving DecidableEq, Repr

/-- The switch: everything but the root of trust and the queue. -/
structure Sw where
  /-- timebase, ns (01 R37 to R40) -/
  now    : Nat := 0
  /-- next index of a free value; the model's own -/
  free   : Nat := 0
  /-- the Lexicon's store: every element that differs from its default, by `Reg.key` -/
  lex    : AMap Nat := []
  ident  : Ident
  fab    : Fab := {}
  /-- credit by 8 port + class -/
  cred   : AMap Credit := []
  bil    : Bil := {}
  bel    : Bel := {}
  ports  : AMap PortSt := []
  lanes  : AMap LaneSt := []
  /-- instant of the last update of the figures of merit (12 R514) -/
  fomAt  : Option Nat := none
  ten    : AMap TenSt := []
  rebind : Option Rebind := none
  /-- blocks in reset (14 R583) -/
  blkRst : List Block := []
  flt    : Flt := {}
  boot   : Boot := {}
  pwr    : Pwr := {}
  pins   : Pins := {}
  /-- HBM bytes by offset in the HBM ID; a byte not listed reads 0 (14 R579) -/
  hbm    : List Host.Cell := []
  /-- CXL bytes by 2^42 p + address -/
  cxl    : List Host.Cell := []
  /-- stored lines with an uncorrectable error, by line number (08 R316) -/
  hbmBad : List Nat := []
  /-- poisoned CXL lines, by 2^36 p + line (13 R550) -/
  cxlBad : List Nat := []
  /-- granules being cleared, HBM by number and CXL by 1024 + 4096 p + number, with the chunks already cleared -/
  clr    : AMap (List Nat) := []
  cores  : AMap Core := []
  brg    : Brg := {}
  /-- mailbox lines that are not all zero, by slot (15 R614) -/
  mbox   : AMap Nat := []
  anv    : Anv := {}
  recd   : Recd := {}
  agr    : AMap Agr := []
  /-- Hearth jobs not yet Done, oldest first, and the number of the next -/
  jobs   : List Job := []
  jobNo  : Nat := 0
  /-- Swage operations not yet Done, oldest first, and the number of the next -/
  ops    : List SwOp := []
  opNo   : Nat := 0
  /-- jobs and operations that a warm reset ended, with the incarnation of their block before it: their records are written
  when the paths have returned (09 R392) -/
  lostJobs : List (Job × Nat) := []
  lostOps  : List (SwOp × Nat) := []
  /-- patrol pass of each line port: its start, and the `hbm.scrub.s` in force in it, keyed 16 stack + unit (08 R318, R351) -/
  scrub  : AMap (Nat × Nat) := []
  i3c    : I3c := {}
  lexs   : LexSt := {}
  /-- program library, by slot 1 to 63; retained type-3 section (19 R724) -/
  lib    : AMap Lib := []
  libImage : AMap Lib := []
  tx     : List Tx := []
deriving DecidableEq, Repr

/-- The machine: the waiting commands, the root of trust, the switch. -/
structure State where
  /-- commands waiting, first in first out; the model's queue -/
  pending : List Instr := []
  sec     : Sec := {}
  sw      : Sw
deriving DecidableEq, Repr

/-- The part the model starts with: a WV9640 of stepping B0 with every array and stack (00 R6 to R9); its addresses and
vendor ID are not stated (DESIGN CHOICE, log 4). -/
def Ident.reset : Ident :=
  { grade := 0x9640, stepping := 0xB0, swageMap := 0xFFFF, hbmMap := 0x3F, fuseOpt := 0, smac := 0, mgmtMac := 0, vid := 0 }

/-- Right after reset: READY is asserted, every tenancy is Quenched, every entry is at its default, memory lists nothing,
no command waits (16 R633, Table 16.6; log 5). -/
def State.reset : State := { sw := { ident := Ident.reset } }

end Sys2Proof.Machine
end

