-- ==== Sys2Proof/Machine/Ops.lean ====
section
/-! DEFINITION. The named operations every command uses: the Lexicon's store, time and deadlines, free values, unit
maps, tenancy bindings, memory bytes and lines. -/

namespace Sys2Proof.Machine

/-! ### The Lexicon's store (15 R592 to R596) -/

/-- The value of element `el` of an entry. -/
def Sw.rd (s : Sw) (r : Reg) (el : Nat := 0) : Nat := s.lex.getD (r.key el) (r.dflt.at el)

/-- Element `el` of an entry set to `v`, cut to the element's width. -/
def Sw.wr (s : Sw) (r : Reg) (el v : Nat) : Sw :=
  { s with lex := s.lex.put (r.key el) (v % 256 ^ r.width) (r.dflt.at el) }

/-- A counter entry counts `n` more; it wraps at its width. -/
def Sw.inc (s : Sw) (r : Reg) (el : Nat := 0) (n : Nat := 1) : Sw := s.wr r el (s.rd r el + n)

/-- A 96-bit count of three U32 words counts `n` more (15 R626). -/
def Sw.inc96 (s : Sw) (r : Reg) (n : Nat) : Sw :=
  let v := s.rd r 0 + s.rd r 1 * 2 ^ 32 + s.rd r 2 * 2 ^ 64 + n
  ((s.wr r 0 v).wr r 1 (v / 2 ^ 32)).wr r 2 (v / 2 ^ 64)

/-- A field of an element. -/
def Sw.rdf (s : Sw) (r : Reg) (el lo len : Nat) : Nat := fld (s.rd r el) lo len

/-! ### Time (01 R38 to R40) -/

/-- The instant a timeout of length `t` that starts at `now` expires: D = s + 4 ⌈t / 4⌉ + 4 (R39), on a replica whose offset from
the master, which the rule leaves open, is 0 (DESIGN CHOICE, log 108). -/
def deadline (now t : Nat) : Nat := now / 4 * 4 + 4 * cdiv t 4 + 4

/-- The next whole multiple of `period` at which nothing has happened yet, the last time being `last`. -/
def nextTick (period now : Nat) (last : Option Nat) : Nat :=
  let m := cdiv now period * period
  match last with
  | some l => if m ≤ l then (l / period + 1) * period else m
  | none => m

/-- Time moves on to an expiry; it never moves back. -/
def Sw.reach (s : Sw) (t : Nat) : Sw := { s with now := max s.now t }

/-- A free value: the next draw, and the state past it. -/
def Sw.draw (s : Sw) : Nat × Sw := (Config.freeNat s.free, { s with free := s.free + 1 })

/-- Record what leaves the part. -/
def Sw.send (s : Sw) (t : Tx) : Sw := { s with tx := t :: s.tx }

/-- A source pulses its error line; the collector takes the fault when the step ends (17 R661, R673). -/
def Sw.fault (s : Sw) (code source : Nat) (ten : Option Nat) (detail aux : Nat) : Sw :=
  { s with flt := { s.flt with
      due := s.flt.due ++ [⟨code, source, ten.map (BitVec.ofNat 8), BitVec.ofNat 64 detail, BitVec.ofNat 64 aux⟩] } }

/-- Detail of layout P (17 Table 17.4). -/
def detP (src dst ent cls port chk : Nat) : Nat :=
  setFld (setFld (setFld (setFld (setFld (setFld 0 48 16 src) 32 16 dst) 24 8 ent) 21 3 cls) 9 9 port) 0 9 chk

/-- Detail of layout M. -/
def detM (kind num chan off : Nat) : Nat := setFld (setFld (setFld (setFld 0 56 8 kind) 48 8 num) 40 8 chan) 0 40 off

/-- Detail and aux of layout C. -/
def detC (group num : Nat) : Nat := setFld (setFld 0 52 12 group) 0 32 num
def auxC (member unit miss : Nat) : Nat := setFld (setFld (setFld 0 48 16 member) 32 16 unit) 0 32 miss

/-- Detail of layout L. -/
def detL (kind num cause width minfom : Nat) : Nat :=
  setFld (setFld (setFld (setFld (setFld 0 56 8 kind) 40 16 num) 32 8 cause) 24 8 width) 16 8 minfom

/-! ### Units -/

/-- The Forge die that owns a port or lane (00 R11). -/
def laneDie (p : Nat) : Nat := p / 128

/-- A port's state. -/
def Sw.port (s : Sw) (p : Nat) : PortSt := s.ports.getD p {}

/-- Change a port. -/
def Sw.setPort (s : Sw) (p : Nat) (x : PortSt) : Sw := { s with ports := s.ports.put p x {} }

/-- Change a port by a function. -/
def Sw.updPort (s : Sw) (p : Nat) (f : PortSt → PortSt) : Sw := s.setPort p (f (s.port p))

/-- A lane's state. -/
def Sw.lane (s : Sw) (n : Nat) : LaneSt := s.lanes.getD n {}

/-- Change a lane. -/
def Sw.setLane (s : Sw) (n : Nat) (x : LaneSt) : Sw := { s with lanes := s.lanes.put n x {} }

/-- A port is configured (12 R485). -/
def Sw.portCfg (s : Sw) (p : Nat) : Bool := s.rd L.linkPortWidth p != 0

/-- A port is Up (Table 12.7). -/
def Sw.portUp (s : Sw) (p : Nat) : Bool := (s.port p).st == .up

/-- The configured port that covers a lane (12 R485). -/
def Sw.portOfLane (s : Sw) (n : Nat) : Option Nat :=
  [n, n / 2 * 2, n / 4 * 4, n / 8 * 8].find? (fun p => decide (n < p + s.rd L.linkPortWidth p))

/-- The role of a port (03 R113). -/
def Sw.role (s : Sw) (p : Nat) : Nat := s.rd L.fwdPortRole p

/-- Class `c` is ruled; class 7 never is (03 R120). -/
def Sw.ruled (s : Sw) (c : Nat) : Bool := decide (c < 7) && bit (s.rd L.fwdClassRuled) c

/-- The first of the switch's own 32 IDs (02 R79, Table 2.9). -/
def Sw.selfEp (s : Sw) : Nat := s.rd L.fabSelfEp / 32 * 32

/-- An ID lies in the switch's own block (02 R79). -/
def Sw.own (s : Sw) (id : Nat) : Bool := id / 32 == s.selfEp / 32

/-! ### Tenancies and bindings (14) -/

/-- A tenancy's state. -/
def Sw.tenSt (s : Sw) (t : Nat) : TenSt := s.ten.getD t {}

/-- Change a tenancy. -/
def Sw.setTen (s : Sw) (t : Nat) (x : TenSt) : Sw := { s with ten := s.ten.put t x {} }

/-- Every tenancy is Quenched: the switch core is quenched (14 R571). -/
def Sw.coreQuenched (s : Sw) : Bool := s.ten.all (fun kv => kv.2.st == .quenched)

/-- A binding word binds its resource to tenancy `t` (Table 14.2). -/
def boundTo (w t : Nat) : Bool := bit w 31 && fld w 0 8 == t

/-- The incarnation of block `el` of `ten.blk.inc` (Table 14.9). -/
def Sw.incOf (s : Sw) (el : Nat) : Nat := s.rd L.tenBlkInc el

/-- The incarnation of block `el` advances, wrapping from 255 to 0 (14 R582). -/
def Sw.bump (s : Sw) (el : Nat) : Sw := s.inc L.tenBlkInc el

/-! ### Memory bytes: HBM and CXL (08, 13) -/

/-- What a byte of memory that nothing has written reads as: 0, since every granule is cleared at cold reset (14 R579). -/
def memZero : Byte := 0

/-- One byte of a memory. -/
def memRd (m : List Host.Cell) (a : Nat) : Byte := AMap.getD m a memZero

/-- One byte written; the canonical form is kept. -/
def memWr (m : List Host.Cell) (a : Nat) (b : Byte) : List Host.Cell := AMap.put m a b memZero

/-- `n` bytes from address `a`. -/
def memRds (m : List Host.Cell) (a n : Nat) : Bytes := (List.range n).map (fun i => memRd m (a + i))

/-- A byte string written from address `a` upward. -/
def memWrs (m : List Host.Cell) (a : Nat) : Bytes → List Host.Cell
  | [] => m
  | b :: bs => memWrs (memWr m a b) (a + 1) bs

/-- Every byte at addresses `lo` to `hi` - 1 becomes 0. -/
def memZeroRange (m : List Host.Cell) (lo hi : Nat) : List Host.Cell :=
  m.filter (fun c => decide (c.1 < lo ∨ hi ≤ c.1))

/-- The canonical form: addresses strictly rising, no entry equal to what an unlisted address reads as. -/
def Memory.wf (m : List Host.Cell) : Bool := AMap.risingFrom 0 m && m.all (fun c => c.2 != memZero)

/-- 1 GiB. -/
def gib : Nat := 2 ^ 30

/-- Bytes of one die region of HBM: D of 08 R308. -/
def Sw.dieRegion (s : Sw) : Nat := if s.ident.grade = 0x9616 then 96 * gib else 144 * gib

/-- Installed HBM in bytes (Table 2.6A). -/
def Sw.hbmSize (s : Sw) : Nat := 4 * s.dieRegion

/-- The Forge die whose region holds an HBM offset (08 R308). -/
def Sw.hbmDie (s : Sw) (off : Nat) : Nat := off / s.dieRegion % 4

/-- Stack, and the offset's channel within it (08 R308, R309). -/
def Sw.hbmStack (s : Sw) (off : Nat) : Nat × Nat :=
  let k := s.hbmDie off
  let r := off % s.dieRegion
  if r < 96 * gib then (k, r / 256 % 32) else (4 + k / 2, 16 * (k % 2) + (r - 96 * gib) / 256 % 16)

/-- The stack is present and trained (00 R7, 16 R636). -/
def Sw.stackOk (s : Sw) (n : Nat) : Bool := bit s.ident.hbmMap n && !bit s.boot.hbmBad n

/-- The system area of die Fk starts here (08 R310). -/
def Sw.sysBase (s : Sw) (k : Nat) : Nat := k * s.dieRegion

/-- HBM bytes read. -/
def Sw.hbmRd (s : Sw) (off n : Nat) : Bytes := memRds s.hbm off n

/-- HBM bytes written; a whole line written afresh is a good line again (08 R313). -/
def Sw.hbmWr (s : Sw) (off : Nat) (bs : Bytes) : Sw :=
  { s with hbm := memWrs s.hbm off bs
           hbmBad := s.hbmBad.filter (fun l => !(decide (off ≤ 64 * l ∧ 64 * l + 64 ≤ off + bs.length))) }

end Sys2Proof.Machine
end

