-- ==== Sys2Proof/Machine/Packet.lean ====
section
/-! DEFINITION. Packet layouts (02 Tables 2.1 to 2.5), their checks (R53 to R61, R87), and the packets the part makes. -/

namespace Sys2Proof.Machine

/-! ### Fields -/

/-- `ctl`, `ver`, `kind` and `tclass` of every packet (R52). -/
def pCtl (w : Word256) : Nat := hf w 7 1
def pVer (w : Word256) : Nat := hf w 5 2
def pKind (w : Word256) : Nat := hf w 0 5
def pClass (w : Word256) : Nat := hf w 8 3
def pSrc (w : Word256) : Nat := hf w 24 16

/-- Data header fields (Table 2.1). -/
def hAckreq (w : Word256) : Bool := hf w 11 1 == 1
def hEntropy (w : Word256) : Nat := hf w 16 8
def hPlen (w : Word256) : Nat := hf w 40 7
def hTail (w : Word256) : Nat := hf w 48 6
def hGfa (w : Word256) : Nat := hf w 56 64
def hOff (w : Word256) : Nat := hf w 56 40
def hDst (w : Word256) : Nat := hf w 96 16
def hTen (w : Word256) : Nat := hf w 112 8
def hSeq (w : Word256) : Nat := hf w 120 32

/-- `kd` fields (Table 2.2). -/
def kRoff (w : Word256) : Nat := hf w 152 40
def kRlen (w : Word256) : Nat := hf w 192 7
def kTag (w : Word256) : Nat := hf w 200 16
def kRtag (w : Word256) : Nat := hf w 152 16
def kRstatus (w : Word256) : Nat := hf w 168 4
def kRinc (w : Word256) : Nat := hf w 172 8
def kAcount (w : Word256) : Nat := hf w 152 32
def kGroup (w : Word256) : Nat := hf w 152 12
def kCseq (w : Word256) : Nat := hf w 164 32
def kDigest (w : Word256) : Nat := hf w 196 32
def kLevel (w : Word256) : Nat := hf w 228 2
def kSat (w : Word256) : Bool := hf w 230 1 == 1
def kXlow (w : Word256) : Bool := hf w 231 1 == 1
def kXhigh (w : Word256) : Bool := hf w 232 1 == 1

/-- Control packet fields (Table 2.3). -/
def cInc (w : Word256) : Nat := hf w 16 8
def cDst (w : Word256) : Nat := hf w 40 16
def cTen (w : Word256) : Nat := hf w 56 8

/-- Body fields of ACK (Table 2.4). -/
def aSeq (w : Word256) : Nat := hf w 64 32
def aClass (w : Word256) : Nat := hf w 96 3
def aEnt (w : Word256) : Nat := hf w 99 8
def aStatus (w : Word256) : Nat := hf w 107 4

/-- Body fields of SIGNAL. -/
def sFclass (w : Word256) : Nat := hf w 64 3
def sFent (w : Word256) : Nat := hf w 67 8
def sAcount (w : Word256) : Nat := hf w 80 32

/-- Body fields of AGREE. -/
def gCtr (w : Word256) : Nat := hf w 64 11
def gEpoch (w : Word256) : Nat := hf w 75 16
def gCount (w : Word256) : Nat := hf w 91 32
def gOp (w : Word256) : Nat := hf w 123 3
def gLevel (w : Word256) : Nat := hf w 126 2
def gGroup (w : Word256) : Nat := hf w 128 12

/-- Body fields of COLL. -/
def oGroup (w : Word256) : Nat := hf w 64 12
def oCseq (w : Word256) : Nat := hf w 76 32
def oDigest (w : Word256) : Nat := hf w 108 32
def oOp (w : Word256) : Nat := hf w 140 4
def oStatus (w : Word256) : Nat := hf w 144 8
def oLevel (w : Word256) : Nat := hf w 152 2

/-- Body fields of WITHDRAW. -/
def wGroup (w : Word256) : Nat := hf w 64 12
def wCseq (w : Word256) : Nat := hf w 76 32
def wSlot (w : Word256) : Nat := hf w 108 1
def wLevel (w : Word256) : Nat := hf w 109 2

/-- Body fields of LEX_REQ and LEX_RESP (Table 2.5). -/
def xIndex (w : Word256) : Nat := hf w 64 16
def xSub (w : Word256) : Nat := hf w 80 8
def xOp (w : Word256) : Nat := hf w 88 4
def xTag (w : Word256) : Nat := hf w 92 16
def xSeg (w : Word256) : Nat := hf w 108 16
def xStatus (w : Word256) : Nat := hf w 124 8
def xLen (w : Word256) : Nat := hf w 132 4
def xValue (w : Word256) : Nat := hf w 144 64

/-! ### Checks -/

/-- The 32 bytes of a packet's first word. -/
def wordBytes (w : Word256) : Bytes := leBytes 32 w.toNat

/-- The check of R53 over bytes 0 to 29. -/
def checkOf (w : Word256) : Nat := crc16 (leBytes 30 w.toNat)

/-- The check passes (R54). -/
def checkOk (w : Word256) : Bool := checkOf w == hf w 240 16

/-- The packet with its check computed (R56). -/
def sealPkt (w : Word256) : Word256 := hset w 240 16 (checkOf w)

/-- A 256-bit word from (low bit, length, value) fields, sealed. -/
def mkPkt (fs : List (Nat × Nat × Nat)) : Word256 :=
  sealPkt (BitVec.ofNat 256 (fs.foldl (fun n f => setFld n f.1 f.2.1 f.2.2) 0))

/-- Malformed data header (R55, R58, R61, R87, 10 R413). -/
def hdrMalformed (w : Word256) : Bool :=
  pVer w != 1 || decide (pKind w ≥ 7) || decide (hPlen w > 64) ||
  ((pKind w == 1 || pKind w == 3) && hPlen w != 0) ||
  (pKind w == 1 && decide (kRlen w > 64)) ||
  (decide (pKind w ≥ 4) && kLevel w == 3) ||
  (if pKind w ≥ 4 then pClass w == 7 else decide (pClass w ≥ 6))

/-- Malformed control packet (R55, R65, R68, R69, R70, R87, 07 R286, 11 R456). -/
def ctlMalformed (w : Word256) : Bool :=
  pVer w != 1 || decide (pKind w ≥ 8) ||
  (pKind w == 3 && (decide (gOp w ≥ 2) || gLevel w == 3 || (gOp w == 0 && gLevel w == 2))) ||
  (pKind w == 4 && (oOp w == 0 || decide (oOp w ≥ 4))) ||
  (pKind w == 5 && (wLevel w != 0 || wSlot w != wCseq w % 2)) ||
  (decide (pKind w ≥ 6) && decide (xLen w > 8)) ||
  (if pKind w = 3 ∨ pKind w = 4 ∨ pKind w = 5 then pClass w != 6 else pClass w != 7)

/-- Cells of a data packet (03 R101). -/
def cellsOf (plen : Nat) : Nat := cdiv (40 + 64 * plen) 256

/-- Bytes of a data packet counted by telemetry (15 R625). -/
def dataBytes (plen : Nat) : Nat := 40 + 64 * plen

/-- Bytes of the payload that are valid (R59). -/
def validLen (w : Word256) : Nat :=
  if hPlen w = 0 then 0 else if hTail w = 0 then 64 * hPlen w else 64 * (hPlen w - 1) + hTail w

/-- The flow key of (src, dst, class, entropy) (R84). -/
def flowKey (src dst cls ent : Nat) : Nat := ((src * 65536 + dst) * 8 + cls) * 256 + ent

/-- The flow of a data packet. -/
def hFlow (w : Word256) : Nat := flowKey (pSrc w) (hDst w) (pClass w) (hEntropy w)

/-- The flow a control-class SIGNAL announces for (R93). -/
def sFlow (w : Word256) : Nat := flowKey (pSrc w) (cDst w) (sFclass w) (sFent w)

/-- The announced count is reached (R94). -/
def reached (delivered acount : Nat) : Bool := decide ((delivered + 2 ^ 32 - acount) % 2 ^ 32 < 2 ^ 31)

/-- The end word of a packet: `pcrc` and `end` (R71, R72). -/
def endGood (w : Word256) (pay : Bytes) (e : BitVec 64) : Bool :=
  fld e.toNat 0 8 == 0xF0 && fld e.toNat 32 32 == crc32 (wordBytes w ++ pay)

/-- The end word of a packet, good or poisoned (R71, R72). -/
def mkEnd (w : Word256) (pay : Bytes) (good : Bool) : BitVec 64 :=
  let c := crc32 (wordBytes w ++ pay)
  BitVec.ofNat 64 (if good then c * 2 ^ 32 + 0xF0 else (0xFFFFFFFF - c) * 2 ^ 32 + 0x0F)

/-! ### Packets the part makes -/

/-- Status codes of Table 2.6. -/
def stOk : Nat := 0
def stDenied : Nat := 1
def stTargetReset : Nat := 2
def stQuenched : Nat := 3
def stUncorrectable : Nat := 4
def stBusy : Nat := 5

/-- An ACK for a data packet (R67, R83). -/
def mkAck (h : Word256) (status inc : Nat) : Word256 :=
  mkPkt [(0, 5, 1), (5, 2, 1), (7, 1, 1), (8, 3, 7), (16, 8, inc), (24, 16, hDst h), (40, 16, pSrc h),
    (56, 8, hTen h), (64, 32, hSeq h), (96, 3, pClass h), (99, 8, hEntropy h), (107, 4, status)]

/-- A READ_RESP for a READ_REQ, before its sequence number (R62, R83). It travels in the request's class and entropy
(DEDUCED, log 8). -/
def mkReadResp (h : Word256) (status inc plen : Nat) : Word256 :=
  mkPkt [(0, 5, 2), (5, 2, 1), (8, 3, pClass h), (16, 8, hEntropy h), (24, 16, hDst h), (40, 7, plen),
    (56, 40, kRoff h), (96, 16, pSrc h), (112, 8, hTen h), (152, 16, kTag h), (168, 4, status), (172, 8, inc)]

/-- A COLL packet (R68). -/
def mkColl (src dst ten inc op status digest cseq group level : Nat) : Word256 :=
  mkPkt [(0, 5, 4), (5, 2, 1), (7, 1, 1), (8, 3, 6), (16, 8, inc), (24, 16, src), (40, 16, dst), (56, 8, ten),
    (64, 12, group), (76, 32, cseq), (108, 32, digest), (140, 4, op), (144, 8, status), (152, 2, level)]

/-- A WITHDRAW (R69). -/
def mkWithdraw (src dst ten inc cseq group : Nat) : Word256 :=
  mkPkt [(0, 5, 5), (5, 2, 1), (7, 1, 1), (8, 3, 6), (16, 8, inc), (24, 16, src), (40, 16, dst), (56, 8, ten),
    (64, 12, group), (76, 32, cseq), (108, 1, cseq % 2)]

/-- An AGREE packet (11 R456). -/
def mkAgree (src dst ten inc op ctr epoch count level group : Nat) : Word256 :=
  mkPkt [(0, 5, 3), (5, 2, 1), (7, 1, 1), (8, 3, 6), (16, 8, inc), (24, 16, src), (40, 16, dst), (56, 8, ten),
    (64, 11, ctr), (75, 16, epoch), (91, 32, count), (123, 3, op), (126, 2, level), (128, 12, group)]

/-- A CREDIT with its eight running totals (R66). -/
def mkCredit (totals : List Nat) : Word256 :=
  mkPkt ([(0, 5, 0), (5, 2, 1), (7, 1, 1), (8, 3, 7)] ++
    (List.range 8).map (fun c => (64 + 16 * c, 16, totals.getD c 0)))

/-- A LEX_RESP (15 R612). -/
def mkLexResp (req : Word256) (src inc status len : Nat) (value : Nat) : Word256 :=
  mkPkt [(0, 5, 7), (5, 2, 1), (7, 1, 1), (8, 3, 7), (16, 8, inc), (24, 16, src), (40, 16, pSrc req),
    (56, 8, cTen req), (64, 16, xIndex req), (80, 8, xSub req), (88, 4, xOp req), (92, 16, xTag req),
    (108, 16, xSeg req), (124, 8, status), (132, 4, len), (144, 64, value)]

end Sys2Proof.Machine
end

