-- ==== Sys2Proof/Machine/MemOps.lean ====
section
/-! DEFINITION. Line accesses to HBM and the installed CXL ranges (08 R308 to R323, 13 R547 to R550), and granule clears
(14 R579 to R581). -/

namespace Sys2Proof.Machine

/-! ### The free rings and flow records in the system area (04 R153, 03 R129, Table 8.2) -/

/-- Bytes of a billet of pool `p` (R148); pool 5 stands for the deep buffer's 4 KiB pages. -/
def bilSize (p : Nat) : Nat := if p = 5 then 4096 else 256 * 4 ^ p

/-- Billets of a pool, or deep pages, that software has set up (R149, R169). -/
def Sw.bilCount (s : Sw) (d p : Nat) : Nat :=
  if p = 5 then s.rd (L.bilDeepGib.at d) * 262144
  else s.rd (L.bilPoolUnits.at d) p * 65536 / bilSize p

/-- A store with every handle free: up to 448 in the cache, the rest in the ring (R155; DESIGN CHOICE, log 9). -/
def freshStore (n : Nat) : Store :=
  { cache := if n = 0 then [] else [(0, min n 448)], ring := if n ≤ 448 then [] else [(448, n - 448)], low := n }

/-- The store of a pool; every handle free until something is recorded. -/
def Sw.store (s : Sw) (d p : Nat) : Store := s.bil.stores.getD (8 * d + p) (freshStore (s.bilCount d p))

/-- Replace a store. -/
def Sw.setStore (s : Sw) (d p : Nat) (x : Store) : Sw :=
  { s with bil := { s.bil with stores := s.bil.stores.set (8 * d + p) x } }

/-- Handles in a list of runs. -/
def runLen (l : List (Nat × Nat)) : Nat := sumBy Prod.snd l

/-- The first `n` handles of a list of runs, and the rest. -/
def runTake : Nat → List (Nat × Nat) → List (Nat × Nat) × List (Nat × Nat)
  | _, [] => ([], [])
  | n, (a, k) :: l =>
    if n = 0 then ([], (a, k) :: l)
    else if k ≤ n then let r := runTake (n - k) l; ((a, k) :: r.1, r.2)
    else ([(a, n)], (a + n, k - n) :: l)

/-- The handle of billet `i` of a pool (Table 4.1). -/
def mkHandle (d p i : Nat) : Nat := d * 2 ^ 30 + (if p = 5 then 2 ^ 29 else p * 2 ^ 26) + i

/-- The null handle (R152). -/
def nullHandle : Nat := 0xFFFFFFFF

/-- Die, pool and index that a handle names. -/
def handleDie (h : Nat) : Nat := fld h 30 2
def handlePool (h : Nat) : Nat := if bit h 29 then 5 else fld h 26 3
def handleIdx (h : Nat) : Nat := fld h 0 22

/-- Where the ring of a pool starts in the system area of its die (08 Table 8.2; the order of the rings is a DESIGN CHOICE,
log 109). -/
def ringBase (p : Nat) : Nat := if p = 5 then 16 * 2 ^ 20 else p * 2 ^ 21

/-- HBM offset of the ring line that holds place `i` of a ring; the ring has a place for each handle of its pool. -/
def Sw.ringLineOf (s : Sw) (d p i : Nat) : Nat :=
  s.sysBase d + ringBase p + 64 * (i % (16 * max 1 (cdiv (s.bilCount d p) 16)) / 16)

/-- The handle at place `i` of a list of runs. -/
def runAt : List (Nat × Nat) → Nat → Option Nat
  | [], _ => none
  | (a, k) :: l, i => if i < k then some (a + i) else runAt l (i - k)

/-- The HBM offset of the line that holds record `i` of a die, 16 bytes to a record (08 Table 8.2). -/
def Sw.recordLine (s : Sw) (d i : Nat) : Nat := s.sysBase d + 32 * 2 ^ 20 + 64 * (i / 4)

/-- What stands at place `i` of a free ring, as a handle (04 Table 4.1). -/
def Sw.ringPlace (s : Sw) (d p i : Nat) : Option Nat :=
  let st := s.store d p
  let cap := 16 * max 1 (cdiv (s.bilCount d p) 16)
  if i < cap then (runAt st.ring ((i + cap - st.head % cap) % cap)).map (mkHandle d p) else none

/-- What stands in place `i` of the flow records of a die; the places of its fields are not stated (log 126). -/
def Sw.recordPlace (s : Sw) (d i : Nat) : Option Nat :=
  (s.fab.flows.find? (fun kv => kv.2.die == d && !kv.2.onChip && !kv.2.overflow && kv.2.slot == i)).map
    (fun kv => Config.flowRecord kv.1 kv.2.expected kv.2.delivered)

/-- A byte of the system area that a free ring or a flow record fills. -/
def Sw.sysByte (s : Sw) (off : Nat) : Option Byte :=
  let d := off / s.dieRegion
  let r := off % s.dieRegion
  if r < 32 * 2 ^ 20 then
    let p := if r < 10 * 2 ^ 20 then r / 2 ^ 21 else 5
    (s.ringPlace d p ((r - ringBase p) / 4)).map (fun h => BitVec.ofNat 8 (fld h (8 * (r % 4)) 8))
  else (s.recordPlace d ((r - 32 * 2 ^ 20) / 16)).map (fun v => BitVec.ofNat 8 (fld v (8 * (r % 16)) 8))

/-- The bytes that a line of HBM holds: in the part of the system area for free rings and flow records, what these fill
(DEDUCED, log 126). -/
def Sw.lineBytes (s : Sw) (base : Nat) : Bytes :=
  if base % s.dieRegion < 544 * 2 ^ 20 then
    (List.range 64).map (fun i => (s.sysByte (base + i)).getD (memRd s.hbm (base + i)))
  else s.hbmRd base 64

/-! ### Line accesses -/

/-- Readers of 17 Table 17.4. -/
def rdPacket : Nat := 0
def rdAnvil : Nat := 1
def rdSwage : Nat := 2
def rdHearth : Nat := 3
def rdSystem : Nat := 4
def rdPatrol : Nat := 5

/-- A line is uncorrectable (08 R316). -/
def Sw.lineBad (s : Sw) (line : Nat) : Bool := s.hbmBad.contains line

/-- The consequence of an uncorrectable read: counted, and a contained fault naming stack, channel and offset (R316). -/
def Sw.uncorr (s : Sw) (off reader : Nat) : Sw :=
  let st := s.hbmStack off
  (s.inc (L.hbmEccUncorr.at st.1)).fault 0x41 (40 + st.1) none (detM 0 st.1 st.2 off) reader

/-- The consequence of a correctable read: counted, and a corrected fault (R315). -/
def Sw.corrected (s : Sw) (off reader : Nat) : Sw :=
  let st := s.hbmStack off
  (s.inc (L.hbmEccCorr.at st.1)).fault 0x40 (40 + st.1) none (detM 0 st.1 st.2 off) reader

/-- The chunk an HBM access touches is cleared ahead of the background order (14 R581). -/
def Sw.touchHbm (s : Sw) (off : Nat) : Sw :=
  match s.clr.get? (off / gib) with
  | none => s
  | some cs =>
    let c := off % gib / 2097152
    { s with clr := AMap.set s.clr (off / gib) (insertNat c cs) }

/-- The same for CXL address `a` of port `p`. -/
def Sw.touchCxl (s : Sw) (p a : Nat) : Sw :=
  let k := 1024 + 4096 * p + a / gib
  match s.clr.get? k with
  | none => s
  | some cs => { s with clr := AMap.set s.clr k (insertNat (a % gib / 2097152) cs) }

/-- The stack of a line is in reset: every access to it is answered Target-Reset (R349). -/
def Sw.lineReset (s : Sw) (off : Nat) : Bool := s.blkRst.contains (.stack (Fin.ofNat 6 (s.hbmStack off).1))

/-- One of `units` lines from `off` on lies in a stack in reset. -/
def Sw.linesReset (s : Sw) (off units : Nat) : Bool := (List.range units).any (fun i => s.lineReset (off + 64 * i))

/-- A line port reads a line that has suffered errors `es` (R314 to R316): a correction is written back, an uncorrectable line
stays and is known as such; none where the line is uncorrectable, or its stack is in reset (R349). -/
def Sw.lineFetch (s : Sw) (base reader : Nat) (es : LineErr) : Option Bytes × Sw :=
  if s.lineReset base then (none, s)
  else
    let s := s.touchHbm base
    let cur := s.lineBytes base
    if s.lineBad (base / 64) then (none, s.uncorr base reader)
    else match lineRead cur es with
      | .clean bs => (some bs, if bs = cur then s else s.hbmWr base bs)
      | .corrected bs => (some bs, (if bs = cur then s else s.hbmWr base bs).corrected base reader)
      | .bad => (none, ({ s with hbmBad := insertNat (base / 64) s.hbmBad }).uncorr base reader)

/-- Read whole lines from a 64-byte aligned offset: none where a line is uncorrectable (R316, Table 8.3), or its stack is in
reset (R349). -/
def Sw.readLines (s : Sw) (off units reader : Nat) : Option Bytes × Sw :=
  if s.linesReset off units then (none, s)
  else
  let s1 := forN units s (fun i s => s.touchHbm (off + 64 * i))
  let bad := (List.range units).filter (fun i => s1.lineBad (off / 64 + i))
  let s2 := bad.foldl (fun s i => s.uncorr (off + 64 * i) reader) s1
  (if bad.isEmpty then some (s2.hbmRd off (64 * units)) else none, s2)

/-- Write bytes from `off` on: a line covered whole is written without a read; a line covered in part is merged, and
stays unwritten when it is uncorrectable (R316, R321), or its stack is in reset (R349). Answers whether it was written. -/
def Sw.writeLine (s : Sw) (off : Nat) (bs : Bytes) (reader : Nat) : Bool × Sw :=
  if s.lineReset off then (false, s)
  else
  let s := s.touchHbm off
  if off % 64 = 0 ∧ bs.length = 64 then (true, s.hbmWr off bs)
  else if s.lineBad (off / 64) then (false, s.uncorr off reader)
  else (true, s.hbmWr off bs)

/-- Write a byte string over successive lines. -/
def Sw.writeLinesN : Nat → Sw → Nat → Bytes → Nat → Bool × Sw
  | 0, s, _, _, _ => (true, s)
  | n + 1, s, off, bs, reader =>
    if bs.isEmpty then (true, s)
    else
      let k := 64 - off % 64
      let r := s.writeLine off (bs.take k) reader
      let r' := Sw.writeLinesN n r.2 (off + k) (bs.drop k) reader
      (r.1 && r'.1, r'.2)

/-- Write a byte string to HBM line by line. -/
def Sw.writeLines (s : Sw) (off : Nat) (bs : Bytes) (reader : Nat) : Bool × Sw :=
  Sw.writeLinesN (bs.length / 64 + 2) s off bs reader

/-- A granule starts to clear: nothing written before is read again (14 R579, R581). -/
def Sw.clearHbm (s : Sw) (g : Nat) : Sw :=
  { s with hbm := memZeroRange s.hbm (g * gib) ((g + 1) * gib)
           hbmBad := s.hbmBad.filter (fun l => l * 64 / gib != g)
           clr := AMap.set s.clr g [] }

/-- Change what is known of the contents of CXL port `p`. -/
def Brg.learn (b : Brg) (p : Nat) (f : Unknown → Unknown) : Brg :=
  match b.unk.get? p with
  | some u => { b with unk := AMap.set b.unk p (f u) }
  | none => b

/-- The same for granule `g` of CXL port `p`. -/
def Sw.clearCxl (s : Sw) (p g : Nat) : Sw :=
  { s with brg := s.brg.learn p (fun u => { u with grans := insertNat g u.grans })
           cxl := memZeroRange s.cxl (p * 2 ^ 42 + g * gib) (p * 2 ^ 42 + (g + 1) * gib)
           cxlBad := s.cxlBad.filter (fun l => l / 2 ^ 36 != p || l % 2 ^ 36 * 64 / gib != g)
           clr := AMap.set s.clr (1024 + 4096 * p + g) [] }

/-- HBM granules still clearing (Table 14.9). -/
def Sw.hbmClearing (s : Sw) : Nat := (s.clr.filter (fun kv => decide (kv.1 < 1024))).length

/-- CXL granules still clearing. -/
def Sw.cxlClearing (s : Sw) : Nat := (s.clr.filter (fun kv => decide (1024 ≤ kv.1))).length

/-- A bridge port's state and its change. -/
def Sw.bport (s : Sw) (p : Nat) : BPortSt := s.brg.ports.getD p {}
def Sw.setBport (s : Sw) (p : Nat) (x : BPortSt) : Sw := { s with brg := { s.brg with ports := s.brg.ports.put p x {} } }

/-- B.P0 runs in the host role (13 R530). -/
def Sw.hostRole (s : Sw) : Bool := s.rd L.brgP0Role == 1

/-- The incarnation element of bridge port `p`, stack `n`, core `j`, array `k`, Forge die `k`, and M (Table 14.9). -/
def incForge (k : Nat) : Nat := k
def incArray (k : Nat) : Nat := 4 + k
def incCore (j : Nat) : Nat := 20 + j
def incStack (n : Nat) : Nat := 84 + n
def incBport (p : Nat) : Nat := 90 + p
def incM : Nat := 94

/-- Byte `a` of CXL port `p`: a free value where the device came back and the line has been neither written nor cleared
since (Table 13.6). -/
def Sw.cxlByte (s : Sw) (p a : Nat) : Byte :=
  match s.brg.unk.get? p with
  | some u => if u.lines.contains (a / 64) || u.grans.contains (a / gib) then memRd s.cxl (p * 2 ^ 42 + a) else Config.freeByte u.gen a
  | none => memRd s.cxl (p * 2 ^ 42 + a)

/-- Bytes of a CXL port. -/
def Sw.cxlRd (s : Sw) (p a n : Nat) : Bytes := (List.range n).map (fun i => s.cxlByte p (a + i))

/-- A line that is about to be written holds its bytes from now on. -/
def Sw.cxlKnow (s : Sw) (p line : Nat) : Sw :=
  if s.brg.unk.isEmpty then s
  else { s with cxl := memWrs s.cxl (p * 2 ^ 42 + 64 * line) (s.cxlRd p (64 * line) 64)
                brg := s.brg.learn p (fun u => { u with lines := insertNat line u.lines }) }

/-- A write of at most 64 bytes to a CXL port (R549). -/
def Sw.cxlWr (s : Sw) (p a : Nat) (bs : Bytes) : Sw :=
  let s := (s.cxlKnow p (a / 64)).cxlKnow p ((a + bs.length - 1) / 64)
  { s with cxl := memWrs s.cxl (p * 2 ^ 42 + a) bs }

/-- Port and device address of a CXL offset in the switch's own block: ID `fab.self.ep` + 4 + 4 p + i (Table 2.6A). -/
def cxlOf (idx off : Nat) : Nat × Nat := ((idx - 4) / 4, (idx - 4) % 4 * 2 ^ 40 + off)

end Sys2Proof.Machine
end

