-- ==== Sys2Proof/Machine/BilletOps.lean ====
section
/-! DEFINITION. Billet pools (04): stores, charges, reserves, admission (R162), credit (R166) and retry. -/

namespace Sys2Proof.Machine

/-! ### Stores (R148 to R156) -/

/-- The free count of a pool: cache and ring together (R154). -/
def Sw.bilFree (s : Sw) (d p : Nat) : Nat := runLen (s.store d p).cache + runLen (s.store d p).ring

/-- The stack that holds the line of place `i` of a ring is in reset, so that the ring is neither read nor written (08 R349). -/
def Sw.ringReset (s : Sw) (d p i : Nat) : Bool := s.lineReset (s.ringLineOf d p i)

/-- The cache refills 256 handles from the ring, 16 to a line (R153). The handles of each uncorrectable line (`bad`, or one
that is known for it) are lost until the next rebuild: counted, with one contained fault for the line (R156, 08 R316, R317).
While the stack that holds the ring is in reset nothing is read (08 R349). -/
def Sw.refill (s : Sw) (d p : Nat) (bad : List Nat) : Sw :=
  let st := s.store d p
  if s.ringReset d p st.head then s else
  let a := forN 16 (([] : List (Nat × Nat)), (runTake 256 st.ring).1, s) (fun i a =>
    let t := runTake 16 a.2.1
    let off := s.ringLineOf d p (st.head + 16 * i)
    if t.1.isEmpty then a
    else if bad.contains i || s.lineBad (off / 64) then
      (a.1, t.2, ((({ a.2.2 with hbmBad := insertNat (off / 64) a.2.2.hbmBad } : Sw).uncorr off rdSystem).inc (L.bilLost.at d) 0
        (runLen t.1)).fault 0x14 d none p (runLen t.1))
    else (a.1 ++ t.1, t.2, a.2.2))
  let rest := (runTake 256 st.ring).2
  a.2.2.setStore d p { st with
    cache := st.cache ++ a.1, ring := rest, head := st.head + (runLen st.ring - runLen rest)
    low := min st.low (runLen st.cache + runLen a.1 + runLen rest) }

/-- The cache writes its oldest 256 handles back to the end of the ring (R153; DESIGN CHOICE, log 9): whole lines, which are
good again. -/
def Sw.writeback (s : Sw) (d p : Nat) : Sw :=
  let st := s.store d p
  if s.ringReset d p st.head then s else
  let r := runTake 256 st.cache
  let lines := (List.range 16).map (fun i => s.ringLineOf d p (st.head + runLen st.ring + 16 * i) / 64)
  { (s.setStore d p { st with cache := r.2, ring := st.ring ++ r.1 }) with hbmBad := s.hbmBad.filter (fun l => !lines.contains l) }

/-- Take one handle of a pool from its cache. A request that finds the cache empty waits for the refill of the ring, which
is pending then (R154): it is served behind that refill, in the same command (DESIGN CHOICE, log 110). None: no handle is
free, or the ring cannot be read. -/
def Sw.takeHandleN : Nat → Sw → Nat → Nat → Option (Nat × Sw)
  | n, s, d, p =>
    let st := s.store d p
    match st.cache with
    | [] =>
      match n with
      | 0 => none
      | n + 1 => if st.ring.isEmpty then none else Sw.takeHandleN n (s.refill d p []) d p
    | _ =>
      let r := runTake 1 st.cache
      let i := (r.1.headD (0, 0)).1
      some (mkHandle d p i, s.setStore d p { st with cache := r.2, low := min st.low (runLen r.2 + runLen st.ring) })

/-- Take one handle: enough refills for a ring all of whose lines are lost. -/
def Sw.takeHandle (s : Sw) (d p : Nat) : Option (Nat × Sw) := Sw.takeHandleN (cdiv (runLen (s.store d p).ring) 256) s d p

/-- A refill of a pool is pending that cannot be made yet: its cache is empty and the stack of its ring is in reset (R154). -/
def Sw.refillWaits (s : Sw) (d p : Nat) : Bool :=
  let st := s.store d p
  st.cache.isEmpty && !st.ring.isEmpty && s.ringReset d p st.head

/-- Put a handle back into its pool's cache; a full cache of 512 writes back first, and takes no more while its ring cannot be
written (R153). -/
def Sw.putHandle (s : Sw) (h : Nat) : Sw :=
  let d := handleDie h
  let p := handlePool h
  let s := if 512 ≤ runLen (s.store d p).cache then s.writeback d p else s
  let st := s.store d p
  s.setStore d p (if 512 ≤ runLen st.cache then { st with late := st.late ++ [h] } else { st with cache := st.cache ++ [(handleIdx h, 1)] })

/-- The handles of a die that waited for its rings return once these can be written. -/
def Sw.putLate (s : Sw) (d : Nat) : Sw :=
  (List.range 6).foldl (fun s p =>
    let st := s.store d p
    if st.late.isEmpty then s else st.late.foldl Sw.putHandle (s.setStore d p { st with late := [] })) s

/-! ### Charges and reserves (R158 to R161) -/

/-- Home pool, minimum and maximum bytes of an owner on die `d` (R160, Tables 4.2 and 4.3). -/
structure Quota where
  home : Nat
  min  : Nat
  max  : Nat
deriving DecidableEq, Repr

/-- Fields of a quota word (Table 4.3); `max` is in KiB. -/
def quotaOf (w : Nat) : Quota := ⟨fld w 61 3, fld w 20 20, fld w 0 20 * 1024⟩

/-- No owner and no limit. -/
def noQuota : Quota := ⟨0, 0, 2 ^ 40⟩

/-- The quota of an owner. -/
def Sw.ownerQuota (s : Sw) (d : Nat) : Owner → Quota
  | .ingress p c | .egress p c =>
    ⟨0, if s.role p = 1 ∨ s.role p = 2 then s.rd L.bilPortMin (8 * p + c) else 0, s.rd L.bilPortMax p⟩
  | .ctx c => quotaOf (s.rd (L.bilCtxQuota.at d) (c % 1024))
  | .core c => quotaOf (s.rd (L.bilCoreQuota.at d) (c % 16))
  | .target _ | .toOwn _ | .bridge _ | .mirror _ => noQuota

/-- The quota of a tenancy on a die. -/
def Sw.tenQuota (s : Sw) (d t : Nat) : Quota := quotaOf (s.rd (L.bilTenQuota.at d) t)

/-- Grants on one die. -/
def Sw.grantsOn (s : Sw) (d : Nat) : List (Nat × Grant) := s.bil.granted.filter (fun g => handleDie g.1 == d)

/-- Two owners share one maximum: the classes and sides of one port do (R160). -/
def sameOwner : Owner → Owner → Bool
  | .ingress p _, .ingress q _ | .ingress p _, .egress q _ | .egress p _, .ingress q _ | .egress p _, .egress q _ => p == q
  | a, b => decide (a = b)

/-- Credit of a port and class, and its change. -/
def Sw.credit (s : Sw) (p c : Nat) : Credit := s.cred.getD (8 * p + c) {}
def Sw.setCredit (s : Sw) (p c : Nat) (x : Credit) : Sw := { s with cred := s.cred.put (8 * p + c) x {} }

/-- Reserve billets that `bil.port.min` gives a port and class on the ingress side (R161). -/
def Sw.reserveOf (s : Sw) (p c : Nat) : Nat :=
  if s.role p = 1 ∨ s.role p = 2 then s.rd L.bilPortMin (8 * p + c) else 0

/-- Billets of pool `q` that a class has set aside, that hold no cell and that no reserve covers: its shared ones, and offered
reserve ones that a lower minimum no longer covers (R166: the part never takes back credit it has offered). -/
def Sw.asideIn (s : Sw) (p c q : Nat) : Nat :=
  let x := s.credit p c
  if q = 0 then x.shFree - x.big.length + (x.res - max (s.reserveOf p c) x.resUsed) else (x.big.filter (fun b => b == q)).length

/-- The same over the classes of a port. -/
def Sw.asideOf (s : Sw) (p q : Nat) : Nat := sumBy (fun c => s.asideIn p c q) (List.range 8)

/-- Bytes of the billets that a port has set aside so. -/
def Sw.asideBytes (s : Sw) (p : Nat) : Nat := sumBy (fun q => bilSize q * s.asideOf p q) (List.range 5)

/-- Bytes charged to an owner on a die. -/
def Sw.ownerBytes (s : Sw) (d : Nat) (o : Owner) : Nat :=
  sumBy (fun g => if sameOwner g.2.owner o ∧ handlePool g.1 < 5 then g.2.bytes else 0) (s.grantsOn d) +
  (match o with | .ingress p _ | .egress p _ => s.asideBytes p | _ => 0)

/-- Billets of pool `p` charged to exactly this owner on a die. -/
def Sw.ownerCount (s : Sw) (d p : Nat) (o : Owner) : Nat :=
  ((s.grantsOn d).filter (fun g => decide (g.2.owner = o) && handlePool g.1 == p)).length

/-- Bytes charged to a tenancy on a die. -/
def Sw.tenBytes (s : Sw) (d t : Nat) : Nat :=
  sumBy (fun g => if g.2.ten.map BitVec.toNat = some t ∧ handlePool g.1 < 5 then g.2.bytes else 0) (s.grantsOn d)

/-- An owner's unused reserve (R161). -/
def Sw.ownerUnused (s : Sw) (d : Nat) (o : Owner) : Nat :=
  let q := s.ownerQuota d o
  q.min - s.ownerCount d q.home o

/-- Billets of pool `p` charged to a tenancy that no owner's reserve covers (R161): an owner's reserve covers as many billets
of its home pool as its minimum, whatever their tenancy, lowest handle first (DESIGN CHOICE, log 111). -/
def Sw.tenUncovered (s : Sw) (d p t : Nat) : Nat :=
  let pool := (s.grantsOn d).filter (fun g => handlePool g.1 == p)
  let mine (g : Nat × Grant) : Bool := g.2.ten.map BitVec.toNat == some t
  let owners := ((pool.filter mine).map (fun g => g.2.owner)).eraseDups
  sumBy (fun o =>
    let q := s.ownerQuota d o
    let l := pool.filter (fun g => decide (g.2.owner = o))
    ((if q.home = p then l.drop q.min else l).filter mine).length) owners

/-- A tenancy's unused reserve (R161). -/
def Sw.tenUnused (s : Sw) (d t : Nat) : Nat :=
  let q := s.tenQuota d t
  q.min - s.tenUncovered d q.home t

/-- The elements of an entry that differ from its default. -/
def Sw.elems (s : Sw) (r : Reg) : List (Nat × Nat) :=
  (s.lex.filter (fun kv => decide (r.key 0 ≤ kv.1 ∧ kv.1 < r.key 0 + 65536))).map (fun kv => (kv.1 - r.key 0, kv.2))

/-- Ports of a die with role 1 or 2 (R161). -/
def Sw.portsInUse (s : Sw) (d : Nat) : List Nat :=
  ((s.elems L.fwdPortRole).filter (fun e => (e.2 == 1 || e.2 == 2) && laneDie e.1 == d)).map Prod.fst

/-- Owners on a die whose minimum may be above 0. -/
def Sw.reserveOwners (s : Sw) (d : Nat) : List Owner :=
  (s.portsInUse d).flatMap (fun p =>
    (List.range 8).flatMap (fun c => [.ingress (Fin.ofNat 512 p) (Fin.ofNat 8 c), .egress (Fin.ofNat 512 p) (Fin.ofNat 8 c)])) ++
  (s.elems (L.bilCtxQuota.at d)).map (fun e => .ctx (Fin.ofNat 4096 (1024 * d + e.1))) ++
  (List.range 16).map (fun j => .core (Fin.ofNat 64 (16 * d + j)))

/-- The outstanding reserve of a pool (R161). -/
def Sw.outstanding (s : Sw) (d p : Nat) : Nat :=
  sumBy (fun o => if (s.ownerQuota d o).home = p then s.ownerUnused d o else 0) (s.reserveOwners d) +
  sumBy (fun e => if (s.tenQuota d e.1).home = p then s.tenUnused d e.1 else 0) (s.elems (L.bilTenQuota.at d))

/-- The billets of a pool that ports of a die have set aside empty: no longer free for others. -/
def Sw.asideOn (s : Sw) (d q : Nat) : Nat :=
  sumBy (fun p => s.asideOf p q) (((s.cred.map (fun kv => kv.1 / 8)).eraseDups).filter (fun p => laneDie p == d))

/-- Free billets of a pool less those set aside. One set aside stays in the pool's free count, which R154 takes from cache and
ring, until a cell takes it (DESIGN CHOICE, log 144). -/
def Sw.bilAvail (s : Sw) (d p : Nat) : Nat := s.bilFree d p - s.asideOn d p

/-! ### Admission (R162, R163) -/

/-- The smallest pool whose billets hold `n` bytes. -/
def poolFor (n : Nat) : Nat := ((List.range 5).find? (fun p => decide (n ≤ bilSize p))).getD 5

/-- Answer of the allocator: the null handle, no admissible billet (Table 4.4), a request that waits for a rebuild or for the
refill of a ring, which is no exhaustion (R154, R155), or a billet. -/
inductive Alloc
  | null
  | wait
  | pending
  | got (handle : Nat) (s : Sw)

/-- A billet of this owner is zero-filled before it is handed out: one of a context or a core (R157). -/
def ownerCleared : Owner → Bool
  | .ctx _ | .core _ => true
  | _ => false

/-- Take a billet of pool `q` and charge it; billets for cells are not cleared (R157). -/
def Sw.grant (s : Sw) (d q : Nat) (o : Owner) (t : Option Ten) : Alloc :=
  match s.takeHandle d q with
  | none => if s.refillWaits d q then .pending else .wait
  | some (h, s') =>
    .got h { s' with bil := { s'.bil with
      granted := s'.bil.granted.set h ⟨o, t, bilSize q⟩
      freed := eraseOne h s'.bil.freed
      data := if ownerCleared o then memZeroRange s'.bil.data (65536 * h) (65536 * h + 65536) else s'.bil.data } }

/-- Step 3 of R162 admits pool `q`. -/
def Sw.admits (s : Sw) (d q : Nat) (o : Owner) (t : Option Ten) : Bool :=
  decide (s.outstanding d q < s.bilAvail d q) &&
  decide (s.ownerBytes d o + bilSize q ≤ (s.ownerQuota d o).max) &&
  (match t with | none => true | some t => decide (s.tenBytes d t.toNat + bilSize q ≤ (s.tenQuota d t.toNat).max))

/-- A request of `n` bytes falls under step 4 of R162: neither a reserve nor a pool admits it. -/
def Sw.stepFour (s : Sw) (d : Nat) (o : Owner) (t : Option Ten) (n : Nat) : Bool :=
  let p := poolFor n
  let own := (s.ownerQuota d o).home == p && decide (0 < s.ownerUnused d o)
  let ten := match t with | none => false | some t => (s.tenQuota d t.toNat).home == p && decide (0 < s.tenUnused d t.toNat)
  decide (0 < n ∧ n ≤ 65536) && !s.bil.rebuild.contains d && !own && !ten &&
  !(List.range 5).any (fun q => decide (p ≤ q) && s.admits d q o t)

/-- A request of `n` bytes (R162, R163). -/
def Sw.allocate (s : Sw) (d : Nat) (o : Owner) (t : Option Ten) (n : Nat) : Alloc :=
  if n = 0 ∨ 65536 < n then .null
  else if s.bil.rebuild.contains d then .pending
  else
    let p := poolFor n
    if (s.ownerQuota d o).home = p ∧ 0 < s.ownerUnused d o then s.grant d p o t
    else if (match t with | none => false | some t => (s.tenQuota d t.toNat).home == p && decide (0 < s.tenUnused d t.toNat))
    then s.grant d p o t
    else match ((List.range 5).filter (fun q => decide (p ≤ q))).find? (fun q => s.admits d q o t) with
      | none => .wait
      | some q => s.grant d q o t

/-- Billets for all cells of a packet; none, and whether they wait for a rebuild or a refill (R154, R155). -/
abbrev Grants := Except Bool (List Nat × Sw)

/-- One pool-0 billet for each of `n` cells (R150): all of them, or none. -/
def Sw.allocCells : Nat → Sw → Nat → Owner → Option Ten → Grants
  | 0, s, _, _, _ => .ok ([], s)
  | n + 1, s, d, o, t =>
    match s.allocate d o t 256 with
    | .got h s' => match Sw.allocCells n s' d o t with
      | .ok (hs, s'') => .ok (h :: hs, s'')
      | .error e => .error e
    | .pending => .error true
    | _ => .error false

/-- A billet returns to its pool (R164). -/
def Sw.release (s : Sw) (h : Nat) : Sw :=
  if (s.bil.granted.get? h).isSome then
    ({ s with bil := { s.bil with granted := s.bil.granted.del h } }).putHandle h
  else s

/-- A granted billet is charged to another owner (R159). -/
def Sw.recharge (s : Sw) (h : Nat) (o : Owner) : Sw :=
  match s.bil.granted.get? h with
  | some g => { s with bil := { s.bil with granted := AMap.set s.bil.granted h { g with owner := o } } }
  | none => s

/-- Many billets return. -/
def Sw.releaseAll (s : Sw) (hs : List Nat) : Sw := hs.foldl Sw.release s

/-- A register of a clause core; x0 reads 0. -/
def Core.reg (c : Core) (r : Nat) : Nat := if r = 0 then 0 else c.regs.getD r 0

/-- A register of a clause core written; x0 discards writes. -/
def Core.setReg (c : Core) (r v : Nat) : Core :=
  if r = 0 then c else { c with regs := c.regs.put r (v % 2 ^ 32) 0 }

/-- A core's state, and its change. -/
def Sw.core (s : Sw) (j : Nat) : Core := s.cores.getD j {}
def Sw.setCore (s : Sw) (j : Nat) (c : Core) : Sw := { s with cores := s.cores.put j c {} }

/-- Priority of a waiting requester (R164). -/
def ownerRank : Owner → Nat
  | .ingress _ _ | .bridge _ => 1
  | .egress _ _ | .toOwn _ => 2
  | .ctx _ => 3
  | .core _ => 4
  | .target _ => 5
  | .mirror _ => 6

/-- The slot of a context, and its change. -/
def Ctx.slot (x : Ctx) (i : Nat) : Slot := if i % 2 = 0 then x.slot0 else x.slot1
def Ctx.setSlot (x : Ctx) (i : Nat) (y : Slot) : Ctx := if i % 2 = 0 then { x with slot0 := y } else { x with slot1 := y }

/-- A value held without a billet. -/
def Item.bare (i : Item) : Bool := i.bil.isEmpty && i.spill.isNone && !i.empty

/-- Give a billet to the first value held without one; none where there is none. -/
def giveItem (h : Nat) : List Item → Option (List Item)
  | [] => none
  | i :: is => if i.bare then some ({ i with bil := [h] } :: is) else (giveItem h is).map (fun l => i :: l)

/-- A granted request reaches its requester: BALLOC or BALLOCN gets the handle in its register and goes on; a held value of a
context takes its billet, which is freed where the value is gone. -/
def Sw.grantTo (s : Sw) (r : BilReq) (h : Nat) : Sw :=
  match r.who, r.owner with
  | .balloc rd, .core c | .ballocn rd, .core c =>
    s.setCore c (({ (s.core c) with wait := .run }).setReg rd h)
  | .held sl b, .ctx c =>
    match s.anv.ctx.get? c with
    | none => s.release h
    | some x =>
      match (x.slot sl).blocks.find? (fun k => k.num == b) with
      | none => s.release h
      | some k =>
        match giveItem h k.items with
        | none => s.release h
        | some is =>
          let y := { (x.slot sl) with blocks := (x.slot sl).blocks.map (fun q => if q.num = b then { q with items := is } else q) }
          { s with anv := { s.anv with ctx := AMap.set s.anv.ctx c (x.setSlot sl y) } }
  | _, _ => s

/-- The unused credit of a class: set-aside billets that hold no cell (R166). -/
def Sw.unusedCredit (s : Sw) (p c : Nat) : Nat :=
  let x := s.credit p c
  (x.res - x.resUsed) + x.shFree

/-- A plain port's PFC follows its set-aside cells (12 R512). -/
def Sw.pfcCheck (s : Sw) (p c : Nat) : Sw :=
  let x := s.port p
  if !x.plain ∨ x.st ≠ .up ∨ s.ruled c then s
  else
    let u := s.unusedCredit p c
    let xoff := s.rd L.linkPfcXoff
    let xon := max xoff (s.rd L.linkPfcXon)
    if u < xoff ∧ (x.pfcSent.get? c).isNone then
      (s.send (.pfc p c 0xFFFF)).updPort p (fun y => { y with pfcSent := AMap.set y.pfcSent c (deadline s.now 20000) })
    else if xon ≤ u ∧ (x.pfcSent.get? c).isSome then
      (s.send (.pfc p c 0)).updPort p (fun y => { y with pfcSent := AMap.del y.pfcSent c })
    else s

/-- A port and class asks for a step of 16 shared billets where its unused credit is below 16: from the first pool that
admits all 16 under step 3 of R162 (R166). -/
def Sw.askStep (s : Sw) (p c : Nat) (force : Bool) : Sw :=
  let d := laneDie p
  let x := s.credit p c
  if s.ruled c ∨ !(s.portUp p) ∨ !(force || x.want || decide (s.unusedCredit p c < 16)) then s
  else
    let bytes := s.ownerBytes d (.ingress (Fin.ofNat 512 p) (Fin.ofNat 8 c))
    let fits (q : Nat) : Bool := decide (s.outstanding d q + 16 ≤ s.bilAvail d q ∧ bytes + 16 * bilSize q ≤ s.rd L.bilPortMax p)
    (match if s.bil.rebuild.contains d then none else (List.range 5).find? fits with
    | some q => s.setCredit p c { x with
        shFree := x.shFree + 16, big := if q = 0 then x.big else x.big ++ List.replicate 16 q
        total := (x.total + 16) % 65536, want := false }
    | none => s.setCredit p c { x with want := true }).pfcCheck p c

/-- The reserve of a port and class that is Up changes: a larger one is set aside and offered at once; of a smaller one
nothing that was offered is taken back (R166). -/
def Sw.reserveSync (s : Sw) (p c : Nat) : Sw :=
  let x := s.credit p c
  let n := s.reserveOf p c
  if s.portUp p ∧ x.res < n then s.setCredit p c { x with res := n, total := (x.total + (n - x.res)) % 65536 } else s

/-- Change the packet numbered `i`. -/
def Sw.updPkt (s : Sw) (i : Nat) (f : DPkt → DPkt) : Sw :=
  { s with fab := { s.fab with pkts := s.fab.pkts.map (fun k => if k.id = i then f k else k) } }

/-- The packet numbered `i`. -/
def Sw.pkt? (s : Sw) (i : Nat) : Option DPkt := s.fab.pkts.find? (fun k => k.id == i)

/-- What a packet that is leaving carries of its payload when it fails: nothing beyond the cells that reached its egress die
(03 R125, R126). -/
def DPkt.reached (k : DPkt) : Bytes := if k.moved = k.cells then k.pay else k.pay.take (256 * k.moved - 32)

/-- The copies of a packet whose poison is sent end with poison (03 R141): those made at egress, and those whose end word
has not come. -/
def Sw.poisonCopies (s : Sw) (i : Nat) : Sw :=
  { s with fab := { s.fab with pkts := s.fab.pkts.map (fun k =>
      if k.orig = some i ∧ (k.mirEg ∨ k.fin.isNone) then { k with fin := some false, here := k.cells } else k) } }

/-- One billet for each of `n` cells whatever the quotas: of the pools named, then of pool 0, then of any larger one. All of
them, or none. -/
def Sw.forceCells : Nat → List Nat → Sw → Nat → Owner → Option Ten → Grants
  | 0, _, s, _, _, _ => .ok ([], s)
  | n + 1, qs, s, d, o, t =>
    match ((qs.take 1 ++ List.range 5).find? (fun q => decide (0 < s.bilFree d q))) with
    | none => .error false
    | some q =>
      match s.grant d q o t with
      | .got h s' => (Sw.forceCells n (qs.drop 1) s' d o t).map (fun r => (h :: r.1, r.2))
      | .pending => .error true
      | _ => .error false

/-- It came in at a lane port. -/
def From.atPort : From → Bool
  | .port _ => true
  | _ => false

/-- The cells of packet `k` get their billets on its ingress die, or none of them does: those on credit and the ruled ones
are always stored, others are admitted under R162 (R167, Table 4.4). -/
def Sw.cellsFor (s : Sw) (k : DPkt) (d : Nat) (o : Owner) (t : Option Ten) : Grants :=
  if s.bil.rebuild.contains d then .error true
  else if 0 < k.inRes + k.inSh ∨ (s.ruled (pClass k.hdr) && k.src.atPort) then
    Sw.forceCells k.cells [] s d o t
  else Sw.allocCells k.cells s d o t

/-- Try to serve a request that waits; none where it still has to wait. The request of a packet that is gone is dropped; a
mirrored copy that finds no admissible billet once its rebuild or refill is over is dropped too, and counted (Table 4.4). -/
def Sw.serve (s : Sw) (r : BilReq) : Option Sw :=
  let gone (s : Sw) : Sw := { s with bil := { s.bil with waits := eraseOne r s.bil.waits } }
  match r.who with
  | .cells i => match s.pkt? i with
    | none => some (gone s)
    | some k => match s.cellsFor k r.die r.owner r.ten, k.mir with
      | .ok x, _ => some ((gone x.2).updPkt i (fun k => { k with inBil := x.1, wait := false }))
      | .error false, some m =>
        let s := gone s
        some (({ s with fab := { s.fab with pkts := s.fab.pkts.filter (fun k => k.id != i) } } : Sw).inc (L.mirDropped.atIdx m))
      | .error _, _ => none
  | .xfer i => match s.pkt? i with
    | none => some (gone s)
    | some k => (Sw.allocCells k.cells s r.die r.owner r.ten).toOption.map (fun x => (gone x.2).updPkt i (fun k => { k with egBil := x.1 }))
  | .ballocn _ => match s.allocate r.die r.owner r.ten r.bytes with
    | .got h s' => some ((gone s').grantTo r h)
    | .pending => none
    | _ => some ((gone s).grantTo r nullHandle)
  | _ => match s.allocate r.die r.owner r.ten r.bytes with
    | .got h s' => some ((gone s').grantTo r h)
    | _ => none

/-- A requester's number within its level (R164). -/
def ownerNum : Owner → Nat
  | .ingress p c | .egress p c => 8 * p.val + c.val
  | .ctx c => c.val
  | .core c => c.val
  | .target i => i.val
  | .bridge d => 4096 + d.val
  | .toOwn i => 4096 + i.val
  | .mirror k => k.val

/-- Where the round-robin pointer of a request's level stands, and how far behind it the requester is. -/
def waitKey (r : BilReq) : Nat := 48 * r.die + 8 * poolFor r.bytes + ownerRank r.owner
def Sw.rrDist (s : Sw) (r : BilReq) : Nat := (ownerNum r.owner + 65536 - s.bil.rr.getD (waitKey r) 0) % 65536

/-- The waiting requests in the order of R164: by level, within one by round robin, within a requester as they came. -/
def Sw.waitOrder (s : Sw) : List BilReq :=
  let ins (r : BilReq) (l : List BilReq) : List BilReq :=
    l.takeWhile (fun x => decide (s.rrDist x ≤ s.rrDist r)) ++ r :: l.dropWhile (fun x => decide (s.rrDist x ≤ s.rrDist r))
  (List.range 6).flatMap (fun k => (s.bil.waits.filter (fun r => ownerRank r.owner == k + 1)).foldl (fun l r => ins r l) [])

/-- The first waiting request that can be served is served, and its level's pointer moves past it. -/
def Sw.retryOne (s : Sw) : Option Sw :=
  s.waitOrder.findSome? (fun r => (s.serve r).map (fun w =>
    { w with bil := { w.bil with rr := AMap.set w.bil.rr (waitKey r) (ownerNum r.owner + 1) } }))

/-- Requests that wait are retried in the order of R164, and waiting credit steps are asked for again (R162, R166). -/
def Sw.bilRetry (s : Sw) : Sw :=
  let s := forN s.bil.waits.length s (fun _ s => s.retryOne.getD s)
  s.cred.foldl (fun s kv => if kv.2.want then s.askStep (kv.1 / 8) (kv.1 % 8) false else s) s

/-- A request joins those that wait (R162 step 4). -/
def Sw.addWait (s : Sw) (d : Nat) (o : Owner) (t : Option Ten) (n : Nat) (who : Waiter) : Sw :=
  { s with bil := { s.bil with waits := s.bil.waits ++ [⟨d, o, t, n, s.now, false, who⟩] } }

/-- Every ring and cache of a die is rebuilt with all handles free (R155); the lines of its rings are written anew. -/
def Sw.rebuildDie (s : Sw) (d : Nat) : Sw :=
  { s with
    hbmBad := s.hbmBad.filter (fun l => !(decide (s.sysBase d ≤ 64 * l ∧ 64 * l < s.sysBase d + 32 * 2 ^ 20)))
    bil := { s.bil with
      stores := (List.range 6).foldl (fun m p => AMap.set m (8 * d + p) (freshStore (s.bilCount d p))) s.bil.stores
      granted := s.bil.granted.filter (fun g => handleDie g.1 != d)
      freed := s.bil.freed.filter (fun h => handleDie h != d)
      data := memZeroRange s.bil.data (65536 * (d * 2 ^ 30)) (65536 * ((d + 1) * 2 ^ 30)) } }

end Sys2Proof.Machine
end

