-- ==== Sys2Proof/Machine/FabricOps.lean ====
section
/-! DEFINITION. The fabric's shared operations: routes and uplink choice (03 R111 to R119), ingress checks (14 R565 to
R569), placing packets, answers of the switch's own targets (02 R62, R63, R80, 13, 15 R610), mirroring. -/

namespace Sys2Proof.Machine

/-- Telemetry of a received and of a sent packet (15 R625). -/
def Sw.countRx (s : Sw) (p : Option Nat) (bytes : Nat) : Sw :=
  match p with
  | some p => ((s.inc L.telPortRxBytes p bytes).inc L.telPortRxPkts p).inc96 L.telDevRxBytes bytes
  | none => s
def Sw.countTx (s : Sw) (p bytes : Nat) : Sw :=
  ((s.inc L.telPortTxBytes p bytes).inc L.telPortTxPkts p).inc96 L.telDevTxBytes bytes

/-- The Ethernet frame of a packet of class `c` at a port (12 R509): destination and source address, on a plain port a tag of
802.1Q, EtherType, packet, filler to 64 bytes, FCS, which is inverted for a poisoned packet (02 R75); fields of more than a
byte go most significant byte first, the FCS least (PRESUMED, log 136). -/
def Sw.ethFrame (s : Sw) (p c : Nat) (packet : Bytes) (good : Bool := true) : Bytes :=
  let x := s.port p
  let be (n v : Nat) : Bytes := (leBytes n v).reverse
  let head := be 6 x.dmac ++ be 6 (s.ident.smac + p) ++ (if x.plain then be 2 0x8100 ++ be 2 (c * 8192) else []) ++
    be 2 (s.rd L.fabEthEthertype) ++ packet
  let body := slice head 0 (max 60 head.length)
  body ++ leBytes 4 (if good then crc32 body else 0xFFFFFFFF - crc32 body)

/-- For each lane that a port runs on, whether its transmitter inverts (12 R488). -/
def Sw.txInv (s : Sw) (p : Nat) : List Bool := (List.range (s.port p).width).map (fun i => bit (s.rd L.linkLanePol (p + i)) 0)

/-- In an Ethernet mode a packet leaves in a frame. -/
def Sw.frameTx (s : Sw) (p c : Nat) (packet : Bytes) (good : Bool := true) : Sw :=
  if (s.port p).mode = 1 then s else s.send (.frame p (s.txInv p) (s.ethFrame p c packet good))

/-- The bytes of a data packet: header, payload, end word (02 Tables 2.1, R71). -/
def dataWire (h : Word256) (pay : Bytes) (good : Bool) : Bytes := wordBytes h ++ pay ++ leBytes 8 (mkEnd h pay good).toNat

/-- A data packet goes on the wire of a port with its end word. -/
def Sw.putData (s : Sw) (p : Nat) (h : Word256) (pay : Bytes) (good : Bool) : Sw :=
  ((s.send (.data p h pay (mkEnd h pay good))).frameTx p (pClass h) (dataWire h pay good) good).countTx p (dataBytes (hPlen h))

/-- A RESULT of the part, no copy of one, is lost inside it: its collective hears of it as the command ends (10 R431). -/
def Sw.loseRes (s : Sw) (h : Word256) : Sw :=
  if pKind h = 6 ∧ hf h 12 1 = 0 ∧ s.own (pSrc h) then { s with fab := { s.fab with lostRes := s.fab.lostRes ++ [h] } } else s

/-! ### Routes -/

/-- The forge pair link between two Forge dies (Table 1.2). -/
def pairLink (a b : Nat) : Nat :=
  match min a b, max a b with
  | 0, 1 => 0 | 0, 2 => 1 | 0, 3 => 2 | 1, 2 => 3 | 1, 3 => 4 | _, _ => 5

/-- Traffic between two Forge dies is cut: they differ and their link is stopped (17 R681). -/
def Sw.pairStopped (s : Sw) (a b : Nat) : Bool := a != b && s.pins.d2dFatal.contains (pairLink a b)

/-- The eligible members of an uplink set for a packet entering on die `d` (R114, 17 R681), in ascending port order. -/
def Sw.members (s : Sw) (d set : Nat) : List Nat :=
  (((s.elems L.fwdPortRole).filter (fun e => e.2 == 2)).map Prod.fst).filter (fun p =>
    bit (s.rd (L.fwdUset.at set)) p && s.portUp p && s.rd L.fwdSprayWeight p != 0 && !s.pairStopped d (laneDie p))

/-- Twice a member's effective weight: its configured weight scaled on a reduced port (12 R518), halved for 10 µs after a
hot report (R117). -/
def Sw.weight2 (s : Sw) (d p c : Nat) : Nat :=
  let w := s.rd L.fwdSprayWeight p
  let x := s.port p
  let cfg := s.rd L.linkPortWidth p
  let w1 := if x.reduced ∧ 0 < cfg then max 1 (w * x.width / cfg) else w
  match s.fab.halve.get? (4096 * d + 8 * p + c) with
  | some t => if s.now < t then w1 else 2 * w1
  | none => 2 * w1

/-- The member that draw `x` below the total weight falls on. -/
def pickWeighted (w : Nat → Nat) : List Nat → Nat → Option Nat
  | [], _ => none
  | p :: ps, x => if x < w p then some p else pickWeighted w ps (x - w p)

/-- One weighted random draw: a free value (R115, log 3). -/
def Sw.drawMember (s : Sw) (d c : Nat) (ms : List Nat) : Option Nat × Sw :=
  let r := s.draw
  let tot := sumBy (fun p => s.weight2 d p c) ms
  (if tot = 0 then none else pickWeighted (fun p => s.weight2 d p c) ms (r.1 % tot), r.2)

/-- Cells waiting in the egress buffers of a port and class. -/
def Sw.depthOf (s : Sw) (p c : Nat) : Nat :=
  sumBy (fun k => if k.out = .port (Fin.ofNat 512 p) ∧ pClass k.hdr = c ∧ k.mir.isNone then k.moved else 0) s.fab.pkts

/-- A depth report read by die `d` (R116, R117): the live counter, or the die's copy. A report above `fwd.spray.hot`
halves the weight for 10 µs. -/
def Sw.report (s : Sw) (d p c : Nat) : Nat × Sw :=
  let n := if laneDie p = d then s.depthOf p c else s.fab.depth.getD (4096 * d + 8 * p + c) 0
  let hot := s.rd L.fwdSprayHot
  (n, if hot ≠ 0 ∧ hot < n then
        { s with fab := { s.fab with halve := AMap.set s.fab.halve (4096 * d + 8 * p + c) (deadline s.now 10000) } }
      else s)

/-- A sprayed choice: two draws, the less loaded, the first on a tie (R115). -/
def Sw.spray (s : Sw) (d c : Nat) (ms : List Nat) : Option Nat × Sw :=
  let a := s.drawMember d c ms
  let b := a.2.drawMember d c ms
  match a.1, b.1 with
  | some p, some q =>
    let rp := b.2.report d p c
    let rq := rp.2.report d q c
    (some (if rq.1 < rp.1 then q else p), rq.2)
  | x, _ => (x, b.2)

/-- The flow hash of R118. -/
def pathHash (entropy src id cls : Nat) : Nat :=
  Nat.xor (Nat.xor (Nat.xor (Nat.xor (Nat.xor entropy (src / 256)) (src % 256)) (id / 256)) (id % 256)) cls

/-- Where a packet is routed: the switch's own target, a port, or nowhere (R111, R112). -/
inductive Route
  | own (idx : Nat)
  | port (p : Nat)
  | none
deriving DecidableEq, Repr

/-- Route of destination `id` for a packet of class `c` from die `d`. `sprayOk`: a data packet whose class may be sprayed.
`near`: the dies it may leave by. -/
def Sw.route (s : Sw) (d id c src entropy : Nat) (sprayOk : Bool) (near : List Nat := [0, 1, 2, 3]) : Route × Sw :=
  if s.own id then (.own (id % 32), s)
  else
    let e := s.rd L.fwdRoute id
    match fld e 14 2 with
    | 1 =>
      let p := fld e 0 9
      if !s.portCfg p ∨ s.role p = 0 ∨ s.role p = 3 ∨ s.pairStopped d (laneDie p) then (.none, s) else (.port p, s)
    | 2 =>
      let ms := (s.members d (fld e 0 6)).filter (fun p => near.contains (laneDie p))
      if ms.isEmpty then (.none, s)
      else if sprayOk ∧ bit (s.rd L.fwdSprayMode) c ∧ !s.ruled c then
        let r := s.spray d c ms
        (match r.1 with | some p => .port p | .none => .none, r.2)
      else (.port (ms.getD (pathHash entropy src id c % ms.length) 0), s)
    | _ => (.none, s)

/-! ### Ingress checks (14 R565 to R569) -/

/-- The `ten.ep` kind and tenancy of an ID; the switch's own block is kind 2 whatever its entry holds (R564). -/
def Sw.epKind (s : Sw) (id : Nat) : Nat :=
  if s.own id then 2 else let k := s.rdf L.tenEp id 30 2; if k = 3 then 0 else k
def Sw.epTen (s : Sw) (id : Nat) : Nat := s.rdf L.tenEp id 16 8

/-- Check 1 (source) for a packet entering at port `p` (none: not a lane port). -/
def Sw.check1 (s : Sw) (p : Option Nat) (src t : Nat) : Bool :=
  match p with
  | some p =>
    if s.role p = 1 then
      s.epKind src == 1 && s.epTen src == t && s.rdf L.tenEp src 9 1 == 1 && s.rdf L.tenEp src 0 9 == p &&
        boundTo (s.rd L.tenPort p) t
    else (s.epKind src == 1 && s.epTen src == t) || s.epKind src == 2
  | none => (s.epKind src == 1 && s.epTen src == t) || s.epKind src == 2

/-- Check 2 (state): admission of `t` is open at die `d`. -/
def Sw.check2 (s : Sw) (d t : Nat) : Bool :=
  (s.tenSt t).open_.contains d || (s.tenSt t).closing.any (fun c => c.1 == d && decide (s.now < c.2))

/-- Every 1 GiB granule from `lo` to `hi` (bytes) satisfies `f`. -/
def granulesAll (lo hi : Nat) (f : Nat → Bool) : Bool :=
  (List.range (if hi ≤ lo then 0 else (hi - 1) / gib - lo / gib + 1)).all (fun i => f (lo / gib + i))

/-- Check 3 (destination): bytes `off` to `off` + `len` - 1 of `dst` in tenancy `t`. -/
def Sw.check3 (s : Sw) (dst off len t : Nat) : Bool :=
  if s.own dst then
    let i := dst % 32
    if i = 0 then true
    else if i = 1 then granulesAll off (off + len) (fun g => boundTo (s.rd L.tenHbm g) t)
    else if 4 ≤ i ∧ i < 20 then
      let pa := cxlOf i off
      granulesAll pa.2 (pa.2 + len) (fun g => boundTo (s.rd L.tenCxl (4096 * pa.1 + g)) t)
    else true
  else if s.epKind dst = 2 then true
  else
    let ol := s.rdf L.tenEp dst 24 6
    s.epKind dst == 1 && s.epTen dst == t && (ol == 0 || decide (40 ≤ ol) || decide (len = 0 ∨ off + len ≤ 2 ^ ol))

/-- Bytes a data packet touches at its destination: those it writes or reads. -/
def touched (w : Word256) : Nat := if pKind w = 1 then 64 * kRlen w else validLen w

/-! ### Placing packets -/

/-- Attachment of a packet from a lane port (R103, R104): its pair, with 128 added for the odd one of two 1-lane
ports (its place in the rings of R106: DESIGN CHOICE, log 112); a wide port owns those of all its configured lanes and takes
them in turn, the lowest first (DESIGN CHOICE, log 113). -/
def Sw.portAtt (s : Sw) (p : Nat) : Nat × Sw :=
  let w := s.rd L.linkPortWidth p
  if w ≤ 1 then ((if p % 2 = 1 then 128 else 0) + p % 128 / 2, s)
  else if w = 2 then (p % 128 / 2, s)
  else
    let r := s.fab.rotor.getD p 0
    (p % 128 / 2 + r % (w / 2), { s with fab := { s.fab with rotor := AMap.set s.fab.rotor p (r + 1) } })

/-- Output attachments of an egress port on its die. -/
def Sw.outAtts (s : Sw) (p : Nat) : List Nat :=
  let w := s.rd L.linkPortWidth p
  if w ≤ 1 then [(if p % 2 = 1 then 128 else 0) + p % 128 / 2] else (List.range (w / 2)).map (fun i => p % 128 / 2 + i)

/-- First of the 18 attachments of die `d` for the link to die `e` (Table 3.1). -/
def linkAtt (d e : Nat) : Nat := 64 + 18 * (if e < d then e else e - 1)

/-- The Forge dies that hold blocks, in rising order; 0 acts as all four (07 R264, R303). -/
def Sw.anvilDies (s : Sw) : List Nat :=
  let v := s.rd L.anvilDies % 16
  (List.range 4).filter (fun k => v == 0 || bit v k)

/-- The die that takes a packet to the switch's own target, for one that entered on die `d`: the die of the block for
CONTRIB, PARTIAL and RESULT (07 R264), of the HBM region for HBM, else the ingress die. -/
def Sw.blockDie (s : Sw) (b : Nat) : Nat :=
  let ds := s.anvilDies
  ds.getD (b % ds.length) 0

/-- The target of a data packet to own ID index `i` (Table 2.6A). -/
def Sw.ownOut (s : Sw) (d i : Nat) (w : Word256) : Out :=
  if i = 1 then .hbm
  else if 4 ≤ i ∧ i < 20 then .cxl (Fin.ofNat 4 ((i - 4) / 4))
  else if 4 ≤ pKind w then .service (Fin.ofNat 4 (s.blockDie (hOff w / 65536)))
  else .service (Fin.ofNat 4 d)

/-- Egress die of an output. -/
def Sw.outDie (s : Sw) (d : Nat) (o : Out) (off : Nat) : Nat :=
  match o with
  | .port p => laneDie p
  | .hbm => s.hbmDie off
  | .cxl _ => d
  | .service k => k

/-- A data packet joins the fabric. -/
def Sw.place (s : Sw) (k : DPkt) : Sw :=
  { s with fab := { s.fab with nextId := s.fab.nextId + 1, pkts := s.fab.pkts ++ [{ k with id := s.fab.nextId + 1 }] } }

/-- A control packet joins the control crossbar's store (R108, 04 R151). -/
def Sw.placeCtl (s : Sw) (src : From) (d : Nat) (o : Out) (e : Nat) (w : Word256) (att : Nat := 124) : Sw :=
  { s with fab := { s.fab with
      nextId := s.fab.nextId + 1
      ctl := s.fab.ctl ++ [{ id := s.fab.nextId + 1, pkt := w, src := src, inDie := Fin.ofNat 4 d, out := o
                             egDie := Fin.ofNat 4 e, att := att }] } }

/-- A packet leaves the fabric with everything it holds. -/
def Sw.dropPkt (s : Sw) (i : Nat) : Sw :=
  { s with fab := { s.fab with
      pkts := s.fab.pkts.filter (fun k => k.id != i)
      xm := s.fab.xm.filter (fun m => m.pkt != i) }
           bil := { s.bil with waits := s.bil.waits.filter (fun r => decide (r.who ≠ .cells i ∧ r.who ≠ .xfer i)) } }

/-- A data packet that arrives joins the fabric under the number its reception was given. -/
def Sw.placeAs (s : Sw) (k : DPkt) : Sw := { s with fab := { s.fab with pkts := s.fab.pkts ++ [k] } }

/-- The next sequence number of a flow in which the part sends a packet of tenancy `t`, which is then the flow's (R88; DEDUCED,
log 132). -/
def Sw.nextSeq (s : Sw) (k t : Nat) : Nat × Sw :=
  let n := s.fab.oseq.getD k 0
  (n, { s with fab := { s.fab with oseq := AMap.put s.fab.oseq k ((n + 1) % 2 ^ 32) 0, oten := AMap.set s.fab.oten k t } })

/-- Which checks a packet the part makes is subject to (14 R566): all of 2 and 3; only 3, for those that end a
tenancy's work. -/
inductive Checks
  | both | ending
deriving DecidableEq, Repr

/-- A packet of the part fails a check: counted, and for check 3 a violation (R567, R568). -/
def Sw.ownFail (s : Sw) (d t src dst cls ent chk : Nat) : Sw :=
  if chk = 2 then s.inc (L.tenQdrop.at d)
  else (s.inc (L.tenViol.at d)).fault 0x13 d (some t) (detP src dst ent cls 0 chk) 0

/-- The die that takes a control packet to the switch itself which entered on die `d`: that of the counter for an AGREE (11
R452). -/
def ctlDie (d : Nat) (w : Word256) : Nat := if pKind w = 3 then gCtr w / 512 else d

/-- The part sends a control packet from die `d` (14 R566, R111). -/
def Sw.sendCtl (s : Sw) (d : Nat) (w : Word256) (ck : Checks) : Sw :=
  let dst := cDst w
  let t := cTen w
  if !(s.own (pSrc w) && s.own dst) && ck == .both && pKind w != 7 && !s.check2 d t then s.ownFail d t (pSrc w) dst (pClass w) 0 2
  else if !(s.own (pSrc w) && s.own dst) && pKind w != 7 && !s.check3 dst 0 0 t then s.ownFail d t (pSrc w) dst (pClass w) 0 3
  else
    let r := s.route d dst (pClass w) (pSrc w) 0 false
    match r.1 with
    | .own _ => r.2.placeCtl (.service (Fin.ofNat 4 d)) d (.service (Fin.ofNat 4 (ctlDie d w))) (ctlDie d w) w
    | .port p => r.2.placeCtl (.service (Fin.ofNat 4 d)) d (.port (Fin.ofNat 512 p)) (laneDie p) w
    | .none => r.2.inc (L.fwdDropNoroute.at d)

/-- The attachment by which a packet of the part enters its die's crossbar (Table 3.1): Memory for an answer from its HBM,
Bridge for one from its CXL ranges, Service for all else; which of them, by number (DESIGN CHOICE, log 113). -/
def Sw.ownAtt (s : Sw) (w : Word256) (n : Nat) : Nat :=
  let i := pSrc w % 32
  if !s.own (pSrc w) then 124 + n % 4 else if i = 1 then 122 + n % 2 else if 4 ≤ i ∧ i < 20 then 118 + n % 4 else 124 + n % 4

/-- The cells of packet `i` ask for billets on die `d` and wait until they get them (04 R155, R162, Table 4.4). -/
def Sw.askCells (s : Sw) (i d : Nat) (o : Owner) (t : Option Ten) : Sw :=
  match s.pkt? i with
  | none => s
  | some k => match s.cellsFor k d o t with
    | .ok r => r.2.updPkt i (fun k => { k with inBil := r.1 })
    | .error _ => (s.updPkt i (fun k => { k with wait := true })).addWait d o t 256 (.cells i)

/-- The part sends a data packet from die `d`: its sequence number is the next of its flow, its check is computed; its
cells take billets charged to `own` and its tenancy, and it waits for them where none is admitted (04 Tables 4.2 and 4.4). A
payload that passes the last offset of its destination is sent as it is (02 R100; DESIGN CHOICE, log 69).
`fan` is the fan-out set it belongs to (R107). -/
def Sw.sendData (s : Sw) (d : Nat) (w : Word256) (pay : Bytes) (ck : Checks)
    (own : Owner := .target (Fin.ofNat 32 (pSrc w))) (fan : Option Nat := none) : Sw :=
  let dst := hDst w
  let t := hTen w
  let internal := s.own (pSrc w) && s.own dst
  if !internal && ck == .both && !s.check2 d t then
    (s.ownFail d t (pSrc w) dst (pClass w) (hEntropy w) 2).loseRes w
  else if !internal && !s.check3 dst (hOff w) (touched w) t then
    (s.ownFail d t (pSrc w) dst (pClass w) (hEntropy w) 3).loseRes w
  else
    let q := s.nextSeq (hFlow w) t
    let w := sealPkt (hset w 120 32 q.1)
    let r := q.2.route d dst (pClass w) (pSrc w) (hEntropy w) true
    let n := cellsOf (hPlen w)
    let mk (o : Out) : Sw :=
      let s := r.2.place
        { id := 0, hdr := w, pay := pay, fin := some true, src := .service (Fin.ofNat 4 d), inDie := Fin.ofNat 4 d, out := o,
          egDie := Fin.ofNat 4 (r.2.outDie d o (hOff w)), cells := n, here := n
          att := r.2.ownAtt w (fan.getD r.2.fab.nextId), fan := fan }
      s.askCells s.fab.nextId d own (some (BitVec.ofNat 8 t))
    match r.1 with
    | .own i => mk (r.2.ownOut d i w)
    | .port p => mk (.port (Fin.ofNat 512 p))
    | .none => (r.2.inc (L.fwdDropNoroute.at d)).loseRes w

/-- An answer to a data packet, where it asks for one: an ACK for a WRITE with `ackreq`, a READ_RESP for a READ_REQ
(R62, R63). `inc` is the incarnation it carries (R83). -/
def Sw.answer (s : Sw) (d : Nat) (h : Word256) (status inc : Nat) (data : Bytes) (ck : Checks) : Sw :=
  if pKind h = 1 then s.sendData d (mkReadResp h status inc (data.length / 64)) data ck
  else if pKind h = 0 ∧ hAckreq h then s.sendCtl d (mkAck h status inc) ck
  else s

/-- Whether a data packet asks for an answer (R63). -/
def asks (h : Word256) : Bool := pKind h == 1 || (pKind h == 0 && hAckreq h)

/-! ### Mirroring (R138 to R142) -/

/-- The flow pattern word of a packet (R139). -/
def flowPat (w : Word256) : Nat := hTen w * 2 ^ 40 + pClass w * 2 ^ 32 + hDst w * 2 ^ 16 + pSrc w

/-- Cells in a session's copy queue. -/
def Sw.mirCells (s : Sw) (k : Nat) : Nat := sumBy (fun p => if p.mir = some k then p.cells else 0) s.fab.pkts

/-- A copy of packet `p` for session `k`, where the count has just reached `mir.sample` (DEDUCED, log 128): `mir` 1, truncated
where `mir.trunc` says so (R140, R141). Its cells stand on the die where it was taken, and cross to its analysis port as those
of any packet do (R109); copies leave in the order in which they get there (DESIGN CHOICE, log 114). A `mir.trunc` above 64
truncates nothing (DESIGN CHOICE, log 145). -/
def Sw.mirrorOne (s : Sw) (k : Nat) (p : DPkt) (egress : Bool) : Sw :=
  let n := (s.fab.mirCnt.getD k 0 + 1) % 2 ^ 32
  let every := max 1 (s.rd (L.mirSample.atIdx k))
  if n ≠ every then { s with fab := { s.fab with mirCnt := AMap.put s.fab.mirCnt k n 0 } }
  else
    let s := { s with fab := { s.fab with mirCnt := AMap.put s.fab.mirCnt k 0 0 } }
    let dest := s.rd (L.mirDest.atIdx k)
    if 512 ≤ dest ∨ s.role dest ≠ 3 then s
    else
      let tr := s.rd (L.mirTrunc.atIdx k)
      let cut := tr ≠ 0 ∧ tr < hPlen p.hdr
      let w := hset p.hdr 12 1 1
      let w := if cut then hset (hset w 40 7 tr) 13 1 1 else w
      let c := cellsOf (hPlen w)
      let d : Die := if egress then p.egDie else p.inDie
      let o : Owner := .mirror (Fin.ofNat 8 k)
      let put (hs : List Nat) (s : Sw) : Sw := s.place
        { id := 0, hdr := sealPkt w, pay := p.pay.take (64 * hPlen w), fin := p.fin, src := p.src, inDie := d
          out := .port (Fin.ofNat 512 dest), egDie := Fin.ofNat 4 (laneDie dest), cells := c
          here := if p.fin.isSome then c else 1, att := if egress then 124 + p.id % 4 else p.att, inBil := hs
          mir := some k, mirEg := egress, orig := some p.id }
      if 1024 ≤ s.mirCells k then s.inc (L.mirDropped.atIdx k)
      else match Sw.allocCells c s d o none with
      | .ok (hs, s) => put hs s
      | .error true => let s := put [] s; s.askCells s.fab.nextId d o none
      | .error false => s.inc (L.mirDropped.atIdx k)

/-- The sessions copy a packet at its ingress (`egress` false) or egress at port `port` (R138). -/
def Sw.mirror (s : Sw) (egress : Bool) (port : Option Nat) (p : DPkt) : Sw :=
  (List.range 8).foldl (fun s k =>
    let kind := s.rd (L.mirKind.atIdx k)
    let here := port == some (s.rd (L.mirPort.atIdx k))
    let m := s.rd (L.mirMask.atIdx k)
    let match4 := Nat.land (Nat.xor (flowPat p.hdr) (s.rd (L.mirMatch.atIdx k))) m == 0
    if (if egress then (kind == 2 || kind == 3) && here
        else ((kind == 1 || kind == 3) && here) || (kind == 4 && match4))
    then s.mirrorOne k p egress else s) s

end Sys2Proof.Machine
end

