-- ==== Sys2Proof/Machine/Deliver.lean ====
section
/-! DEFINITION. Delivery: the switch's own targets (02 R62 to R80, 08, 13 R548 to R550, 15 R610), held SIGNALs (11 R471
to R476) and the resequencer (03 R129 to R134). -/

namespace Sys2Proof.Machine

/-! ### CXL accesses (13 R548 to R550) -/

/-- How a CXL access to bytes `a` to `a` + `n` - 1 of port `p` is judged when it arrives: none where it is served. -/
def Sw.cxlJudge (s : Sw) (p a n : Nat) : Option Nat :=
  let b := s.bport p
  if p = 0 ∧ s.hostRole then some stDenied
  else if b.st = .down then some (if b.released then stDenied else stTargetReset)
  else if b.st ≠ .ready ∨ b.cap < a + n then some stDenied
  else none

/-- The timeout of a request sent now; none for a setting of 0. -/
def Sw.dueIn (s : Sw) (ns : Nat) : Option Nat := if ns = 0 then none else some (deadline s.now ns)

/-- An answer of the bridge goes back to the die its request came from, over link 14 + `d`; none crosses a stopped one (01 R27,
13 R532; DESIGN CHOICE, log 156). -/
def Sw.bridgeAnswer (s : Sw) (d : Nat) (h : Word256) (status inc : Nat) (data : Bytes) : Sw :=
  if s.pins.d2dFatal.contains (14 + d) then s else s.answer d h status inc data .both

/-- The bridge turns an access into one request per line (R549). -/
def Sw.cxlStart (s : Sw) (p a units : Nat) (wr : Option Bytes) (req : Option Word256) (die : Nat := 0) : Sw :=
  let lines := match wr with
    | some bs => if bs.isEmpty then [] else (List.range ((a + bs.length - 1) / 64 - a / 64 + 1)).map (fun i => a / 64 + i)
    | none => (List.range units).map (fun i => a / 64 + i)
  let s := lines.foldl (fun s l => s.touchCxl p (64 * l)) s
  { s with brg := { s.brg with cxl := s.brg.cxl ++
      [{ port := p, addr := a, units := units, wr := wr, lines := lines, req := req, die := die, due := s.dueIn (s.rd L.brgMemToNs) }] } }

/-- The bytes that a read has brought, line by line as each returned. -/
def CxlAcc.data (x : CxlAcc) : Bytes :=
  if x.wr.isSome then []
  else (List.range x.units).flatMap (fun i => ((x.got.find? (fun g => g.1 == x.addr / 64 + i)).map Prod.snd).getD (zeros 64))

/-- A finished access is answered (R549, R550). -/
def Sw.cxlFinish (s : Sw) (x : CxlAcc) : Sw :=
  match x.req with
  | none => s
  | some h =>
    let inc := s.incOf (incBport x.port)
    if x.poison then s.bridgeAnswer x.die h stUncorrectable inc []
    else s.bridgeAnswer x.die h stOk inc x.data

/-- One line of an access returns (R549, R550): the bytes of a write reach it unless a merge read was poisoned; a read takes the
line as it stands then. -/
def Sw.cxlLine (s : Sw) (x : CxlAcc) (line : Nat) (poison : Bool) : CxlAcc × Sw :=
  let x' := { x with lines := x.lines.filter (fun l => l != line) }
  match x.wr with
  | none => ({ x' with poison := x.poison || poison, got := x.got ++ [(line, s.cxlRd x.port (64 * line) 64)] }, s)
  | some bs =>
    let lo := max x.addr (64 * line)
    let hi := min (x.addr + bs.length) (64 * line + 64)
    let whole := lo == 64 * line && hi == 64 * line + 64
    if poison ∧ !whole then ({ x' with poison := true }, s)
    else (x', s.cxlWr x.port lo (slice bs (lo - x.addr) (hi - lo)))

/-! ### R80: what the switch's own block denies -/

/-- Index 2, 3 and 20 to 31 of the own block are reserved (Table 2.6A). -/
def ownReserved (i : Nat) : Bool := i == 2 || i == 3 || decide (20 ≤ i)

/-- The access to the own memory is unaligned, or touches a byte that it does not hold (R80, R62, 13 R548, 16 R636). A READ_REQ
with `rlen` 0 that is unaligned, or goes to a reserved ID, is denied: R62 and R80 both speak of it (DESIGN CHOICE, log 146). -/
def Sw.memDenies (s : Sw) (dst off len : Nat) : Bool :=
  let i := dst % 32
  if i = 1 then
    off % 64 != 0 || (decide (0 < len) && (decide (s.hbmSize < off + len) || !s.stackOk (s.hbmStack off).1 ||
      !s.stackOk (s.hbmStack (off + len - 1)).1))
  else if 4 ≤ i ∧ i < 20 then
    let pa := cxlOf i off
    off % 64 != 0 || (decide (0 < len) && s.cxlJudge pa.1 pa.2 len == some stDenied)
  else false

/-- Bytes that R80 looks at: a WRITE of no bytes is still addressed to its first one. -/
def r80Len (kind len : Nat) : Nat := if kind = 0 then max 1 len else len

/-- R80 denies a WRITE or READ_REQ to the own block. -/
def Sw.r80 (s : Sw) (dst off len : Nat) : Bool := s.own dst && (ownReserved (dst % 32) || s.memDenies dst off len)

/-- A kind that the own memory does not take (R80): discarded and counted, with no answer and no fault. -/
def Sw.r80Kind (s : Sw) (dst kind : Nat) : Bool :=
  let i := dst % 32
  s.own dst && (i == 1 || (decide (4 ≤ i) && decide (i < 20))) && decide (2 ≤ kind) && kind != 3

/-- The kinds that each window of the switch service ID takes, by offset (15 Table 15.8). -/
def Sw.serviceTakes (s : Sw) (kind off : Nat) : Bool :=
  let at_ (r : Reg) (n : Nat) : Bool := decide (s.rd r ≤ off ∧ off < s.rd r + n)
  match kind with
  | 0 => at_ L.lexMboxWin 4096 || at_ L.hearthJobWin 64 || at_ L.swageJobWin 64 || at_ L.brgMsiWin 4096 ||
      at_ L.swageStreamWin (16 * 2 ^ 32) || at_ L.brgRevWin (64 * 2 ^ 32)
  | 1 => at_ L.lexMboxWin 4096 || at_ L.brgRevWin (64 * 2 ^ 32)
  | 2 => at_ L.brgRetWin (4 * 2 ^ 20)
  | _ => true

/-- A packet is denied under R80: answered where it asks, else discarded and counted. -/
def Sw.deny (s : Sw) (d : Nat) (h : Word256) : Sw :=
  if asks h then s.answer d h stDenied (s.incOf (incForge d)) [] .both else s.inc (L.fabRxMalformed.at d)

/-! ### The switch's own targets -/

/-- HBM needs the stacks out of self-refresh (16 R646). -/
def Sw.parkedNow (s : Sw) : Bool := s.pwr.state == .parked

/-- A good packet for the switch's HBM is performed and answered (02 R59, R62, R63, 08 R316, R317). -/
def Sw.actHbm (s : Sw) (d : Nat) (h : Word256) (pay : Bytes) : Sw :=
  let off := hOff h
  let st := (s.hbmStack off).1
  let inc := s.incOf (incStack st)
  if pKind h = 1 ∧ kRlen h = 0 then s.answer d h stOk inc [] .both
  else if s.parkedNow then s.answer d h stBusy inc [] .both
  else if s.linesReset off (cdiv (touched h) 64) then s.answer d h stTargetReset inc [] .both
  else if pKind h = 1 then
    let r := s.readLines off (kRlen h) rdPacket
    match r.1 with
    | some bs => r.2.answer d h stOk inc bs .both
    | none => r.2.answer d h stUncorrectable inc [] .both
  else
    let r := s.writeLines off (pay.take (validLen h)) rdPacket
    r.2.answer d h (if r.1 then stOk else stUncorrectable) inc [] .both

/-- A good packet for a CXL range. A READ_REQ that passes the last offset of its ID reads on where memory is there (DESIGN CHOICE,
log 125). -/
def Sw.actCxl (s : Sw) (d : Nat) (h : Word256) (pay : Bytes) : Sw :=
  let pa := cxlOf (hDst h % 32) (hOff h)
  let inc := s.incOf (incBport pa.1)
  if pKind h = 1 ∧ kRlen h = 0 then s.answer d h stOk inc [] .both
  else match s.cxlJudge pa.1 pa.2 (touched h) with
    | some st => s.answer d h st inc [] .both
    | none =>
      if pKind h = 1 then s.cxlStart pa.1 pa.2 (kRlen h) none (some h) d
      else if validLen h = 0 then s.answer d h stOk inc [] .both
      else s.cxlStart pa.1 pa.2 0 (some (pay.take (validLen h))) (some h) d

/-- The bytes of the mailbox line of a slot (15 R614). -/
def Sw.mboxLine (s : Sw) (slot : Nat) : Bytes := leBytes 64 (s.mbox.getD slot 0)

/-- The mailbox admits a packet with this `src` that entered here (15 R613). -/
def Sw.mboxAdmits (s : Sw) (src : Nat) (i : From) : Bool :=
  s.epKind src == 2 && (match i with | .bridge _ => true | .port p => s.role p == 2 | .service _ => false)

/-- A good data packet reaches the service ID: a mailbox read that is admitted is answered with the lines as they stand
(15 R613, R615); the others wait for the unit of their window, in the billets they occupy (10 R421). -/
def Sw.actService (s : Sw) (d : Nat) (p : DPkt) : Sw :=
  let h := p.hdr
  let i := p.src
  if pKind h = 1 ∧ hOff h < 4096 ∧ !s.mboxAdmits (pSrc h) i then
    (s.inc (L.lexDenied.at 3)).answer d h stDenied (s.incOf incM) [] .both
  else if pKind h = 1 ∧ hOff h < 4096 then
    s.answer d h stOk (s.incOf incM) ((List.range (kRlen h)).flatMap (fun i => s.mboxLine (hOff h / 64 + i))) .both
  else if pKind h = 3 then s.inc (L.agrSigDiscard.at d)
  else if !s.serviceTakes (pKind h) (hOff h) then s.deny d h
  else { s with fab := { s.fab with
    pkts := s.fab.pkts.map (fun k => if k.id = p.id then { k with egBil := [] } else k)
    svcIn := s.fab.svcIn ++ [⟨h, p.pay, p.egBil, d⟩] } }

/-- A good packet reaches one of the switch's own targets, which judges it under R80 as an ingress does: a packet of the part
itself meets no ingress check. A SIGNAL to the switch's own ID is discarded (11 R471). -/
def Sw.act (s : Sw) (p : DPkt) : Sw :=
  let d := p.egDie.val
  if pKind p.hdr = 3 then s.inc (L.agrSigDiscard.at d)
  else if s.r80Kind (hDst p.hdr) (pKind p.hdr) then s.inc (L.fabRxMalformed.at d)
  else if s.r80 (hDst p.hdr) (hOff p.hdr) (r80Len (pKind p.hdr) (touched p.hdr)) then s.deny d p.hdr
  else match p.out with
    | .hbm => s.actHbm d p.hdr p.pay
    | .cxl _ => s.actCxl d p.hdr p.pay
    | .service _ => s.actService d p
    | .port _ => s

/-! ### Held SIGNALs -/

/-- A control packet joins the queue of its egress. -/
def Sw.toEgress (s : Sw) (d : Nat) (o : Out) (w : Word256) : Sw :=
  { s with fab := { s.fab with
      nextId := s.fab.nextId + 1
      nextOrd := s.fab.nextOrd + 1
      ctl := s.fab.ctl ++ [{ id := s.fab.nextId + 1, pkt := w, src := .service (Fin.ofNat 4 d), inDie := Fin.ofNat 4 d, out := o
                             egDie := Fin.ofNat 4 d, atEg := true, ord := s.fab.nextOrd + 1 }] } }

/-- The record of a Short release: announced flow, `acount`, delivered count (11 R475). -/
def Sw.shortFault (s : Sw) (d src dst cls ent ten acount delivered : Nat) : Sw :=
  (s.inc (L.agrSigShort.at d)).fault 0x2D (8 + d) (some ten) (detP src dst ent cls 0 0)
    (acount * 2 ^ 32 + delivered)

/-- The delivered count of a flow. -/
def Sw.deliveredOf (s : Sw) (k : Nat) : Nat := ((s.fab.flows.get? k).map Flow.delivered).getD 0

/-- A held SIGNAL is released Short: `short` is set to 1 (R95, R472, R475). -/
def Sw.releaseShort (s : Sw) (d : Nat) (o : Out) (w : Word256) : Sw :=
  (s.shortFault d (pSrc w) (cDst w) (sFclass w) (sFent w) (cTen w) (sAcount w) (s.deliveredOf (sFlow w))).toEgress d o
    (sealPkt (hset w 75 1 1))

/-- SIGNALs held at a die. -/
def Sw.heldAt (s : Sw) (d : Nat) : Nat := (s.fab.held.filter (fun h => h.die == d)).length

/-- A control-class SIGNAL reaches its destination egress (R95, R471, R472, R476). -/
def Sw.signalArrive (s : Sw) (d : Nat) (o : Out) (w : Word256) : Sw :=
  if reached (s.deliveredOf (sFlow w)) (sAcount w) then s.toEgress d o w
  else if s.rd L.agrSigHoldNs = 0 then s.releaseShort d o w
  else if 4096 ≤ s.heldAt d then (s.inc (L.agrSigOverflow.at d)).releaseShort d o w
  else { s with fab := { s.fab with
    nextId := s.fab.nextId + 1
    held := s.fab.held ++ [⟨w, o, d, deadline s.now (s.rd L.agrSigHoldNs), s.fab.nextId + 1⟩] } }

/-- The SIGNALs that a delivery of flow `k` makes due go out in the order in which they arrived (R96). -/
def Sw.releaseDue (s : Sw) (k : Nat) : Sw :=
  let n := s.deliveredOf k
  let due := s.fab.held.filter (fun h => sFlow h.pkt == k && reached n (sAcount h.pkt))
  let s1 := { s with fab := { s.fab with held := s.fab.held.filter (fun h => !(sFlow h.pkt == k && reached n (sAcount h.pkt))) } }
  due.foldl (fun s h => s.toEgress h.die h.out h.pkt) s1

/-! ### The resequencer -/

/-- The flow record, and its change. -/
def Sw.flow (s : Sw) (k : Nat) : Option Flow := s.fab.flows.get? k
def Sw.setFlow (s : Sw) (k : Nat) (f : Flow) : Sw := { s with fab := { s.fab with flows := AMap.set s.fab.flows k f } }

/-- Records of a die that stand on chip, or in HBM. -/
def Sw.records (s : Sw) (d : Nat) (chip : Bool) : Nat :=
  (s.fab.flows.filter (fun kv => kv.2.die == d && !kv.2.overflow && kv.2.onChip == chip)).length

/-- The lowest HBM record of a die that is free (DESIGN CHOICE, log 115). -/
def Sw.freeRecord (s : Sw) (d : Nat) : Nat :=
  let used := (s.fab.flows.filter (fun kv => kv.2.die == d && !kv.2.overflow && !kv.2.onChip)).map (fun kv => kv.2.slot)
  ((List.range (used.length + 1)).find? (fun i => !used.contains i)).getD 0

/-- A new flow gets a record on chip, or in HBM, or none (R129, R134). -/
def Sw.openFlow (s : Sw) (k d : Nat) (w : Word256) (port : Nat) : Flow × Sw :=
  let f : Flow := { ten := hTen w, die := d }
  if s.records d true < 32768 then (f, s.setFlow k f)
  else if s.records d false < s.rd L.fwdReseqRecords then
    let f := { f with onChip := false, slot := s.freeRecord d }
    (f, s.setFlow k f)
  else
    let f := { f with overflow := true, onChip := false }
    (f, (s.setFlow k f).fault 0x12 d (some (hTen w)) (detP (pSrc w) (hDst w) (hEntropy w) (pClass w) port 0) 0)

/-- A packet that the resequencer of flow `k` holds. -/
def heldFor (k : Nat) (p : DPkt) : Bool := p.stage == .held && p.mir.isNone && hFlow p.hdr == k

/-- Held packets of a flow. -/
def Sw.heldPkts (s : Sw) (k : Nat) : List DPkt := s.fab.pkts.filter (heldFor k)

/-- The egress port number of an output, for records; 0 for the switch's own targets. -/
def outPort : Out → Nat
  | .port p => p
  | _ => 0

/-- Cells of class `c` leave the ingress side of a port: reserve billets are set aside again and counted at once, but for
those beyond a minimum that was lowered; shared ones return to the supply (04 R166). -/
def Sw.creditBack (s : Sw) (src : From) (c res sh : Nat) : Sw :=
  match src with
  | .port p =>
    if res = 0 ∧ sh = 0 then s
    else
      let x := s.credit p c
      let over_ := min res (x.res - s.reserveOf p c)
      (s.setCredit p c { x with res := x.res - over_, resUsed := x.resUsed - res, total := (x.total + (res - over_)) % 65536
                                shUsed := x.shUsed - sh }).pfcCheck p c
  | _ => s

/-- A packet leaves the fabric and frees every billet it holds. -/
def Sw.freePkt (s : Sw) (p : DPkt) : Sw :=
  let q := (s.pkt? p.id).getD p
  (((s.dropPkt q.id).releaseAll (q.inBil ++ q.egBil ++ q.deep)).creditBack q.src (pClass q.hdr) q.inRes q.inSh).bilRetry

/-- The packets of a queue of port `p`, class `c`, number `n`. -/
def Sw.queue (s : Sw) (p c n : Nat) : List DPkt :=
  s.fab.pkts.filter (fun k => k.stage == .queued && k.mir.isNone && decide (k.out = .port (Fin.ofNat 512 p)) &&
    pClass k.hdr == c && k.qn == n)

/-- The queue number of a packet's tenancy on its egress die (05 R185). -/
def Sw.queueNo (s : Sw) (k : DPkt) : Nat := s.rd (L.belTq.at k.egDie) (hTen k.hdr) % 8

/-! ### Deep buffer (04 R169 to R172) -/

/-- Deep pages a port's packets hold on its die. -/
def Sw.deepPages (s : Sw) (p : Nat) : Nat :=
  sumBy (fun k => if k.out = .port (Fin.ofNat 512 p) then (k.deep.filter (fun h => handleDie h == laneDie p)).length else 0) s.fab.pkts

/-- HBM offset of a deep page: the buffer stands behind the 4 GiB of the system area (08 Table 8.2). -/
def Sw.deepBase (s : Sw) (h : Nat) : Nat := s.sysBase (handleDie h) + 4 * gib + 4096 * handleIdx h

/-- The bytes of a packet, 4,096 to a page, are written to its deep pages (R170). -/
def Sw.deepWrite (s : Sw) (hs : List Nat) (bs : Bytes) : Sw :=
  (hs.zipIdx).foldl (fun s h => (s.writeLines (s.deepBase h.1) (slice bs (4096 * h.2) 4096) rdSystem).2) s

/-- One of the pages lies in a stack in reset, whose port refuses the access (08 R349). -/
def Sw.deepReset (s : Sw) (hs : List Nat) : Bool := hs.any (fun h => s.linesReset (s.deepBase h) 64)

/-- The pages of a packet are read back; none where a line of them is uncorrectable or in a stack in reset (08 Table 8.3,
R349). -/
def Sw.deepRead (s : Sw) : List Nat → Option Bytes × Sw
  | [] => (some [], s)
  | h :: hs =>
    let r := s.readLines (s.deepBase h) 64 rdSystem
    let q := r.2.deepRead hs
    (match r.1, q.1 with | some a, some b => some (a ++ b) | _, _ => none, q.2)

/-- `n` deep pages of a die for an egress port and class, or none. -/
def Sw.takePages : Nat → Sw → Nat → Owner → Option (List Nat × Sw)
  | 0, s, _, _ => some ([], s)
  | n + 1, s, d, o =>
    match s.grant d 5 o none with
    | .got h s' => match Sw.takePages n s' d o with
      | some (hs, s'') => some (h :: hs, s'')
      | none => none
    | _ => none

/-- A whole, checked packet of a spilling queue moves into deep pages and frees its pool-0 billets (R170, R171); it stays in SRAM
where a page's stack is in reset. -/
def Sw.deepSpill (s : Sw) (i : Nat) : Sw :=
  match s.pkt? i with
  | none => s
  | some k =>
    match k.out with
    | .port p =>
      let c := pClass k.hdr
      let d := laneDie p
      let q := s.queue p c k.qn
      let spilling := q.any (fun x => !x.deep.isEmpty) || decide (s.rd L.bilDeepThresh < sumBy DPkt.moved q)
      let pages := cdiv k.cells 16
      if k.stage = .queued ∧ k.mir.isNone ∧ k.deep.isEmpty ∧ k.fin = some true ∧ k.moved = k.cells ∧ !s.ruled c ∧
          bit (s.rd L.bilDeepClasses) c ∧ c < 7 ∧ spilling ∧ s.bil.rebuild.contains d = false ∧
          s.deepPages p + pages ≤ s.rd L.bilDeepPortMax p * 256 then
        match Sw.takePages pages s d (.egress p (Fin.ofNat 8 c)) with
        | none => s
        | some (hs, s') =>
          if s.deepReset hs then s
          else (((s'.deepWrite hs (dataWire k.hdr k.pay true)).updPkt i (fun x => { x with deep := hs, egBil := [] })).releaseAll
            k.egBil).bilRetry
      else s
    | _ => s

/-- A packet joins its egress queue, whose number is fixed then (05 R183, R185); one that is whole may go to the deep buffer
at once (04 R170). -/
def Sw.joinQueue (s : Sw) (i : Nat) : Sw :=
  let s := s.updPkt i (fun k => { k with stage := .queued, joined := s.now, ord := s.fab.nextOrd + 1, qn := s.queueNo k })
  { s with fab := { s.fab with nextOrd := s.fab.nextOrd + 1 } }.deepSpill i

/-- Whether an output is one of the switch's own targets. -/
def isOwn : Out → Bool
  | .port _ => false
  | _ => true

/-- A data-class SIGNAL toward an endpoint begins delivery: Short at once where its count is not reached (11 R471, R473). -/
def Sw.beginSignal (s : Sw) (p : DPkt) (f : Flow) : Sw :=
  if pKind p.hdr = 3 ∧ !isOwn p.out ∧ !reached f.delivered (kAcount p.hdr) then
    (s.updPkt p.id (fun k => { k with hdr := sealPkt (hset k.hdr 216 1 1) })).shortFault f.die (pSrc p.hdr) (hDst p.hdr)
      (pClass p.hdr) (hEntropy p.hdr) (hTen p.hdr) (kAcount p.hdr) f.delivered
  else s

/-- The end of a delivery (Table 3.3): a good one advances the flow, releases due SIGNALs and discards what is now stale. -/
def Sw.endDelivery (s : Sw) (k : Nat) (p : DPkt) (good : Bool) : Sw :=
  match s.flow k with
  | none => s
  | some f =>
    if !good then s.setFlow k { f with current := none }
    else
      let f' := { f with current := none, expected := if f.overflow then f.expected else (f.expected + 1) % 2 ^ 32
                         delivered := (f.delivered + hPlen p.hdr) % 2 ^ 32 }
      let s1 := (s.setFlow k f').releaseDue k
      if f.overflow then s1
      else
        let stale := (s1.heldPkts k).filter (fun q => !later32 (f'.expected + 2 ^ 32 - 1) (hSeq q.hdr))
        stale.foldl (fun s q => (s.freePkt q).inc (L.fwdReseqLate.at f.die)) s1

/-- The end word of a packet has been received and every cell has crossed. -/
def whole (p : DPkt) : Bool := p.fin.isSome && p.moved == p.cells

/-- A hole is declared (R131, R133): expected moves to the lowest held number. -/
def Sw.declareHole (s : Sw) (k : Nat) : Sw :=
  match s.flow k with
  | none => s
  | some f =>
    match minBy (fun p => (hSeq p.hdr + 2 ^ 32 - f.expected) % 2 ^ 32) (s.heldPkts k) with
    | none => s
    | some p =>
      let size := (hSeq p.hdr + 2 ^ 32 - f.expected) % 2 ^ 32
      ((s.setFlow k { f with expected := hSeq p.hdr, timer := none }).inc (L.fwdReseqHoles.at f.die)).fault 0x11 f.die
        (some f.ten) (detP (pSrc p.hdr) (hDst p.hdr) (hEntropy p.hdr) (pClass p.hdr) (outPort p.out) 0)
        (f.expected * 2 ^ 32 + size)

/-- The resequencer goes on until it must wait (Table 3.3): it begins the expected packet, passes a finished one to the
switch's own target, declares a hole where the window is full or the timeout is 0, or runs the hole timer. -/
def Sw.reseqRun : Nat → Sw → Nat → Sw
  | 0, s, _ => s
  | n + 1, s, k =>
    match s.flow k with
    | none => s
    | some f =>
      if f.overflow then s
      else match f.current with
      | some i =>
        match s.pkt? i with
        | none => Sw.reseqRun n (s.setFlow k { f with current := none }) k
        | some p =>
          if isOwn p.out ∧ whole p then
            let good := p.fin == some true
            let s1 := if good then s.act p else s
            Sw.reseqRun n ((s1.endDelivery k p good).freePkt p) k
          else s.setFlow k { f with timer := none }
      | none =>
        let held := s.heldPkts k
        match held.find? (fun p => hSeq p.hdr == f.expected) with
        | some p =>
          Sw.reseqRun n (((s.setFlow k { f with current := some p.id, timer := none }).joinQueue p.id).beginSignal p f) k
        | none =>
          if held.isEmpty then s.setFlow k { f with timer := none }
          else if max 1 (s.rd L.fwdReseqWindow) ≤ held.length ∨ s.rd L.fwdReseqHoleNs = 0 then
            Sw.reseqRun n (s.declareHole k) k
          else if f.timer.isSome then s
          else s.setFlow k { f with timer := some (deadline s.now (s.rd L.fwdReseqHoleNs)) }

/-- Enough rounds for every packet of the fabric. -/
def Sw.reseq (s : Sw) (k : Nat) : Sw := Sw.reseqRun (3 * s.fab.pkts.length + 3) s k

/-- Flow `k` is delivered in arrival order from now on: one contained fault; what it holds joins its queue as it came (R134). -/
def Sw.unorder (s : Sw) (k : Nat) : Sw :=
  match s.flow k with
  | none => s
  | some f =>
    let held := s.heldPkts k
    let port := match held with | p :: _ => outPort p.out | [] => 0
    let s := (s.setFlow k { f with overflow := true, onChip := false, current := none, timer := none }).fault 0x12 f.die
      (some f.ten) (detP (k / 2 ^ 27) (k / 2 ^ 11 % 65536) (k % 256) (k / 256 % 8) port 0) 0
    held.foldl (fun s p => s.joinQueue p.id) s

/-- The record of flow `k` is read: an uncorrectable line leaves every flow whose record it holds in arrival order, until
their tenancy is next bound (08 R317); so does a line whose stack is in reset, which answers Target-Reset (08 R349; DESIGN
CHOICE, log 147). -/
def Sw.readRecord (s : Sw) (k : Nat) : Sw :=
  match s.flow k with
  | none => s
  | some f =>
    let off := s.recordLine f.die f.slot
    if f.onChip ∨ f.overflow ∨ !(s.lineBad (off / 64) || s.lineReset off) then s
    else
      let ks := s.fab.flows.filter (fun kv => kv.2.die == f.die && !kv.2.onChip && !kv.2.overflow && kv.2.slot / 4 == f.slot / 4)
      ks.foldl (fun s kv => s.unorder kv.1) (if s.lineReset off then s else s.uncorr off rdSystem)

/-- A packet reaches the resequencer of its flow (R131, R134). The uses of 02 R100 are not seen here (DESIGN CHOICE, log 69). -/
def Sw.reseqArrive (s : Sw) (p : DPkt) : Sw :=
  let k := hFlow p.hdr
  let d := p.egDie.val
  let s := s.readRecord k
  let r := match s.flow k with
    | some f => (f, s)
    | none => s.openFlow k d p.hdr (outPort p.out)
  if r.1.overflow then (r.2.inc (L.fwdReseqOverflow.at d)).joinQueue p.id
  else if p.fin == some false then r.2.freePkt p |>.reseq k
  else if hSeq p.hdr = r.1.expected ∨ later32 r.1.expected (hSeq p.hdr) then
    (r.2.updPkt p.id (fun q => { q with stage := .held })).reseq k
  else (r.2.freePkt p).inc (L.fwdReseqLate.at d)

/-- The resequencer runs toward role-1 ports and the switch's own targets (R113); CONTRIB and PARTIAL to the service ID
bypass it (03). -/
def Sw.resequences (s : Sw) (p : DPkt) : Bool :=
  p.mir.isNone && match p.out with
  | .port q => s.role q == 1
  | .service _ => !(pKind p.hdr == 4 || pKind p.hdr == 5)
  | _ => true

/-- A packet without resequencing for the switch's own target acts once it is whole; so does one of a flow without a
record (R134). -/
def Sw.actWhole (s : Sw) (i : Nat) : Sw :=
  match s.pkt? i with
  | none => s
  | some p =>
    if isOwn p.out ∧ whole p then
      let s1 := if p.fin = some true then s.act p else s
      let s2 := match s.flow (hFlow p.hdr) with
        | some f => if f.overflow ∧ p.fin = some true then s1.endDelivery (hFlow p.hdr) p true else s1
        | none => s1
      s2.freePkt p
    else s

/-- The first cell of a packet reaches the egress die's buffers. -/
def Sw.firstCell (s : Sw) (i : Nat) : Sw :=
  match s.pkt? i with
  | none => s
  | some p => if s.resequences p then s.reseqArrive p else s.joinQueue i

/-- A packet's last cell has crossed, or its end word has been checked: what waits for that goes on. -/
def Sw.settlePkt (s : Sw) (i : Nat) : Sw :=
  match s.pkt? i with
  | none => s
  | some p =>
    let k := hFlow p.hdr
    match s.flow k with
    | some f =>
      if f.overflow ∨ !s.resequences p then s.actWhole i
      else if p.stage = .held ∧ p.fin = some false then (s.freePkt p).reseq k
      else s.reseq k
    | none => s.actWhole i

/-! ### Re-routing (03 R119) -/

/-- The packet now leaves by a port of the same die. -/
def DPkt.turn (k : DPkt) (o : Out) : DPkt := { k with out := o }

/-- The packet, all of it on its egress die, goes back to die `e`, its ingress die: it enters the crossbar anew at a service
attachment (DESIGN CHOICE, log 118), from its billets or its deep pages, and never enters a third die (R109). -/
def DPkt.cross (k : DPkt) (o : Out) (e : Die) : DPkt :=
  { k with out := o, inDie := k.egDie, egDie := e, stage := .voq, moved := 0, crossed := 0, inBil := k.inBil ++ k.egBil
           egBil := [], inRes := 0, inSh := 0, att := 124 + k.id % 4, fan := none
           dies := if !k.dies.isEmpty then k.dies else if k.inDie = k.egDie then [k.egDie.val, e.val] else [k.inDie.val, k.egDie.val] }

/-- The packet, none of it across yet, now goes to die `e`. -/
def DPkt.aim (k : DPkt) (o : Out) (e : Die) : DPkt := { k with out := o, egDie := e, egBil := [] }

/-- The record of a flow whose packet is taken back from its egress queue. -/
def Sw.takeBack (s : Sw) (k : DPkt) : Sw :=
  match s.flow (hFlow k.hdr) with
  | some x => if x.current = some k.id then s.setFlow (hFlow k.hdr) { x with current := none } else s
  | none => s

/-- The packet's crossbar matches, and its waiting transfer, end. -/
def Sw.unmatchPkt (s : Sw) (i : Nat) : Sw :=
  { s with fab := { s.fab with xm := s.fab.xm.filter (fun m => m.pkt != i) }
           bil := { s.bil with waits := s.bil.waits.filter (fun r => decide (r.who ≠ .xfer i)) } }

/-- Cells on their egress die are charged to another egress port (04 R158, R159). -/
def Sw.chargeOut (s : Sw) (k : DPkt) (q : Lane) : Sw :=
  k.egBil.foldl (fun s h => s.recharge h (.egress q (Fin.ofNat 8 (pClass k.hdr)))) s

/-- The packet leaves by port `q` instead: one that waits in an egress queue of that die joins the new queue behind what it
holds (05 R183, R185); one whose deep pages cannot be read is discarded. -/
def Sw.moveTo (s : Sw) (k : DPkt) (q : Lane) : Sw :=
  let e : Die := Fin.ofNat 4 (laneDie q)
  let o : Out := .port q
  let s := s.unmatchPkt k.id
  if e = k.egDie then
    let s := (s.updPkt k.id (fun k => k.turn o)).chargeOut k q
    if k.stage = .queued ∨ (k.stage = .held ∧ s.role q ≠ 1) then s.joinQueue k.id else s
  else if k.moved = 0 ∧ k.crossed = 0 then ((s.takeBack k).releaseAll k.egBil).updPkt k.id (fun k => k.aim o e)
  else
    let r := s.deepRead k.deep
    let s := (r.2.takeBack k).creditBack k.src (pClass k.hdr) k.inRes k.inSh
    if r.1.isNone then ((s.freePkt k).loseRes k.hdr).reseq (hFlow k.hdr) else s.updPkt k.id (fun k => k.cross o e)

/-- A packet held whole for port `p` is routed again. One that stands on its egress die goes to a port of that die or of its
ingress die, so that it never enters a third (R109). -/
def Sw.reroutePkt (s : Sw) (p : Nat) (k : DPkt) : Sw :=
  let here : Nat := if k.moved = 0 then k.inDie else k.egDie
  let near : List Nat := if !k.dies.isEmpty then k.dies else if k.moved = 0 ∨ k.inDie = k.egDie then [0, 1, 2, 3]
    else [k.inDie.val, k.egDie.val]
  let r := s.route here (hDst k.hdr) (pClass k.hdr) (pSrc k.hdr) (hEntropy k.hdr) true near
  let s := r.2
  match r.1 with
  | .own _ => s
  | .none => (((s.freePkt k).inc (L.fwdDropNoroute.at k.inDie)).loseRes k.hdr).reseq (hFlow k.hdr)
  | .port q => if q = p then s else s.moveTo k (Fin.ofNat 512 q)

/-- A packet that has not begun egress at port `p` and is whole in billets, on one die. -/
def wholeFor (p : Nat) (k : DPkt) : Bool :=
  decide (k.out = .port (Fin.ofNat 512 p)) && k.mir.isNone && k.stage != .leaving && k.fin.isSome && k.here == k.cells &&
  (k.moved == k.cells || (k.moved == 0 && k.crossed == 0))

/-- A packet that has become whole while its uplink is down is routed again then. -/
def Sw.rerouteLate (s : Sw) (i : Nat) : Sw :=
  match s.pkt? i with
  | none => s
  | some k => match k.out with
    | .port p => if s.role p = 2 ∧ !s.portUp p ∧ wholeFor p k then s.reroutePkt p k else s
    | _ => s

/-- A control packet that waits for port `p` is routed again. -/
def Sw.rerouteCtl (s : Sw) (p : Nat) (c : CPkt) : Sw :=
  let on (x : CPkt) : Bool := x.link || x.atEg
  let near : List Nat := if !c.dies.isEmpty then c.dies else if on c ∧ c.inDie ≠ c.egDie then [c.inDie.val, c.egDie.val]
    else [0, 1, 2, 3]
  let r := s.route (if on c then c.egDie else c.inDie) (cDst c.pkt) (pClass c.pkt) (pSrc c.pkt) 0 false near
  let s := r.2
  let without := { s with fab := { s.fab with ctl := s.fab.ctl.filter (fun e => e.id != c.id) } }
  match r.1 with
  | .own _ => s
  | .none => without.inc (L.fwdDropNoroute.at c.inDie)
  | .port q =>
    if q = p then s
    else
      let e : Die := Fin.ofNat 4 (laneDie q)
      let f (x : CPkt) : CPkt :=
        let stay := decide (e = x.egDie)
        { x with out := .port (Fin.ofNat 512 q), egDie := e, inDie := if on x && !stay then x.egDie else x.inDie
                 dies := if on x && !stay && x.dies.isEmpty && x.inDie != x.egDie then [x.inDie.val, x.egDie.val] else x.dies
                 link := x.link && stay, atEg := x.atEg && stay, att := if on x && !stay then 124 else x.att }
      { s with fab := { s.fab with ctl := s.fab.ctl.map (fun x => if x.id = c.id then f x else x) } }

/-- Everything held whole for port `p` is routed again. -/
def Sw.reroute (s : Sw) (p : Nat) : Sw :=
  let s := (s.fab.pkts.filter (wholeFor p)).foldl (fun s k => s.reroutePkt p k) s
  (s.fab.ctl.filter (fun c => decide (c.out = .port (Fin.ofNat 512 p)))).foldl (fun s c => s.rerouteCtl p c) s

end Sys2Proof.Machine
end

