-- ==== Sys2Proof/Machine/BellowsOps.lean ====
section
/-! DEFINITION. Bellows (05): levels, meters and markers, the egress choice (R179 to R198), and what a port may send (03
R122, R123, 12 R512). -/

namespace Sys2Proof.Machine

/-! ### Levels (R187) -/

/-- One packet in units of a level's resolution. -/
def onePkt : Nat := 2 ^ 24

/-- Tokens that arrive in `dt` ns at `rate` thousand packets/s, rounded down. -/
def tokens (rate dt : Nat) : Nat := rate * 1000 * dt * onePkt / 1000000000

/-- A level brought up to `now`: it rises by its rate and never exceeds its burst. -/
def Level.up (l : Level) (rate burst now : Nat) : Level :=
  ⟨min (burst * onePkt) (l.q + tokens rate (now - l.upto)), max now l.upto⟩

/-- A level of a table, full where nothing is recorded. -/
def lvl (m : AMap Level) (k burst now : Nat) : Level := m.getD k ⟨burst * onePkt, now⟩

/-- Every recorded level of a table brought up (R189); `p` gives rate and burst of a key. -/
def bringUp (m : AMap Level) (p : Nat → Nat × Nat) (now : Nat) : AMap Level :=
  m.map (fun kv => (kv.1, kv.2.up (p kv.1).1 (p kv.1).2 now))

/-- Rate and burst of a queue (Table 5.1): a burst of 0 acts as 1 (R216). -/
def Sw.shapeOf (s : Sw) (k : Nat) : Nat × Nat :=
  let w := s.rd (L.belQShape.at (k / 7168)) (k % 7168)
  (fld w 0 32, if bit w 63 then max 1 (fld w 32 16) else fld w 32 16)

/-- Rate and burst of a bucket word (Table 5.2). -/
def bucketOf (w : Nat) : Nat × Nat := (fld w 0 32, fld w 32 16)

/-- Rate and burst of the committed and peak buckets of key 256 die + tenancy. -/
def Sw.comOf (s : Sw) (k : Nat) : Nat × Nat := bucketOf (s.rd (L.belTenCir.at (k / 256)) (k % 256))
def Sw.pkOf (s : Sw) (k : Nat) : Nat × Nat := bucketOf (s.rd (L.belTenPir.at (k / 256)) (k % 256))

/-! ### Meters (R199 to R204) -/

/-- A meter's two buckets brought up: tokens go to Tc, then to Te (R199). -/
def Sw.meterUp (s : Sw) (k : Nat) : Level × Level :=
  let w := s.rd (L.belPolRate.at (k / 1024)) (k % 1024)
  let cbs := fld w 32 16 * onePkt
  let ebs := fld w 48 16 * onePkt
  let c := s.bel.mTc.getD k ⟨cbs, s.now⟩
  let e := s.bel.mTe.getD k ⟨ebs, s.now⟩
  let x := tokens (fld w 0 32) (s.now - c.upto)
  let c' := min cbs (c.q + x)
  let rest := c.q + x - c'
  (⟨c', s.now⟩, ⟨min ebs (e.q + rest), s.now⟩)

/-- Guard marking is in force at a die (R205); a `bel.mode` other than 0 and 1 is stored and acts as 0 (DESIGN CHOICE, log 152). -/
def Sw.guarding (s : Sw) (d : Nat) : Bool := s.rd (L.belMode.at d) == 1

/-- Width of a port for its guard marker, and rate and burst of the marker's two words (R206). -/
def Sw.guardCirOf (s : Sw) (p : Nat) : Nat × Nat := let b := bucketOf (s.rd L.belGuardCir); (max 1 (s.port p).width * b.1, b.2)
def Sw.guardPirOf (s : Sw) (p : Nat) : Nat × Nat := let b := bucketOf (s.rd L.belGuardPir); (max 1 (s.port p).width * b.1, b.2)

/-- Every credit and bucket brought up to the present time (R189); meters of a die under guard marking do not change (R207). -/
def Sw.bellowsUp (s : Sw) : Sw :=
  let live := s.bel.mTc.filter (fun kv => !s.guarding (kv.1 / 1024))
  { s with bel := { s.bel with
      qcr := bringUp s.bel.qcr s.shapeOf s.now
      tcom := bringUp s.bel.tcom s.comOf s.now
      tpk := bringUp s.bel.tpk s.pkOf s.now
      mTc := live.foldl (fun m kv => AMap.set m kv.1 (s.meterUp kv.1).1) s.bel.mTc
      mTe := live.foldl (fun m kv => AMap.set m kv.1 (s.meterUp kv.1).2) s.bel.mTe
      gTc := bringUp s.bel.gTc s.guardCirOf s.now
      gTp := bringUp s.bel.gTp s.guardPirOf s.now } }

/-- The guard marker of a port as it fills at the port's present width, before that width changes (R206). -/
def Sw.guardUp (s : Sw) (p : Nat) : Sw :=
  let up (m : AMap Level) (rb : Nat × Nat) : AMap Level :=
    match m.get? p with | some l => AMap.set m p (l.up rb.1 rb.2 s.now) | none => m
  { s with bel := { s.bel with gTc := up s.bel.gTc (s.guardCirOf p), gTp := up s.bel.gTp (s.guardPirOf p) } }

/-- A meter colours a packet of pre-colour `pre` (Table 5.3) and counts it (R203). -/
def Sw.meter (s : Sw) (d m pre : Nat) : Nat × Sw :=
  let k := 1024 * d + m
  let l := s.meterUp k
  let aware := bit (s.rd (L.belPolCtl.at d) m) 0
  let green := decide (onePkt ≤ l.1.q)
  let yellow := decide (onePkt ≤ l.2.q)
  let col : Nat :=
    if aware ∧ pre = 2 then 2
    else if aware ∧ pre = 1 then (if yellow then 1 else 2)
    else if green then 0 else if yellow then 1 else 2
  let c := if col = 0 then ⟨l.1.q - onePkt, l.1.upto⟩ else l.1
  let e := if col = 1 then ⟨l.2.q - onePkt, l.2.upto⟩ else l.2
  (col, { s with bel := { s.bel with mTc := AMap.set s.bel.mTc k c, mTe := AMap.set s.bel.mTe k e } }.inc
    (L.belPolCount.at d) (3 * m + col))

/-- The meter discards a packet of this colour (R202). -/
def Sw.meterDrops (s : Sw) (d m col : Nat) : Bool :=
  let w := s.rd (L.belPolCtl.at d) m
  (col == 2 && bit w 2) || (col == 1 && bit w 1)

/-- The port meter, where the packet came in at a port, and then the tenancy meter (R201): the final
colour, or none for a discard. A binding of 1,024 to 0xFFFE is an undefined use, checked by the command. -/
def Sw.meters (s : Sw) (d : Nat) (port : Option Nat) (t c : Nat) : Option Nat × Sw :=
  let mp := (port.map (fun p => s.rd (L.belPolPort.at d) (8 * (p % 128) + c))).getD 0xFFFF
  let mt := s.rd (L.belPolTen.at d) (8 * t + c)
  let a := if mp < 1024 then s.meter d mp 0 else (0, s)
  if mp < 1024 ∧ s.meterDrops d mp a.1 then (none, a.2)
  else if mt < 1024 then
    let b := a.2.meter d mt a.1
    (if s.meterDrops d mt b.1 then none else some b.1, b.2)
  else (some a.1, a.2)

/-- The guard marker of a port (R206, RFC 2698 colour-blind): 0 green, 1 yellow, 2 red. -/
def Sw.guard (s : Sw) (p : Nat) : Nat × Sw :=
  let cb := s.guardCirOf p
  let pb := s.guardPirOf p
  let c := (lvl s.bel.gTc p cb.2 s.now).up cb.1 cb.2 s.now
  let q := (lvl s.bel.gTp p pb.2 s.now).up pb.1 pb.2 s.now
  let put (c q : Level) : Sw :=
    { s with bel := { s.bel with gTc := AMap.set s.bel.gTc p c, gTp := AMap.set s.bel.gTp p q } }
  if q.q < onePkt then (2, put c q)
  else if c.q < onePkt then (1, put c ⟨q.q - onePkt, q.upto⟩)
  else (0, put ⟨c.q - onePkt, c.upto⟩ ⟨q.q - onePkt, q.upto⟩)

/-! ### What a port may send -/

/-- Gb/s of a mode's lane, in hundredths (12 Table 12.1). -/
def laneRate (mode : Nat) : Nat := match mode with | 1 => 22400 | 2 => 21250 | 3 => 10625 | _ => 0

/-- Line rate of a port. -/
def Sw.lineRate (s : Sw) (p : Nat) : Nat := (s.port p).width * laneRate (s.port p).mode

/-- The class is paused by PFC (12 R512). -/
def Sw.paused (s : Sw) (p c : Nat) : Bool :=
  match (s.port p).pause.get? c with | some t => decide (s.now < t) | none => false

/-- The port holds credit for all cells of a packet in its class (R122); a plain port unless paused (12 R512). -/
def Sw.hasCredit (s : Sw) (p c cells : Nat) : Bool :=
  !s.paused p c && (s.ruled c || (s.port p).plain || decide (cells ≤ (s.credit p c).tx))

/-- A packet stands in the order of its flow: where its egress resequences, its `seq` is the flow's next expected number, so
its flow has a record (R123, R134). -/
def Sw.inOrder (s : Sw) (k : DPkt) : Bool := !s.resequences k || (s.flow (hFlow k.hdr)).any (fun f => !f.overflow)

/-- A packet may leave now: whole and checked, or cut through under R123. -/
def Sw.mayLeave (s : Sw) (p : Nat) (k : DPkt) : Bool :=
  match k.fin with
  | some good => good && k.moved == k.cells
  | none =>
    k.deep.isEmpty && s.inOrder k && s.hasCredit p (pClass k.hdr) k.cells &&
    (match k.src with | .port q => decide (s.lineRate p ≤ s.lineRate q) | _ => false)

/-- The head of a list of queued packets: the one that joined first. -/
def headOf (l : List DPkt) : Option DPkt := minBy DPkt.ord l

/-- Queue index on the die of port `p` (R184). -/
def queueIdx (p c n : Nat) : Nat := 56 * (p % 128) + 8 * c + n

/-- A queue's shaper word. -/
def Sw.shapeWord (s : Sw) (p c n : Nat) : Nat := s.rd (L.belQShape.at (laneDie p)) (queueIdx p c n)

/-- The shaper allows a send (R188). -/
def Sw.shaperOk (s : Sw) (p c n : Nat) : Bool :=
  !bit (s.shapeWord p c n) 63 ||
    (let k := 7168 * laneDie p + queueIdx p c n
     decide (onePkt ≤ (lvl s.bel.qcr k (s.shapeOf k).2 s.now).q))

/-- A tenancy bucket of die `d` holds at least 1. -/
def Sw.peakOk (s : Sw) (d t : Nat) : Bool := decide (onePkt ≤ (lvl s.bel.tpk (256 * d + t) (s.pkOf (256 * d + t)).2 s.now).q)
def Sw.comOk (s : Sw) (d t : Nat) : Bool :=
  let rb := s.comOf (256 * d + t)
  decide (rb.1 ≠ 0 ∧ rb.2 ≠ 0) && decide (onePkt ≤ (lvl s.bel.tcom (256 * d + t) rb.2 s.now).q)

/-- The head packet of an eligible queue (R191). -/
def Sw.eligHead (s : Sw) (p c n : Nat) : Option DPkt :=
  match headOf (s.queue p c n) with
  | none => none
  | some k =>
    if s.mayLeave p k ∧ s.shaperOk p c n ∧ s.peakOk (laneDie p) (hTen k.hdr) ∧ s.hasCredit p c k.cells then some k else none

/-- A queue is committed (R191). -/
def Sw.committed (s : Sw) (p c n : Nat) : Bool :=
  match s.eligHead p c n with
  | none => false
  | some k => k.colour == 0 && s.comOk (laneDie p) (hTen k.hdr)

/-- Eligible queues of a class at a port. -/
def Sw.eligQueues (s : Sw) (p c : Nat) : List Nat := (List.range 8).filter (fun n => (s.eligHead p c n).isSome)

/-- Class weight (R193). -/
def Sw.clsWeight (s : Sw) (p c : Nat) : Nat := s.rd (L.belClsWeight.at (laneDie p)) c

/-- Δ(c) of R194. -/
def tagStep (w : Nat) : Nat := 65536 / max 1 w

/-- The later of two 32-bit tags (R89). -/
def laterOf (a b : Nat) : Nat := if later32 a b then b else a

/-- Finish tags of the classes that have become eligible (R194); `v` is the state with every level brought up. -/
def Sw.tagUp (s v : Sw) (p : Nat) : Sw :=
  (List.range 7).foldl (fun s c =>
    let k := 8 * p + c
    let now := decide (c < 7) && !v.ruled c && !(v.eligQueues p c).isEmpty
    let was := s.bel.elig.getD k false
    let w := s.clsWeight p c
    let s := { s with bel := { s.bel with elig := AMap.put s.bel.elig k now false } }
    if now ∧ !was ∧ 0 < w then
      { s with bel := { s.bel with
          ft := AMap.put s.bel.ft k ((laterOf (s.bel.ft.getD k 0) (s.bel.vt.getD p 0) + tagStep w) % 2 ^ 32) 0 } }
    else s) s

/-- Deficits of queues that are empty return to 0, those of queues that hold packets without being eligible are capped at
their quantum (R197). -/
def Sw.defiUp (s v : Sw) : Sw :=
  { s with bel := { s.bel with defi := s.bel.defi.filterMap (fun kv =>
      let i := kv.1 % 7168
      let p := 128 * (kv.1 / 7168) + i / 56
      let c := i % 56 / 8
      let n := if (s.queue p c (i % 8)).isEmpty then 0
        else if (v.eligHead p c (i % 8)).isSome then kv.2 else min kv.2 (fld (s.shapeWord p c (i % 8)) 48 8)
      if n = 0 then none else some (kv.1, n)) } }

/-- Ports with free packets queued, or with a class that was eligible. -/
def Sw.belPorts (s : Sw) : List Nat :=
  (s.fab.pkts.filterMap (fun (k : DPkt) => match k.out with
      | .port p => if k.stage = Stage.queued ∧ k.mir.isNone then some p.val else none
      | _ => (none : Option Nat)) ++
    s.bel.elig.map (fun (kv : Nat × Bool) => kv.1 / 8)).eraseDups

/-- What a command changed of eligibility and of queues is taken into account as it ends: a class that becomes eligible gets
its tag, one that ceases to be is remembered so, deficits follow (R194, R197). No level is rounded. -/
def Sw.eligSync (s : Sw) : Sw :=
  if s.belPorts.isEmpty ∧ s.bel.defi.isEmpty then s
  else
    let v := s.bellowsUp
    (s.belPorts.foldl (fun s p => s.tagUp v p) s).defiUp v

/-- The class to serve (R194, R195): the earliest tag, the higher class on a tie; weight 0 last, highest class first. -/
def Sw.pickClass (s : Sw) (p : Nat) : Option Nat :=
  let cs := (List.range 7).filter (fun c => s.bel.elig.getD (8 * p + c) false)
  let pos := cs.filter (fun c => decide (0 < s.clsWeight p c))
  match pos with
  | [] => cs.getLast?
  | c :: r => some (r.foldl (fun b c =>
      let fb := s.bel.ft.getD (8 * p + b) 0
      let fc := s.bel.ft.getD (8 * p + c) 0
      if fc = fb ∨ later32 fc fb then c else b) c)

/-- The next number of `l` after `x`, cyclically. -/
def nextAfter (l : List Nat) (x : Nat) : Option Nat :=
  match l.find? (fun n => decide (x < n)) with
  | some n => some n
  | none => l.head?

/-- Deficit round robin within a class (R196 to R198): the queue that sends, with pointer and deficits moved. -/
def Sw.drr (s : Sw) (p c : Nat) : Option Nat × Sw :=
  let d := laneDie p
  let key (n : Nat) : Nat := 7168 * d + queueIdx p c n
  let elig := s.eligQueues p c
  let com := elig.filter (fun n => s.committed p c n)
  let cons := if com.isEmpty then elig else com
  let quant (n : Nat) : Nat := fld (s.shapeWord p c n) 48 8
  let pos := cons.filter (fun n => decide (0 < quant n))
  let use_ := if pos.isEmpty then cons else pos
  let ptr := s.bel.ptr.getD (8 * p + c) 0
  let s := s.defiUp s
  if use_.contains ptr ∧ 0 < s.bel.defi.getD (key ptr) 0 then
    (some ptr, { s with bel := { s.bel with defi := AMap.put s.bel.defi (key ptr) (s.bel.defi.getD (key ptr) 0 - 1) 0 } })
  else match nextAfter use_ ptr with
    | none => (none, s)
    | some n =>
      (some n, { s with bel := { s.bel with
        ptr := AMap.put s.bel.ptr (8 * p + c) n 0
        defi := AMap.put s.bel.defi (key n) (s.bel.defi.getD (key n) 0 + quant n - 1) 0 } })

/-- A free data packet is chosen and paid for (R180 level 4, R188, R192, R194), all levels being brought up. -/
def Sw.pickFree (s : Sw) (p : Nat) : Option DPkt × Sw :=
  let s := s.tagUp s p
  match s.pickClass p with
  | none => (none, s)
  | some c =>
    let r := s.drr p c
    match r.1 with
    | none => (none, r.2)
    | some n =>
      match r.2.eligHead p c n with
      | none => (none, r.2)
      | some k =>
        let d := laneDie p
        let com := r.2.committed p c n
        let qk := 7168 * d + queueIdx p c n
        let tk := 256 * d + hTen k.hdr
        let s := r.2
        let take (m : AMap Level) (key burst : Nat) : AMap Level :=
          let l := lvl m key burst s.now
          AMap.set m key ⟨l.q - onePkt, l.upto⟩
        let s := { s with bel := { s.bel with
          qcr := if bit (s.shapeWord p c n) 63 then take s.bel.qcr qk (s.shapeOf qk).2 else s.bel.qcr
          tpk := take s.bel.tpk tk (s.pkOf tk).2
          tcom := if com then take s.bel.tcom tk (s.comOf tk).2 else s.bel.tcom
          vt := if 0 < s.clsWeight p c then AMap.put s.bel.vt p (s.bel.ft.getD (8 * p + c) 0) 0 else s.bel.vt } }
        (some k, s)

/-- After a class was served and its packet has left the queue: its next tag where it is still eligible (R194), and no
deficit for an empty queue (R197). -/
def Sw.afterServe (s : Sw) (p c n : Nat) : Sw :=
  let still := !(s.eligQueues p c).isEmpty
  let w := s.clsWeight p c
  let k := 8 * p + c
  { s with bel := { s.bel with
      ft := if still ∧ 0 < w then AMap.put s.bel.ft k ((s.bel.ft.getD k 0 + tagStep w) % 2 ^ 32) 0 else s.bel.ft
      elig := AMap.put s.bel.elig k still false
      defi := if (s.queue p c n).isEmpty then AMap.del s.bel.defi (7168 * laneDie p + queueIdx p c n) else s.bel.defi } }

end Sys2Proof.Machine
end

