-- ==== Sys2Proof/Machine/Arith.lean ====
section
/-! DEFINITION. Number formats and arithmetic (06): decoding, rounding to nearest even, encoding, block scales,
accumulators, ordering, the long accumulator of exact mode (07 R275 to R280) and the arithmetic status word. -/

namespace Sys2Proof.Machine

/-- A value of the internal form, or an exact result before its rounding: NaN, an infinity, or (-1)^neg · m · 2^e. -/
inductive Val
  | nan
  | inf (neg : Bool)
  | fin (neg : Bool) (m : Nat) (e : Int)
deriving DecidableEq, Repr

/-! ### Formats (Table 6.1) -/

/-- Width in bits of format `f`. -/
def fmtBits (f : Nat) : Nat := [64, 32, 16, 16, 8, 8, 4, 8, 32].getD f 0

/-- Exponent width, fraction width and bias of a floating-point format. -/
def fmtFields (f : Nat) : Nat × Nat × Nat :=
  [(11, 52, 1023), (8, 23, 127), (5, 10, 15), (8, 7, 127), (4, 3, 7), (5, 2, 15), (2, 1, 1)].getD f (0, 0, 0)

/-- Formats I8 and I32. -/
def fmtInt (f : Nat) : Bool := f == 7 || f == 8

/-- Largest finite encoding, sign 0, of a floating-point format (Table 6.2). -/
def fmtMax (f : Nat) : Nat :=
  if f = 4 then 0x7E else if f = 6 then 7
  else let w := fmtFields f; (2 ^ w.1 - 1) * 2 ^ w.2.1 - 1

/-- The value of an encoding, before its block scale (R218 to R222, R230). -/
def decodeVal (f bits : Nat) : Val :=
  if fmtInt f then
    let n := fmtBits f
    if 2 ^ (n - 1) ≤ bits then .fin true (2 ^ n - bits) 0 else .fin false bits 0
  else
    let w := fmtFields f
    let neg := bit bits (w.1 + w.2.1)
    let e := fld bits w.2.1 w.1
    let m := fld bits 0 w.2.1
    let top := e == 2 ^ w.1 - 1
    if top ∧ f = 4 ∧ m = 7 then .nan
    else if top ∧ f ≠ 4 ∧ f ≠ 6 then (if m = 0 then .inf neg else .nan)
    else if e = 0 then .fin neg m (1 - (w.2.2 : Int) - w.2.1)
    else .fin neg (2 ^ w.2.1 + m) ((e : Int) - w.2.2 - w.2.1)

/-- A value times 2^(s - 127); NaN for a scale of 255 (R227). -/
def Val.scale (v : Val) (s : Nat) : Val :=
  if s = 255 then .nan else match v with
  | .fin n m e => .fin n m (e + s - 127)
  | x => x

/-- Negation. -/
def Val.neg : Val → Val
  | .nan => .nan
  | .inf n => .inf (!n)
  | .fin n m e => .fin (!n) m e

/-- Absolute value. -/
def Val.abs : Val → Val
  | .nan => .nan
  | .inf _ => .inf false
  | .fin _ m e => .fin false m e

/-- The sign of a value. -/
def Val.isNeg : Val → Bool
  | .nan => false
  | .inf n => n
  | .fin n _ _ => n

/-- A value that is zero. -/
def Val.isZero : Val → Bool
  | .fin _ 0 _ => true
  | _ => false

/-! ### Rounding (R233, R234) -/

/-- `m` · 2^`d` rounded to an integer, ties to even. -/
def roundShift (m : Nat) (d : Int) : Nat :=
  if 0 ≤ d then m * 2 ^ d.toNat
  else
    let k := (-d).toNat
    let q := m / 2 ^ k
    let r := m % 2 ^ k
    let half := 2 ^ (k - 1)
    if half < r ∨ (r = half ∧ q % 2 = 1) then q + 1 else q

/-- The encoding, sign left out, that rounds m · 2^e into a floating-point format with unbounded exponent range. -/
def roundEnc (f m : Nat) (e : Int) : Nat :=
  if m = 0 then 0
  else
    let w := fmtFields f
    let emin : Int := 1 - (w.2.2 : Int) - w.2.1
    let q := max ((m.log2 : Int) + e - w.2.1) emin
    let r := roundShift m (e - q)
    if r < 2 ^ w.2.1 then r else (q - emin + 1).toNat * 2 ^ w.2.1 + (r - 2 ^ w.2.1)

/-- Canonical NaN (Table 6.6). -/
def canonNaN (f : Nat) : Nat :=
  [0x7FF8000000000000, 0x7FC00000, 0x7E00, 0x7FC0, 0x7F, 0x7E].getD f 0

/-- The nearest value of an integer range to a signed magnitude, and whether it was limited. -/
def limitInt (lo hi : Nat) (neg : Bool) (r : Nat) : Int × Bool :=
  if neg then (if lo < r then (-(lo : Int), true) else (-(r : Int), false))
  else if hi < r then ((hi : Int), true) else ((r : Int), false)

/-- A signed integer as `n` bits of two's complement. -/
def toTwos (n : Nat) (x : Int) : Nat := (x % (2 ^ n : Nat)).toNat

/-- Encoding into an unscaled destination, and whether `sat` is set (Table 6.5). -/
def encodeVal (f : Nat) (v : Val) : Nat × Bool :=
  if fmtInt f then
    let n := fmtBits f
    match v with
    | .nan => (0, true)
    | .inf s => (if s then 2 ^ (n - 1) else 2 ^ (n - 1) - 1, true)
    | .fin s m e =>
      let r := limitInt (2 ^ (n - 1)) (2 ^ (n - 1) - 1) s (roundShift m e)
      (toTwos n r.1, r.2)
  else
    let w := fmtFields f
    let sgn (s : Bool) : Nat := b2n s * 2 ^ (w.1 + w.2.1)
    match v with
    | .nan => (canonNaN f, false)
    | .inf s => if f = 4 then (sgn s + 0x7E, true) else (sgn s + fmtMax f + 1, false)
    | .fin s m e =>
      let r := roundEnc f m e
      if r ≤ fmtMax f then (sgn s + r, false)
      else if f = 4 then (sgn s + 0x7E, true)
      else if f = 6 then (sgn s + 7, false)
      else (sgn s + fmtMax f + 1, false)

/-- A value rounded once to a floating-point or integer format, and `sat`. -/
def roundTo (f : Nat) (v : Val) : Val × Bool := let r := encodeVal f v; (decodeVal f r.1, r.2)

/-- A value divided by `n`, kept with a sticky low bit so that one later rounding is the exact quotient's. -/
def Val.divNat (v : Val) (n : Nat) : Val :=
  match v with
  | .fin s m e =>
    if n = 0 then v
    else
      let q := m * 2 ^ 160 / n
      .fin s (2 * q + b2n (m * 2 ^ 160 % n != 0)) (e - 161)
  | x => x

/-! ### Products, sums and order (R237, R240 to R245) -/

/-- The exact product. -/
def Val.mul : Val → Val → Val
  | .nan, _ => .nan
  | _, .nan => .nan
  | .inf a, .inf b => .inf (a != b)
  | .inf a, .fin b m _ => if m = 0 then .nan else .inf (a != b)
  | .fin a m _, .inf b => if m = 0 then .nan else .inf (a != b)
  | .fin a m e, .fin b n f => .fin (a != b) (m * n) (e + f)

/-- The exact sum (R237, R242). -/
def Val.add : Val → Val → Val
  | .nan, _ => .nan
  | _, .nan => .nan
  | .inf a, .inf b => if a = b then .inf a else .nan
  | .inf a, _ => .inf a
  | _, .inf b => .inf b
  | .fin a m e, .fin b n f =>
    let q := min e f
    let x : Int := (if a then -1 else 1) * ((m * 2 ^ (e - q).toNat : Nat) : Int)
    let y : Int := (if b then -1 else 1) * ((n * 2 ^ (f - q).toNat : Nat) : Int)
    let t := x + y
    if t = 0 then .fin (m == 0 && n == 0 && a && b) 0 q else .fin (decide (t < 0)) t.natAbs q

/-- Comparison of two values neither of which is NaN: below, equal or above; -0 is below +0 (R245). -/
def Val.cmp (a b : Val) : Ordering :=
  match a, b with
  | .inf x, .inf y => if x = y then .eq else if x then .lt else .gt
  | .inf x, _ => if x then .lt else .gt
  | _, .inf y => if y then .gt else .lt
  | .fin s m e, .fin t n f =>
    if m = 0 ∧ n = 0 then (if s = t then .eq else if s then .lt else .gt)
    else
      let q := min e f
      let x : Int := (if s then -1 else 1) * ((m * 2 ^ (e - q).toNat : Nat) : Int)
      let y : Int := (if t then -1 else 1) * ((n * 2 ^ (f - q).toNat : Nat) : Int)
      if x < y then .lt else if x = y then .eq else .gt
  | _, _ => .eq

/-- MAX and MIN (R245). -/
def Val.max (a b : Val) : Val :=
  match a, b with
  | .nan, _ => .nan
  | _, .nan => .nan
  | a, b => if a.cmp b = .lt then b else a
def Val.min (a b : Val) : Val :=
  match a, b with
  | .nan, _ => .nan
  | _, .nan => .nan
  | a, b => if a.cmp b = .gt then b else a

/-! ### Descriptors (Table 6.4) and accumulators (Table 6.9) -/

/-- Fields of a format descriptor. -/
def dFmt (d : Nat) : Nat := fld d 0 4
def dScaled (d : Nat) : Bool := bit d 8
def dBlock (d : Nat) : Nat := 8 * 2 ^ fld d 9 2
def dCols (d : Nat) : Bool := bit d 11

/-- A descriptor is valid (R225). -/
def descValid (d : Nat) : Bool :=
  decide (d < 4096) && fld d 4 4 == 0 && decide (dFmt d ≤ 8) &&
  (dFmt d != 6 || dScaled d) && (dFmt d == 6 || dFmt d == 7 || !dScaled d)

/-- The format of the accumulator code 1, 2, 3. -/
def accFmt (a : Nat) : Nat := match a with | 1 => 1 | 2 => 0 | 3 => 8 | _ => 1

/-- An operand is an unscaled integer. -/
def unscaledInt (d : Nat) : Bool := fmtInt (dFmt d) && !dScaled d

/-- The accumulators that Table 6.9 permits for two operands, default first. -/
def accPermitted (x y : Nat) : List Nat :=
  if unscaledInt x ∧ unscaledInt y then [3, 1, 2]
  else if dFmt x = 0 ∨ dFmt y = 0 then [2]
  else [1, 2]

/-- The accumulator code in force: `a`, or the default where `a` is 0; none where it is not permitted (R239). -/
def accOf (a x y : Nat) : Option Nat :=
  let ps := accPermitted x y
  if a = 0 then ps.head? else if ps.contains a then some a else none

/-! ### Arrays of elements (R223, R228, R229) -/

/-- Bytes of `n` elements of format `f`. -/
def elemBytes (f n : Nat) : Nat := cdiv (n * fmtBits f) 8

/-- A number rounded up to a multiple of 64. -/
def pad64 (n : Nat) : Nat := cdiv n 64 * 64

/-- Scales of an array of `r` rows and `c` columns. -/
def scaleCount (d r c : Nat) : Nat :=
  if !dScaled d ∨ r * c = 0 then 0 else if dCols d then cdiv r (dBlock d) * c else r * cdiv c (dBlock d)

/-- The scale number of element (i, j). -/
def scaleIdx (d c i j : Nat) : Nat :=
  if dCols d then i / dBlock d * c + j else i * cdiv c (dBlock d) + j / dBlock d

/-- Bytes of the packed scaled layout, or of the plain elements (R229). -/
def packedBytes (d r c : Nat) : Nat :=
  if dScaled d then pad64 (elemBytes (dFmt d) (r * c)) + pad64 (scaleCount d r c) else elemBytes (dFmt d) (r * c)

/-- The encoding of element `k`. -/
def elemAt (f : Nat) (bs : Bytes) (k : Nat) : Nat :=
  if f = 6 then fld (byteAt bs (k / 2)).toNat (4 * (k % 2)) 4
  else let w := fmtBits f / 8; leNat (slice bs (k * w) w)

/-- Encodings as bytes; an odd last nibble is followed by 0. -/
def packElems (f : Nat) : List Nat → Bytes
  | [] => []
  | [x] => if f = 6 then [BitVec.ofNat 8 (x % 16)] else leBytes (fmtBits f / 8) x
  | x :: y :: r =>
    if f = 6 then BitVec.ofNat 8 (x % 16 + 16 * (y % 16)) :: packElems f r
    else leBytes (fmtBits f / 8) x ++ packElems f (y :: r)

/-- The value of element (i, j) of an array with its elements and scales apart. -/
def valAt (d : Nat) (els scs : Bytes) (c i j : Nat) : Val :=
  let v := decodeVal (dFmt d) (elemAt (dFmt d) els (i * c + j))
  if dScaled d then v.scale (byteAt scs (scaleIdx d c i j)).toNat else v

/-- The value of element `j` of a vector of `n` in the packed layout. -/
def vecAt (d n : Nat) (bs : Bytes) (j : Nat) : Val :=
  valAt d bs (bs.drop (pad64 (elemBytes (dFmt d) n))) n 0 j

/-! ### Block scales of results (R238) -/

/-- The scale, the element encodings and `sat` of one block. -/
def encodeBlock (f : Nat) (vs : List Val) : Nat × List Nat × Bool :=
  let anyNan := vs.any (fun v => v == .nan)
  let anyInf := vs.any (fun v => v == .inf true || v == .inf false)
  if anyNan ∨ anyInf then (255, vs.map (fun _ => 0), anyInf && !anyNan)
  else
    let lg (v : Val) : Option Int := match v with
      | .fin _ m e => if m = 0 then none else some ((m.log2 : Int) + e)
      | _ => none
    match (vs.filterMap lg).max? with
    | none => (0, vs.map (fun v => if f = 6 ∧ v.isNeg then 8 else 0), false)
    | some e =>
      let t : Int := if f = 6 then 2 else 6
      let s0 := e - t + 127
      let s := if s0 < 0 then 0 else if 254 < s0 then 254 else s0.toNat
      let one (v : Val) : Nat × Bool := match v with
        | .fin n m x =>
          let x' := x - s + 127
          if f = 6 then
            let r := roundEnc 6 m x'
            (b2n n * 8 + Nat.min r 7, decide (7 < r))
          else
            let r := limitInt 128 127 n (roundShift m x')
            (toTwos 8 r.1, r.2)
        | _ => (0, false)
      let os := vs.map one
      (s, os.map Prod.fst, decide (254 < s0) && os.any Prod.snd)

/-- A written array with what its status word needs. -/
structure Written where
  els : List Nat
  scs : List Nat
  sat : Bool
  /-- scale 255 by element -/
  nanBlock : List Bool
deriving DecidableEq, Repr

/-- An array of `r` rows and `c` columns encoded into descriptor `d` (R235, R238). -/
def encodeArray (d r c : Nat) (vs : List Val) : Written :=
  if dScaled d then
    let n := scaleCount d r c
    let idx := (List.range (r * c)).map (fun k => scaleIdx d c (k / c) (k % c))
    let tagged := (vs.zip idx)
    let blocks := (List.range n).map (fun b => encodeBlock (dFmt d) ((tagged.filter (fun p => p.2 == b)).map Prod.fst))
    let pos (k : Nat) : Nat := ((idx.take k).filter (fun b => b == idx.getD k 0)).length
    { els := (List.range (r * c)).map (fun k => (blocks.getD (idx.getD k 0) (0, [], false)).2.1.getD (pos k) 0)
      scs := blocks.map (fun b => b.1)
      sat := blocks.any (fun b => b.2.2)
      nanBlock := idx.map (fun b => (blocks.getD b (0, [], false)).1 == 255) }
  else
    let es := vs.map (encodeVal (dFmt d))
    { els := es.map Prod.fst, scs := [], sat := es.any Prod.snd, nanBlock := vs.map (fun _ => false) }

/-- The packed layout of a written array (R229). -/
def Written.packed (w : Written) (d : Nat) : Bytes :=
  let els := packElems (dFmt d) w.els
  if dScaled d then
    let scs := w.scs.map (BitVec.ofNat 8)
    els ++ zeros (pad64 els.length - els.length) ++ scs ++ zeros (pad64 scs.length - scs.length)
  else els

/-! ### The arithmetic status word (Table 6.11) -/

/-- Whether a written element is a NaN position and an infinity position (R248); one of a scaled I8 block can be both (DEDUCED,
log 107). -/
def posKind (f : Nat) (nanBlock : Bool) (enc : Nat) (before : Val) : Bool × Bool :=
  let out := decodeVal f enc
  let inf (v : Val) : Bool := v == .inf true || v == .inf false
  (nanBlock || (!fmtInt f && out == .nan) || (fmtInt f && before == .nan),
   (!fmtInt f && !nanBlock && inf out) || ((f == 4 || fmtInt f) && inf before))

/-- A status word from its parts. -/
def astatWord (nan inf sat : Bool) (fkind nf fpos : Nat) : Nat :=
  b2n nan * 2 ^ 63 + b2n inf * 2 ^ 62 + b2n sat * 2 ^ 61 + fkind * 2 ^ 60 + Nat.min nf 0xFFFF * 2 ^ 32 + fpos

/-- The status word of an output unit with nothing exceptional. -/
def astatNone : Nat := 0xFFFFFFFF

/-- The status word of positions `base`, `base` + 1, … (R249, R250). -/
def astatOf (base : Nat) (sat : Bool) (ks : List (Bool × Bool)) : Nat :=
  let nan := ks.any Prod.fst
  let inf := ks.any Prod.snd
  let hit (k : Bool × Bool) : Bool := k.1 || k.2
  match findIdx hit ks 0 with
  | none => b2n sat * 2 ^ 61 + astatNone
  | some (i, k) => astatWord nan inf sat (b2n (!k.1)) (ks.filter hit).length ((base + i) % 2 ^ 32)

/-- The status word of a written array whose element 0 is position `base`. -/
def Written.astat (w : Written) (d base : Nat) (vs : List Val) (sat : Bool) : Nat :=
  astatOf base (w.sat || sat) (((w.els.zip vs).zip w.nanBlock).map (fun p => posKind (dFmt d) p.2 p.1.1 p.1.2))

/-- Two status words of one slot merged (07 R296). -/
def astatMerge (a b : Nat) : Nat :=
  let none_ (w : Nat) : Bool := !bit w 63 && !bit w 62
  let nf := Nat.min 0xFFFF (fld a 32 16 + fld b 32 16)
  let firstB := none_ a || (!none_ b && decide (fld b 0 32 < fld a 0 32))
  let src := if firstB then b else a
  astatWord (bit a 63 || bit b 63) (bit a 62 || bit b 62) (bit a 61 || bit b 61) (fld src 60 1) nf (fld src 0 32)

/-! ### Exact mode (07 R275 to R280) -/

/-- A long value: two's complement A of 96 bits, and its tags. -/
structure Long where
  a    : Int
  nan  : Bool := false
  ninf : Bool := false
  pinf : Bool := false
deriving DecidableEq, Repr

/-- L of Table 7.4. -/
def longL (d xscale : Nat) : Int :=
  match dFmt d with
  | 2 => -24
  | 4 => -9
  | 5 => -16
  | 6 => (xscale : Int) - 128
  | _ => (xscale : Int) - 127

/-- A leaf as a long value, with `xlow` and `xhigh` (R277). -/
def longLeaf (l : Int) (v : Val) : Long × Bool × Bool :=
  match v with
  | .nan => ({ a := 0, nan := true }, false, false)
  | .inf n => ({ a := 0, ninf := n, pinf := !n }, false, false)
  | .fin n m e =>
    let r := roundShift m (e - l)
    let low := decide (e < l) && m % 2 ^ (l - e).toNat != 0
    let hi := decide (2 ^ 79 ≤ r)
    let r := if hi then 2 ^ 79 - 1 else r
    ({ a := if n then -(r : Int) else r }, low, hi)

/-- Two long values combined (R278). -/
def Long.add (x y : Long) : Long := ⟨x.a + y.a, x.nan || y.nan, x.ninf || y.ninf, x.pinf || y.pinf⟩

/-- The value of a long value (R279). -/
def Long.val (x : Long) (l : Int) : Val :=
  if x.nan ∨ (x.pinf ∧ x.ninf) then .nan
  else if x.pinf then .inf false
  else if x.ninf then .inf true
  else .fin (decide (x.a < 0)) x.a.natAbs l

/-- The 16-byte form as a 128-bit number (R280). -/
def Long.enc (x : Long) : Nat :=
  toTwos 96 x.a + 2 ^ 96 * (b2n x.pinf + 2 * b2n x.ninf + 4 * b2n x.nan)

/-- A long value from its 16-byte form. -/
def longDec (w : Nat) : Long :=
  let a := fld w 0 96
  ⟨if 2 ^ 95 ≤ a then (a : Int) - 2 ^ 96 else a, bit w 98, bit w 97, bit w 96⟩

end Sys2Proof.Machine
end

