-- ==== Sys2Proof/Machine/AnvilOps.lean ====
section
/-! DEFINITION. Reduction (07): operation words, blocks, the tree of combination, leaves, roots and results. -/

namespace Sys2Proof.Machine

/-! ### Descriptors and operation words (Tables 7.1, 10.1, 10.4) -/

/-- Fields of the operation word. -/
def wCount (w : Nat) : Nat := fld w 96 32
def wOp (w : Nat) : Nat := fld w 60 4
def wIn (w : Nat) : Nat := fld w 44 16
def wOut (w : Nat) : Nat := fld w 28 16
def wAcc (w : Nat) : Nat := fld w 26 2
def wExact (w : Nat) : Bool := bit w 25
def wXscale (w : Nat) : Nat := fld w 17 8

/-- `coll` and `root` of a descriptor payload. -/
def dColl (p : Nat) : Nat := fld p 128 4
def dRoot (p : Nat) : Nat := fld p 136 16
/-- Bytes 0 to 18 of the payload: what every descriptor of a collective shares (R415). -/
def dCommon (p : Nat) : Nat := p % 2 ^ 152
def dWeight (p : Nat) : Nat := fld p 160 32
def dRbase (p : Nat) : Nat := fld p 192 64
def dRfirst (p : Nat) : Nat := fld p 256 32
def dRlast (p : Nat) : Nat := fld p 288 32
def dCfirst (p : Nat) : Nat := fld p 320 32
def dClast (p : Nat) : Nat := fld p 352 32
def dUfirst (p : Nat) : Nat := fld p 448 32
def dUlast (p : Nat) : Nat := fld p 480 32

/-- The gather path (Table 10.1). -/
def isGather (coll : Nat) : Bool := coll == 3 || coll == 4

/-- A collective whose blocks have one contributor each: the gather path, but for the one empty block of `count` 0, which every
member sends and which is final once every leaf has arrived (R434). -/
def gathers (coll w : Nat) : Bool := isGather coll && wCount w != 0

/-- AND, OR and XOR. -/
def isBitwise (op : Nat) : Bool := op == 5 || op == 6 || op == 7

/-- The accumulator code in force (R261); none where Table 6.9 does not permit it. -/
def accOfWord (w : Nat) : Option Nat := accOf (wAcc w) (wIn w) (if wOp w = 1 then 1 else wIn w)

/-- Reserved bits of the operation word. -/
def wReserved (w : Nat) : Bool := fld w 64 32 != 0 || fld w 0 17 != 0

/-- An operation word is valid for a collective (R260, R403, R440). -/
def opValid (coll w : Nat) : Bool :=
  if isGather coll ∨ coll = 5 then !wReserved w && descValid (wIn w)
  else
    !wReserved w && decide (wOp w ≤ 7) && descValid (wIn w) &&
    (if isBitwise (wOp w) then unscaledInt (wIn w) && !wExact w
     else
      descValid (wOut w) &&
      (if wExact w then
        (wOp w == 0 || wOp w == 4) &&
        (dFmt (wIn w) == 2 || dFmt (wIn w) == 4 || dFmt (wIn w) == 5 || dFmt (wIn w) == 6 ||
          (dFmt (wIn w) == 7 && dScaled (wIn w)))
       else (accOfWord w).isSome)) &&
    (coll != 6 || wOp w == 0 || wOp w == 1) && (coll != 7 || !dScaled (wOut w) || isBitwise (wOp w))

/-- A descriptor payload is valid (R414): reserved bits, `coll`, `rbase`, operation word. -/
def payValid (p : Nat) : Bool :=
  fld p 384 64 == 0 && fld p 152 8 == 0 && fld p 132 4 == 0 && decide (dColl p < 8) && fld p 192 6 == 0 &&
  opValid (dColl p) (p % 2 ^ 128)

/-! ### Blocks (R262 to R266) -/

/-- E of Table 7.3. -/
def blockElems (d : Nat) : Nat :=
  match dFmt d with
  | 0 => 512
  | 1 | 8 => 1024
  | 2 | 3 => 2048
  | 7 => if dScaled d then 2048 else 4096
  | _ => 4096

/-- Blocks of a collective (R263): one for ALLTOALL. -/
def blockCount (coll w : Nat) : Nat :=
  if coll = 5 then 1 else max 1 (cdiv (wCount w) (blockElems (wIn w)))

/-- Elements of block `b`. -/
def elemsOf (coll w b : Nat) : Nat :=
  if coll = 5 then 0
  else
    let e := blockElems (wIn w)
    if b + 1 < blockCount coll w then e else wCount w - b * e

/-- Bytes of one held value (R262). -/
def heldWidth (w : Nat) : Nat :=
  if isBitwise (wOp w) then fmtBits (dFmt (wIn w)) / 8
  else if wExact w then 16
  else match accOfWord w with | some 2 => 8 | _ => 4

/-- Parts of a PARTIAL of block `b` on the reduction path. -/
def partCount (coll w b : Nat) : Nat := max 1 (cdiv (elemsOf coll w b * heldWidth w) 4096)

/-- Bytes of part `p` of a packet of block `b`: a CONTRIB and a gathered block carry the block in `indesc`, a PARTIAL
carries held values (R265, R418). -/
def partBytes (coll w b p : Nat) (partial_ : Bool) : Nat :=
  if partial_ ∧ !isGather coll then min 4096 (elemsOf coll w b * heldWidth w - 4096 * p)
  else packedBytes (wIn w) 1 (elemsOf coll w b)

/-- A block packet's block and part numbers. -/
def bNum (h : Word256) : Nat := fld (hOff h) 16 24
def bPart (h : Word256) : Nat := fld (hOff h) 12 4

/-- A block packet does not fit its slot's word (R266, R418). `claim`: on the gather path, whether its block lies in the
sender's claim. -/
def contribBad (coll w : Nat) (h : Word256) (claim : Bool) : Bool :=
  let p := pKind h == 5
  decide (blockCount coll w ≤ bNum h) ||
  decide ((if p && !isGather coll then partCount coll w (bNum h) else 1) ≤ bPart h) ||
  fld (hOff h) 0 12 != 0 ||
  !(hPlen h == cdiv (partBytes coll w (bNum h) (bPart h) p) 64 || (coll == 6 && hPlen h == 0)) ||
  (gathers coll w && !claim)

/-! ### The tree (R268) -/

/-- The split of node (lo, hi): `lo` plus the largest power of two below its size. -/
def splitOf (lo hi : Nat) : Nat := lo + 2 ^ (hi - lo - 1).log2

/-- Node (lo, hi) lies in the tree below node (l, h); `n` bounds the depth. -/
def inTree : Nat → Nat → Nat → Nat → Nat → Bool
  | 0, _, _, _, _ => false
  | n + 1, l, h, lo, hi =>
    if l = lo ∧ h = hi then true
    else if h ≤ l + 1 then false
    else
      let m := splitOf l h
      if hi ≤ m then inTree n l m lo hi else if m ≤ lo then inTree n m h lo hi else false

/-- Two adjacent items are the children of a node of the tree over `n` ranks. -/
def siblings (n : Nat) (a b : Item) : Bool :=
  a.hi == b.lo && splitOf a.lo b.hi == a.hi && inTree (n + 1) 0 n a.lo b.hi

/-- The ranks of the sibling of node (lo, hi) in the tree below node (l, h); none for that node itself. `n` bounds the depth. -/
def siblingRange : Nat → Nat → Nat → Nat → Nat → Option (Nat × Nat)
  | 0, _, _, _, _ => none
  | n + 1, l, h, lo, hi =>
    if h ≤ l + 1 ∨ (l = lo ∧ h = hi) then none
    else
      let m := splitOf l h
      if lo = l ∧ hi = m then some (m, h)
      else if lo = m ∧ hi = h then some (l, m)
      else if hi ≤ m then siblingRange n l m lo hi else siblingRange n m h lo hi

/-- The sibling of item (lo, hi) of a block over `n` ranks is formed; a root has none, and waits for nothing (R293). -/
def siblingFormed (n : Nat) (items : List Item) (lo hi : Nat) : Bool :=
  match siblingRange (n + 1) 0 n lo hi with
  | none => true
  | some r => items.any (fun i => i.lo == r.1 && i.hi == r.2)

/-- The combination of two element values in the held format, and `sat` (Table 7.2, R278). -/
def combineVal (w a b : Nat) : Nat × Bool :=
  match wOp w with
  | 5 => (Nat.land a b, false)
  | 6 => (Nat.lor a b, false)
  | 7 => (Nat.xor a b, false)
  | op =>
    if wExact w then (((longDec a).add (longDec b)).enc, false)
    else
      let f := accFmt ((accOfWord w).getD 1)
      let x := decodeVal f a
      let y := decodeVal f b
      encodeVal f (if op = 2 then x.max y else if op = 3 then x.min y else x.add y)

/-- Two items combined, left value first; an empty child gives way (R268, 10 R403). -/
def combineItems (w now : Nat) (a b : Item) : Item × Bool :=
  let base : Item := { lo := a.lo, hi := b.hi, vals := none, since := now, bil := a.bil ++ b.bil }
  if a.empty then ({ base with vals := b.vals, empty := b.empty }, false)
  else if b.empty then ({ base with vals := a.vals }, false)
  else
    let rs := ((a.vals.getD []).zip (b.vals.getD [])).map (fun p => combineVal w p.1 p.2)
    ({ base with vals := some (rs.map Prod.fst) }, rs.any Prod.snd)

/-- The first pair of siblings both of whose values are at hand. -/
def findPair (n : Nat) (items : List Item) : Option (Item × Item) :=
  let here := items.filter (fun i => i.spill.isNone)
  here.findSome? (fun a => (here.find? (fun b => siblings n a b)).map (fun b => (a, b)))

/-- Form every node whose children are formed (R269). -/
def combineAll (w n now : Nat) : Nat → Blk → Blk
  | 0, b => b
  | fuel + 1, b =>
    match findPair n b.items with
    | none => b
    | some (x, y) =>
      let r := combineItems w now x y
      combineAll w n now fuel
        { b with items := b.items.filter (fun i => i.lo != x.lo && i.lo != y.lo) ++ [r.1], sat := b.sat || r.2 }

/-! ### Leaves (R272 to R277) -/

/-- The value of one element of a CONTRIB as a leaf, with `sat`, `xlow`, `xhigh`. -/
def leafVal (w weight : Nat) (v : Val) (enc : Nat) : Nat × Bool × Bool × Bool :=
  if isBitwise (wOp w) then (enc, false, false, false)
  else if wExact w then
    let r := longLeaf (longL (wIn w) (wXscale w)) v
    (r.1.enc, false, r.2.1, r.2.2)
  else
    let r := encodeVal (accFmt ((accOfWord w).getD 1)) (if wOp w = 1 then v.mul (decodeVal 1 weight) else v)
    (r.1, r.2, false, false)

/-- A leaf from a whole contribution of one member: values and sticky flags. `parts` are its packets in part order. -/
def leafOf (coll w b weight : Nat) (parts : List Stored) : Option (List Nat) × Bool × Bool × Bool :=
  let n := elemsOf coll w b
  match parts with
  | [] => (none, false, false, false)
  | p :: _ =>
    if coll = 6 ∧ hPlen p.hdr = 0 then (none, false, false, false)
    else if pKind p.hdr = 5 then
      let bytes := parts.flatMap (fun q => slice q.pay 0 (min 4096 (n * heldWidth w - 4096 * bPart q.hdr)))
      (some ((List.range n).map (fun i => leNat (slice bytes (i * heldWidth w) (heldWidth w)))),
        parts.any (fun q => kSat q.hdr), parts.any (fun q => kXlow q.hdr), parts.any (fun q => kXhigh q.hdr))
    else
      let rs := (List.range n).map (fun i =>
        leafVal w weight (vecAt (wIn w) n p.pay i) (elemAt (dFmt (wIn w)) p.pay i))
      (some (rs.map (fun r => r.1)), rs.any (fun r => r.2.1), rs.any (fun r => r.2.2.1), rs.any (fun r => r.2.2.2))

/-! ### Results (R274, R279, R296) -/

/-- The bytes of a converted block and its status word; `n` endpoint members of the whole group. -/
def resultOf (coll w b ntotal : Nat) (it : Item) (sat : Bool) : Bytes × Nat :=
  let k := elemsOf coll w b
  let base := b * blockElems (wIn w)
  if isGather coll then ([], astatNone)
  else if isBitwise (wOp w) then
    (packElems (dFmt (wIn w)) (it.vals.getD []), b2n sat * 2 ^ 61 + astatNone)
  else
    let d := wOut w
    let acc := accFmt ((accOfWord w).getD 1)
    let fin (e : Nat) : Val × Bool :=
      if it.empty then (.fin false 0 0, false)
      else if wExact w then
        let v := (longDec e).val (longL (wIn w) (wXscale w))
        (if wOp w = 4 then v.divNat ntotal else v, false)
      else if wOp w = 4 then roundTo acc ((decodeVal acc e).divNat ntotal)
      else (decodeVal acc e, false)
    let vs := (List.range k).map (fun i => fin ((it.vals.getD []).getD i 0))
    let wr := encodeArray d 1 k (vs.map Prod.fst)
    (wr.packed d, wr.astat d base (vs.map Prod.fst) (sat || vs.any Prod.snd))

/-- The result descriptor of a collective: `indesc` on the gather path and for the bitwise operations (R403, R260). -/
def resDesc (coll w : Nat) : Nat := if isGather coll ∨ isBitwise (wOp w) then wIn w else wOut w

/-- Byte size of a full block in the result format (R425). -/
def fullBlock (coll w : Nat) : Nat := packedBytes (resDesc coll w) 1 (blockElems (wIn w))

/-! ### Spilled form (R292) -/

/-- Bytes a spilled value of one element takes: FP32, FP64 and I32 as FP64, long values in 16 bytes, encodings unchanged. -/
def spillWidth (w : Nat) : Nat :=
  if isBitwise (wOp w) then heldWidth w else if wExact w then 16 else 8

/-- A held value widened for the spill area, and converted back. -/
def spillEnc (w v : Nat) : Nat :=
  if isBitwise (wOp w) ∨ wExact w then v
  else (encodeVal 0 (decodeVal (accFmt ((accOfWord w).getD 1)) v)).1
def spillDec (w v : Nat) : Nat :=
  if isBitwise (wOp w) ∨ wExact w then v
  else (encodeVal (accFmt ((accOfWord w).getD 1)) (decodeVal 0 v)).1

end Sys2Proof.Machine
end

