-- ==== Sys2Proof/Machine/RecOps.lean ====
section
/-! DEFINITION. The recorder's ring, records, gaps, comparisons and digests (18 R696 to R704). -/

namespace Sys2Proof.Machine

/-- Lines of a ring (R697). -/
def ringLines : Nat := 33554432

/-- The ring of die `d` starts at local offset 2 GiB of its system area. -/
def Sw.ringBase (s : Sw) (d : Nat) : Nat := s.sysBase d + 2 * gib

/-- Where line `n` of die `d`'s ring stands in HBM. -/
def Sw.ringAt (s : Sw) (d n : Nat) : Nat := s.ringBase d + 64 * (n % ringLines)

/-- A line that its reader does not get: uncorrectable, or its stack is in reset (08 R317, R349). -/
def Sw.ringLost (s : Sw) (d n : Nat) : Bool := s.lineBad (s.ringAt d n / 64) || s.lineReset (s.ringAt d n)

/-- Lines `a` to `b` of a ring are read: an uncorrectable one is counted and raises its fault (08 R316). -/
def Sw.ringMeets (s : Sw) (d a b : Nat) : Sw :=
  let base := s.ringBase d
  (s.hbmBad.filter (fun l => decide (base ≤ 64 * l ∧ 64 * l < base + 64 * ringLines ∧ a ≤ b ∧
    ((64 * l - base) / 64 + ringLines - a % ringLines) % ringLines ≤ b - a) && !s.lineReset (64 * l))).foldl
    (fun s l => s.uncorr (64 * l) rdSystem) s

/-- Change the recorder. -/
def Sw.updRec (s : Sw) (f : Recd → Recd) : Sw := { s with recd := f s.recd }

/-- The recorder stops (Table 18.6). -/
def Sw.recStop (s : Sw) (cause : Nat) : Sw := s.updRec (fun r => { r with st := 4, cause := cause, await := [] })

/-- Metadata of a record (Table 18.5). -/
structure RecMeta where
  kind : Nat
  port : Nat
  full : Bool := false
  lines : Nat := 0
  tag  : Nat := 0
  pcrc : Nat := 0
  fin  : Nat := 0
deriving DecidableEq, Repr

/-- Bytes 32 to 63 of a record. -/
def recMeta (m : RecMeta) (time rno : Nat) : Bytes :=
  leBytes 32 (setFld (setFld (setFld (setFld (setFld (setFld (setFld (setFld (setFld 0 192 64 time) 160 32 rno) 128 32 m.pcrc)
    120 8 m.fin) 115 5 m.kind) 106 9 m.port) 105 1 (b2n m.full)) 64 32 m.lines) 0 64 m.tag)

/-- What stands for a line that its reader does not get: a record of no kind in Table 18.5 (DESIGN CHOICE, log 123). -/
def lostLine : Bytes := zeros 32 ++ recMeta { kind := 31, port := 0 } 0 0

/-- Line `n` of die `d`'s ring, as a reader gets it. -/
def Sw.ringLine (s : Sw) (d n : Nat) : Bytes := if s.ringLost d n then lostLine else s.hbmRd (s.ringAt d n) 64

/-- The oldest line of a ring at which a record starts. -/
def Sw.ringStart (s : Sw) (d : Nat) : Nat := s.recd.oldest.getD d 0

/-- The metadata fields of a line. -/
def lineMeta (l : Bytes) : Nat := leNat (l.drop 32)
def lKind (l : Bytes) : Nat := fld (lineMeta l) 115 5
def lPort (l : Bytes) : Nat := fld (lineMeta l) 106 9
def lFull (l : Bytes) : Bool := bit (lineMeta l) 105
def lLines (l : Bytes) : Nat := fld (lineMeta l) 64 32
def lTag (l : Bytes) : Nat := fld (lineMeta l) 0 64
def lTime (l : Bytes) : Nat := fld (lineMeta l) 192 64
def lRno (l : Bytes) : Nat := fld (lineMeta l) 160 32

/-- Lines a record takes in the ring. -/
def lSpan (l : Bytes) : Nat := if lFull l then 1 + lLines l else 1

/-- Lines `a` to `a + n - 1` of a ring, as they were written. -/
def Sw.ringRaw (s : Sw) (d a n : Nat) : List Bytes := (List.range n).map (fun i => s.hbmRd (s.ringAt d (a + i)) 64)

/-- Lines staged at die `d` at the present instant. -/
def Sw.staged (s : Sw) (d : Nat) : Nat :=
  match s.recd.stage.get? d with | some (t, n) => if t = s.now then n else 0 | none => 0

/-- How many of the staged lines stand before those of the first record of a port above `port` (R700). -/
def tieAt (port : Nat) : Nat → List Bytes → Nat
  | 0, _ => 0
  | _, [] => 0
  | n + 1, l :: ls => if port < lPort l then 0 else lSpan l + tieAt port n (ls.drop (lSpan l - 1))

/-- Records before which another is put have numbers one higher. -/
def renumber : Nat → List Bytes → List Bytes
  | 0, ls => ls
  | _, [] => []
  | n + 1, l :: ls =>
    (l.take 32 ++ leBytes 32 (setFld (lineMeta l) 160 32 ((lRno l + 1) % 2 ^ 32))) ::
      (ls.take (lSpan l - 1) ++ renumber n (ls.drop (lSpan l - 1)))

/-- A ring that takes `n` more lines overwrites its oldest records, whole ones, where it is full (R701). -/
def Sw.ringFree (s : Sw) (d n : Nat) : Sw :=
  let e := s.rd (L.recWp.at d) + n
  if e ≤ ringLines then s
  else
    let a := forN n (s.recd.oldest.getD d 0) (fun _ a => if a + ringLines < e then a + lSpan (s.hbmRd (s.ringAt d a) 64) else a)
    s.updRec (fun r => { r with wrapped := true, oldest := AMap.set r.oldest d a })

/-- A record enters the ring behind those staged before it, but for those of its instant with a higher port (R700); a full ring
stops recording unless it may wrap (R701). Answers the line it has. -/
def Sw.ringPut (s : Sw) (d : Nat) (first : Bytes) (m : RecMeta) (payload : List Bytes) : Option Nat × Sw :=
  let wp := s.rd (L.recWp.at d)
  let k := s.staged d
  let n := 1 + payload.length
  let wraps := bit (s.rd L.recFlags) 0
  if ringLines < wp + n ∧ !wraps then (none, s.updRec (fun r => { r with st := 4, cause := 1 }))
  else
    let old := s.ringRaw d (wp - k) k
    let i := min k (tieAt m.port k old)
    let a := wp - k + i
    let behind := old.drop i
    let next := s.recd.rno.getD d 0
    let rno := match behind.head? with | some l => lRno l | none => next
    let line := slice first 0 32 ++ recMeta { m with lines := if m.kind = 6 then m.lines else payload.length } s.now rno
    let s := (((line :: payload) ++ renumber k behind).zipIdx).foldl
      (fun s li => (s.writeLine (s.ringAt d (a + li.2)) li.1 rdSystem).2) (s.ringFree d n)
    let s := (s.wr (L.recWp.at d) 0 (wp + n)).updRec (fun r => { r with
      rno := AMap.set r.rno d ((next + 1) % 2 ^ 32)
      stage := AMap.set r.stage d (s.now, k + n)
      await := r.await.map (fun kv => if kv.2.1 = d ∧ a ≤ kv.2.2 then (kv.1, (d, kv.2.2 + n)) else kv) })
    (some a, if wp + n = ringLines ∧ !wraps then s.updRec (fun r => { r with st := 4, cause := 1 }) else s)

/-- One record with its payload lines (R698 to R700), where it is written. -/
def Sw.recordAt (s : Sw) (d : Nat) (first : Bytes) (m : RecMeta) (payload : List Bytes) : Option Nat × Sw :=
  if s.recd.st ≠ 1 then (none, s)
  else if 1024 < s.staged d + 1 + payload.length then
    (none, (s.inc (L.recLost.at d)).updRec (fun r => { r with gap := AMap.set r.gap d (r.gap.getD d 0 + 1) }))
  else
    let lost := s.recd.gap.getD d 0
    let s := if lost = 0 then s
      else (s.ringPut d (zeros 32) { kind := 6, port := 0, lines := lost } []).2.updRec (fun r => { r with gap := AMap.del r.gap d })
    if s.recd.st ≠ 1 then (none, s) else s.ringPut d first m payload

/-- One record. -/
def Sw.record (s : Sw) (d : Nat) (first : Bytes) (m : RecMeta) (payload : List Bytes) : Sw := (s.recordAt d first m payload).2

/-- The first difference sets `rec.div`; later ones only count (R703, Table 18.8). -/
def Sw.diverge (s : Sw) (rno port die kind cause : Nat) : Sw :=
  if s.recd.diverged then s.inc L.recNdiv
  else (s.wr L.recDiv 0 (rno * 2 ^ 32 + port * 2 ^ 23 + die * 2 ^ 21 + kind * 2 ^ 16 + cause * 2 ^ 8)).updRec
    (fun r => { r with diverged := true })

/-- Records that Feed releases: packets of the ports set in `rec.ports`, host writes and lexicon writes (R704). -/
def Sw.fed (s : Sw) (l : Bytes) : Bool :=
  (lKind l == 0 && bit (s.rd L.recPorts) (lPort l)) || lKind l == 1 || lKind l == 2

/-- The first record from line `n` on that satisfies `p`. -/
def Sw.findRec (s : Sw) (d : Nat) (p : Nat → Bytes → Bool) : Nat → Nat → Option (Nat × Bytes)
  | 0, _ => none
  | fuel + 1, n =>
    if s.rd (L.recWp.at d) ≤ n then none
    else
      let l := s.ringLine d n
      if p n l then some (n, l) else Sw.findRec s d p fuel (n + lSpan l)

/-- The next record of a kind and port for a comparison cursor. -/
def Sw.nextRec (s : Sw) (d key kind port : Nat) : Option (Nat × Bytes) :=
  let a := s.recd.cur.getD key (s.ringStart d)
  s.findRec d (fun _ l => lKind l == kind && lPort l == port) (s.rd (L.recWp.at d) - a) a

/-- What the search for it reads. -/
def Sw.nextMeets (s : Sw) (d key kind port : Nat) : Sw :=
  s.ringMeets d (s.recd.cur.getD key (s.ringStart d))
    (((s.nextRec d key kind port).map Prod.fst).getD (s.rd (L.recWp.at d) - 1))

/-- The next of them in the ring of die `d`: die, line number, line. -/
def Sw.fedHead (s : Sw) (d : Nat) : Option (Nat × Nat × Bytes) :=
  let n := s.recd.cur.getD (1024 + d) (s.ringStart d)
  (s.findRec d (fun _ l => s.fed l) (s.rd (L.recWp.at d) - n) n).map (fun x => (d, x.1, x.2))

/-- The record released next: the least time, then the lowest port, then the lowest die. -/
def Sw.fedNext (s : Sw) : Option (Nat × Nat × Bytes) :=
  minBy (fun h => lTime h.2.2 * 512 + lPort h.2.2) ((List.range 4).filterMap s.fedHead)

/-- Compare ends after the last record that it consumes; Feed once all is released and every digest record is matched (Table
18.6; DEDUCED, log 43). -/
def Sw.recLast (s : Sw) : Sw :=
  if s.recd.left = 0 ∧ (s.recd.st = 2 ∨ (s.recd.st = 3 ∧ s.fedNext = none)) then s.recStop 4 else s

/-- One more record consumed. -/
def Sw.consumed (s : Sw) : Sw := (s.updRec (fun r => { r with left := r.left - 1 })).recLast

/-- A comparison cursor moves past a record. -/
def Sw.passRec (s : Sw) (key n : Nat) (l : Bytes) : Sw :=
  (s.updRec (fun r => { r with cur := AMap.set r.cur key (n + lSpan l) })).consumed

/-- A port and tenancy are selected (R697). -/
def Sw.recPort (s : Sw) (p t : Nat) : Bool := bit (s.rd L.recPorts) p && bit (s.rd L.recTen) t

/-- Live packets on this port are replaced by Feed (R704). -/
def Sw.feedPort (s : Sw) (p : Nat) : Bool := s.recd.st == 3 && bit (s.rd L.recPorts) p

/-- A control packet or a data header is an input at port `p` (R697, R703). A packet on a port set in `rec.full` has
`full` 1, though it has no payload line (DEDUCED from R699 and R704, log 43). -/
def Sw.recPacket (s : Sw) (p t : Nat) (w : Bytes) (plen : Option Nat) : Sw :=
  let s := if plen.isSome then s.updRec (fun r => { r with await := AMap.del r.await p }) else s
  if !s.recPort p t then s
  else
    let d := laneDie p
    if s.recd.st = 1 then
      let keep := bit (s.rd L.recFull) p
      let r := s.recordAt d w { kind := 0, port := p, full := keep } (if keep then List.replicate (plen.getD 0) (zeros 64) else [])
      match r.1, plen with
      | some n, some _ => r.2.updRec (fun r => { r with await := AMap.set r.await p (d, n) })
      | _, _ => r.2
    else if s.recd.st = 2 then
      let r := s.nextRec d p 0 p
      let s := s.nextMeets d p 0 p
      match r with
      | none => s.diverge 0 p d 0 4
      | some (n, l) =>
        let s := if (l.take 30) == (w.take 30) then s else s.diverge (lRno l) p d 0 1
        if plen.isSome then s.updRec (fun r => { r with await := AMap.set r.await p (d, n) }) else s.passRec p n l
    else s

/-- The end word of a recorded data packet: its `pcrc`, `end` and payload enter the record, also that of the record which filled
the ring, or are compared. -/
def Sw.recEnd (s : Sw) (p : Nat) (pay : Bytes) (e : Nat) : Sw :=
  match s.recd.await.get? p with
  | none => s
  | some (d, n) =>
    let s := s.updRec (fun r => { r with await := AMap.del r.await p })
    let l := s.ringLine d n
    let m := lineMeta l
    let kept := s.recd.st = 1 ∨ (s.recd.st = 4 ∧ s.recd.cause = 1)
    if kept ∧ s.ringLost d n then s
    else if kept then
      let l' := l.take 32 ++ leBytes 32 (setFld (setFld m 128 32 (fld e 32 32)) 120 8 (fld e 0 8))
      let s := (s.writeLine (s.ringAt d n) l' rdSystem).2
      if lFull l then forN (lLines l) s (fun i s => (s.writeLine (s.ringAt d (n + 1 + i)) (slice pay (64 * i) 64) rdSystem).2)
      else s
    else if s.recd.st = 2 then
      let s := if fld m 128 32 = fld e 32 32 ∧ fld m 120 8 = fld e 0 8 then s else s.diverge (lRno l) p d 0 2
      s.passRec p n l
    else s

/-- A host-window write is an input (R697, R703): offset and length, then the bytes. -/
def Sw.recHost (s : Sw) (d win off : Nat) (bs : Bytes) : Sw :=
  if !bit (s.rd L.recFlags) 1 then s
  else
    let first := leBytes 16 off ++ leBytes 16 bs.length
    if s.recd.st = 1 then
      s.record d first { kind := 1, port := win, full := true } ((List.range (cdiv bs.length 64)).map (fun i => slice bs (64 * i) 64))
    else if s.recd.st = 2 then
      let r := s.nextRec d (512 + win) 1 win
      let s := s.nextMeets d (512 + win) 1 win
      match r with
      | none => s.diverge 0 win d 1 4
      | some (n, l) =>
        let s := if l.take 30 == first.take 30 then s else s.diverge (lRno l) win d 1 1
        s.passRec (512 + win) n l
    else s

/-- A lexicon write is an input, recorded on F0 (R697). `port`: the transport code of 15 R627. -/
def Sw.recLex (s : Sw) (first : Bytes) (port : Nat) : Sw :=
  if bit (s.rd L.recFlags) 2 ∧ s.recd.st = 1 then s.record 0 first { kind := 2, port := port } [] else s

/-- An output digest (R697, R699, R703). -/
def Sw.recDigest (s : Sw) (d kind tag : Nat) (out : Bytes) : Sw :=
  if !bit (s.rd L.recFlags) 3 then s
  else
    let dig := leBytes 4 (crc32 out)
    if s.recd.st = 1 then s.record d dig { kind := kind, port := 0, tag := tag } []
    else if s.recd.st = 2 ∨ s.recd.st = 3 then
      let hit := (List.range 4).findSome? (fun k =>
        (s.findRec k (fun n l => lKind l == kind && lTag l == tag && !s.recd.used.contains (k, n))
          (s.rd (L.recWp.at k) - s.ringStart k) (s.ringStart k)).map (fun x => (k, x)))
      let s := (List.range 4).foldl (fun s k =>
        match hit with
        | none => s.ringMeets k (s.ringStart k) (s.rd (L.recWp.at k) - 1)
        | some (h, n, _) => if k < h then s.ringMeets k (s.ringStart k) (s.rd (L.recWp.at k) - 1)
          else if k = h then s.ringMeets k (s.ringStart k) n else s) s
      match hit with
      | none => s.diverge 0 0 d kind 6
      | some (k, n, l) =>
        let s := s.updRec (fun r => { r with used := r.used ++ [(k, n)] })
        (if l.take 4 == dig then s else s.diverge (lRno l) (lPort l) k kind 5).consumed
    else s

/-- The tag of a digest: tenancy, group or array, `cseq` or `ctag` (Table 18.5). -/
def digTag (t g q : Nat) : Nat := t % 256 * 2 ^ 56 + g % 4096 * 2 ^ 44 + q % 2 ^ 32

/-- A quench of a recorded tenancy stops recording (R701). -/
def Sw.recQuench (s : Sw) (t : Nat) : Sw :=
  if s.recd.st = 1 ∧ bit (s.rd L.recTen) t then s.recStop 2 else s

end Sys2Proof.Machine
end

