-- ==== Sys2Proof/Machine/CollOps.lean ====
section
/-! DEFINITION. The collective machinery (10) and the epoch slots (07 R281 to R297): members, placement, arrival,
commit, results, completion, abort, spill, and the events of the clause cores. -/

namespace Sys2Proof.Machine

/-! ### Group entries (Table 10.3) and members (R408, R409) -/

def gValid (g : Nat) : Bool := bit g 511
def gReg (g : Nat) : Bool := bit g 510
def gTop (g : Nat) : Bool := bit g 509
def gClass (g : Nat) : Nat := fld g 506 3
def gProg (g : Nat) : Nat := fld g 500 6
def gCore (g : Nat) : Nat := fld g 494 6
def gTen (g : Nat) : Nat := fld g 480 8
def gParent (g : Nat) : Nat := fld g 464 16
def gNtotal (g : Nat) : Nat := fld g 447 17
def gUlist (g : Nat) : Nat := fld g 152 40
def gUcount (g : Nat) : Nat := fld g 148 4

/-- A member of a group at this switch. -/
structure Member where
  id    : Nat
  key   : Nat
  child : Bool
deriving DecidableEq, Repr

/-- A coordinate matches the group (R408). -/
def coordIn (g coord : Nat) : Bool :=
  Nat.land (Nat.xor coord (fld g 288 32)) (fld g 256 32) == 0 &&
  (List.range 4).all (fun a =>
    let c := fld coord (8 * a) 8
    let lo := fld g (224 + 8 * a) 8
    let hi := fld g (192 + 8 * a) 8
    if lo ≤ hi then decide (lo ≤ c ∧ c ≤ hi) else decide (lo ≤ c ∨ c ≤ hi))

/-- Insert a member by ascending key, then ascending ID (R409). -/
def insMember (m : Member) : List Member → List Member
  | [] => [m]
  | x :: xs => if m.key < x.key ∨ (m.key = x.key ∧ m.id < x.id) then m :: x :: xs else x :: insMember m xs

/-- The members of a group at this switch, in the order of their local ranks. -/
def Sw.groupMembers (s : Sw) (g : Nat) : List Member :=
  let eps := (s.elems L.collCoord).filterMap (fun e =>
    if bit e.2 63 && coordIn g (fld e.2 0 32) then some ⟨e.1, fld e.2 0 32, false⟩ else none)
  let chs := (s.elems L.collChild).filterMap (fun e =>
    if bit e.2 63 && bit (fld g 320 64) e.1 then some ⟨fld e.2 32 16, fld e.2 0 32, true⟩ else none)
  (eps ++ chs).foldl (fun l m => insMember m l) []

/-- The group entry. -/
def Sw.group (s : Sw) (n : Nat) : Nat := s.rd L.collGroup n

/-- A member by its ID, with its local rank. -/
def memberOf (ms : List Member) (id : Nat) : Option (Nat × Member) := findIdx (fun m => m.id == id) ms 0

/-- A packet of a member is denied (R411). -/
def Sw.collDenied (s : Sw) (n t src : Nat) (cls : Option Nat) : Bool :=
  let g := s.group n
  !gValid g || gNtotal g == 0 || gTen g != t || (memberOf (s.groupMembers g) src).isNone ||
  (match cls with | some c => c != gClass g | none => false)

/-- A COMMIT, COMPLETE or RESULT from the parent is acted on (R411, Table 10.11). -/
def Sw.fromParent (s : Sw) (n t src : Nat) : Bool :=
  let g := s.group n
  gValid g && gNtotal g != 0 && gTen g == t && !gTop g && gParent g == src

/-! ### Contexts and slots -/

/-- Change the collective machinery's state. -/
def Sw.updAnv (s : Sw) (f : Anv → Anv) : Sw := { s with anv := f s.anv }

/-- The slot `i` of context `c`. -/
def Sw.slot (s : Sw) (c i : Nat) : Slot := ((s.anv.ctx.get? c).map (fun x => x.slot i)).getD {}

/-- Change slot `i` of context `c`. -/
def Sw.updSlot (s : Sw) (c i : Nat) (f : Slot → Slot) : Sw :=
  match s.anv.ctx.get? c with
  | none => s
  | some x => s.updAnv (fun a => { a with ctx := AMap.set a.ctx c (x.setSlot i (f (x.slot i))) })

/-- Contexts of a group on a die. -/
def Sw.ctxsOf (s : Sw) (d t g : Nat) : List (Nat × Ctx) :=
  s.anv.ctx.filter (fun kv => kv.1 / 1024 == d && kv.2.ten == t && kv.2.group == g)

/-- Which of the three cases of R281 a slot falls under for `cseq`; 0 for none. -/
def slotCase (y : Slot) (cseq : Nat) : Nat :=
  match y.st with
  | .idle => 3
  | .closed => if y.cseq = cseq ∨ later32 cseq y.cseq then 2 else if later32 y.cseq cseq then 3 else 0
  | _ => if y.cseq = cseq then 1 else 0

/-- The context of a group on a die whose slot takes `cseq`, and the case (R281). -/
def Sw.slotFor (s : Sw) (d t g cseq : Nat) : Option (Nat × Nat) :=
  [1, 2, 3].findSome? (fun k =>
    ((s.ctxsOf d t g).find? (fun kv => slotCase (kv.2.slot cseq) cseq == k)).map (fun kv => (kv.1, k)))

/-- Free contexts of a die that serve a tenancy (14 R562, R563). -/
def Sw.freeCtxs (s : Sw) (d t : Nat) : List Nat :=
  let w := s.rd (L.tenCtx.at d) t
  ((List.range (fld w 16 11)).map (fun i => 1024 * d + fld w 0 10 + i)).filter (fun c =>
    decide (c < 1024 * (d + 1)) && (s.anv.ctx.get? c).isNone)

/-- The outstanding reserve of a tenancy's registered groups on a die (R420 step 3, R563). -/
def Sw.ctxReserve (s : Sw) (d t : Nat) : Nat :=
  sumBy (fun e => if gValid e.2 ∧ gReg e.2 ∧ gTen e.2 = t then 2 - (s.ctxsOf d t e.1).length else 0) (s.elems L.collGroup)

/-- Steps 2 and 3 of R420: bind the lowest free context, or none. -/
def Sw.bindCtx (s : Sw) (d t g : Nat) : Option (Nat × Sw) :=
  let w := s.group g
  match s.freeCtxs d t with
  | [] => none
  | c :: cs =>
    if (gReg w ∧ gValid w ∧ (s.ctxsOf d t g).length < 2) ∨ s.ctxReserve d t < cs.length + 1 then
      some (c, s.updAnv (fun a => { a with ctx := AMap.set a.ctx c { ten := t, group := g } }))
    else none

/-- Steps 1 to 3 of R420. -/
def Sw.placeColl (s : Sw) (d t g cseq : Nat) : Option (Nat × Sw) :=
  match s.slotFor d t g cseq with
  | some (c, _) => some (c, s)
  | none => s.bindCtx d t g

/-- A packet is stale for its group (R419). -/
def Sw.collStaleFor (s : Sw) (g cseq : Nat) : Bool :=
  s.anv.closed.contains g && !later32 (s.rd L.collClosed g) cseq

/-! ### Records of collectives -/

/-- Three numbers name a collective. -/
def Coll.is (x : Coll) (t g q : Nat) : Bool := x.ten == t && x.group == g && x.cseq == q

/-- The record of a collective; a fresh one where there is none. -/
def Sw.coll (s : Sw) (t g q : Nat) : Coll :=
  (s.anv.colls.find? (fun x => x.is t g q)).getD { ten := t, group := g, cseq := q }

/-- Change the record of a collective. -/
def Sw.updColl (s : Sw) (t g q : Nat) (f : Coll → Coll) : Sw :=
  let x := f (s.coll t g q)
  s.updAnv (fun a => { a with colls := a.colls.filter (fun y => !y.is t g q) ++ [x] })

/-- Slots of a collective: context and slot, all dies. -/
def Sw.collSlots (s : Sw) (t g q : Nat) : List (Nat × Slot) :=
  (s.anv.ctx.filter (fun kv => kv.2.ten == t && kv.2.group == g)).filterMap (fun kv =>
    let y := kv.2.slot q
    if y.cseq = q ∧ y.st ≠ .idle then some (kv.1, y) else none)

/-! ### Events of the clause cores (R444) -/

/-- An event of 16 bytes. -/
def mkEvent (cseq g kind status arg : Nat) : Bytes :=
  leBytes 4 cseq ++ leBytes 2 g ++ leBytes 1 kind ++ leBytes 1 status ++ leBytes 8 arg

/-- An event reaches a core: a core in EVWAIT takes it at once. -/
def Core.giveEvent (c : Core) (e : Bytes) : Core :=
  match c.wait with
  | .event a rd =>
    ({ c with wait := .run, mem := memWrs c.mem a e }).setReg rd (byteAt e 6).toNat
  | _ => { c with evq := c.evq ++ [e] }

/-- Waiting events move into their cores' queues as room comes; a core in reset takes none (14 R583). -/
def Sw.evFlush (s : Sw) : Sw :=
  s.anv.late.foldl (fun s x =>
    if s.blkRst.contains (.core (Fin.ofNat 64 x.1)) then s.updAnv (fun a => { a with late := eraseOne x a.late })
    else if (s.core x.1).evq.length < 64 then
      (s.setCore x.1 ((s.core x.1).giveEvent x.2)).updAnv (fun a => { a with late := eraseOne x a.late })
    else s) s

/-- The group's program gets an event; a full queue makes it wait in order. -/
def Sw.postEvent (s : Sw) (g cseq kind status arg : Nat) : Sw :=
  let w := s.group g
  if gProg w = 0 then s
  else (s.updAnv (fun a => { a with late := a.late ++ [(gCore w, mkEvent cseq g kind status arg)] })).evFlush

/-- JOB_DONE with the job's status and index. A job belongs to no collective: no rule states `cseq` and `group`, which are free
values (log 61). -/
def Sw.postJobDone (s : Sw) (core status index : Nat) : Sw :=
  let a := s.draw
  let b := a.2.draw
  (b.2.updAnv (fun x => { x with late := x.late ++ [(core, mkEvent (a.1 % 2 ^ 32) (b.1 % 2 ^ 16) 5 status index)] })).evFlush

/-- The machinery of a group waits: the event queue of its core is full (R444). What a command of it would take stays where it
waits, and is taken by a later one. -/
def Sw.collWaits (s : Sw) (g : Nat) : Bool :=
  let w := s.group g
  gProg w != 0 && (s.anv.late.any (fun x => x.1 == gCore w) || decide (64 ≤ (s.core (gCore w)).evq.length))

/-! ### Packets of a collective -/

/-- Which packets of a collective the part sends under which checks is 14 R566's; this is the machinery's ID. -/
def Sw.svcEp (s : Sw) : Nat := s.selfEp

/-- A COLL control packet of a collective from die `d`. Its digest is the one a slot recorded, else `dig`, that of the packet
which it answers or passes on (R415: the part computes none). -/
def Sw.sendColl (s : Sw) (d dst t g q op status level : Nat) (ck : Checks) (dig : Nat := 0) : Sw :=
  let dig := ((s.collSlots t g q).findSome? (fun c => c.2.digest)).getD dig
  s.sendCtl d (mkColl s.svcEp dst t (s.incOf (incForge d)) op status dig q g level) ck

/-- A CONTRIB, PARTIAL or RESULT header of a collective; `off` is the whole GFA below the destination for a switch. -/
def Sw.collHdr (s : Sw) (kind t g q dig level : Nat) (gfa bytes flags : Nat) : Word256 :=
  mkPkt [(0, 5, kind), (5, 2, 1), (8, 3, gClass (s.group g)), (16, 8, Config.partEntropy), (24, 16, s.svcEp),
    (40, 7, cdiv bytes 64), (48, 6, bytes % 64), (56, 64, gfa), (112, 8, t), (152, 12, g), (164, 32, q), (196, 32, dig),
    (228, 2, level), (230, 3, flags)]

/-- The GFA of block `b`, part `p` at a switch's service ID (R265). -/
def blockGfa (t dst b p : Nat) : Nat := t * 2 ^ 56 + dst * 2 ^ 40 + b * 65536 + p * 4096

/-- A byte string in pieces of 4,096; one empty piece for no bytes. -/
def pieces : Nat → Bytes → List Bytes
  | 0, bs => [bs]
  | n + 1, bs => if bs.length ≤ 4096 then [bs] else bs.take 4096 :: pieces n (bs.drop 4096)

/-- Pieces with their part numbers. -/
def parts (bs : Bytes) : List (Nat × Bytes) :=
  let ps := pieces (bs.length / 4096) bs
  (List.range ps.length).zip ps

/-! ### Claims (R402, R417) -/

/-- A claim: first and last block; empty where first is above last. -/
abbrev Claim := Nat × Nat

/-- No block. -/
def noClaim : Claim := (0xFFFFFFFF, 0)

/-- A block lies in a claim. -/
def inClaim (c : Claim) (b : Nat) : Bool := decide (c.1 ≤ b ∧ b ≤ c.2)

/-- The smallest range that covers two claims. -/
def coverClaim (a b : Claim) : Claim :=
  if a.2 < a.1 then (if b.2 < b.1 then noClaim else b) else if b.2 < b.1 then a else (min a.1 b.1, max a.2 b.2)

/-- What a member contributes on the gather path. -/
def contribClaim (p : Nat) (m : Member) : Claim :=
  let w := p % 2 ^ 128
  if m.child then (dCfirst p, dClast p)
  else if dColl p = 4 then (if dRoot p = m.id then (0, blockCount 4 w - 1) else noClaim)
  else if dColl p = 3 then (dCfirst p, dClast p)
  else (0, blockCount (dColl p) w - 1)

/-- What a member receives. -/
def receiveClaim (p : Nat) (m : Member) : Claim :=
  let w := p % 2 ^ 128
  if m.child then (dRfirst p, dRlast p)
  else match dColl p with
    | 1 => if dRoot p = m.id then (0, blockCount 1 w - 1) else noClaim
    | 2 | 6 => (dRfirst p, dRlast p)
    | 5 => noClaim
    | c => (0, blockCount c w - 1)

/-- Entries of the switch's own update list (R437), read at their line ports. One with an uncorrectable line, or in a stack in reset,
covers no block (08 R316, R349; DESIGN CHOICE, log 142). -/
def Sw.readList (s : Sw) (g : Nat) : List Bytes × Sw :=
  let w := s.group g
  (List.range (gUcount w)).foldl (fun (a : List Bytes × Sw) i =>
    let r := a.2.readLines (gUlist w + 128 * i) 2 rdSystem
    match r.1 with
    | some e => (a.1 ++ [e], r.2)
    | none => (a.1, r.2)) ([], s)

/-- First and last block, `gbase` and `pbase` of an entry of the update list. -/
def uFirst (e : Bytes) : Nat := leNat (slice e 64 4)
def uLast (e : Bytes) : Nat := leNat (slice e 68 4)
def uGbase (e : Bytes) : Nat := leNat (slice e 72 8)
def uPbase (e : Bytes) : Nat := leNat (slice e 80 8)

/-- The update claim of a list. -/
def listClaim (l : List Bytes) : Claim :=
  l.foldl (fun c e => coverClaim c (uFirst e, uLast e)) noClaim

/-- Every member of the group has a descriptor in the slot. -/
def Sw.allDesc (s : Sw) (g : Nat) (y : Slot) : Bool :=
  (s.groupMembers (s.group g)).all (fun m => y.desc.any (fun e => e.1 == m.id))

/-- A member's descriptor payload in a slot. -/
def descOf (y : Slot) (id : Nat) : Option Nat := (y.desc.find? (fun e => e.1 == id)).map Prod.snd

/-! ### Spill area (R290 to R294, 08 R310) -/

/-- Slots of 64 KiB of the spill area that hold something, by offset. -/
def Sw.spillUsed (s : Sw) (d : Nat) : List Nat :=
  (s.anv.ctx.filter (fun kv => kv.1 / 1024 == d)).flatMap (fun kv =>
    (kv.2.slot0.blocks ++ kv.2.slot1.blocks).flatMap (fun b => b.items.filterMap (fun i => i.spill))) ++
  s.anv.colls.flatMap (fun x => (x.staged.filter (fun e => e.die == d)).map Staged.addr)

/-- The lowest free slot of a die's spill area (DESIGN CHOICE, log 11); none when the area is full. -/
def Sw.spillSlot (s : Sw) (d : Nat) : Option Nat :=
  let base := s.sysBase d + (4 + s.rd (L.bilDeepGib.at d)) * gib
  let used := s.spillUsed d
  ((List.range (used.length + 1)).find? (fun i =>
    decide (i < s.rd (L.anvilSpillGib.at d) * 16384) && !used.contains (base + 65536 * i))).map (fun i => base + 65536 * i)

/-! ### Release, abort and completion -/

/-- Everything a slot holds is released. -/
def Sw.dropSlot (s : Sw) (c i : Nat) : Sw :=
  let y := s.slot c i
  let hs := y.blocks.flatMap (fun b => b.stored.flatMap Stored.bil ++ b.items.flatMap Item.bil) ++ y.beyond.flatMap Stored.bil
  let s := s.updSlot c i (fun y => { y with blocks := [], beyond := [], final := [], stallAt := none })
  let s := { s with bil := { s.bil with waits := s.bil.waits.filter (fun r =>
    !(decide (r.owner = Owner.ctx (Fin.ofNat 4096 c)) && (match r.who with | .held j _ => j % 2 == i % 2 | _ => false))) } }
  (s.releaseAll hs).bilRetry

/-- A context whose slots are all Idle or Closed starts its linger time; otherwise none runs (R285). A linger time of 0 ends as
the command that starts it does (R303). -/
def Sw.lingerCheck (s : Sw) (c : Nat) : Sw :=
  match s.anv.ctx.get? c with
  | none => s
  | some x =>
    let quiet (y : Slot) : Bool := y.st == .idle || y.st == .closed
    let x' := if quiet x.slot0 && quiet x.slot1 then
        (if x.linger.isSome then x
         else { x with linger := some (if s.rd L.anvilLingerNs = 0 then 0 else deadline s.now (s.rd L.anvilLingerNs)) })
      else { x with linger := none }
    s.updAnv (fun a => { a with ctx := AMap.set a.ctx c x' })

/-- The abort faults of R297. -/
def abortFault (cause : Nat) : Option Nat :=
  match cause with | 1 => some 0x20 | 2 => some 0x21 | 3 => some 0x22 | 5 => some 0x23 | _ => none

/-- PARTIALs of a slot that have not begun to leave toward the parent are stopped (Table 7.6). -/
def Sw.stopPartials (s : Sw) (d t g q : Nat) : Sw :=
  (s.fab.pkts.filter (fun p => p.mir.isNone && pKind p.hdr == 5 && pSrc p.hdr == s.svcEp && hTen p.hdr == t &&
    kGroup p.hdr == g && kCseq p.hdr == q && p.inDie.val == d && p.stage != .leaving)).foldl (fun s p => s.freePkt p) s

/-- An epoch slot enters Aborting (Table 7.6). `found`: the cause was found here, which raises its fault; `up`: a
WITHDRAW goes to the parent where a PARTIAL was sent. -/
def Sw.slotAbort (s : Sw) (c i cause : Nat) (found up : Bool) (ck : Checks) : Sw :=
  match s.anv.ctx.get? c with
  | none => s
  | some x =>
    let y := x.slot i
    let d := c / 1024
    let g := s.group x.group
    let s := s.stopPartials d x.ten x.group y.cseq
    let s := if up ∧ y.sent ∧ !gTop g then
        s.sendCtl d (mkWithdraw s.svcEp (gParent g) x.ten (s.incOf (incForge d)) y.cseq x.group) ck
      else s
    let s := (s.dropSlot c i).updSlot c i (fun y => { y with st := .aborting, cause := cause, abortAt := s.now })
    match if found then abortFault cause else none with
    | some code => s.fault code (4 + d) (some x.ten) (detC x.group y.cseq) (auxC 0xFFFF 0 0)
    | none => s

/-- The destination at which a member receives: its own ID for a child switch, the endpoint of `rbase` otherwise. -/
def memberDst (y : Slot) (m : Member) : Nat :=
  if m.child then m.id else match descOf y m.id with | some p => fld (dRbase p) 40 16 | none => m.id

/-- A RESULT of a collective still stands in the fabric. -/
def Sw.resultWaits (s : Sw) (t g q : Nat) (dst : Option Nat) : Bool :=
  s.fab.pkts.any (fun p => p.mir.isNone && pKind p.hdr == 6 && pSrc p.hdr == s.svcEp && kGroup p.hdr == g &&
    kCseq p.hdr == q && (hTen p.hdr == t || dst.isNone) && (match dst with | some e => hDst p.hdr == e | none => true))

/-- A RESULT that could not be delivered: its members or children have failed for the collective (R431); a phase-1 block of UPDATE
is no commit, and fails none (R438). -/
def Sw.resultLost (s : Sw) (h : Word256) : Sw :=
  if kLevel h ≠ 2 ∧ s.anv.colls.any (fun x => x.is (hTen h) (kGroup h) (kCseq h)) then
    let ms := s.groupMembers (s.group (kGroup h))
    let slots := s.collSlots (hTen h) (kGroup h) (kCseq h)
    let ids := (ms.filter (fun m => slots.any (fun cy => memberDst cy.2 m == hDst h))).map Member.id
    s.updColl (hTen h) (kGroup h) (kCseq h) (fun x => { x with failed := x.failed ++ ids })
  else s

/-- The RESULTs lost since the machinery last looked are taken note of. -/
def Sw.takeLost (s : Sw) : Sw :=
  { (s.fab.lostRes.foldl Sw.resultLost s) with fab := { (s.fab.lostRes.foldl Sw.resultLost s).fab with lostRes := [] } }

/-- The slots of a collective close (Table 7.6), and its record goes once every member has been told. -/
def Sw.collClose (s : Sw) (t g q : Nat) : Sw :=
  let s := (s.collSlots t g q).foldl (fun s cy =>
    if cy.2.st = .closed then s.updSlot cy.1 q (fun y => { y with ended := true })
    else ((s.dropSlot cy.1 q).updSlot cy.1 q (fun y => { y with st := .closed, ended := true })).lingerCheck cy.1) s
  s.updAnv (fun a => { a with colls := a.colls.filter (fun x => !x.is t g q) })

/-- COMPLETE goes to every member whose RESULTs have all left (R426, R427, R431); then the slots close. -/
def Sw.collDrain (s : Sw) (t g q : Nat) (ck : Checks) (dig : Nat := 0) : Sw :=
  let s := s.takeLost
  let x := s.coll t g q
  match x.ended with
  | none => s
  | some status =>
    let ms := s.groupMembers (s.group g)
    let slots := s.collSlots t g q
    let d := (s.anvilDies.headD 0)
    let ready := x.tell.filter (fun id =>
      let dst := match memberOf ms id with
        | some (_, m) => (slots.findSome? (fun cy => if (descOf cy.2 id).isSome then some (memberDst cy.2 m) else none)).getD id
        | none => id
      !s.resultWaits t g q (some dst))
    let s := ready.foldl (fun s id =>
      s.sendColl d id t g q 3 (if x.failed.contains id then 6 else status) x.level ck dig) s
    let s := s.updColl t g q (fun x => { x with tell := x.tell.filter (fun id => !ready.contains id) })
    if (s.coll t g q).tell.isEmpty then s.collClose t g q else s

/-- A collective ends at this switch with a status: every member is told (R426, R429, R433). -/
def Sw.collEnd (s : Sw) (t g q status level : Nat) (ck : Checks) (dig : Nat := 0) : Sw :=
  let ms := (s.groupMembers (s.group g)).map Member.id
  let s := s.updColl t g q (fun x => { x with ended := some status, level := level, tell := ms, aborted := true })
  (s.postEvent g q (if status = 0 then 7 else 6) status 0).collDrain t g q ck dig

/-- An abort goes up, or ends the collective at the top (R429, R769). -/
def Sw.abortUp (s : Sw) (t g q cause : Nat) (sent : Nat) (dig : Nat := 0) : Sw :=
  let x := s.coll t g q
  let w := s.group g
  if x.ended.isSome ∨ x.aborted then s
  else if gTop w then s.collEnd t g q (if 0 < x.commits then 6 else cause) 0 .both dig
  else
    ((s.sendColl (s.anvilDies.headD 0) (gParent w) t g q 2 sent 0 .both dig).updColl t g q
      (fun x => { x with aborted := true })).postEvent g q 6 cause 0

/-- Slots of a collective that are neither aborting nor closed. -/
def Sw.liveSlots (s : Sw) (t g q : Nat) : List (Nat × Slot) :=
  (s.collSlots t g q).filter (fun cy => cy.2.st == .gathering || cy.2.st == .draining)

/-- The instant at which the first slot of a collective aborted. -/
def Sw.firstAbort (s : Sw) (t g q : Nat) : Nat :=
  (((s.collSlots t g q).filter (fun cy => cy.2.st == .aborting)).map (fun cy => cy.2.abortAt)).min?.getD s.now

/-- The lowest cause recorded by the slots of a collective that aborted first: the one carried to its other dies (R769). -/
def Sw.lowestCause (s : Sw) (t g q : Nat) : Nat :=
  (((s.collSlots t g q).filter (fun cy => cy.2.st == .aborting && cy.2.abortAt == s.firstAbort t g q)).map
    (fun cy => cy.2.cause)).min?.getD 4

/-- A slot aborted: the abort is carried on at once where no other die holds a live slot; otherwise it waits for the
carry of R769. Slots that aborted at the first instant all record the lowest of their causes. A collective that has ended here is
ended once: the slot closes with it (R429, R440). -/
def Sw.aborted (s : Sw) (t g q : Nat) : Sw :=
  if (s.collSlots t g q).any (fun cy => cy.2.st == .closed && cy.2.ended) then s.collClose t g q
  else if (s.liveSlots t g q).isEmpty then
    let k := s.lowestCause t g q
    let s := (s.collSlots t g q).foldl (fun s cy =>
      if cy.2.st = .aborting ∧ cy.2.abortAt = s.firstAbort t g q then s.updSlot cy.1 q (fun y => { y with cause := k }) else s) s
    s.abortUp t g q k k
  else s

/-- A slot aborts for a cause found on its die, and the machinery hears of it; `found` is false where the same cause has raised
its fault on another die (R297). -/
def Sw.abortHere (s : Sw) (c i cause : Nat) (found : Bool := true) : Sw :=
  match s.anv.ctx.get? c with
  | none => s
  | some x => (s.slotAbort c i cause found true .both).aborted x.ten x.group (x.slot i).cseq

/-! ### Held values: billets and spills (R254, R291 to R294) -/

/-- Spill one held value of a block (R291, R292): it keeps its billet where the area is full, and its slot aborts where the
write is answered Target-Reset (14 R586). -/
def Sw.spillItem (s : Sw) (c i b : Nat) (it : Item) : Sw :=
  let d := c / 1024
  match s.spillSlot d, (s.slot c i).word, it.vals with
  | some a, some w, some vs =>
    let bs := vs.flatMap (fun v => leBytes (spillWidth (w % 2 ^ 128)) (spillEnc (w % 2 ^ 128) v))
    if s.linesReset a (cdiv bs.length 64) then s.abortHere c i 5
    else
      let s := (s.writeLines a (bs ++ zeros (pad64 bs.length - bs.length)) rdAnvil).2
      let s := s.updSlot c i (fun y => { y with blocks := y.blocks.map (fun k =>
        if k.num = b then { k with items := k.items.map (fun x =>
          if x.lo = it.lo then { x with vals := none, spill := some a, due := none, bil := [] } else x) } else k) })
      ((s.inc (L.anvilSpills.at d)).releaseAll it.bil).bilRetry
  | _, _, _ => s

/-- The value a context has held longest: slot, block, item. -/
def Sw.oldestItem (s : Sw) (c : Nat) : Option (Nat × Nat × Item) :=
  minBy (fun x => x.2.2.since) ([0, 1].flatMap (fun i => (s.slot c i).blocks.flatMap (fun b =>
    (b.items.filter (fun it => it.vals.isSome)).map (fun it => (i, b.num, it)))))

/-- A context whose request would wait under step 4 of R162 spills the values it holds, the longest held first, until the
request is admitted, no value is left or the area is full (R291, R294). -/
def Sw.spillFor : Nat → Sw → Nat → Nat → Sw
  | 0, s, _, _ => s
  | n + 1, s, c, bytes =>
    let t : Option Ten := (s.anv.ctx.get? c).map (fun x => BitVec.ofNat 8 x.ten)
    if !s.stepFour (c / 1024) (.ctx (Fin.ofNat 4096 c)) t bytes ∨ s.spillSlot (c / 1024) = none then s
    else match s.oldestItem c with
      | none => s
      | some (i, b, it) => Sw.spillFor n (s.spillItem c i b it) c bytes

/-- Values that a context holds: each may be spilled. -/
def Sw.heldItems (s : Sw) (c : Nat) : Nat :=
  sumBy (fun i => sumBy (fun (b : Blk) => (b.items.filter (fun it => it.vals.isSome)).length) (s.slot c i).blocks) [0, 1]

/-- A request of a context that would wait under step 4 of R162 makes it spill first (R291); others wait as they are. -/
def Sw.spillsFor (s : Sw) (o : Owner) (bytes : Nat) : Sw :=
  match o with
  | .ctx c => Sw.spillFor (s.heldItems c) s c bytes
  | _ => s

/-- Give a value of block `b` its billet, spilling for it, or let the request wait (R254, R291, R294). -/
def Sw.holdItem (s : Sw) (c i b bytes : Nat) : Sw :=
  let d := c / 1024
  let o : Owner := .ctx (Fin.ofNat 4096 c)
  let t : Option Ten := (s.anv.ctx.get? c).map (fun x => BitVec.ofNat 8 x.ten)
  let s := Sw.spillFor (s.heldItems c) s c bytes
  let bare := ((s.slot c i).blocks.find? (fun k => k.num == b)).any (fun k => k.items.any Item.bare)
  if !bare then s
  else match s.allocate d o t bytes with
  | .got h s' => s'.grantTo ⟨d, o, t, bytes, s.now, false, .held i b⟩ h
  | .null => s
  | .wait | .pending => s.addWait d o t bytes (.held i b)

/-- A packet of context `c` waits for its cells under step 4 of R162. -/
def Sw.cellsWait (s : Sw) (c : Nat) : Bool :=
  s.bil.waits.any (fun r => decide (r.owner = Owner.ctx (Fin.ofNat 4096 c)) && (match r.who with
    | .cells i => match s.pkt? i with
      | none => false
      | some k => match s.cellsFor k r.die r.owner r.ten with
        | .error false => true
        | _ => false
    | _ => false))

/-- A context whose packets wait for their cells spills the values it holds, the longest held first (R291, R294). -/
def Sw.spillWaiting : Nat → Sw → Nat → Sw
  | 0, s, _ => s
  | n + 1, s, c =>
    if !s.cellsWait c ∨ s.spillSlot (c / 1024) = none then s
    else match s.oldestItem c with
      | none => s
      | some (i, b, it) => Sw.spillWaiting n (s.spillItem c i b it) c

/-- Send one packet of a collective from die `d`, its payload padded to whole units; its context spills where the cells would
wait (R291). -/
def Sw.sendBlock (s : Sw) (d c kind t g q dig level gfa flags : Nat) (bs : Bytes) (fan : Option Nat := none) : Sw :=
  let s := s.sendData d (s.collHdr kind t g q dig level gfa bs.length flags) (bs ++ zeros (pad64 bs.length - bs.length)) .both
    (.ctx (Fin.ofNat 4096 c)) fan
  Sw.spillWaiting (s.heldItems c) s c

/-! ### Commit and results (R423 to R426, R439) -/

/-- Parts of block `b` of UPDATE in the result format (R425, R439). -/
def updateParts (w b : Nat) : Nat := max 1 (cdiv (packedBytes (resDesc 7 w) 1 (elemsOf 7 w b)) 4096)

/-- Write a part of a phase-1 UPDATE block where an own entry covers it, and say so once every part has been applied at its line
port (R437 to R439). -/
def Sw.updateWrite (s : Sw) (t g q b p w : Nat) (bs : Bytes) (list : List Bytes) : Sw :=
  match list.find? (fun e => inClaim (uFirst e, uLast e) b) with
  | none => s
  | some e =>
    let r := s.writeLines (uGbase e + (b - uFirst e) * fullBlock 7 w + 4096 * p) bs rdAnvil
    if !r.1 then r.2 else
    let s := r.2
    let s := s.updColl t g q (fun x => { x with written := if x.written.contains (b, p) then x.written else x.written ++ [(b, p)] })
    let x := s.coll t g q
    let need := sumBy (fun e => if uFirst e ≤ uLast e then (uLast e - uFirst e + 1) else 0) list
    let done := (x.written.map Prod.fst).eraseDups.filter (fun k => decide (updateParts w k ≤ (x.written.filter (fun z => z.1 == k)).length))
    if !x.ready ∧ need ≤ done.length then
      (s.updColl t g q (fun x => { x with ready := true })).postEvent g q 4 0 0
    else s

/-- A phase-1 UPDATE block is written here or goes to the one child whose update claim covers it (R439). -/
def Sw.updateBlock (s : Sw) (c q b : Nat) (ps : List (Nat × Bytes)) : Sw :=
  match s.anv.ctx.get? c with
  | none => s
  | some x =>
    let y := x.slot q
    let w := (y.word.getD 0) % 2 ^ 128
    let d := c / 1024
    let u := s.readList x.group
    let s := u.2
    if u.1.any (fun e => inClaim (uFirst e, uLast e) b) then
      ps.foldl (fun s pb => s.updateWrite x.ten x.group q b pb.1 w pb.2 u.1) s
    else
      match (s.groupMembers (s.group x.group)).find? (fun m =>
        m.child && (match descOf y m.id with | some p => inClaim (dUfirst p, dUlast p) b | none => false)) with
      | none => s
      | some m => ps.foldl (fun s pb =>
          s.sendBlock d c 6 x.ten x.group q (y.digest.getD 0) 2 (blockGfa x.ten m.id b pb.1) 0 pb.2) s

/-- RESULTs of a committed block, part by part, to every member whose receive claim covers it (R425); those of one part are a
fan-out set (03 R107). -/
def Sw.sendResults (s : Sw) (c q b : Nat) (ps : List (Nat × Bytes)) : Sw :=
  match s.anv.ctx.get? c with
  | none => s
  | some x =>
    let y := x.slot q
    let w := (y.word.getD 0) % 2 ^ 128
    let d := c / 1024
    ps.foldl (fun s pb =>
      let fan := some (s.fab.nextId + 1)
      if pb.2.isEmpty then s
      else (s.groupMembers (s.group x.group)).foldl (fun s m =>
        match descOf y m.id with
        | none => s
        | some p =>
          let f := if dColl p = 2 ∨ dColl p = 6 then dRfirst p else 0
          if inClaim (receiveClaim p m) b then
            s.sendBlock d c 6 x.ten x.group q (y.digest.getD 0) 0
              (if m.child then blockGfa x.ten m.id b pb.1
               else (dRbase p + (b - f) * fullBlock (dColl p) w + 4096 * pb.1) % 2 ^ 64) 0 pb.2 fan
          else s) s) s

/-- Insert a block's bytes by ascending block number. -/
def insBlock (x : Nat × Bytes) : List (Nat × Bytes) → List (Nat × Bytes)
  | [] => [x]
  | y :: ys => if x.1 < y.1 then x :: y :: ys else y :: insBlock x ys

/-- The digest of a collective, once its last block is committed (18 R699). -/
def Sw.outDigest (s : Sw) (d t g q coll w : Nat) : Sw :=
  let r := s.coll t g q
  if r.bytes.length = blockCount coll w then
    (s.recDigest d 3 (digTag t g q) ((r.bytes.foldl (fun l x => insBlock x l) []).flatMap Prod.snd)).updColl t g q
      (fun r => { r with bytes := [] })
  else s

/-- The top commits a final block (R423 to R425, R438). -/
def Sw.commit (s : Sw) (c q b : Nat) (bs : Bytes) (gathered : Bool) : Sw :=
  match s.anv.ctx.get? c with
  | none => s
  | some x =>
    let y := x.slot q
    let coll := dColl (y.word.getD 0)
    let rec_ := s.coll x.ten x.group q
    let s := if rec_.commitAt.isEmpty then
        ((s.groupMembers (s.group x.group)).filter Member.child).foldl
          (fun s m => s.sendColl (c / 1024) m.id x.ten x.group q 1 0 0 .both) s
      else s
    let phase1 := coll == 7 && !gathered
    let s := s.updColl x.ten x.group q (fun r => { r with
      commits := if phase1 then r.commits else r.commits + 1
      gathered := if gathered then r.gathered ++ [b] else r.gathered
      commitAt := r.commitAt ++ [(b, if s.rd L.anvilSpillNs = 0 then 0 else deadline s.now (s.rd L.anvilSpillNs))]
      bytes := if phase1 then r.bytes else r.bytes ++ [(b, bs)] })
    let s := s.outDigest (c / 1024) x.ten x.group q coll ((y.word.getD 0) % 2 ^ 128)
    let s := s.postEvent x.group q 3 0 b
    let ps := parts bs
    if phase1 then s.updateBlock c q b ps else s.sendResults c q b ps

/-- Final blocks that waited for descriptors are committed (R423). -/
def Sw.commitReady (s : Sw) (c q : Nat) : Sw :=
  match s.anv.ctx.get? c with
  | none => s
  | some x =>
    let y := x.slot q
    if s.allDesc x.group y then
      let s := s.updSlot c q (fun y => { y with final := [] })
      y.final.foldl (fun s f => s.commit c q f.1 f.2 false) s
    else s

/-- Blocks of a collective that lie on die `d` (R264). -/
def Sw.blocksOn (s : Sw) (coll w d : Nat) : Nat :=
  let ds := s.anvilDies
  let n := blockCount coll w
  match findIdx (fun k => k == d) ds 0 with
  | none => 0
  | some (i, _) => if i < n then (n - 1 - i) / ds.length + 1 else 0

/-- Blocks on die `d` within a claim. -/
def Sw.claimOn (s : Sw) (coll w d : Nat) (c : Claim) : Nat :=
  let ds := s.anvilDies
  match findIdx (fun k => k == d) ds 0 with
  | none => 0
  | some (i, _) =>
    let hi := min (c.2 + 1) (blockCount coll w)
    let upto (n : Nat) : Nat := if i < n then (n - 1 - i) / ds.length + 1 else 0
    if c.2 < c.1 then 0 else upto hi - upto c.1

/-- A slot whose last block is done goes to Draining; on the gather path below the top only with every member's descriptor, and
at the top once every block is committed (Table 7.6). -/
def Sw.drainCheck (s : Sw) (c q : Nat) : Sw :=
  match s.anv.ctx.get? c with
  | none => s
  | some x =>
    let y := x.slot q
    match y.st, y.word with
    | .gathering, some w =>
      let coll := dColl w
      let d := c / 1024
      let op := w % 2 ^ 128
      let ms := s.groupMembers (s.group x.group)
      let own := if gathers coll op ∧ !gTop (s.group x.group) then
          sumBy (fun m => match descOf y m.id with
            | some p => s.claimOn coll op d (contribClaim p m) | none => 0) ms
        else s.blocksOn coll op d
      let ended := decide (own ≤ y.done.length) && (!gathers coll op || (s.allDesc x.group y && y.final.isEmpty))
      if ended then s.updSlot c q (fun y => { y with st := .draining }) else s
    | _, _ => s

/-! ### Arrival of contributions and descriptors (Table 7.6) -/

/-- A slot opens for a collective. -/
def Sw.openSlot (s : Sw) (c q : Nat) (digest : Option Nat) : Sw :=
  match s.anv.ctx.get? c with
  | none => s
  | some x =>
    let y : Slot := { st := .gathering, cseq := q, digest := digest
                      stallAt := if s.rd L.collStallNs = 0 then none else some (deadline s.now (s.rd L.collStallNs)) }
    let s := s.updSlot c q (fun _ => y)
    let s := s.updAnv (fun a => { a with ctx := AMap.set a.ctx c { ((s.anv.ctx.get? c).getD x) with linger := none } })
    if (s.coll x.ten x.group q).opened then s
    else (s.updColl x.ten x.group q (fun r => { r with opened := true })).postEvent x.group q 1 0 0

/-- A repeated contribution (Table 7.6): discarded, counted, a contained fault. -/
def Sw.dupContrib (s : Sw) (d t g q src : Nat) : Sw :=
  (s.inc (L.anvilDup.at d)).fault 0x24 (4 + d) (some t) (detC g q) (auxC src 0 0)

/-- The open window (R303). -/
def Sw.openWindow (s : Sw) : Nat := max 1 (min 64 (s.rd L.anvilWindow))

/-- Leaves of a block whose contributions are whole (R272), formed into nodes; with the billets they no longer need. -/
def Sw.formBlock (s : Sw) (x : Ctx) (y : Slot) (w : Nat) (b : Blk) : Blk × List Nat :=
  let coll := dColl w
  let op := w % 2 ^ 128
  let ms := s.groupMembers (s.group x.group)
  let ready := ms.filter (fun m =>
    let ps := b.stored.filter (fun p => pSrc p.hdr == m.id)
    let need := match ps with
      | p :: _ => if pKind p.hdr = 5 ∧ !(coll == 6 && hPlen p.hdr == 0) then partCount coll op b.num else 1
      | [] => 1
    ps.length == need && !(wOp op == 1 && !isGather coll && !m.child && (descOf y m.id).isNone))
  let step (acc : Blk × List Nat) (m : Member) : Blk × List Nat :=
    let ps := acc.1.stored.filter (fun p => pSrc p.hdr == m.id)
    let sorted := (List.range 16).flatMap (fun k => ps.filter (fun p => bPart p.hdr == k))
    let weight := match descOf y m.id with | some p => dWeight p | none => 0
    let lf := leafOf coll op b.num weight sorted
    let rank := ((memberOf ms m.id).map Prod.fst).getD 0
    ({ acc.1 with stored := acc.1.stored.filter (fun p => pSrc p.hdr != m.id)
                  items := acc.1.items ++ [{ lo := rank, hi := rank + 1, vals := lf.1, empty := lf.1.isNone, since := s.now }]
                  sat := acc.1.sat || lf.2.1, xlow := acc.1.xlow || lf.2.2.1, xhigh := acc.1.xhigh || lf.2.2.2 },
     acc.2 ++ ps.flatMap Stored.bil)
  let r := ready.foldl step (b, [])
  (combineAll op ms.length s.now (2 * ms.length) r.1, r.2)

/-- Values of a block that are left waiting take billets and their hold time (R254, R291). -/
def Sw.holdBlock (s : Sw) (c i : Nat) (n : Nat) : Sw :=
  let y := s.slot c i
  match y.word, y.blocks.find? (fun b => b.num == n) with
  | some w, some b =>
    let op := w % 2 ^ 128
    let bytes := elemsOf (dColl w) op n * heldWidth op
    let ns := s.rd L.anvilSpillNs
    let s := s.updSlot c i (fun y => { y with blocks := y.blocks.map (fun k => if k.num = n then { k with
      items := k.items.map (fun it => if it.due.isNone ∧ it.spill.isNone ∧ it.vals.isSome ∧ ns ≠ 0 ∧ it.since = s.now
        then { it with due := some (deadline s.now ns) } else it) } else k) })
    let waiting := (s.bil.waits.filter (fun r => decide (r.who = Waiter.held i n) && decide (r.owner = Owner.ctx (Fin.ofNat 4096 c)))).length
    forN ((b.items.filter Item.bare).length - waiting) s (fun _ s => s.holdItem c i n bytes)
  | _, _ => s

/-- Nodes of block `n` form as far as they can; surplus billets return. -/
def Sw.formAt (s : Sw) (c i n : Nat) : Sw :=
  match s.anv.ctx.get? c with
  | none => s
  | some x =>
    let y := x.slot i
    match y.word, y.blocks.find? (fun b => b.num == n) with
    | some w, some b =>
      if gathers (dColl w) (w % 2 ^ 128) then s
      else
        let r := s.formBlock x y w b
        let extra := r.1.items.flatMap (fun it => it.bil.drop 1)
        let b' := { r.1 with items := r.1.items.map (fun it => { it with bil := it.bil.take 1 }) }
        let s := s.updSlot c i (fun y => { y with blocks := y.blocks.map (fun k => if k.num = n then b' else k) })
        ((s.releaseAll (r.2 ++ extra)).bilRetry).holdBlock c i n
    | _, _ => s

/-- On the gather path a stored block of a member whose descriptor is held goes on: up to the parent unchanged, or to
the commit path at the top (R403, R423). -/
def Sw.gatherOne (s : Sw) (c q : Nat) (p : Stored) (m : Member) (pay : Nat) : Sw :=
  match s.anv.ctx.get? c with
  | none => s
  | some x =>
    let y := x.slot q
    let w := (y.word.getD 0) % 2 ^ 128
    let coll := dColl (y.word.getD 0)
    let n := bNum p.hdr
    if contribBad coll w p.hdr (inClaim (contribClaim pay m) n) then s.abortHere c q 3
    else
      let bs := p.pay.take (validLen p.hdr)
      let s := s.updSlot c q (fun y => { y with blocks := y.blocks.filter (fun k => k.num != n), done := y.done ++ [n] })
      let s := (s.releaseAll p.bil).bilRetry
      if gTop (s.group x.group) then
        ((s.updSlot c q (fun y => { y with final := y.final ++ [(n, bs)] })).commitReady c q).drainCheck c q
      else
        (s.sendBlock (c / 1024) c 5 x.ten x.group q (y.digest.getD 0) 0
          (blockGfa x.ten (gParent (s.group x.group)) n 0) 0 bs).drainCheck c q

/-- A slot goes on after a descriptor: nodes form, gathered blocks move, final blocks commit. -/
def Sw.progress (s : Sw) (c q : Nat) : Sw :=
  match s.anv.ctx.get? c with
  | none => s
  | some x =>
    let y := x.slot q
    match y.st, y.word with
    | .gathering, some w =>
      let ms := s.groupMembers (s.group x.group)
      if gathers (dColl w) (w % 2 ^ 128) then
        let ps := y.blocks.flatMap (fun b => b.stored)
        -- a malformed one prevails over those that would go on in the same instant (R283)
        let bad := (ps ++ y.beyond).any (fun p => match memberOf ms (pSrc p.hdr), descOf y (pSrc p.hdr) with
          | some (_, m), some pay => contribBad (dColl w) (w % 2 ^ 128) p.hdr (inClaim (contribClaim pay m) (bNum p.hdr))
          | _, _ => false)
        if bad then s.abortHere c q 3
        else
        (ps.foldl (fun s p =>
          match memberOf ms (pSrc p.hdr), descOf y (pSrc p.hdr) with
          | some (_, m), some pay => if (s.slot c q).st = .gathering then s.gatherOne c q p m pay else s
          | _, _ => s) s).commitReady c q |>.drainCheck c q
      else ((y.blocks.foldl (fun s b => s.formAt c q b.num) s).commitReady c q).drainCheck c q
    | _, _ => s

/-- Stored contributions are checked when the operation word is recorded (R266): true where one is malformed. -/
def storedBad (w : Nat) (y : Slot) : Bool :=
  (y.blocks.flatMap (fun b => b.stored) ++ y.beyond).any (fun p => contribBad (dColl w) (w % 2 ^ 128) p.hdr true)

/-- Store a contribution in its block, opening it, or beyond the window; its billets are charged to its context (Table 7.9). -/
def Sw.storeContrib (s : Sw) (c q : Nat) (p : Stored) : Sw :=
  let n := bNum p.hdr
  let s := p.bil.foldl (fun s h => s.recharge h (.ctx (Fin.ofNat 4096 c))) s
  let y := s.slot c q
  match y.blocks.find? (fun b => b.num == n) with
  | some _ => s.updSlot c q (fun y => { y with blocks := y.blocks.map (fun b => if b.num = n then
      { b with got := b.got ++ [(pSrc p.hdr, bPart p.hdr)], stored := b.stored ++ [p] } else b) })
  | none =>
    if y.blocks.length < s.openWindow then
      s.updSlot c q (fun y => { y with blocks := y.blocks ++ [{ num := n, got := [(pSrc p.hdr, bPart p.hdr)], stored := [p] }] })
    else s.updSlot c q (fun y => { y with beyond := y.beyond ++ [p] })

/-- After a block is done, contributions beyond the window open their blocks, in order of arrival. -/
def Sw.openBeyond (s : Sw) (c q : Nat) : Sw :=
  let y := s.slot c q
  let s := s.updSlot c q (fun y => { y with beyond := [] })
  y.beyond.foldl (fun s p =>
    let s := s.storeContrib c q p
    match (s.slot c q).word with
    | some w => if gathers (dColl w) (w % 2 ^ 128) then s.progress c q else s.formAt c q (bNum p.hdr)
    | none => s) s

/-- The gathered blocks of a slot go on, and those beyond the window that they make room for. -/
def Sw.gatherAll (s : Sw) (c q : Nat) : Sw := forN ((s.slot c q).beyond.length) (s.progress c q) (fun _ s => s.openBeyond c q)

/-- Operand bytes that Anvil took (15 Table 15.15). -/
def Sw.operands (s : Sw) (h : Word256) : Sw := s.inc96 L.telDevAnvilBytes (validLen h)

/-- A contribution that is taken is stored, its operand bytes counted. -/
def Sw.takeContrib (s : Sw) (c q : Nat) (p : Stored) : Sw := (s.storeContrib c q p).operands p.hdr

/-- A contribution reaches slot `q` of context `c` (Table 7.6). -/
def Sw.contribAt (s : Sw) (c : Nat) (p : Stored) : Sw :=
  match s.anv.ctx.get? c with
  | none => s
  | some x =>
    let q := kCseq p.hdr
    let y := x.slot q
    let d := c / 1024
    let drop (s : Sw) : Sw := (s.releaseAll p.bil).bilRetry
    let k := slotCase y q
    if k = 2 ∨ y.st = .aborting then (drop s).inc (L.anvilStale.at d)
    else if k = 3 then ((s.openSlot c q (some (kDigest p.hdr))).takeContrib c q p)
    else if y.st = .draining then (drop s).dupContrib d x.ten x.group q (pSrc p.hdr)
    else if y.digest ≠ some (kDigest p.hdr) then (drop s).abortHere c q 1
    else
      let n := bNum p.hdr
      let again := y.done.contains n ||
        y.blocks.any (fun b => b.num == n && b.got.contains (pSrc p.hdr, bPart p.hdr)) ||
        y.beyond.any (fun r => bNum r.hdr == n && pSrc r.hdr == pSrc p.hdr && bPart r.hdr == bPart p.hdr)
      if again then (drop s).dupContrib d x.ten x.group q (pSrc p.hdr)
      else match y.word with
        | none => s.takeContrib c q p
        | some w =>
          if contribBad (dColl w) (w % 2 ^ 128) p.hdr true then (drop s).abortHere c q 3
          else
            let s := s.takeContrib c q p
            if gathers (dColl w) (w % 2 ^ 128) then s.gatherAll c q else (s.formAt c q n).drainCheck c q

/-- The layout of R414. -/
def descLayoutOk (h : Word256) : Bool := hPlen h == 1 && hTail h == 0 && hOff h == 0

/-- The dies a descriptor goes to (R416): the first of `anvil.dies`, as many as there are blocks; the lowest alone for an
invalid word or layout. -/
def Sw.descDies (s : Sw) (h : Word256) (p : Nat) : List Nat :=
  let ds := s.anvilDies
  if descLayoutOk h && payValid p then ds.take (min (blockCount (dColl p) (p % 2 ^ 128)) ds.length) else ds.take 1

/-- The upward descriptor (R417), once the slot on the lowest die holds the descriptors of all members. -/
def Sw.upDescriptor (s : Sw) (c q : Nat) : Sw :=
  match s.anv.ctx.get? c with
  | none => s
  | some x =>
    let y := x.slot q
    let w := s.group x.group
    let r := s.coll x.ten x.group q
    if !s.allDesc x.group y ∨ c / 1024 ≠ s.anvilDies.headD 0 then s
    else
      let s := if r.alldesc then s
        else (s.updColl x.ten x.group q (fun r => { r with alldesc := true })).postEvent x.group q 2 0 0
      if gTop w ∨ r.upSent then s
      else
        let ms := s.groupMembers w
        let fold (f : Nat → Member → Claim) : Claim :=
          ms.foldl (fun a m => match descOf y m.id with | some p => coverClaim a (f p m) | none => a) noClaim
        let cc := fold contribClaim
        let rc := fold receiveClaim
        let own := if dColl (y.word.getD 0) = 7 then s.readList x.group else ([], s)
        let s := own.2
        let uc := coverClaim (fold (fun p m => if m.child then (dUfirst p, dUlast p) else noClaim))
          (listClaim own.1)
        let pay := (y.word.getD 0) + rc.1 * 2 ^ 256 + rc.2 * 2 ^ 288 + cc.1 * 2 ^ 320 + cc.2 * 2 ^ 352 +
          uc.1 * 2 ^ 448 + uc.2 * 2 ^ 480
        let s := s.sendBlock (c / 1024) c 5 x.ten x.group q (y.digest.getD 0) 1
          (x.ten * 2 ^ 56 + gParent w * 2 ^ 40) 0 (leBytes 64 pay)
        s.updColl x.ten x.group q (fun r => { r with upSent := true })

/-- A descriptor reaches slot `q` of context `c` (Table 7.6, R414, R416). `told`: the causes for which it has raised the fault of
R297 on another die. The first of a member that reaches a slot already
Draining is no second one of R416: it is held like any first one (DEDUCED, log 12). -/
def Sw.descAt (s : Sw) (c : Nat) (h : Word256) (p : Nat) (told : List Nat) : Sw :=
  match s.anv.ctx.get? c with
  | none => s
  | some x =>
    let q := kCseq h
    let y := x.slot q
    let d := c / 1024
    let k := slotCase y q
    let bad (s : Sw) (cause : Nat) : Sw := s.abortHere c q cause (!told.contains cause)
    if k = 2 ∨ y.st = .aborting then s.inc (L.anvilStale.at d)
    else if y.st = .draining ∧ (descOf y (pSrc h)).isSome then s.inc (L.anvilDup.at d)
    else
      let s := if k = 3 then s.openSlot c q (some (kDigest h)) else s
      let y := s.slot c q
      if !descLayoutOk h then bad s 3
      else if y.digest ≠ some (kDigest h) then bad s 1
      else
        match y.word with
        | some w =>
          if w % 2 ^ 128 ≠ p % 2 ^ 128 then bad s 1
          else if !payValid p then bad s 2
          else if (descOf y (pSrc h)).isSome then s.inc (L.anvilDup.at d)
          else ((s.updSlot c q (fun y => { y with desc := y.desc ++ [(pSrc h, p)] })).gatherAll c q).commitReady c q |>.upDescriptor c q
        | none =>
          if !payValid p ∨ (dColl p = 7 ∧ 0 < gUcount (s.group x.group) ∧ gProg (s.group x.group) = 0) then bad s 2
          else
            let s := s.updSlot c q (fun y => { y with word := some (dCommon p), desc := [(pSrc h, p)] })
            if storedBad (dCommon p) (s.slot c q) then bad s 3
            else (s.gatherAll c q).upDescriptor c q

/-- A COLL ABORT or WITHDRAW acts on one die (R770, Table 7.6): true where a slot aborted. -/
def Sw.abortOn (s : Sw) (d t g q cause : Nat) : Option Sw :=
  match s.slotFor d t g q with
  | some (c, 1) =>
    if (s.slot c q).st = .aborting then some s else some (s.slotAbort c q cause false true .both)
  | some (c, 3) =>
    some ((s.updSlot c q (fun _ => { st := .closed, cseq := q, cause := cause })).lingerCheck c)
  | some _ => some s
  | none =>
    match s.bindCtx d t g with
    | none => none
    | some (c, s) => some ((s.updSlot c q (fun _ => { st := .closed, cseq := q, cause := cause })).lingerCheck c)

/-- The cause that a packet's status leaves in a slot (R295). -/
def causeOf (status : Nat) : Nat := if 1 ≤ status ∧ status ≤ 10 then status else 4

/-! ### Admission queue (R420 to R422) -/

/-- Add a packet to a die's admission queue. -/
def Sw.admitWait (s : Sw) (d : Nat) (ctl : Bool) (p : Stored) : Sw :=
  let ns := s.rd L.collAdmitNs
  s.updAnv (fun a => { a with admq := a.admq ++ [{ die := d, ctl := ctl, pkt := p, due := if ns = 0 then none else some (deadline s.now ns) }] })

/-- The cause that slot `q` of context `c` records for collective `q`; 0 for none. -/
def Sw.slotCause (s : Sw) (c q : Nat) : Nat := if (s.slot c q).cseq = q then (s.slot c q).cause else 0

/-- A descriptor is given to a slot; where it aborts it, the entries of the same descriptor that still wait for other dies raise no
second fault for that cause (R297). Answers the causes for which it has raised one. -/
def Sw.giveDesc (s : Sw) (c : Nat) (h : Word256) (p : Nat) (told : List Nat) : List Nat × Sw :=
  let q := kCseq h
  let s' := s.descAt c h p told
  let k := s'.slotCause c q
  if k = 0 ∨ s.slotCause c q ≠ 0 then (told, s')
  else (insertNat k told, s'.updAnv (fun a => { a with admq := a.admq.map (fun e =>
    if !e.ctl ∧ e.pkt.hdr = h then { e with told := insertNat k e.told } else e) }))

/-- The group of an entry that waits. -/
def Adm.group (e : Adm) : Nat :=
  if e.ctl then (if pKind e.pkt.hdr = 5 then wGroup e.pkt.hdr else oGroup e.pkt.hdr) else kGroup e.pkt.hdr

/-- One entry is placed if steps 1 to 3 now place it; the machinery of its group may have to wait (R444). -/
def Sw.admitOne (s : Sw) (e : Adm) : Sw :=
  if s.collWaits e.group then s else
  let h := e.pkt.hdr
  let gone (s : Sw) : Sw := s.updAnv (fun a => { a with admq := eraseOne e a.admq })
  if e.ctl then
    let g := if pKind h = 5 then wGroup h else oGroup h
    let q := if pKind h = 5 then wCseq h else oCseq h
    match s.abortOn e.die (cTen h) g q (if pKind h = 5 then 4 else causeOf (oStatus h)) with
    | some s' => gone s'
    | none => s
  else if s.collStaleFor (kGroup h) (kCseq h) then ((gone s).releaseAll e.pkt.bil).inc (L.collStale.at e.die)
  else match s.placeColl e.die (hTen h) (kGroup h) (kCseq h) with
    | none => s
    | some (c, s') =>
      if kLevel h = 1 then (((gone s').releaseAll e.pkt.bil).giveDesc c h (leNat e.pkt.pay) e.told).2 else (gone s').contribAt c e.pkt

/-- The admission queues are scanned in order of arrival (R421); a second pass takes what the first one freed. -/
def Sw.admitScan (s : Sw) : Sw :=
  let pass (s : Sw) : Sw := s.anv.admq.foldl (fun s e =>
    match s.anv.admq.find? (fun x => x.die == e.die && x.ctl == e.ctl && decide (x.pkt = e.pkt)) with
    | some x => s.admitOne x
    | none => s) s
  forN (s.anv.admq.length + 1) s (fun _ s => pass s)

/-- A context returns to the free supply and hands over the highest `cseq` it has closed (R285, R419). -/
def Sw.freeCtx (s : Sw) (c : Nat) : Sw :=
  match s.anv.ctx.get? c with
  | none => s
  | some x =>
    let cs := [x.slot0, x.slot1].filterMap (fun y => if y.st = .closed then some y.cseq else none)
    let s := cs.foldl (fun s q =>
      if s.anv.closed.contains x.group ∧ !later32 (s.rd L.collClosed x.group) q then s
      else (s.wr L.collClosed x.group q).updAnv (fun a => { a with
        closed := if a.closed.contains x.group then a.closed else a.closed ++ [x.group] })) s
    (s.updAnv (fun a => { a with ctx := AMap.del a.ctx c })).admitScan

/-- Contexts whose linger time of 0 has started return to the free supply (R303). -/
def Sw.lingerNow (s : Sw) : Sw :=
  ((s.anv.ctx.filter (fun kv => kv.2.linger == some 0)).map Prod.fst).foldl (fun s c => s.freeCtx c) s

/-- Collectives whose RESULTs have been lost tell the members that have nothing more to wait for (R427, R431). -/
def Sw.lostNow (s : Sw) : Sw :=
  if s.fab.lostRes.isEmpty then s
  else (s.fab.lostRes.foldl (fun s h => s.collDrain (hTen h) (kGroup h) (kCseq h) .both) s.takeLost).admitScan

/-- A PARTIAL, or the upward descriptor, leaves toward the parent: its slot has sent one (Table 7.6). -/
def Sw.partialLeaves (s : Sw) (k : DPkt) : Sw :=
  if pKind k.hdr = 5 ∧ pSrc k.hdr = s.svcEp ∧ k.mir.isNone then
    (s.collSlots (hTen k.hdr) (kGroup k.hdr) (kCseq k.hdr)).foldl (fun s cy =>
      if cy.1 / 1024 = k.inDie.val then s.updSlot cy.1 (kCseq k.hdr) (fun y => { y with sent := true }) else s) s
  else s

/-! ### Packets that wait at the service ID -/

/-- A data packet that waits at the service ID. -/
def Sw.svcHas (s : Sw) (h : Word256) (pay : Bytes) : Bool := s.fab.svcIn.any (fun x => decide (x.hdr = h ∧ x.pay = pay))

/-- A data packet that waited at the service ID is taken with the billets it occupies (R421). -/
def Sw.takeKeep (s : Sw) (h : Word256) (pay : Bytes) : Stored × Sw :=
  match s.fab.svcIn.find? (fun x => decide (x.hdr = h ∧ x.pay = pay)) with
  | some x => (x, { s with fab := { s.fab with svcIn := eraseOne x s.fab.svcIn } })
  | none => (⟨h, pay, [], 0⟩, s)

/-- Billets that a packet held return. -/
def Sw.freeBil (s : Sw) (hs : List Nat) : Sw := if hs.isEmpty then s else (s.releaseAll hs).bilRetry

/-- A data packet that waited at the service ID is taken, and its billets return. -/
def Sw.takeIn (s : Sw) (h : Word256) (pay : Bytes) : Sw :=
  let r := s.takeKeep h pay
  r.2.freeBil r.1.bil

/-! ### Quench (14 R572, Table 14.5) -/

/-- Every collective of a tenancy ends with Quenched (R572): COMPLETE to each local endpoint member not yet told, COLL
ABORT to the parent, or COMPLETE to the children at the top. -/
def Sw.collQuench (s : Sw) (t : Nat) : Sw :=
  let keys := ((s.anv.ctx.filter (fun kv => kv.2.ten == t)).flatMap (fun kv =>
    ([kv.2.slot0, kv.2.slot1].filter (fun y => y.st == .gathering || y.st == .draining || y.st == .aborting)).map
      (fun y => (kv.2.group, y.cseq)))).eraseDups
  keys.foldl (fun s k =>
    let g := k.1
    let q := k.2
    let x := s.coll t g q
    let w := s.group g
    let d := s.anvilDies.headD 0
    let ms := s.groupMembers w
    let told (m : Member) : Bool := x.ended.isSome && !x.tell.contains m.id
    let s := (ms.filter (fun m => !m.child && !told m)).foldl (fun s m => s.sendColl d m.id t g q 3 7 0 .ending) s
    let s := if gTop w then
        (ms.filter (fun m => m.child && !told m)).foldl (fun s m =>
          s.sendColl d m.id t g q 3 (if 0 < x.commits then 6 else 7) 0 .ending) s
      else s.sendColl d (gParent w) t g q 2 7 0 .ending
    let s := (s.collSlots t g q).foldl (fun s cy =>
      if cy.2.st = .closed then s else s.slotAbort cy.1 q 7 false true .ending) s
    s.updColl t g q (fun x => { x with ended := some 7, tell := [], aborted := true })) s

/-- Step 4 of a quench clears the contexts and admission entries of a tenancy (Table 14.5, Table 7.6). -/
def Sw.collClear (s : Sw) (t : Nat) : Sw :=
  let cs := (s.anv.ctx.filter (fun kv => kv.2.ten == t)).map Prod.fst
  let s := cs.foldl (fun s c => (s.dropSlot c 0).dropSlot c 1) s
  s.updAnv (fun a => { a with
    ctx := a.ctx.filter (fun kv => kv.2.ten != t)
    admq := a.admq.filter (fun e => (if e.ctl then cTen e.pkt.hdr else hTen e.pkt.hdr) != t)
    colls := a.colls.filter (fun x => x.ten != t) })

end Sys2Proof.Machine
end

