-- ==== Sys2Proof/Machine/AgrOps.lean ====
section
/-! DEFINITION. Agreement counters (11): binding, arrivals, completion, release, force, lending, quench. -/

namespace Sys2Proof.Machine

/-- Fields of `agr.bind` (Table 11.4). -/
def bValid (w : Nat) : Bool := bit w 31
def bLend (w : Nat) : Bool := bit w 30
def bTen (w : Nat) : Nat := fld w 20 8
def bGroup (w : Nat) : Nat := fld w 0 12

/-- The binding word and the state of counter `c`. -/
def Sw.agrBind (s : Sw) (c : Nat) : Nat := s.rd L.agrBind c
def Sw.agrCtr (s : Sw) (c : Nat) : Agr := s.agr.getD c {}
def Sw.setAgr (s : Sw) (c : Nat) (x : Agr) : Sw := { s with agr := s.agr.put c x {} }

/-- The members of a counter at this switch (R453). -/
def Sw.agrMembers (s : Sw) (c : Nat) : List Member := s.groupMembers (s.group (bGroup (s.agrBind c)))

/-- An AGREE packet is denied (R454). -/
def Sw.agrDenied (s : Sw) (w : Word256) : Bool :=
  let b := s.agrBind (gCtr w)
  let g := s.group (bGroup b)
  !bValid b || gGroup w != bGroup b || cTen w != bTen b || !gValid g || gTen g != bTen b ||
  (if gOp w = 1 then gTop g || gParent g != pSrc w else (memberOf (s.agrMembers (gCtr w)) (pSrc w)).isNone)

/-- Detail and aux of an agreement fault: group, epoch, member, counter (17 Table 17.4). -/
def Sw.agrFault (s : Sw) (code : Nat) (w : Word256) : Sw :=
  s.fault code (8 + gCtr w / 512) (some (cTen w)) (detC (gGroup w) (gEpoch w)) (auxC (pSrc w) (gCtr w) 0)

/-- The counter sends an AGREE packet (R458). -/
def Sw.sendAgree (s : Sw) (c dst op epoch count level : Nat) (ck : Checks) : Sw :=
  let b := s.agrBind c
  s.sendCtl (c / 512) (mkAgree s.svcEp dst (bTen b) (s.incOf (incForge (c / 512))) op c epoch count level (bGroup b)) ck

/-- RELEASE to every member (R458, R463). -/
def Sw.agrReleaseAll (s : Sw) (c epoch count level : Nat) : Sw :=
  (s.agrMembers c).foldl (fun s m => s.sendAgree c m.id 1 epoch count level .both) s

/-- The counter advances (R462): its lending report ends (R469), and `forced` is that of the map of E + 1, which becomes the map of E
(R466; DEDUCED, log 48). -/
def Sw.agrAdvance (s : Sw) (c : Nat) : Sw :=
  let x := s.agrCtr c
  s.setAgr c { st := if x.nxt.marked.isEmpty then .waiting else .gathering
               epoch := (x.epoch + 1) % 65536, cur := x.nxt, nxt := {}, forced := x.nxt.forced, lending := false }

/-- Every member at this switch is marked in the map of E. -/
def Sw.agrComplete (s : Sw) (c : Nat) : Bool :=
  let x := s.agrCtr c
  (s.agrMembers c).all (fun m => x.cur.marked.contains m.id)

/-- The test of R462: a complete counter in Gathering goes on, up to the parent or to every member; at the top the next
round may be complete too, so the test is made again. -/
def Sw.agrTest : Nat → Sw → Nat → Sw
  | 0, s, _ => s
  | n + 1, s, c =>
    let x := s.agrCtr c
    if x.st = .gathering ∧ s.agrComplete c then
      let g := s.group (bGroup (s.agrBind c))
      if gTop g then
        Sw.agrTest n ((s.agrReleaseAll c x.epoch x.cur.value (b2n x.forced)).agrAdvance c) c
      else
        (s.sendAgree c (gParent g) 0 x.epoch x.cur.value (b2n x.forced) .both).setAgr c { x with st := .up }
    else s

/-- Mark an arrival in a map (R457, R459); its first arrival starts the wait of R469. -/
def Sw.mark (s : Sw) (c : Nat) (m : ArrMap) (id count : Nat) : ArrMap :=
  { m with
    marked := m.marked ++ [id]
    value := (m.value + count) % 2 ^ 32
    lendAt := if m.marked.isEmpty ∧ bLend (s.agrBind c) ∧ s.rd L.agrLendNs ≠ 0 then some (deadline s.now (s.rd L.agrLendNs)) else m.lendAt }

/-- An ARRIVE that is not denied (Table 11.1). -/
def Sw.agrArrive (s : Sw) (w : Word256) : Sw :=
  let c := gCtr w
  let d := c / 512
  let x := s.agrCtr c
  let id := pSrc w
  let dup := (s.inc (L.agrDup.at d)).agrFault 0x2B w
  if gCount w = 0 ∧ gLevel w = 0 then s
  else if gEpoch w = x.epoch then
    if x.cur.marked.contains id then dup
    else if x.st = .up then s
    else Sw.agrTest 3 (s.setAgr c { x with st := .gathering, cur := s.mark c x.cur id (gCount w)
                                           forced := x.forced || gLevel w == 1 }) c
  else if gEpoch w = (x.epoch + 1) % 65536 then
    if x.nxt.marked.contains id then dup
    else s.setAgr c { x with nxt := { s.mark c x.nxt id (gCount w) with forced := x.nxt.forced || gLevel w == 1 } }
  else if !later 65536 ((x.epoch + 65535) % 65536) (gEpoch w) then s.inc (L.agrStale.at d)
  else (s.inc (L.agrAhead.at d)).agrFault 0x2C w

/-- A RELEASE that is not denied (Table 11.1): members are released only from Up. -/
def Sw.agrRelease (s : Sw) (w : Word256) : Sw :=
  let c := gCtr w
  let x := s.agrCtr c
  if x.st = .up ∧ gEpoch w = x.epoch then
    Sw.agrTest 3 ((s.agrReleaseAll c x.epoch (gCount w) (gLevel w)).agrAdvance c) c
  else s.inc (L.agrStale.at (c / 512))

/-- A denied AGREE: discarded, counted, one contained fault (R454). -/
def Sw.agrDeny (s : Sw) (w : Word256) : Sw := (s.inc (L.agrDenied.at (gCtr w / 512))).agrFault 0x2A w

/-- A write to `agr.force` (R465); none where it is refused. -/
def Sw.wrAgrForce (s : Sw) (v : Nat) : Option Sw :=
  let c := fld v 0 11
  let x := s.agrCtr c
  if !bValid (s.agrBind c) ∨ x.epoch ≠ fld v 16 16 then none
  else if x.st = .up then
    some (Sw.agrTest 3 ((s.agrReleaseAll c x.epoch x.cur.value 1).agrAdvance c) c)
  else
    let missing := ((s.agrMembers c).map Member.id).filter (fun id => !x.cur.marked.contains id)
    some (Sw.agrTest 3 (s.setAgr c { x with st := .gathering, forced := true
                                            cur := { x.cur with marked := x.cur.marked ++ missing } }) c)

/-- A write to an entry of `agr.bind` clears the counter (R455). -/
def Sw.wrAgrBind (s : Sw) (c v : Nat) : Sw := (s.setAgr c {}).wr L.agrBind c (Nat.land v 0xCFF00FFF)

/-- The SIGNALs held of a tenancy are discarded and counted (R477, 14 Table 14.5). -/
def Sw.dropHeld (s : Sw) (t : Nat) : Sw :=
  let gone := s.fab.held.filter (fun h => cTen h.pkt == t)
  let s := gone.foldl (fun s h => s.inc (L.agrSigDiscard.at h.die)) s
  { s with fab := { s.fab with held := s.fab.held.filter (fun h => cTen h.pkt != t) } }

/-- A quench acts on the counters and held SIGNALs of a tenancy (R477). -/
def Sw.agrQuench (s : Sw) (t : Nat) : Sw :=
  let cs := ((s.elems L.agrBind).filter (fun e => bValid e.2 && bTen e.2 == t)).map Prod.fst
  let s := cs.foldl (fun s c =>
    let x := s.agrCtr c
    let ms := (s.agrMembers c).filter (fun m => !m.child && x.cur.marked.contains m.id)
    let s := ms.foldl (fun s m => s.sendAgree c m.id 1 x.epoch x.cur.value 2 .ending) s
    s.wrAgrBind c 0) s
  s.dropHeld t

/-- A bound counter of group `g` is in Gathering or Up, or holds an arrival for E + 1 (R484). -/
def Sw.agrHolds (s : Sw) (g : Nat) : Bool :=
  s.agr.any (fun kv => bValid (s.agrBind kv.1) && bGroup (s.agrBind kv.1) == g &&
    (kv.2.st != .waiting || !kv.2.nxt.marked.isEmpty))

/-- The state word of a counter (Table 11.5). -/
def Sw.agrWord (s : Sw) (c : Nat) : Nat :=
  let x := s.agrCtr c
  if bValid (s.agrBind c) then
    x.epoch * 2 ^ 48 + x.cur.value * 65536 +
    (match x.st with | .waiting => 1 | .gathering => 2 | .up => 3) * 8192 +
    b2n x.forced * 4096 + b2n x.lending * 2048 + b2n (!x.nxt.marked.isEmpty) * 1024 + min 1023 x.cur.marked.length
  else 0

end Sys2Proof.Machine
end

