-- ==== Sys2Proof/Machine/HearthOps.lean ====
section
/-! DEFINITION. Hearth (08 R324 to R348): job descriptors, validation, recipe steps, copies, completion, release. -/

namespace Sys2Proof.Machine

/-! ### Descriptors (Tables 8.4, 8.5) -/

def jCtag (d : Nat) : Nat := fld d 192 32
def jCgfa (d : Nat) : Nat := fld d 128 64
def jPblk (d : Nat) : Nat := fld d 64 40
def jAfter (d : Nat) : Bool := bit d 42
def jKind (d : Nat) : Nat := fld d 40 2
def jRecipe (d : Nat) : Nat := fld d 32 8
def jCount (d : Nat) : Nat := fld d 0 29

/-- A reserved field of the descriptor is not 0. -/
def jReserved (d : Nat) : Bool := fld d 224 288 != 0 || fld d 104 24 != 0 || fld d 43 21 != 0 || fld d 29 3 != 0

/-- Stream entry `n` of a parameter block, its descriptor and base; constant `k`. -/
def streamEntry (pb : Bytes) (n : Nat) : Nat := leNat (slice pb (8 * n) 8)
def stDesc (e : Nat) : Nat := fld e 40 16
def stBase (e : Nat) : Nat := fld e 0 40
def constVal (pb : Bytes) (k : Nat) : Val := decodeVal 0 (leNat (slice pb (64 + 8 * k) 8))

/-! ### Recipe instructions (Tables 8.9 to 8.11) -/

def iOp (i : Nat) : Nat := fld i 60 4
def iD (i : Nat) : Nat := fld i 56 4
def iA (i : Nat) : Nat := fld i 51 5
def iB (i : Nat) : Nat := fld i 46 5
def iC (i : Nat) : Nat := fld i 41 5
def iS (i : Nat) : Nat := fld i 38 3
def iPrec (i : Nat) : Nat := if bit i 37 then 0 else 1
def iFmt (i : Nat) : Nat := fld i 33 4
def iRel (i : Nat) : Nat := fld i 31 2
def iPred (i : Nat) : Nat := fld i 29 2

/-- The bits of the fields an instruction uses, `op` included; 0 for a reserved `op`. -/
def iUsed (op : Nat) : Nat :=
  let f (lo n : Nat) : Nat := (2 ^ n - 1) * 2 ^ lo
  let o := f 60 4
  match op with
  | 0 => o
  | 1 => o + f 56 4 + f 38 3
  | 2 | 3 => o + f 51 5 + f 38 3
  | 4 => o + f 56 4 + f 51 5 + f 46 5 + f 37 1
  | 5 | 8 => o + f 56 4 + f 51 5 + f 46 5 + f 41 5 + f 37 1
  | 6 => o + f 56 4 + f 51 5 + f 37 1
  | 7 => o + f 56 4 + f 51 5 + f 33 4
  | 9 => o + f 56 2 + f 51 5 + f 46 5 + f 31 2
  | 10 => o + f 56 4 + f 51 5 + f 46 5 + f 29 2
  | _ => 0

/-- An instruction is valid (R338). -/
def instrOk (i : Nat) : Bool :=
  decide (iOp i ≤ 10) && Nat.land i (iUsed (iOp i)) == i % 2 ^ 64 &&
  decide (iA i ≤ 0x1A ∧ iB i ≤ 0x1A ∧ iC i ≤ 0x1A) && (iOp i != 7 || (decide (iFmt i ≤ 8) && iFmt i != 6))

/-- Instructions up to and with the first END. -/
def untilEnd : List Nat → List Nat
  | [] => []
  | i :: is => if iOp i = 0 then [i] else i :: untilEnd is

/-- Streams a recipe names. -/
def namedStreams (r : List Nat) : List Nat :=
  ((r.filter (fun i => iOp i == 1 || iOp i == 2 || iOp i == 3)).map iS).eraseDups

/-! ### Validation (R329) -/

/-- Every byte of an HBM range lies in granules bound to tenancy `t` and in stack `n`, in one die region. -/
def Sw.rangeOk (s : Sw) (off len t n : Nat) : Bool :=
  len == 0 ||
  (decide (off + len ≤ s.hbmSize) && granulesAll off (off + len) (fun g => boundTo (s.rd L.tenHbm g) t) &&
   (s.hbmStack off).1 == n && (s.hbmStack (off + len - 1)).1 == n && s.hbmDie off == s.hbmDie (off + len - 1))

/-- An entry of the parameter block has a bit set in its reserved field (Table 8.5); s1 of a copy is a GFA and has none. -/
def entriesResv (k : Nat) (pb : Bytes) : Bool := (List.range 8).any (fun n => (k == 0 || n != 1) && fld (streamEntry pb n) 56 8 != 0)

/-- Status of a job at validation: 0 valid, 1 Denied, 2 Format (DEDUCED, log 14: Format is looked at first). -/
def Sw.jobValid (s : Sw) (j : Job) (pb : Bytes) (r : List Nat) : Nat :=
  let d := j.desc
  let k := jKind d
  let used := if k = 0 then namedStreams r else []
  if jReserved d ∨ k = 3 ∨ (k = 0 ∧ (r.any (fun i => !instrOk i) ∨
      used.any (fun n => !descValid (stDesc (streamEntry pb n))) ∨
      r.any (fun i => iOp i == 3 && dScaled (stDesc (streamEntry pb (iS i)))))) ∨
      entriesResv k pb then 2
  else
    let t := j.ten
    let n := j.stack
    let bad :=
      jPblk d % 128 != 0 || !s.rangeOk (jPblk d) 128 t n ||
      !((List.range 16).any (fun u => boundTo (s.rd L.tenHearth (16 * n + u)) t)) ||
      (if k = 0 then
        s.rd (L.hearthRecipeTen.at n) (jRecipe d) != t ||
        used.any (fun i =>
          let e := streamEntry pb i
          stBase e % 64 != 0 || !s.rangeOk (stBase e) (packedBytes (stDesc e) 1 (jCount d)) t n)
      else
        let g := streamEntry pb 1
        let dst := fld g 40 16
        let off := fld g 0 40
        stBase (streamEntry pb 0) % 64 != 0 || !s.rangeOk (stBase (streamEntry pb 0)) (64 * jCount d) t n ||
        off % 64 != 0 || fld g 56 8 != t || !s.own dst || !decide (4 ≤ dst % 32 ∧ dst % 32 < 20) ||
        !decide (off + 64 * jCount d ≤ 2 ^ 40) || !s.check3 dst off (64 * jCount d) t)
    if bad then 1 else 0

/-! ### Completion (R331 to R333) -/

/-- A header of a WRITE the part sends. -/
def mkWrite (src cls entropy gfa bytes : Nat) : Word256 :=
  mkPkt [(0, 5, 0), (5, 2, 1), (8, 3, cls), (16, 8, entropy), (24, 16, src), (40, 7, cdiv bytes 64), (48, 6, bytes % 64),
    (56, 64, gfa)]

/-- Change a job. -/
def Sw.updJob (s : Sw) (no : Nat) (f : Job → Job) : Sw :=
  { s with jobs := s.jobs.map (fun j => if j.no = no then f j else j) }

/-- The job numbered `no` on stack `n`. -/
def Sw.job? (s : Sw) (n no : Nat) : Option Job := s.jobs.find? (fun j => j.no == no && j.stack == n)

/-- Steps of a recipe job, or lines of a copy. -/
def jobUnits (j : Job) : Nat := if jKind j.desc = 0 then cdiv (jCount j.desc) 64 else jCount j.desc

/-- A job is Done: its record is written and its core told. `tend` is when its last write was applied (Table 8.6). -/
def Sw.jobDone (s : Sw) (j : Job) (status : Nat) (ck : Checks) (inc : Nat := s.incOf (incStack j.stack)) : Sw :=
  let d := j.desc
  let k := s.hbmDie (jPblk d)
  let s := { s with jobs := s.jobs.filter (fun x => x.no != j.no) }
  let s := s.recDigest k 5 (digTag j.ten 0 (jCtag d)) (j.wrote.flatMap (fun l => s.hbmRd (64 * l) 64))
  let rec_ := setFld (setFld (setFld (setFld (setFld (setFld (setFld (setFld 0 256 64 (j.last.getD s.now)) 192 64 j.tstart) 160 32 j.ffail)
    128 32 j.nfail) 104 8 inc) 96 8 status) 64 32 (jCtag d)) 0 64
    (if jKind d = 0 then j.astat else astatNone)
  let s := if jCgfa d % 64 = 0 ∧ fld (jCgfa d) 56 8 = j.ten then
      s.sendData k (mkWrite (s.selfEp + 1) j.cls Config.partEntropy (jCgfa d) 64) (leBytes 64 rec_) ck
    else s
  match j.core with
  | none => s
  | some (c, i) => s.postJobDone c status i

/-- A job is validated and runs, or is Done at once (R329, R333). Of the slot only the instructions up to the first END are looked at
(DESIGN CHOICE, log 159). -/
def Sw.jobValidate (s : Sw) (j : Job) : Sw :=
  let pb := s.readLines (jPblk j.desc) 2 rdHearth
  let r := untilEnd ((List.range 64).map (fun i => s.rd (L.hearthRecipe.at j.stack) (64 * jRecipe j.desc + i)))
  let j := { j with tstart := s.now }
  -- an unreadable parameter block fails every step (DESIGN CHOICE, log 15)
  match s.jobValid j (pb.1.getD (zeros 128)) r with
  | 0 =>
    match pb.1 with
    | some b => pb.2.updJob j.no (fun _ => { j with st := .running, pblk := b, recipe := r })
    | none =>
      let n := jobUnits j
      pb.2.jobDone { j with nfail := n, ffail := if n = 0 then 0xFFFFFFFF else 0 } (if n = 0 then 0 else 3) .both
  | st => pb.2.jobDone j st .both

/-- Every earlier job of the tenancy on the stack is Done. -/
def Sw.jobClear (s : Sw) (j : Job) : Bool :=
  !s.jobs.any (fun x => decide (x.no < j.no) && x.stack == j.stack && x.ten == j.ten)

/-- Waiting jobs whose earlier jobs are all Done are validated (R333), as often as one of them frees another. -/
def Sw.jobRelease (s : Sw) : Sw :=
  forN (s.jobs.length + 1) s (fun _ s =>
    match s.jobs.find? (fun j => j.st == .waiting && s.jobClear j) with
    | some j => s.jobValidate j
    | none => s)

/-- A job leaves the queue (Table 8.8). -/
def Sw.jobStart (s : Sw) (n : Nat) : Sw :=
  match s.jobs.find? (fun j => j.stack == n && j.st == .queued) with
  | none => s
  | some j =>
    if jAfter j.desc && !s.jobClear j then s.updJob j.no (fun j => { j with st := .waiting })
    else (s.jobValidate j).jobRelease

/-- Queued jobs of a stack. -/
def Sw.jobsQueued (s : Sw) (n : Nat) : Nat := (s.jobs.filter (fun j => j.stack == n && j.st == .queued)).length

/-- A descriptor is submitted (R324, R328, R330): none where the stack's queue is full. -/
def Sw.jobSubmit (s : Sw) (t cls d : Nat) (core : Option (Nat × Nat)) : Option Sw :=
  let n := (s.hbmStack (jPblk d)).1
  if 256 ≤ s.jobsQueued n then none
  else some { s with jobs := s.jobs ++ [{ no := s.jobNo, stack := n, ten := t, desc := d, cls := cls, core := core }]
                     jobNo := s.jobNo + 1 }

/-- A job counts step or line `n` as done, skipped where `bad`. -/
def Job.step (j : Job) (n : Nat) (bad : Bool) : Job :=
  let j := { j with done := j.done ++ [n] }
  if bad then { j with nfail := j.nfail + 1, ffail := min j.ffail n } else j

/-! ### One step (R335 to R344) -/

/-- Integer square root. -/
def isqrt (n : Nat) : Nat := (List.range (n.log2 / 2 + 1)).foldr (fun i r => if (r + 2 ^ i) ^ 2 ≤ n then r + 2 ^ i else r) 0

/-- 1 / √a, exact up to a sticky low bit, before its rounding (Table 8.11). -/
def rsqrtVal : Val → Val
  | .nan => .nan
  | .inf n => if n then .nan else .fin false 0 0
  | .fin n 0 _ => .inf n
  | .fin n m e =>
    if n then .nan
    else
      let m := if e % 2 = 0 then m else 2 * m
      let e := if e % 2 = 0 then e else e - 1
      let k := m.log2 / 2 + 70
      let q := isqrt (2 ^ (2 * k) / m)
      .fin false (2 * q + b2n (q * q * m != 2 ^ (2 * k))) (-(e / 2) - k - 1)

/-- The registers, predicates and held writes of a step. -/
structure StepSt where
  v    : List (List Val)
  p    : List (List Bool)
  /-- values stored to streams in this step, as encoded and decoded again (R339) -/
  replaced : List (Nat × List Val) := []
  /-- held writes: instruction `op`, stream, values -/
  held : List (Nat × Nat × List Val) := []
  sat  : Bool := false
  bad  : Bool := false

/-- Byte ranges of elements `lo` to `lo` + `n` - 1 of a stream: elements, then scales. -/
def streamRanges (d base count lo n : Nat) : List (Nat × Nat) :=
  let e := elemBytes (dFmt d) lo
  let sc (k : Nat) : Nat := if dCols d then k else cdiv k (dBlock d)
  (base + e, elemBytes (dFmt d) (lo + n) - e) ::
    (if dScaled d then [(base + pad64 (elemBytes (dFmt d) count) + sc lo, sc (lo + n) - sc lo)] else [])

/-- Lines of a byte range. -/
def linesOf (r : Nat × Nat) : List Nat := if r.2 = 0 then [] else (List.range ((r.1 + r.2 - 1) / 64 - r.1 / 64 + 1)).map (fun i => r.1 / 64 + i)

/-- Values of a source selector (Table 8.10). -/
def selVals (pb : Bytes) (x : StepSt) (a : Nat) : List Val :=
  if a < 16 then x.v.getD a []
  else List.replicate 64 (if a < 24 then constVal pb (a - 16)
    else if a = 24 then .fin false 0 0 else if a = 25 then .fin false 1 0 else .fin true 1 0)

/-- Values a step reads of a stream, +0 in masked positions (R339, R340). -/
def Sw.loadVals (s : Sw) (d base count lo n : Nat) : List Val :=
  let rs := streamRanges d base count lo n
  let els := (rs.headD (0, 0))
  let eb := s.hbmRd els.1 els.2
  let sb := match rs with | [_, sc] => s.hbmRd sc.1 sc.2 | _ => []
  (List.range 64).map (fun i =>
    if i < n then
      let v := decodeVal (dFmt d) (elemAt (dFmt d) eb i)
      if dScaled d then v.scale (byteAt sb (if dCols d then i else i / dBlock d)).toNat else v
    else .fin false 0 0)

/-- One instruction of a step that covers elements `lo` to `lo` + `n` - 1. -/
def Sw.stepInstr (s : Sw) (j : Job) (lo n : Nat) (x : StepSt) (i : Nat) : StepSt × List Nat :=
  let pb := j.pblk
  let e := streamEntry pb (iS i)
  let d := stDesc e
  let a := selVals pb x (iA i)
  let b := selVals pb x (iB i)
  let c := selVals pb x (iC i)
  let setV (vs : List Val) : StepSt := { x with v := x.v.set (iD i) vs }
  let round (v : Val) : Val := (roundTo (iPrec i) v).1
  let act (l : List Val) : List Val := l.take n
  match iOp i with
  | 1 =>
    match x.replaced.find? (fun o => o.1 == iS i) with
    | some o => (setV ((List.range 64).map (fun k => if k < n then o.2.getD k .nan else .fin false 0 0)), [])
    | none =>
      let bad := ((streamRanges d (stBase e) (jCount j.desc) lo n).flatMap linesOf).filter s.lineBad
      if bad.isEmpty then (setV (s.loadVals d (stBase e) (jCount j.desc) lo n), [])
      else ({ x with bad := true }, bad)
  | 2 =>
    let w := encodeArray d 1 n (act a)
    let back := (List.range n).map (fun k =>
      let v := decodeVal (dFmt d) (w.els.getD k 0)
      if dScaled d then v.scale (w.scs.getD (if dCols d then k else k / dBlock d) 0) else v)
    ({ x with replaced := (iS i, back) :: x.replaced.filter (fun o => o.1 != iS i), held := x.held ++ [(2, iS i, act a)]
              sat := x.sat || w.sat }, [])
  | 3 => ({ x with held := x.held ++ [(3, iS i, act a)] }, [])
  | 4 => (setV ((a.zip b).map (fun q => round (q.1.mul q.2))), [])
  | 5 => (setV (((a.zip b).zip c).map (fun q => round ((q.1.1.mul q.1.2).add q.2))), [])
  | 6 => (setV (a.map (fun q => round (rsqrtVal q))), [])
  | 7 =>
    let rs := a.map (roundTo (iFmt i))
    ({ setV (rs.map Prod.fst) with sat := x.sat || (rs.take n).any Prod.snd }, [])
  | 8 => (setV (((a.zip b).zip c).map (fun q => round ((q.1.1.max q.1.2).min q.2))), [])
  | 9 =>
    let rel (q : Val × Val) : Bool :=
      if q.1 == .nan ∨ q.2 == .nan then iRel i == 3
      else match iRel i with
        | 0 => q.1.cmp q.2 == .eq
        | 1 => q.1.cmp q.2 == .lt
        | 2 => q.1.cmp q.2 != .gt
        | _ => false
    let bs := (a.zip b).map rel
    ({ x with p := x.p.set (iD i % 4) ((List.range 64).map (fun k => decide (k < n) && bs.getD k false)) }, [])
  | 10 =>
    let m := x.p.getD (iPred i) []
    (setV ((List.range 64).map (fun k => if m.getD k false then a.getD k .nan else b.getD k .nan)), [])
  | _ => (x, [])

/-- Apply one held write: new memory, lines written, `sat`, and the position kinds by stream. -/
def Sw.applyHeld (s : Sw) (j : Job) (lo n : Nat) (h : Nat × Nat × List Val) : Sw × List Nat × Bool × List (Bool × Bool) :=
  let e := streamEntry j.pblk h.2.1
  let d := stDesc e
  let rs := streamRanges d (stBase e) (jCount j.desc) lo n
  let ls := rs.flatMap linesOf
  if h.1 = 2 then
    let w := encodeArray d 1 n h.2.2
    let eb := packElems (dFmt d) w.els
    let s := (s.writeLines (rs.headD (0, 0)).1 eb rdHearth).2
    let s := match rs with
      | [_, sc] => (s.writeLines sc.1 (w.scs.map (BitVec.ofNat 8)) rdHearth).2
      | _ => s
    (s, ls, w.sat, ((w.els.zip h.2.2).zip w.nanBlock).map (fun q => posKind (dFmt d) q.2 q.1.1 q.1.2))
  else
    let old := s.loadVals d (stBase e) (jCount j.desc) lo n
    let sums := ((old.zip h.2.2).map (fun q => q.1.add q.2)).take n
    let enc := sums.map (encodeVal (dFmt d))
    let s := (s.writeLines (rs.headD (0, 0)).1 (packElems (dFmt d) (enc.map Prod.fst)) rdHearth).2
    (s, ls, enc.any Prod.snd, (enc.zip sums).map (fun q => posKind (dFmt d) false q.1.1 q.2))

/-- The status word of a step's writes: element i through stream s is position 8 i + s (R344). -/
def stepAstat (lo : Nat) (sat : Bool) (ks : List (Nat × List (Bool × Bool))) : Nat :=
  let n := (ks.map (fun k => k.2.length)).foldl max 0
  let flat := (List.range (8 * n)).map (fun p => match ks.find? (fun k => k.1 == p % 8) with
    | some k => k.2.getD (p / 8) (false, false)
    | none => (false, false))
  astatOf (8 * lo) sat flat

/-- One recipe step of a running job (R335, R339, R343). A step that is skipped still sets `sat` from the values its STOREs hold
(DESIGN CHOICE, log 160). -/
def Sw.recipeStep (s : Sw) (j : Job) (step : Nat) : Sw :=
  let lo := 64 * step
  let n := min 64 (jCount j.desc - lo)
  let x0 : StepSt := { v := List.replicate 16 (List.replicate 64 (.fin false 0 0)), p := List.replicate 4 (List.replicate 64 false) }
  let r := j.recipe.foldl (fun (acc : StepSt × List Nat) i =>
    if acc.1.bad then acc else let q := s.stepInstr j lo n acc.1 i; (q.1, acc.2 ++ q.2)) (x0, [])
  let x := r.1
  -- lines of held writes that must be read first: parts of a line, and every line of an add
  let need := x.held.flatMap (fun h =>
    let e := streamEntry j.pblk h.2.1
    (streamRanges (stDesc e) (stBase e) (jCount j.desc) lo n).flatMap (fun rg =>
      (linesOf rg).filter (fun l => h.1 == 3 || !(decide (rg.1 ≤ 64 * l ∧ 64 * l + 64 ≤ rg.1 + rg.2)))))
  let bad := if x.bad then r.2 else (need.filter s.lineBad).eraseDups
  if !bad.isEmpty then
    (bad.foldl (fun s l => s.uncorr (64 * l) rdHearth) s).updJob j.no (fun j =>
      ({ j with astat := astatMerge j.astat (b2n x.sat * 2 ^ 61 + astatNone) }).step step true)
  else
    let a := x.held.foldl (fun (acc : Sw × List Nat × Bool × List (Nat × List (Bool × Bool))) h =>
      let q := acc.1.applyHeld j lo n h
      (q.1, acc.2.1 ++ q.2.1, acc.2.2.1 || q.2.2.1, (h.2.1, q.2.2.2) :: acc.2.2.2.filter (fun k => k.1 != h.2.1)))
      (s, [], x.sat, [])
    a.1.updJob j.no (fun j => ({ j with
      astat := astatMerge j.astat (stepAstat lo a.2.2.1 a.2.2.2)
      last := if x.held.isEmpty then j.last else some s.now
      wrote := a.2.1.foldl (fun l n => insertNat n l) j.wrote }).step step false)

/-- A job whose write has just been applied. -/
def Job.at (j : Job) (t : Nat) : Job := { j with last := some t }

/-- The die-to-die link over which the lines of a copy go: that of the Forge die which hosts the stack's half (R345). -/
def Sw.copyLink (s : Sw) (j : Job) : Nat := 14 + s.hbmDie (stBase (streamEntry j.pblk 0))

/-- One line of a copy job (R345). While the link to the bridge die is stopped none moves (01 R27; the line waits: DEDUCED, log 134);
a CXL port that does not serve the line makes it skipped (DESIGN CHOICE, log 16). -/
def Sw.copyLine (s : Sw) (j : Job) (line : Nat) : Sw :=
  let h := stBase (streamEntry j.pblk 0) + 64 * line
  let g := streamEntry j.pblk 1
  let pa := cxlOf (fld g 40 16 % 32) (fld g 0 40 + 64 * line)
  let k := pa.1 * 2 ^ 36 + pa.2 / 64
  let b := s.bport pa.1
  let served := b.st == .ready && decide (pa.2 + 64 ≤ b.cap) && !(pa.1 == 0 && s.hostRole)
  if s.pins.d2dFatal.contains (s.copyLink j) then s
  else if !served then s.updJob j.no (fun j => j.step line true)
  else
    let s := s.touchCxl pa.1 pa.2
    if jKind j.desc = 1 then
      let r := s.readLines h 1 rdHearth
      match r.1 with
      | none => r.2.updJob j.no (fun j => j.step line true)
      | some bs =>
        ({ (r.2.cxlWr pa.1 pa.2 bs) with cxlBad := s.cxlBad.filter (fun l => l != k) }).updJob j.no (fun j => (j.at s.now).step line false)
    else if s.cxlBad.contains k then s.updJob j.no (fun j => j.step line true)
    else
      (s.writeLine h (s.cxlRd pa.1 pa.2 64) rdHearth).2.updJob j.no
        (fun j => ({ (j.at s.now) with wrote := insertNat (h / 64) j.wrote }).step line false)

/-- A quench ends a tenancy's jobs (R348, Table 8.8). `tstart` of one that was never validated is the time of its end (DESIGN CHOICE,
log 161). -/
def Sw.hearthQuench (s : Sw) (t : Nat) : Sw :=
  (s.jobs.filter (fun j => j.ten == t)).foldl (fun s j => s.jobDone { j with tstart := if j.st = .running then j.tstart else s.now } 4 .ending) s

/-- A reset of a stack's base die ends its jobs (Table 8.8). -/
def Sw.hearthReset (s : Sw) (n : Nat) : Sw :=
  ((s.jobs.filter (fun j => j.stack == n)).foldl (fun s j =>
    s.jobDone { j with tstart := if j.st = .running then j.tstart else s.now } 5 .both) s).jobRelease

/-- The line as an access that reads it leaves it: as read, with the bytes of a merge write laid over it (R321), or with the
terms of an add added to its elements (R322). -/
def lineResult (acc : LineAccess) (cur : Bytes) : Bytes :=
  match acc with
  | .read | .write _ => cur
  | .merge o bs => overlay cur o bs
  | .add f el ts =>
    let f := f.toNat
    let n := min ts.length (512 / fmtBits f - el)
    packElems f ((List.range (512 / fmtBits f)).map (fun i =>
      let e := elemAt f cur i
      if el ≤ i ∧ i < el + n then (encodeVal f ((decodeVal f e).add (decodeVal 0 (ts.getD (i - el) 0).toNat))).1 else e))

/-- A line port serves one access to a line that has suffered errors `es` (R314 to R316, R319 to R322): a whole-line write
reads nothing; any other reads the line first, and leaves it unwritten where that fails. -/
def Sw.linePort (s : Sw) (off : Nat) (acc : LineAccess) (es : LineErr) (reader : Nat) : Sw :=
  let base := 64 * (off / 64)
  match acc with
  | .write bs => (s.touchHbm base).hbmWr base (slice bs 0 64)
  | .read => (s.lineFetch base reader es).2
  | _ =>
    let r := s.lineFetch base reader es
    match r.1 with
    | none => r.2
    | some cur => r.2.hbmWr base (lineResult acc cur)

end Sys2Proof.Machine
end

