-- ==== Sys2Proof/Machine/SwageOps.lean ====
section
/-! DEFINITION. Swage (09 R354 to R400): descriptors, validation, stationary sets, passes, frames, output, checked mode,
streams, completion, quench and reset. -/

namespace Sys2Proof.Machine

/-! ### Descriptors (Table 9.1) -/

def wCtag (d : Nat) : Nat := fld d 480 32
def wCgfa (d : Nat) : Nat := fld d 416 64
def wOgfa (d : Nat) : Nat := fld d 352 64
def wSbase (d : Nat) : Nat := fld d 312 40
def wPbase (d : Nat) : Nat := fld d 272 40
def wWbase (d : Nat) : Nat := fld d 232 40
def wAbase (d : Nat) : Nat := fld d 192 40
def wM (d : Nat) : Nat := fld d 160 32
def wK (d : Nat) : Nat := fld d 128 32
def wOdesc (d : Nat) : Nat := fld d 112 16
def wWdesc (d : Nat) : Nat := fld d 96 16
def wAdesc (d : Nat) : Nat := fld d 80 16
def wPdesc (d : Nat) : Nat := fld d 64 16
def wN (d : Nat) : Nat := fld d 48 16
def wArray (d : Nat) : Nat := fld d 16 4
def wAfter (d : Nat) : Bool := bit d 10
def wChk (d : Nat) : Bool := bit d 9
def wSpill (d : Nat) : Bool := bit d 8
def wSrc (d : Nat) : Bool := bit d 7
def wAccF (d : Nat) : Nat := fld d 4 2
def wPre (d : Nat) : Nat := fld d 0 2

/-- Reserved fields. -/
def wResv (d : Nat) : Bool := fld d 20 28 != 0 || fld d 11 5 != 0 || bit d 6 || fld d 2 2 != 0

/-- The accumulator code in force (R239, R364); none where it is not permitted. -/
def wAccCode (d : Nat) : Option Nat := accOf (wAccF d) (wAdesc d) (wWdesc d)

/-- The format of the accumulator. -/
def wAcc' (d : Nat) : Nat := accFmt ((wAccCode d).getD 1)

/-- Slice width, slices V, row tiles U, passes Q (R366). -/
def sliceW (d : Nat) : Nat := if wChk d then 31 else 32
def slicesV (d : Nat) : Nat := cdiv (wN d) (sliceW d)
def tilesU (d : Nat) : Nat := cdiv (wM d) 256
def passesQ (d : Nat) : Nat := cdiv (wK d) 512

/-- Bytes of the scratchpad regions (R365). -/
def scratch (d : Nat) : Nat :=
  let q := passesQ d * slicesV d * 16384
  q * fmtBits (dFmt (wWdesc d)) / 8 + (if dScaled (wWdesc d) then q / dBlock (wWdesc d) else 0) +
  2 * 256 * 32 * (if wAcc' d = 0 then 8 else 4) +
  (if wSrc d then 256 * wK d * fmtBits (dFmt (wAdesc d)) / 8 else 0)

/-- An output block of C would span two tiles. -/
def blockSpans (d : Nat) : Bool :=
  let o := wOdesc d
  dScaled o && !dCols o && sliceW d % dBlock o != 0 && decide (sliceW d < wN d)

/-- Invalid with Format (R364). -/
def swFormat (d : Nat) : Bool :=
  wResv d || !descValid (wAdesc d) || !descValid (wWdesc d) || !descValid (wOdesc d) ||
  ((wPre d == 1 || wPre d == 2) && !descValid (wPdesc d)) || (wAccCode d).isNone ||
  (wSrc d && dScaled (wAdesc d)) || blockSpans d || decide (4194304 < scratch d)

/-- Ranges of HBM the operation reads, and the one it writes: offset and bytes (R362, R364). -/
def swReads (d : Nat) : List (Nat × Nat) :=
  (if wSrc d then [] else [(wAbase d, packedBytes (wAdesc d) (wM d) (wK d))]) ++
  [(wWbase d, packedBytes (wWdesc d) (wK d) (wN d))] ++
  (match wPre d with
   | 1 => [(wPbase d, packedBytes (wPdesc d) 1 (wN d))]
   | 2 => [(wPbase d, packedBytes (wPdesc d) (wM d) (wN d))]
   | 3 => [(wPbase d, 8 * wM d * wN d)]
   | _ => [])
def swWrites (d : Nat) : List (Nat × Nat) := if wSpill d then [(wSbase d, 8 * wM d * wN d)] else []

/-- A range is aligned and lies in granules bound to tenancy `t`. -/
def Sw.swRange (s : Sw) (t : Nat) (r : Nat × Nat) : Bool :=
  r.1 % 64 == 0 && (r.2 == 0 || (decide (r.1 + r.2 ≤ s.hbmSize) && granulesAll r.1 (r.1 + r.2) (fun g => boundTo (s.rd L.tenHbm g) t)))

/-- Invalid with Denied (R364). -/
def Sw.swDenied (s : Sw) (x : SwOp) : Bool :=
  let d := x.desc
  !bit s.ident.swageMap x.array || !boundTo (s.rd L.tenSwage x.array) x.ten ||
  (swReads d ++ swWrites d).any (fun r => !s.swRange x.ten r) ||
  (!wSpill d && (fld (wOgfa d) 56 8 != x.ten || wOgfa d % 64 != 0))

/-! ### Operations -/

/-- Change an operation. -/
def Sw.updOp (s : Sw) (no : Nat) (f : SwOp → SwOp) : Sw :=
  { s with ops := s.ops.map (fun x => if x.no = no then f x else x) }

/-- The operation numbered `no`. -/
def Sw.op? (s : Sw) (no : Nat) : Option SwOp := s.ops.find? (fun x => x.no == no)

/-- The oldest operation of an array in one of some states. -/
def Sw.opIn (s : Sw) (a : Nat) (p : SwSt → Bool) : Option SwOp := s.ops.find? (fun x => x.array == a && p x.st)

/-- Operations Queued or Waiting at an array. -/
def Sw.opsQueued (s : Sw) (a : Nat) : Nat := (s.ops.filter (fun x => x.array == a && (x.st == .queued || x.st == .waiting))).length

/-- A descriptor is submitted (R360, R363): none where the array's queue is full, which is counted. -/
def Sw.opSubmit (s : Sw) (t cls d : Nat) (core : Option (Nat × Nat)) : Option Sw :=
  if 16 ≤ s.opsQueued (wArray d) then none
  else some { s with ops := s.ops ++ [{ no := s.opNo, array := wArray d, ten := t, desc := d, cls := cls, core := core }]
                     opNo := s.opNo + 1 }

/-- A tile is not written (R389): counted, with one fault for the operation. -/
def Sw.tileFails (s : Sw) (x : SwOp) : Sw :=
  let s := s.updOp x.no (fun y => { y with nfail := y.nfail + 1, ffail := min y.ffail x.tile })
  if x.nfail = 0 then s.fault 0x39 (16 + x.array) (some x.ten) (detC 0 x.tile) (auxC 0xFFFF x.array 1) else s

/-- The incarnation of an array, for its answers. -/
def Sw.arrInc (s : Sw) (a : Nat) : Nat := s.incOf (incArray a)

/-- A stream WRITE that no operation takes: counted, and answered Denied (R379). -/
def Sw.streamOrphan (s : Sw) (a : Nat) (ck : Checks) (p : Stored) : Sw :=
  ((s.freeBil p.bil).inc (L.swageOrphan.at a)).answer (a / 4) p.hdr stDenied (s.arrInc a) [] ck

/-- Runs of consecutive addresses of a byte table, as (offset, bytes). -/
def runsOf : List Host.Cell → List (Nat × Bytes)
  | [] => []
  | (a, b) :: m =>
    match runsOf m with
    | (c, bs) :: r => if a + 1 = c then (a, b :: bs) :: r else (a, [b]) :: (c, bs) :: r
    | [] => [(a, [b])]

/-- Send bytes of C, by offset within C (R382). Bytes of a line that does not become whole, because a tile that shares it is not
written, are applied at their line port where C lies in the switch's own HBM, which takes no unaligned WRITE (02 R80; DESIGN
CHOICE, log 153). -/
def Sw.sendC (s : Sw) (x : SwOp) (bs : List Host.Cell) (ck : Checks) : Sw :=
  let g := wOgfa x.desc
  (runsOf bs).foldl (fun s r =>
    let head := if r.1 % 64 = 0 ∨ fld g 40 16 ≠ s.selfEp + 1 then 0 else min r.2.length (64 - r.1 % 64)
    let o := fld g 0 40 + r.1
    let s := if 0 < head ∧ o + head ≤ s.hbmSize ∧ boundTo (s.rd L.tenHbm (o / gib)) x.ten then
        (s.writeLines o (r.2.take head) rdSwage).2
      else s
    (parts (r.2.drop head)).foldl (fun s p =>
      let n := p.2.length
      s.sendData (x.array / 4) (mkWrite s.selfEp x.cls x.array (g + r.1 + head + 4096 * p.1) n)
        (p.2 ++ zeros (pad64 n - n)) ck) s) s

/-- The operation is Done: its completion record and its digest (R384, R385, 18 R699). `nfail` and `ffail` tell of every tile that
is not written, `tend` of the last write (Table 9.3). Bytes of C whose line did not become whole leave before the record. Stream
WRITEs that waited for it find no operation (R379, R391). -/
def Sw.opDone (s : Sw) (x : SwOp) (status : Nat) (ck : Checks) (inc : Nat := s.arrInc x.array) : Sw :=
  let d := x.desc
  let k := x.array / 4
  let s := { s with ops := s.ops.filter (fun y => y.no != x.no) }
  let s := x.held.foldl (fun s p => s.streamOrphan x.array ck p) s
  let s := s.sendC x x.rest ck
  let s := s.recDigest k 4 (digTag x.ten x.array (wCtag d)) (x.out.map Prod.snd)
  let total := tilesU d * slicesV d
  let nfail := total - x.wrote
  let ffail := if nfail = 0 then 0xFFFFFFFF else if x.nfail = 0 then x.wrote else x.ffail
  let rec_ := [(320, 32, x.fchk), (256, 64, x.last.getD s.now), (192, 64, x.tstart),
    (160, 32, ffail), (128, 32, nfail), (112, 16, min x.nchk 0xFFFF), (104, 8, inc), (96, 8, status), (64, 32, wCtag d), (0, 64, x.astat)].foldl
      (fun w f => setFld w f.1 f.2.1 f.2.2) 0
  let s := if wCgfa d % 64 = 0 ∧ fld (wCgfa d) 56 8 = x.ten then
      s.sendData k (mkWrite s.selfEp x.cls x.array (wCgfa d) 64) (leBytes 64 rec_) ck
    else s
  let s := s.inc (L.swageOps.at x.array)
  match x.core with
  | none => s
  | some (c, i) => s.postJobDone c status i

/-! ### Values -/

/-- Element (i, j) of an array of `r` × `c` that lies in `mem` from `base` on in the packed layout (R362). -/
def matVal (mem : List Host.Cell) (base d r c i j : Nat) : Val :=
  let f := dFmt d
  let n := i * c + j
  let e := if f = 6 then fld (memRd mem (base + n / 2)).toNat (4 * (n % 2)) 4
    else leNat (memRds mem (base + n * (fmtBits f / 8)) (fmtBits f / 8))
  let v := decodeVal f e
  if dScaled d then v.scale (memRd mem (base + pad64 (elemBytes f (r * c)) + scaleIdx d c i j)).toNat else v

/-- Lines of elements (i, j) to (i, j + n - 1), with their scales. -/
def matLines (base d r c i j n : Nat) : List Nat :=
  if n = 0 then []
  else
    let f := dFmt d
    let lo := elemBytes f (i * c + j + 1) - (if f = 6 then 1 else fmtBits f / 8)
    let hi := elemBytes f (i * c + j + n)
    linesOf (base + lo, hi - lo) ++
    (if dScaled d then
      let a := scaleIdx d c i j
      linesOf (base + pad64 (elemBytes f (r * c)) + a, scaleIdx d c i (j + n - 1) + 1 - a)
     else [])

/-- Rows of row tile `u`. -/
def tileRows (d u : Nat) : Nat := min 256 (wM d - 256 * u)

/-- Columns of slice `v`. -/
def sliceCols (d v : Nat) : Nat := min (sliceW d) (wN d - sliceW d * v)

/-- An encoding in the accumulator format, rounded once, and whether it saturated. -/
def Cell.of (acc : Nat) (v : Val) : Cell := let r := encodeVal acc v; ⟨r.1, r.2⟩

/-- Two accumulator values added, rounding once (R358). -/
def Cell.add (acc : Nat) (a b : Cell) : Cell :=
  let r := encodeVal acc ((decodeVal acc a.enc).add (decodeVal acc b.enc))
  ⟨r.1, r.2 || a.sat || b.sat⟩

/-- The value of a cell. -/
def Cell.val (acc : Nat) (c : Cell) : Val := decodeVal acc c.enc

/-- The adder tree node of depth `n` over leaves from `lo` (R357); leaves from `lim` on are empty. -/
def colTree (acc lim : Nat) (leaf : Nat → Cell) : Nat → Nat → Option Cell
  | 0, lo => if lo < lim then some (leaf lo) else none
  | n + 1, lo =>
    if lim ≤ lo then none
    else match colTree acc lim leaf n lo, colTree acc lim leaf n (lo + 2 ^ n) with
      | some a, some b => some (a.add acc b)
      | some a, none => some a
      | none, b => b

/-- The operation sums integers exactly (R394, R395). -/
def swInt (d : Nat) : Bool := wAcc' d == 8 && unscaledInt (wAdesc d) && unscaledInt (wWdesc d)

/-- FP64 sum in ascending index, each addition rounded; exact for integers. -/
def sum64 (exact : Bool) : List Val → Val
  | [] => .fin false 0 0
  | v :: vs => vs.foldl (fun a b => if exact then a.add b else (roundTo 0 (a.add b)).1) v

/-- Element (k, j) of slice `v` of W in the stationary region, +0 beyond `n` (R366). -/
def SwOp.wVal (x : SwOp) (v kk j : Nat) : Val :=
  let d := x.desc
  if j < sliceCols d v then matVal x.wreg 0 (wWdesc d) (wK d) (wN d) kk (sliceW d * v + j) else .fin false 0 0

/-- The check column's cell in row k: the sum of the row's data columns, rounded once to the accumulator (R393). -/
def SwOp.checkCell (x : SwOp) (v kk : Nat) : Cell :=
  Cell.of (wAcc' x.desc) (sum64 (swInt x.desc) ((List.range 31).map (x.wVal v kk)))

/-- The cell (k, j) of stationary tile of slice `v`: W, or the check column (R366, R393), with whether that saturated. -/
def SwOp.stationary (x : SwOp) (v kk j : Nat) : Val × Bool :=
  if wChk x.desc ∧ j = 31 then let c := x.checkCell v kk; (c.val (wAcc' x.desc), c.sat) else (x.wVal v kk j, false)

/-- Element (i, kk) of A: from HBM, or from the staged bytes (R361, R378). -/
def Sw.aVal (s : Sw) (x : SwOp) (i kk : Nat) : Val :=
  let d := x.desc
  if wSrc d then
    let w := fmtBits (dFmt (wAdesc d)) / 8
    decodeVal (dFmt (wAdesc d)) (leNat (memRds x.stage ((i * wK d + kk) * w) w))
  else matVal s.hbm (wAbase d) (wAdesc d) (wM d) (wK d) i kk

/-- The column sum of one streaming row for cell column `j` (R355 to R358). -/
def SwOp.columnSum (x : SwOp) (row : Nat → Val) (j : Nat) : Option Cell :=
  let d := x.desc
  let acc := wAcc' d
  let v := x.tile % slicesV d
  let lo := 512 * x.pass
  colTree acc (min 512 (wK d - lo)) (fun l =>
    let w := x.stationary v (lo + l) j
    let c := Cell.of acc ((row (lo + l)).mul w.1)
    { c with sat := c.sat || w.2 }) 9 0

/-! ### Start values and frames (R368, R372) -/

/-- The start value of element (i, j) of the tile in progress, local numbers; none for no start value. -/
def Sw.startVal (s : Sw) (x : SwOp) (i j : Nat) : Option Cell :=
  let d := x.desc
  let acc := wAcc' d
  let gi := 256 * (x.tile / slicesV d) + i
  let gj := sliceW d * (x.tile % slicesV d) + j
  if sliceCols d (x.tile % slicesV d) ≤ j then none
  else match wPre d with
    | 1 => some (Cell.of acc (matVal s.hbm (wPbase d) (wPdesc d) 1 (wN d) 0 gj))
    | 2 => some (Cell.of acc (matVal s.hbm (wPbase d) (wPdesc d) (wM d) (wN d) gi gj))
    | 3 => some (Cell.of acc (decodeVal 0 (leNat (s.hbmRd (wPbase d + 8 * (gi * wN d + gj)) 8))))
    | _ => none

/-- Lines the start values of the tile are read from. -/
def startLines (x : SwOp) : List Nat :=
  let d := x.desc
  let u := x.tile / slicesV d
  let v := x.tile % slicesV d
  let n := sliceCols d v
  let rows := (List.range (tileRows d u)).map (fun i => 256 * u + i)
  (match wPre d with
   | 1 => matLines (wPbase d) (wPdesc d) 1 (wN d) 0 (sliceW d * v) n
   | 2 => rows.flatMap (fun i => matLines (wPbase d) (wPdesc d) (wM d) (wN d) i (sliceW d * v) n)
   | 3 => rows.flatMap (fun i => linesOf (wPbase d + 8 * (i * wN d + sliceW d * v), 8 * n))
   | _ => []).eraseDups

/-- Lines are read; answers whether one was uncorrectable (08 R316), or in a stack that is in reset (08 R349). -/
def Sw.readAll (s : Sw) (ls : List Nat) : Bool × Sw :=
  let s := ls.foldl (fun s l => s.touchHbm (64 * l)) s
  let gone := ls.any (fun l => s.lineReset (64 * l))
  let bad := ls.filter (fun l => s.lineBad l && !s.lineReset (64 * l))
  (gone || !bad.isEmpty, bad.foldl (fun s l => s.uncorr (64 * l) rdSwage) s)

/-- Array `a` reaches the lines: no stopped link lies between its die and theirs (01 R27, Table 1.1). -/
def Sw.linesReach (s : Sw) (a : Nat) (ls : List Nat) : Bool := ls.all (fun l => !s.pairStopped (a / 4) (s.hbmDie (64 * l)))

/-- The frame takes a tile: its start values are written (R368). -/
def Sw.tileStart (s : Sw) (no : Nat) : Sw :=
  match s.op? no with
  | none => s
  | some x =>
    let r := s.readAll (startLines x)
    let zero : Cell := ⟨0, false⟩
    let fr := (List.range (tileRows x.desc (x.tile / slicesV x.desc))).flatMap (fun i =>
      (List.range 32).map (fun j => (s.startVal x i j).getD zero))
    r.2.updOp no (fun y => { y with
      frame := fr, pass := 0, sat := fr.any Cell.sat, bad := r.1, miss := false })

/-! ### Streams (R378 to R381) -/

/-- Bytes of A before row `i`. -/
def rowOff (d i : Nat) : Nat := i * wK d * fmtBits (dFmt (wAdesc d)) / 8

/-- Bytes of row tile `u` of A: first offset and end. -/
def tileBytes (d u : Nat) : Nat × Nat := (rowOff d (256 * u), rowOff d (256 * u + tileRows d u))

/-- Every byte of the row tile in progress has arrived. -/
def SwOp.allHere (x : SwOp) : Bool :=
  let r := tileBytes x.desc (x.tile / slicesV x.desc)
  (List.range (r.2 - r.1)).all (fun i => (AMap.get? x.stage (r.1 + i)).isSome)

/-- Some byte of A has still to arrive. -/
def SwOp.missing (x : SwOp) : Bool :=
  !x.begun || decide (x.tile / slicesV x.desc + 1 < tilesU x.desc)

/-- Bytes are staged; a byte already there takes the later value, and the WRITE is counted once (R380). A word written whole is
correct again. -/
def Sw.stageIn (s : Sw) (x : SwOp) (o : Nat) (bs : Bytes) : Sw :=
  let dup := (List.range bs.length).any (fun i => (AMap.get? x.stage (o + i)).isSome)
  let s := if dup then s.inc (L.swageDup.at x.array) else s
  let lo := (tileBytes x.desc (x.tile / slicesV x.desc)).1
  s.updOp x.no (fun y => { y with
    stage := (List.range bs.length).foldl (fun m i => AMap.set m (o + i) (byteAt bs i)) y.stage
    badSt := y.badSt.filter (fun w => !decide (o ≤ lo + 32 * w ∧ lo + 32 * w + 32 ≤ o + bs.length)) })

/-- The stream timeout runs anew while bytes are missing (R381). -/
def Sw.streamTimer (s : Sw) (no : Nat) : Sw :=
  s.updOp no (fun y =>
    let due := if wSrc y.desc && y.st == .running && y.missing && y.ns != 0 then some (deadline s.now y.ns) else none
    { y with due := due })

/-- A row tile whose bytes have all arrived starts its first pass when the array reaches it. -/
def Sw.tryBegin (s : Sw) (no : Nat) : Sw :=
  s.updOp no (fun y => if y.st == .running && (!wSrc y.desc || y.allHere) then
    let z := { y with begun := true }
    if z.missing then z else { z with due := none }
  else y)

/-- A stream WRITE reaches array `a` at window offset `o` (R379). -/
def Sw.streamWrite (s : Sw) (d : Nat) (a o : Nat) (p : Stored) : Sw :=
  let h := p.hdr
  let bs := p.pay.take (validLen h)
  let orphan (s : Sw) : Sw := s.streamOrphan a .both p
  match s.opIn a (fun st => st == .loading || st == .running) with
  | none => orphan s
  | some x =>
    if !wSrc x.desc ∨ x.ten ≠ hTen h then orphan s
    else
      let hit := (List.range (tilesU x.desc)).find? (fun u =>
        let r := tileBytes x.desc u
        decide (r.1 ≤ o ∧ o + bs.length ≤ r.2 ∧ (o < r.2 ∨ bs.isEmpty)))
      match hit with
      | none => orphan s
      | some u =>
        let cur := x.tile / slicesV x.desc
        if u < cur ∨ (u = cur ∧ x.begun) then
          (((s.releaseAll p.bil).bilRetry).inc (L.swageDup.at a)).answer d h stOk (s.arrInc a) [] .both
        else if u = cur then
          let s := ((s.releaseAll p.bil).bilRetry).stageIn x o bs
          ((s.answer d h stOk (s.arrInc a) [] .both).streamTimer x.no).tryBegin x.no
        else (s.updOp x.no (fun y => { y with held := y.held ++ [p] })).streamTimer x.no

/-- Stream WRITEs that waited for the row tile now admitted are taken, in order of arrival (R379, R380). -/
def Sw.admitTile (s : Sw) (d no : Nat) : Sw :=
  match s.op? no with
  | none => s
  | some x =>
    let r := tileBytes x.desc (x.tile / slicesV x.desc)
    let off (p : Stored) : Nat := (hOff p.hdr - s.rd L.swageStreamWin) % 2 ^ 32
    let now := x.held.filter (fun p => decide (r.1 ≤ off p ∧ off p + validLen p.hdr ≤ r.2))
    let s := s.updOp no (fun y => { y with held := y.held.filter (fun p => !now.contains p) })
    now.foldl (fun s p =>
      match s.op? no with
      | none => s
      | some y =>
        ((((s.releaseAll p.bil).bilRetry).stageIn y (off p) (p.pay.take (validLen p.hdr))).answer d p.hdr stOk
          (s.arrInc x.array) [] .both)) s

/-! ### Validation and loading (R364, R386) -/

/-- Every earlier operation of the tenancy on the same Forge die is Done (R388). -/
def Sw.opClear (s : Sw) (x : SwOp) : Bool :=
  !s.ops.any (fun y => decide (y.no < x.no) && y.ten == x.ten && y.array / 4 == x.array / 4)

/-- Two ranges share a byte. -/
def rangesMeet (a b : Nat × Nat) : Bool := decide (0 < a.2 ∧ 0 < b.2 ∧ a.1 < b.1 + b.2 ∧ b.1 < a.1 + a.2)

/-- The range of C in the address space of GFAs. -/
def cRange (d : Nat) : List (Nat × Nat) := if wSpill d then [] else [(fld (wOgfa d) 0 56, packedBytes (wOdesc d) (wM d) (wN d))]

/-- HBM ranges the operation writes: the spill buffer, or C where it lies in the switch's own HBM. -/
def Sw.ownWrites (s : Sw) (d : Nat) : List (Nat × Nat) :=
  swWrites d ++ (if !wSpill d && fld (wOgfa d) 40 16 == s.selfEp + 1 then
    [(fld (wOgfa d) 0 40, packedBytes (wOdesc d) (wM d) (wN d))] else [])

/-- The shared resume and spill buffer of R374 is no conflict. -/
def Sw.readConflict (s : Sw) (a b : Nat) (self : Bool) : Bool :=
  (swReads b).any (fun r => (s.ownWrites a).any (fun w => rangesMeet r w && !(self && wPre b == 3 && wSpill b && r == w)))

/-- An operation in flight makes a use that R401 leaves undefined with operation `x`. -/
def Sw.swUndefined (s : Sw) (x : SwOp) : Bool :=
  s.readConflict x.desc x.desc true ||
  s.ops.any (fun y => decide (y.no ≠ x.no) && (y.st == .loading || y.st == .running || y.st == .draining) &&
    ((cRange x.desc).any (fun a => (cRange y.desc).any (rangesMeet a)) ||
     (swWrites x.desc).any (fun a => (s.ownWrites y.desc).any (rangesMeet a)) ||
     (swWrites y.desc).any (fun a => (s.ownWrites x.desc).any (rangesMeet a)) ||
     s.readConflict x.desc y.desc false || s.readConflict y.desc x.desc false))

/-- Lines of W that stationary tile (q, v) is made of. -/
def statLines (d : Nat) (t : Nat × Nat) : List Nat :=
  ((List.range (min 512 (wK d - 512 * t.1))).flatMap (fun kk =>
    matLines (wWbase d) (wWdesc d) (wK d) (wN d) (512 * t.1 + kk) (sliceW d * t.2) (sliceCols d t.2))).eraseDups

/-- The stationary tiles of an operation. -/
def statTiles (d : Nat) : List (Nat × Nat) := (List.range (slicesV d)).flatMap (fun v => (List.range (passesQ d)).map (fun q => (q, v)))

/-- The operation an array would validate next: at the head of its queue, with the array idle or Draining. -/
def Sw.opHead (s : Sw) (a : Nat) : Option SwOp :=
  if (s.opIn a (fun st => st == .loading || st == .running)).isSome then none
  else s.opIn a (fun st => st == .queued || st == .waiting)

/-- Validation of an operation that may leave the queue (R364, R386, R400). -/
def Sw.opValidate (s : Sw) (x : SwOp) : Sw :=
  let x := { x with tstart := s.now, ns := s.rd L.swageStreamNs, tol := s.rd L.swageChkTol }
  if swFormat x.desc then s.opDone x 2 .both
  else if s.swDenied x then s.opDone x 1 .both
  else if wM x.desc = 0 ∨ wN x.desc = 0 then s.opDone x 0 .both
  else s.updOp x.no (fun _ => { x with st := .loading, shadow := some (0, 0) })

/-! ### Output (R382 to R384) -/

/-- Bytes of C so far without a whole line, split into those whose line is whole now and the rest. -/
def wholeLines (total : Nat) (m : List Host.Cell) : List Host.Cell × List Host.Cell :=
  let whole (l : Nat) : Bool := (m.filter (fun c => c.1 / 64 == l)).length == min 64 (total - 64 * l)
  let ok := (m.map (fun c => c.1 / 64)).eraseDups.filter whole
  m.partition (fun c => ok.contains (c.1 / 64))

/-- The status word of a tile whose positions need not follow each other, and the full number of its first one (R249, R250,
R383). `fpos` shows the low 32 bits of a number of 2^32 or more (DESIGN CHOICE, log 162). -/
def astatPos (sat : Bool) (ks : List (Nat × Bool × Bool)) : Nat × Nat :=
  let hits := ks.filter (fun k => k.2.1 || k.2.2)
  match minBy Prod.fst hits with
  | none => (b2n sat * 2 ^ 61 + astatNone, 0)
  | some k => (astatWord (hits.any (fun h => h.2.1)) (hits.any (fun h => h.2.2)) sat (b2n (!k.2.1)) hits.length (k.1 % 2 ^ 32), k.1)

/-- A tile's status word is merged into its operation's: positions are compared by their full numbers (R250, R383). -/
def SwOp.addAstat (x : SwOp) (w : Nat × Nat) : SwOp :=
  let none_ (a : Nat) : Bool := !bit a 63 && !bit a 62
  let new := !none_ w.1 && (none_ x.astat || decide (w.2 < x.apos))
  let src := if new then w.1 else x.astat
  { x with astat := setFld (setFld (astatMerge x.astat w.1) 60 1 (fld src 60 1)) 0 32 (fld src 0 32)
           apos := if new then w.2 else x.apos }

/-- Bytes of C that a finished tile makes complete: elements, scales, and with the last tile the padding of R229. -/
def tileOut (x : SwOp) (w : Written) : AMap Nat × List Host.Cell :=
  let d := x.desc
  let o := wOdesc d
  let f := dFmt o
  let u := x.tile / slicesV d
  let v := x.tile % slicesV d
  let n := sliceCols d v
  let rows := tileRows d u
  let total := wM d * wN d
  let els := (List.range (rows * n)).map (fun k => ((256 * u + k / n) * wN d + sliceW d * v + k % n, w.els.getD k 0))
  let body : AMap Nat × List Host.Cell :=
    if f = 6 then
      els.foldl (fun acc e =>
        let m := AMap.set acc.1 e.1 e.2
        let lo := e.1 / 2 * 2
        match AMap.get? m lo, (if lo + 1 < total then AMap.get? m (lo + 1) else some 0) with
        | some a, some b => (AMap.del (AMap.del m lo) (lo + 1), AMap.set acc.2 (lo / 2) (BitVec.ofNat 8 (a + 16 * b)))
        | _, _ => (m, acc.2)) (x.part, [])
    else (x.part, els.foldl (fun m e => let k := fmtBits f / 8
      (List.range k).foldl (fun m i => AMap.set m (e.1 * k + i) (byteAt (leBytes k e.2) i)) m) [])
  let sbase := pad64 (elemBytes f total)
  let scs : List Host.Cell := if dScaled o then
      (List.range (rows * n)).foldl (fun m k =>
        AMap.set m (sbase + scaleIdx o (wN d) (256 * u + k / n) (sliceW d * v + k % n))
          (BitVec.ofNat 8 (w.scs.getD (scaleIdx o n (k / n) (k % n)) 0))) body.2
    else body.2
  let pads : List Host.Cell := if dScaled o ∧ x.tile + 1 = tilesU d * slicesV d then
      let e := elemBytes f total
      let c := scaleCount o (wM d) (wN d)
      ((List.range (sbase - e)).map (fun i => e + i) ++ (List.range (pad64 c - c)).map (fun i => sbase + c + i)).foldl
        (fun m i => AMap.set m i 0) scs
    else scs
  (body.1, pads)

/-- A tile drains: C is converted and sent, or the spilled values are written (R373, R382, R383). A spill whose stack is in reset,
or whose line is uncorrectable, is not written (08 R349). -/
def Sw.tileDrain (s : Sw) (x : SwOp) (ck : Checks := .both) : Sw :=
  let d := x.desc
  let acc := wAcc' d
  let u := x.tile / slicesV d
  let v := x.tile % slicesV d
  let n := sliceCols d v
  let rows := tileRows d u
  let s := if x.miss then
      let s := (s.inc (L.swageChkfail.at x.array)).updOp x.no (fun y => { y with nchk := y.nchk + 1, fchk := min y.fchk x.tile })
      if x.nchk = 0 then s.fault 0x3A (16 + x.array) (some x.ten) (detC 0 x.tile) (auxC 0xFFFF x.array 0) else s
    else s
  if x.bad then s.tileFails x
  else
    let vals := (List.range (rows * n)).map (fun k => (x.frame.getD (32 * (k / n) + k % n) ⟨0, false⟩).val acc)
    let pos (k : Nat) : Nat := (256 * u + k / n) * wN d + sliceW d * v + k % n
    let kinds (ks : List (Bool × Bool)) : List (Nat × Bool × Bool) := (List.range ks.length).map (fun k => (pos k, ks.getD k (false, false)))
    if wSpill d then
      let es := vals.map (fun a => (encodeVal 0 a).1)
      let r := (List.range rows).foldl (fun (r : Bool × Sw) i =>
        let w := r.2.writeLines (wSbase d + 8 * pos (i * n)) (((es.drop (i * n)).take n).flatMap (leBytes 8)) rdSwage
        (r.1 && w.1, w.2)) (true, s)
      let s := r.2
      let st := astatPos x.sat (kinds ((es.zip vals).map (fun q => posKind 0 false q.1 q.2)))
      if !r.1 then s.tileFails x
      else s.updOp x.no (fun y => { (y.addAstat st) with
        wrote := y.wrote + 1
        last := some s.now
        out := (List.range es.length).foldl (fun m k => (List.range 8).foldl (fun m i =>
          AMap.set m (8 * pos k + i) (byteAt (leBytes 8 (es.getD k 0)) i)) m) y.out })
    else
      let w := encodeArray (wOdesc d) rows n vals
      let o := tileOut x w
      let l := wholeLines (packedBytes (wOdesc d) (wM d) (wN d)) (o.2.foldl (fun m c => AMap.set m c.1 c.2) x.rest)
      let s := s.sendC x l.1 ck
      let st := astatPos (x.sat || w.sat)
        (kinds (((w.els.zip vals).zip w.nanBlock).map (fun q => posKind (dFmt (wOdesc d)) q.2 q.1.1 q.1.2)))
      s.updOp x.no (fun y => { (y.addAstat st) with
        wrote := y.wrote + 1
        last := some s.now
        part := o.1
        rest := l.2
        out := o.2.foldl (fun m c => AMap.set m c.1 c.2) y.out })

/-! ### Passes (R355 to R369, R393 to R396) -/

/-- A test of R395 fails; one that involves NaN, an infinity or a saturated value is skipped. -/
def testFails (tol : Nat) (exact : Bool) (x y a : Val) : Bool :=
  match x, y, a with
  | .fin _ _ _, .fin _ _ _, .fin _ _ _ =>
    let diff := (x.add y.neg).abs
    if exact then !diff.isZero
    else
      let lim := match a.add x.abs with | .fin n m e => Val.fin n m (e - tol) | v => v
      diff.cmp lim == .gt && !(diff.isZero && lim.isZero)
  | _, _, _ => false

/-- Column sums of the tile rows of a pass, row by row. -/
def Sw.passSums (s : Sw) (x : SwOp) : List (List (Option Cell)) :=
  let u := x.tile / slicesV x.desc
  (List.range (tileRows x.desc u)).map (fun i => (List.range 32).map (fun j => x.columnSum (s.aVal x (256 * u + i)) j))

/-- The tests of checked mode on one pass (R394, R395): true where one fails. -/
def Sw.checkPass (s : Sw) (x : SwOp) (sums : List (List (Option Cell))) : Bool :=
  let d := x.desc
  let acc := wAcc' d
  let u := x.tile / slicesV d
  let ex := swInt d
  let val (c : Option Cell) : Val := match c with | some c => if c.sat then .nan else c.val acc | none => .fin false 0 0
  let chkRow (kk : Nat) : Val :=
    let vs := (List.range (tileRows d u)).map (fun i => s.aVal x (256 * u + i) kk)
    if unscaledInt (wAdesc d) then sum64 true vs else (roundTo 1 (sum64 false vs)).1
  let test (xv : Val) (cs : List Val) : Bool := testFails x.tol ex xv (sum64 ex cs) (sum64 ex (cs.map Val.abs))
  sums.any (fun r => test (val (r.getD 31 none)) ((r.take 31).map val)) ||
  (List.range 32).any (fun j => test (val (x.columnSum chkRow j)) (sums.map (fun r => val (r.getD j none))))

/-- Lines of A that a pass reads. -/
def passLines (x : SwOp) : List Nat :=
  let d := x.desc
  if wSrc d then []
  else
    let u := x.tile / slicesV d
    let lo := 512 * x.pass
    ((List.range (tileRows d u)).flatMap (fun i =>
      matLines (wAbase d) (wAdesc d) (wM d) (wK d) (256 * u + i) lo (min 512 (wK d - lo)))).eraseDups

/-- The pass in progress uses a staged word that is uncorrectable (R389). -/
def SwOp.badStaged (x : SwOp) : Bool :=
  let d := x.desc
  let w := fmtBits (dFmt (wAdesc d)) / 8
  wSrc d && x.badSt.any (fun n => (List.range 32).any (fun i => (32 * n + i) / w % wK d / 512 == x.pass))

/-- One pass reaches the frame (R368 to R370). -/
def Sw.passAdd (s : Sw) (x : SwOp) : Sw :=
  let d := x.desc
  let acc := wAcc' d
  let r := s.readAll (passLines x)
  let s := r.2
  let sums := s.passSums x
  let first := x.pass = 0 ∧ wPre d = 0
  let n := sliceCols d (x.tile % slicesV d)
  let fr := (List.range x.frame.length).map (fun k =>
    let old := x.frame.getD k ⟨0, false⟩
    match (sums.getD (k / 32) []).getD (k % 32) none with
    | none => old
    | some c => if first then c else old.add acc c)
  let sat := (List.range fr.length).any (fun k => decide (k % 32 < n) && (fr.getD k ⟨0, false⟩).sat)
  s.updOp x.no (fun y => { y with
    frame := fr, sat := y.sat || sat, bad := y.bad || r.1 || y.badAct || y.badStaged, miss := y.miss || (wChk d && s.checkPass x sums), pass := y.pass + 1 })

/-- The stationary tile a pass uses. -/
def SwOp.needs (x : SwOp) : Nat × Nat := (x.pass, x.tile % slicesV x.desc)

/-- The stationary tile that follows a pass which uses another one, if any. -/
def SwOp.following (x : SwOp) : Option (Nat × Nat) :=
  let d := x.desc
  let q := passesQ d
  let v := slicesV d
  if q * v ≤ 1 then none
  else if x.pass + 1 < q then some (x.pass + 1, x.tile % v)
  else if x.tile + 1 < tilesU d * v then some (0, (x.tile + 1) % v)
  else none

/-- Between two passes the sets are exchanged where the next pass uses another stationary tile; the exchange waits for
the shadow load (R356, R367). -/
def SwOp.turn (x : SwOp) : SwOp :=
  if x.active = some x.needs then { x with swap := false }
  else if x.loaded && x.shadow == some x.needs then
    let y := { x with active := some x.needs, swap := false, loaded := false, shadow := none, badAct := x.badSh, badSh := false }
    { y with shadow := if y.following = y.active then none else y.following }
  else { x with swap := true }

/-- The next tile, in the other frame, or the end of the operation (R367, R368, R386). -/
def Sw.tileNext (s : Sw) (no : Nat) : Sw :=
  match s.op? no with
  | none => s
  | some x =>
    let d := x.desc
    if x.tile + 1 < tilesU d * slicesV d then
      let fresh := decide ((x.tile + 1) / slicesV d ≠ x.tile / slicesV d)
      let s := s.updOp no (fun y => { y with
        tile := y.tile + 1, pass := 0, fr := 1 - y.fr, wait := false, begun := y.begun && !fresh
        stage := if fresh then [] else y.stage, badSt := if fresh then [] else y.badSt })
      let s := s.tileStart no
      let s := if fresh && wSrc d then (s.admitTile (x.array / 4) no).tryBegin no
        else if fresh then s.tryBegin no else s
      s.updOp no (fun y => if passesQ d = 0 then y else y.turn)
    else s.updOp no (fun y => { y with st := .draining, wait := false, due := none })

/-- The tile in progress is complete (R368, R386, R387): one that is not the last drains and the next begins; the last stays in its
frame while it drains. Either waits while the array's previous operation drains, which holds the other frame (DEDUCED, log 154). -/
def Sw.tileEnd (s : Sw) (x : SwOp) : Sw :=
  let s := if x.tile + 1 < tilesU x.desc * slicesV x.desc then s.tileDrain x else s
  if (s.opIn x.array (fun st => st == .draining)).isSome then s.updOp x.no (fun y => { y with wait := true }) else s.tileNext x.no

/-- Tiles of an operation without a pass are complete as they begin (R369, R400). -/
def Sw.noPasses : Nat → Sw → Nat → Sw
  | 0, s, _ => s
  | n + 1, s, no =>
    match s.op? no with
    | none => s
    | some x => if x.st ≠ .running ∨ x.wait then s else Sw.noPasses n (s.tileEnd x) no

/-- An operation goes on with its next tile; one without a pass completes them all. -/
def Sw.opGoOn (s : Sw) (x : SwOp) : Sw :=
  if passesQ x.desc = 0 then Sw.noPasses (tilesU x.desc * slicesV x.desc) s x.no else s

/-- Bytes of W as the stationary region holds them. -/
def Sw.wRegion (s : Sw) (d : Nat) : List Host.Cell :=
  let b := wWbase d
  let n := packedBytes (wWdesc d) (wK d) (wN d)
  (s.hbm.filter (fun c => decide (b ≤ c.1 ∧ c.1 < b + n))).map (fun c => (c.1 - b, c.2))

/-- The stationary region and the first shadow set are loaded: Running, with the first exchange (R356, R386). The first tile takes
the frame that a draining one does not hold (R387). -/
def Sw.opLoaded (s : Sw) (x : SwOp) : Sw :=
  let d := x.desc
  let r := (statTiles d).foldl (fun (acc : List (Nat × Nat) × Sw) t =>
    let q := acc.2.readAll (statLines d t)
    (if q.1 then acc.1 ++ [t] else acc.1, q.2)) (x.badW, s)
  let fr := match s.opIn x.array (fun st => st == .draining) with | some y => 1 - y.fr | none => 0
  let s := r.2.updOp x.no (fun y =>
    let z := { y with st := .running, badW := r.1, badSh := r.1.contains (0, 0), wreg := s.wRegion d, loaded := true, fr := fr }
    if passesQ d = 0 then z else z.turn)
  (((s.tileStart x.no).streamTimer x.no).tryBegin x.no).opGoOn x

/-- Lines that the load of an operation reads, its first start values among them. -/
def loadLines (x : SwOp) : List Nat := (statTiles x.desc).flatMap (statLines x.desc) ++ startLines { x with tile := 0 }

/-- A pass of a running operation is complete (R377). It has no effect where no pass is under way: a swap waits, rows of
A are missing, or the tile is complete and waits for its frame. Nor does it where it would read over a stopped link (01 R27). -/
def Sw.passComplete (s : Sw) (a : Nat) : Sw :=
  match s.opIn a (fun st => st == .running) with
  | none => s
  | some x =>
    let last := decide (passesQ x.desc ≤ x.pass + 1)
    let more := last && decide (x.tile + 1 < tilesU x.desc * slicesV x.desc)
    if x.swap ∨ x.wait ∨ !x.begun ∨ !s.linesReach a (passLines x ++ (if more then startLines { x with tile := x.tile + 1 } else [])) then s
    else
      let s := s.passAdd x
      if last then
        match s.op? x.no with
        | none => s
        | some y => s.tileEnd y
      else s.updOp x.no SwOp.turn

/-- A background shadow load completes; a waiting swap takes place (R356). -/
def Sw.shadowLoaded (s : Sw) (a : Nat) : Sw :=
  match s.opIn a (fun st => st == .running) with
  | none => s
  | some x =>
    if x.shadow.isNone then s
    else s.updOp x.no (fun y =>
      let z := { y with loaded := true, badSh := y.badSh || (y.shadow.map y.badW.contains).getD false }
      if z.swap then z.turn else z)

/-- Final status of a drained operation (R385): Check-Fail only where every tile was written. -/
def SwOp.status (x : SwOp) : Nat := if 0 < x.nfail then 3 else if 0 < x.nchk then 6 else 0

/-- The last tile drains: its writes are applied or sent. -/
def Sw.lastDrain (s : Sw) (x : SwOp) (ck : Checks) : Sw × SwOp :=
  let s := s.tileDrain x ck
  (s, (s.op? x.no).getD x)

/-- The last write was applied or sent (R384). The array's next operation, where it waited for the frame, goes on (R368, R387).
A spill over a stopped link is not applied (01 R27). -/
def Sw.opDrained (s : Sw) (a : Nat) : Sw :=
  match s.opIn a (fun st => st == .draining) with
  | none => s
  | some x =>
    if !s.linesReach a (if wSpill x.desc then linesOf (wSbase x.desc, 8 * wM x.desc * wN x.desc) else []) then s
    else
      let r := s.lastDrain x .both
      let s := r.1.opDone r.2 r.2.status .both
      match s.opIn a (fun st => st == .running) with
      | some y => if y.wait then (s.tileNext y.no).opGoOn y else s
      | none => s

/-- The stream timeout (R381). -/
def Sw.opTimeout (s : Sw) (x : SwOp) : Sw :=
  let s := s.fault 0x38 (16 + x.array) (some x.ten) (detC 0 (x.tile / slicesV x.desc)) (auxC 0xFFFF x.array 0)
  s.opDone x 7 .both

/-- What ends an operation early leaves of its status: the highest code that applies (R385). A tile that was never written rules
Check-Fail out: of those that end early only a Draining operation has written every tile. -/
def SwOp.endStatus (x : SwOp) (k : Nat) : Nat := if x.st = .draining then max k x.status else k

/-- The start of validation an operation reports: the time of its end where it is still queued (DESIGN CHOICE, log 161). -/
def Sw.opEnd (s : Sw) (x : SwOp) (k : Nat) (ck : Checks) (inc : Nat := s.arrInc x.array) : Sw :=
  let q := x.st == .queued || x.st == .waiting
  s.opDone { x with tstart := if q then s.now else x.tstart } (x.endStatus k) ck inc

/-- A quench ends a tenancy's operations; a tile that drains is written first (R391). -/
def Sw.swageQuench (s : Sw) (t : Nat) : Sw :=
  (s.ops.filter (fun x => x.ten == t)).foldl (fun s x =>
    let r := if x.st = .draining then s.lastDrain x .ending else (s, x)
    r.1.opEnd r.2 4 .ending) s

/-- A reset of an array ends its operations (R392). -/
def Sw.swageReset (s : Sw) (a : Nat) : Sw := (s.ops.filter (fun x => x.array == a)).foldl (fun s x => s.opEnd x 5 .both) s

/-- `swage.state` of an array (Table 9.9). That of an array disabled by fuse reads 0, as every entry of it does (R397); `absent` shows
nowhere then (DEDUCED, log 29). -/
def Sw.swageWord (s : Sw) (a : Nat) : Nat :=
  s.opsQueued a * 2 ^ 24 + s.arrInc a * 65536 + b2n (s.opIn a (fun st => st == .draining)).isSome * 4 +
  b2n (s.opIn a (fun st => st == .running)).isSome * 2 + b2n (s.opIn a (fun st => st == .loading)).isSome

end Sys2Proof.Machine
end

