-- ==== Sys2Proof/Machine/TenOps.lean ====
section
/-! DEFINITION. Tenancies (14): ending work, quench, its clear, activation, re-bind, block resets, and which dies a
tenancy uses (17 R771). -/

namespace Sys2Proof.Machine

/-- A clause core stops (10 R446, 14 R572). -/
def Sw.haltCore (s : Sw) (j : Nat) : Sw := s.setCore j { (s.core j) with running := false, halted := true, wait := .run }

/-- Units of a binding entry bound to tenancy `t`. -/
def Sw.boundUnits (s : Sw) (r : Reg) (t : Nat) : List Nat := ((s.elems r).filter (fun e => boundTo e.2 t)).map Prod.fst

/-- The part ends all of a tenancy's work at once (R572, 18 R701). -/
def Sw.endWork (s : Sw) (t : Nat) : Sw :=
  let s := (((s.collQuench t).agrQuench t).swageQuench t).hearthQuench t
  ((s.boundUnits L.tenCore t).foldl Sw.haltCore s).recQuench t

/-- The instants at which admission closes at the dies where it is open: each its own, 0.5 to 2 µs after the decision (R565, Table
14.6); when is a free value (log 17). -/
def Sw.closings (s : Sw) (ds : List Nat) : List (Nat × Nat) × Sw :=
  ds.foldl (fun (a : List (Nat × Nat) × Sw) d => let r := a.2.draw; (a.1 ++ [(d, deadline s.now (500 + r.1 % 1501))], r.2)) ([], s)

/-- When admission is closed at every die: step 1 has ended. -/
def TenSt.closedAt (x : TenSt) (now : Nat) : Nat := (x.closing.map Prod.snd).foldl max now

/-- An Active tenancy enters Quenching: admission closes at each die at its own instant, and its work ends (R565, R570, R572). -/
def Sw.quench (s : Sw) (t cause : Nat) (stopped : Bool) : Sw :=
  let x := s.tenSt t
  let r := s.closings x.open_
  let x := { x with closing := r.1 }
  (r.2.setTen t { x with st := .quenching, open_ := [], cause := cause, stopped := x.stopped || stopped, since := s.now
                         drainAt := some (deadline (x.closedAt s.now) (s.rd L.tenDrainNs)), drained := false }).endWork t

/-- Guard marking comes into force at a die, its markers full, or leaves it (05 R205, R208). -/
def Sw.setMode (s : Sw) (d v : Nat) : Sw :=
  let old := s.rd (L.belMode.at d)
  let s := s.wr (L.belMode.at d) 0 v
  if v ≠ 1 ∧ old = 1 then
    let mark (m : AMap Level) : AMap Level := m.map (fun (kv : Nat × Level) => if kv.1 / 1024 = d then (kv.1, { kv.2 with upto := s.now }) else kv)
    { s with bel := { s.bel with mTc := mark s.bel.mTc, mTe := mark s.bel.mTe } }
  else if v = 1 ∧ old ≠ 1 then
    let live := s.bel.mTc.filter (fun kv => kv.1 / 1024 == d)
    let s := { s with bel := { s.bel with
      mTc := live.foldl (fun (m : AMap Level) (kv : Nat × Level) => AMap.set m kv.1 (s.meterUp kv.1).1) s.bel.mTc
      mTe := live.foldl (fun (m : AMap Level) (kv : Nat × Level) => AMap.set m kv.1 (s.meterUp kv.1).2) s.bel.mTe } }
    { s with bel := { s.bel with gTc := s.bel.gTc.filter (fun kv => laneDie kv.1 != d)
                                 gTp := s.bel.gTp.filter (fun kv => laneDie kv.1 != d) } }
  else s

/-- Forge dies that host a PHY half of stack `n` (Table 1.1): Hn for n below 4 lies at Fn; H4 at F0 and F1, H5 at F2 and F3. -/
def stackDies (n : Nat) : List Nat := if n < 4 then [n] else [2 * (n - 4), 2 * (n - 4) + 1]

/-- A tenancy uses Forge die `k` (17 R771). -/
def Sw.usesDie (s : Sw) (t k : Nat) : Bool :=
  !(s.boundUnits L.tenCxl t).isEmpty ||
  (s.boundUnits L.tenPort t).any (fun p => laneDie p == k) ||
  fld (s.rd (L.tenCtx.at k) t) 16 11 != 0 ||
  (s.boundUnits L.tenSwage t).any (fun a => a / 4 == k) ||
  (s.boundUnits L.tenCore t).any (fun c => c / 16 == k) ||
  (s.boundUnits L.tenHbm t).any (fun g => s.hbmDie (g * gib) == k) ||
  (s.boundUnits L.tenHearth t).any (fun u => (stackDies (u / 16)).contains k)

/-! ### The drain (R573) -/

/-- A packet of the tenancy, one that the resequencer does not hold. -/
def drains (t : Nat) (p : DPkt) : Bool := hTen p.hdr == t && p.mir.isNone && p.stage != .held

/-- A packet of the tenancy waits in its billets at the service ID. -/
def waitsAt (t : Nat) (p : Stored) : Bool := hTen p.hdr == t && !p.bil.isEmpty

/-- No packet of the tenancy is held in billets, apart from those of the resequencer. -/
def Sw.drainDone (s : Sw) (t : Nat) : Bool := !s.fab.pkts.any (drains t) && !s.fab.svcIn.any (waitsAt t)

/-- A packet that is leaving completes with filler and the poison marker, and so do its copies (03 R125, R141). -/
def Sw.poison (s : Sw) (p : DPkt) : Sw :=
  let s := match p.out with
    | .port q =>
      let pay := slice p.reached 0 (64 * hPlen p.hdr)
      ((s.putData q p.hdr pay false).inc (L.fabRxPoisonMade.at p.egDie)).poisonCopies p.id
    | _ => s
  match s.flow (hFlow p.hdr) with
  | some f => if f.current = some p.id then s.setFlow (hFlow p.hdr) { f with current := none } else s
  | none => s

/-- The die that counts a packet discarded at the drain limit: the egress die once cells of it have left the ingress die. -/
def dropDie (p : DPkt) : Nat := if 0 < p.moved + p.crossed then p.egDie.val else p.inDie.val

/-- The packets of a tenancy that wait at the service ID are gone, and their billets return. -/
def Sw.dropSvc (s : Sw) (t : Nat) : Sw :=
  let hs := (s.fab.svcIn.filter (waitsAt t)).flatMap Stored.bil
  ({ s with fab := { s.fab with svcIn := s.fab.svcIn.filter (fun p => hTen p.hdr != t) } }.releaseAll hs).bilRetry

/-- At the drain limit every held packet is discarded, those leaving poisoned (R573). -/
def Sw.drainDrop (s : Sw) (t : Nat) : Sw :=
  let s := ((s.fab.svcIn.filter (waitsAt t)).foldl (fun s p => s.inc (L.tenQdrop.at (handleDie (p.bil.headD 0)))) s).dropSvc t
  (s.fab.pkts.filter (drains t)).foldl (fun s p =>
    let s := if p.stage = .leaving then s.poison p else s
    (s.freePkt p).inc (L.tenQdrop.at (dropDie p))) s

/-! ### The clear (Table 14.5) -/

/-- Resequencer, held SIGNALs, what waits at the service ID, and mirror copies (the first rows of Table 14.5). -/
def Sw.clearFabric (s : Sw) (t : Nat) : Sw :=
  let gone := s.fab.pkts.filter (fun p => hTen p.hdr == t && p.mir.isNone && p.stage == .held)
  let s := gone.foldl (fun s p => s.freePkt p) s
  let s := ({ s with fab := { s.fab with flows := s.fab.flows.filter (fun kv => kv.2.ten != t) } }.dropHeld t).dropSvc t
  let cop := s.fab.pkts.filter (fun p => hTen p.hdr == t && p.mir.isSome && p.stage != .leaving)
  cop.foldl (fun s p => s.freePkt p) s

/-- Granted billets, and the requests that wait. -/
def Sw.clearBillets (s : Sw) (t : Nat) : Sw :=
  let s := { s with bil := { s.bil with waits := s.bil.waits.filter (fun r => r.ten.map BitVec.toNat != some t) } }
  (s.releaseAll ((s.bil.granted.filter (fun g => g.2.ten.map BitVec.toNat == some t)).map Prod.fst)).bilRetry

/-- Bellows: the buckets of the tenancy, and the queues and meters that only Quenched tenancies use. -/
def Sw.clearBellows (s : Sw) (t : Nat) : Sw :=
  let live (u : Nat) : Bool := (s.tenSt u).st != .quenched && u != t
  let users (d n : Nat) : Bool := (List.range 256).any (fun u => live u && s.rd (L.belTq.at d) u % 8 == n)
  let portUsed (p : Nat) : Bool :=
    if s.role p = 1 then s.rdf L.tenPort p 31 1 == 1 && live (s.rdf L.tenPort p 0 8) else (List.range 256).any live
  let meterUsed (d m : Nat) : Bool :=
    (s.elems (L.belPolTen.at d)).any (fun e => e.2 == m && live (e.1 / 8)) ||
    (s.elems (L.belPolPort.at d)).any (fun e => e.2 == m && portUsed (128 * d + e.1 / 8))
  { s with bel := { s.bel with
    tcom := s.bel.tcom.filter (fun kv => kv.1 % 256 != t)
    tpk := s.bel.tpk.filter (fun kv => kv.1 % 256 != t)
    qcr := s.bel.qcr.filter (fun kv => users (kv.1 / 7168) (kv.1 % 7168 % 8))
    defi := s.bel.defi.filter (fun kv => users (kv.1 / 7168) (kv.1 % 7168 % 8))
    mTc := s.bel.mTc.filter (fun kv => meterUsed (kv.1 / 1024) (kv.1 % 1024))
    mTe := s.bel.mTe.filter (fun kv => meterUsed (kv.1 / 1024) (kv.1 % 1024))
    gTc := s.bel.gTc.filter (fun kv => portUsed kv.1)
    gTp := s.bel.gTp.filter (fun kv => portUsed kv.1) } }

/-- Hearth recipe slots, and clause cores with the events that wait for them. -/
def Sw.clearCores (s : Sw) (t : Nat) : Sw :=
  let wiped (k : Nat) : Bool := (List.range 6).any (fun n =>
    let lo := (L.hearthRecipe.at n).key 0
    decide (lo ≤ k ∧ k < lo + 16384) && s.rd (L.hearthRecipeTen.at n) ((k - lo) / 64) == t)
  let s := { s with lex := s.lex.filter (fun kv => !wiped kv.1) }
  let s := (s.boundUnits L.tenCore t).foldl (fun s j => s.setCore j { (s.core j) with mem := [], evq := [] }) s
  { s with anv := { s.anv with late := s.anv.late.filter (fun e => !boundTo (s.rd L.tenCore e.1) t) } }

/-- The step-4 clear of a tenancy (R574). -/
def Sw.tenClear (s : Sw) (t : Nat) : Sw :=
  ((((s.clearFabric t).collClear t).clearBillets t).clearBellows t).clearCores t

/-- The clear is done: the tenancy is Quenched (Table 14.4); `ten.qtime` takes the timebase (log 18). -/
def Sw.quenched (s : Sw) (t : Nat) : Sw :=
  (s.setTen t { (s.tenSt t) with st := .quenched, drainAt := none, drained := false, closing := [] }).wr L.tenQtime t s.now

/-! ### Activation (Table 14.4) and re-bind (R577) -/

/-- Two context ranges of a die share a context; one of `count` 0 has none (R590). -/
def ctxMeet (a b : Nat) : Bool :=
  let fa := fld a 0 10
  let fb := fld b 0 10
  decide (0 < fld a 16 11 ∧ 0 < fld b 16 11 ∧ fa < fb + fld b 16 11 ∧ fb < fa + fld a 16 11)

/-- The context ranges of `t` overlap none of an Active tenancy. -/
def Sw.ctxFree (s : Sw) (t : Nat) : Bool :=
  (List.range 4).all (fun d => (s.elems (L.tenCtx.at d)).all (fun e =>
    e.1 == t || (s.tenSt e.1).st != .active || !ctxMeet (s.rd (L.tenCtx.at d) t) e.2))

/-- Activate of a Quenched tenancy; none where it is refused. -/
def Sw.activate (s : Sw) (t : Nat) : Option Sw :=
  let x := s.tenSt t
  if x.st ≠ .quenched ∨ x.stopped ∨ !s.ctxFree t then none
  else
    let s := s.setTen t { x with st := .active, rbfail := false, open_ := [0, 1, 2, 3], closing := [] }
    let gs := ((s.elems L.collGroup).filter (fun e => gTen e.2 == t)).map Prod.fst
    let mine (k : Nat) : Bool :=
      (s.epKind (k / 2048 % 65536) == 1 && s.epTen (k / 2048 % 65536) == t) || s.fab.oten.getD k 256 == t
    let s := gs.foldl (fun s g => s.wr L.collClosed g 0) s
    some { s with
      fab := { s.fab with
        flows := s.fab.flows.filter (fun kv => kv.2.ten != t)
        oseq := s.fab.oseq.filter (fun kv => !mine kv.1)
        oten := s.fab.oten.filter (fun kv => !mine kv.1) }
      bel := { s.bel with tcom := s.bel.tcom.filter (fun kv => kv.1 % 256 != t), tpk := s.bel.tpk.filter (fun kv => kv.1 % 256 != t) }
      anv := { s.anv with closed := s.anv.closed.filter (fun g => !gs.contains g) } }

/-- Installed memory: a CXL granule of a Ready port below its capacity (R561). -/
def Sw.cxlInstalled (s : Sw) (el : Nat) : Bool :=
  let b := s.bport (el / 4096)
  b.st == .ready && decide ((el % 4096 + 1) * gib ≤ b.cap)

/-- A binding word that a re-bind moves (R577 step 2). -/
def moves (w o n : Nat) : Bool :=
  bit w 30 && (!bit w 31 || fld w 0 8 == o) && (!bit w 29 || fld w 16 8 == n)

/-- The word after the move. -/
def movedWord (w : Nat) : Nat := setFld (setFld (setFld w 31 1 (fld w 29 1)) 0 8 (fld w 16 8)) 30 1 0

/-- The binding of a granule changes, so that it is cleared (R579). -/
def clears (a b : Nat) : Bool := bit a 31 && (!bit b 31 || fld a 0 8 != fld b 0 8)
/-- The binding changes in any way, so that a clear in progress restarts (R579). -/
def rebinds (a b : Nat) : Bool := bit a 31 != bit b 31 || (bit a 31 && fld a 0 8 != fld b 0 8)

/-- A write of a binding word with what it entails: a cleared granule (R579), full queue levels at a port (R578). -/
def Sw.setBinding (s : Sw) (r : Reg) (el v : Nat) (moved : Bool) : Sw :=
  let old := s.rd r el
  let s := s.wr r el v
  let due (k : Nat) : Bool := clears old v || (rebinds old v && (s.clr.get? k).isSome)
  let s := if r = L.tenHbm ∧ due el then s.clearHbm el
    else if r = L.tenCxl ∧ due (1024 + el) then s.clearCxl (el / 4096) (el % 4096)
    else s
  if r = L.tenPort ∧ (moved ∨ (bit v 31 ∧ (!bit old 31 ∨ fld v 0 8 ≠ fld old 0 8))) then
    { s with bel := { s.bel with qcr := s.bel.qcr.filter (fun kv => !(kv.1 / 7168 == laneDie el && kv.1 % 7168 / 56 == el % 128)) } }
  else s

/-- The six binding entries (R560). -/
def bindingRegs : List Reg := [L.tenPort, L.tenSwage, L.tenHearth, L.tenCore, L.tenHbm, L.tenCxl]

/-- Step 2 of R577: every word that moves. -/
def Sw.moveBindings (s : Sw) (o n : Nat) : Sw :=
  bindingRegs.foldl (fun s r =>
    ((s.elems r).filter (fun e => moves e.2 o n)).foldl (fun s e => s.setBinding r e.1 (movedWord e.2) true) s) s

/-- Steps 2 and 3 of R577 for the running re-bind, once the old tenancy is Quenched. -/
def Sw.rebindApply (s : Sw) : Sw :=
  match s.rebind with
  | none => s
  | some r =>
    if (s.tenSt r.old).st ≠ .quenched then s
    else
      let s := { (s.moveBindings r.old r.new) with rebind := none }
      if r.act then
        match s.activate r.new with
        | some s' => s'
        | none => s.setTen r.new { (s.tenSt r.new) with rbfail := true }
      else s

end Sys2Proof.Machine
end

