-- ==== Sys2Proof/Machine/PowerOps.lean ====
section
/-! DEFINITION. Engine parking and budget lending (16 R642 to R644, R653), as other chapters' commands meet them. -/

namespace Sys2Proof.Machine

/-- Change the power manager's state. -/
def Sw.updPwr (s : Sw) (f : Pwr → Pwr) : Sw := { s with pwr := f s.pwr }

/-- The idle condition of Table 16.4. A core that runs no program is halted; an engine has a step to do while a running
recipe job of its tenancy and stack has steps left (DEDUCED, log 30). -/
def Sw.unitIdle (s : Sw) : ParkUnit → Bool
  | .anvil d => !s.anv.ctx.any (fun kv => kv.1 / 1024 == d.val &&
      [kv.2.slot0, kv.2.slot1].any (fun y => y.st == .gathering || y.st == .draining))
  | .swage a => !s.ops.any (fun x => x.array == a.val)
  | .core c => let x := s.core c; !x.running || x.halted || (x.wait != .run && x.evq.isEmpty)
  | .hearth u => !s.jobs.any (fun j => j.st == .running && j.stack == u.val / 16 && boundTo (s.rd L.tenHearth u.val) j.ten &&
      fld j.desc 40 2 == 0 && decide (64 * j.done.length < fld j.desc 0 29))

/-- The unit is neither parked nor waking. -/
def Sw.unitAwake (s : Sw) (u : ParkUnit) : Bool := !s.pwr.parked.contains u && !s.pwr.waking.contains u

/-- The unit's array or stack is present (00 R6, R7). -/
def Sw.unitPresent (s : Sw) : ParkUnit → Bool
  | .swage a => bit s.ident.swageMap a.val
  | .hearth u => bit s.ident.hbmMap (u.val / 16)
  | _ => true

/-- An idle unit may park; an absent one does not. -/
def Sw.mayPark (s : Sw) (u : ParkUnit) : Bool := s.unitPresent u && s.unitIdle u && s.unitAwake u

/-- An idle unit parks. -/
def Sw.parkUnit (s : Sw) (u : ParkUnit) : Sw :=
  if s.mayPark u then s.updPwr (fun p => { p with parked := p.parked ++ [u] }) else s

/-- The number of a unit among those of Table 16.4. -/
def unitNo : ParkUnit → Nat
  | .anvil d => d
  | .swage a => 4 + a
  | .core c => 20 + c
  | .hearth u => 84 + u

/-- The units that are not idle. -/
def Sw.busyUnits (s : Sw) : List ParkUnit :=
  (((if s.anv.ctx.isEmpty then [] else (List.range 4).map (fun d => ParkUnit.anvil (Fin.ofNat 4 d))) ++
    (if s.ops.isEmpty then [] else (List.range 16).map (fun a => ParkUnit.swage (Fin.ofNat 16 a))) ++
    (s.cores.map (fun kv => ParkUnit.core (Fin.ofNat 64 kv.1))) ++
    (if s.jobs.isEmpty then [] else (List.range 96).map (fun u => ParkUnit.hearth (Fin.ofNat 96 u))))).filter (fun u => !s.unitIdle u)

/-- A unit that has become idle begins an idle period, under the `pwr.park.idle_ns` of now (R642, R658). -/
def Sw.idleMark (s : Sw) : Sw :=
  let b := s.busyUnits
  if b = s.pwr.busy then s
  else
    let t := (s.now, s.rd L.pwrParkIdleNs)
    s.updPwr (fun p => { p with
      busy := b, idleAt := (p.busy.filter (fun u => !b.contains u)).foldl (fun m u => AMap.set m (unitNo u) t) p.idleAt })

/-- The first request that reaches a parked unit starts its wake (R642); in Parked nothing wakes. -/
def Sw.wakeAsked (s : Sw) : Sw :=
  if s.pwr.parked.isEmpty ∨ s.pwr.state ≠ .active then s
  else
    let w := s.pwr.parked.filter (fun u => !s.unitIdle u)
    if w.isEmpty then s
    else s.updPwr (fun p => { p with parked := p.parked.filter (fun u => !w.contains u), waking := p.waking ++ w })

/-- The units of Table 16.4. -/
def allUnits : List ParkUnit :=
  (List.range 4).map (fun d => .anvil (Fin.ofNat 4 d)) ++ (List.range 16).map (fun a => ParkUnit.swage (Fin.ofNat 16 a)) ++
  (List.range 64).map (fun c => ParkUnit.core (Fin.ofNat 64 c)) ++ (List.range 96).map (fun u => ParkUnit.hearth (Fin.ofNat 96 u))

/-- The unit is bound to tenancy `t` (14 Table 14.2); Anvil engines are bound to none. -/
def Sw.unitOf (s : Sw) (t : Nat) : ParkUnit → Bool
  | .anvil _ => false
  | .swage a => boundTo (s.rd L.tenSwage a.val) t
  | .core c => boundTo (s.rd L.tenCore c.val) t
  | .hearth u => boundTo (s.rd L.tenHearth u.val) t

/-- The number of a sensor (Table 20.9): Forge, link and stack dies, bridge, management. -/
def sensorNo : Sensor → Nat
  | .forge d k => 16 * d + k
  | .link l k => 64 + 4 * l + k
  | .stack n k => 96 + 3 * n + k
  | .bridge k => 114 + k
  | .mgmt => 116

/-- The hottest of `n` sensors from number `i` on, in 0.1 °C, as last sampled. -/
def Sw.hottest (s : Sw) (i n : Nat) : Int := ((List.range n).map (fun k => s.pwr.temps.getD (i + k) 0)).foldl max (s.pwr.temps.getD i 0)

/-- Length of the window that runs at a die: the default until one is recorded (R45). -/
def Sw.hsWin (s : Sw) (d : Nat) : Nat := s.pins.hsWin.getD d 10000

/-! ### Set points (R650, 20 R754) -/

/-- The set points of the four dies. -/
def Sw.vset (s : Sw) : List Nat := (List.range 4).map (fun k => s.rd (L.pwrVset.at k))

/-- The set points a die takes on its way from `v` to `mv`: at most 25 mV in a frame (20 R754). -/
def avsSteps (v mv : Nat) : List Nat :=
  (List.range (cdiv (max v mv - min v mv) 25)).map (fun i =>
    if v ≤ mv then min mv (v + 25 * (i + 1)) else max mv (v - 25 * (i + 1)))

/-- A die's set point, sent over AVSBus where it changes (20 R754). -/
def Sw.setVset (s : Sw) (k mv : Nat) : Sw :=
  let v := s.rd (L.pwrVset.at k)
  if v = mv then s else (avsSteps v mv).foldl (fun s x => s.send (.avs k x)) (s.wr (L.pwrVset.at k) 0 mv)

/-- A set point moved into the limits in force, a multiple of 5 mV (R650, 20 R754). -/
def Sw.clampMv (s : Sw) (mv : Nat) : Nat := max (cdiv s.pwr.cfgVmin 5 * 5) (min (s.pwr.cfgVmax / 5 * 5) (mv / 5 * 5))

/-- The handshake rate of Table 1.4 at 0.60 V and `t` in 0.1 °C, in 1 M handshakes/s, between its points by interpolation (01
R35). -/
def rateAt600 (t : Int) : Nat :=
  let c := (max 0 (min 1050 t)).toNat
  if c ≤ 250 then 1100 + 40 * c / 250 else if c ≤ 700 then 1140 + 60 * (c - 250) / 450 else 1200 + 30 * (c - 700) / 350

/-- The rate the power manager takes a die to have: the measured one, or that of Table 1.4 for 0.60 V at the sensed temperature
while the die's monitor is stopped (01 R50; of its sensors the hottest: DESIGN CHOICE, log 38). -/
def Sw.dieRate (s : Sw) (d : Nat) : Nat :=
  if s.hsWin d = 0 then rateAt600 (s.hottest (16 * d) 16) else s.rd (L.devCoreHsRate.at d)

/-- A number of 5 mV steps, at most 5, that the part takes at a die, which may depend on the die's rate: a free value (20 R754;
log 38). -/
def Sw.mvSteps (s : Sw) (d : Nat) : Nat × Sw := (5 * (Config.mvSteps s.free (s.dieRate d) % 6), { s with free := s.free + 1 })

/-! ### Lending (R653, R654) -/

/-- A unit of Forge die `d` is busy. -/
def Sw.dieBusy (s : Sw) (d : Nat) : Bool :=
  s.busyUnits.any (fun u => match u with
    | .anvil k => k.val == d
    | .swage a => a.val / 4 == d
    | .core c => c.val / 16 == d
    | .hearth _ => false)

/-- Lent budget raises the set points of the dies whose units are busy, within their limits; answers how far each rose. -/
def Sw.lendRaise (s : Sw) : List Nat × Sw :=
  (List.range 4).foldl (fun (x : List Nat × Sw) k =>
    if x.2.dieBusy k then
      let r := x.2.mvSteps k
      let v := r.2.rd (L.pwrVset.at k)
      let v' := max v (r.2.clampMv (v + r.1))
      (x.1 ++ [v' - v], r.2.setVset k v')
    else (x.1 ++ [0], x.2)) (([] : List Nat), s)

/-- The idle units of a tenancy that lends park at once (R653). -/
def Sw.lendPark (s : Sw) (t : Nat) : Sw := (allUnits.filter (s.unitOf t)).foldl Sw.parkUnit s

/-- A lending report of a tenancy starts (R653): its idle units park; the power of their estimates, which the spec does not
state, is credited, a free value, and raises the set points of busy dies by free steps (log 38). -/
def Sw.lendStart (s : Sw) (t : Nat) : Sw :=
  let r := (s.lendPark t).draw
  let q := r.2.lendRaise
  q.2.updPwr (fun p => { p with lent := p.lent.filter (fun e => e.1 != t) ++ [(t, r.1, q.1)] })

/-- Lent budget is withdrawn, but for that of the tenancies that `keep` names: the set points fall by what it raised them. -/
def Sw.lendDrop (s : Sw) (keep : Nat → Bool) : Sw :=
  let out := s.pwr.lent.filter (fun e => !keep e.1)
  let s := s.updPwr (fun p => { p with lent := p.lent.filter (fun e => keep e.1) })
  out.foldl (fun s e => (List.range 4).foldl (fun s k =>
    let d := e.2.2.getD k 0
    if d = 0 then s else s.setVset k (s.clampMv (s.rd (L.pwrVset.at k) - d))) s) s

/-- A tenancy has an active lending report. -/
def Sw.lending (s : Sw) (t : Nat) : Bool :=
  s.agr.any (fun kv => kv.2.lending && fld (s.rd L.agrBind kv.1) 20 8 == t)

/-- The tenancy that a unit is bound to lends. -/
def Sw.unitLends (s : Sw) (u : ParkUnit) : Bool :=
  s.agr.any (fun kv => kv.2.lending && s.unitOf (fld (s.rd L.agrBind kv.1) 20 8) u)

end Sys2Proof.Machine
end

