-- ==== Sys2Proof/Machine/Faults.lean ====
section
/-! DEFINITION. The fault collector (17): records, merging, summary, signalling, fail-stop, clearing; `settle`, with which
every command ends. -/

namespace Sys2Proof.Machine

/-! ### Signals -/

/-- What a configuration-space word of the host function reads apart from what the host wrote: the identity, the class code and the
type bits of the BARs (Table 13.2A; their places are PRESUMED PCIe, log 36), and the AER status (R533). -/
def Sw.cfgFixed (s : Sw) (a : Nat) : Nat :=
  if a = 0 then s.rd L.idPcieDid * 65536 + s.rd L.idPcieVid
  else if a = 8 then 0x12000000
  else if a = 0x10 then 0xC
  else if a = 0x18 then 0x4
  else if a = Config.aerCap + 4 then s.brg.aer.getD 0 0
  else if a = Config.aerCap + 16 then s.brg.aer.getD 1 0
  else 0

/-- A configuration-space word of the host function (13 R534). -/
def Sw.cfgWord (s : Sw) (a : Nat) : Nat := s.cfgFixed a + s.brg.cfg.getD a 0

/-- MSI-X is enabled, and may send: the enable bit of Message Control, and Bus Master Enable (PCIe). -/
def Sw.msixOn (s : Sw) : Bool := bit (s.cfgWord Config.msixCap) 31 && bit (s.cfgWord 4) 2

/-- MSI-X vector `v` is raised (13 R546): sent, or pending where it is masked. -/
def Sw.msix (s : Sw) (v : Nat) : Sw :=
  if !s.hostRole ∨ (s.bport 0).st ≠ .ready ∨ !s.msixOn then s
  else
    let w (k : Nat) : Nat := s.brg.msix.getD (16 * v + 4 * k) (if k = 3 then 1 else 0)
    if bit (s.cfgWord Config.msixCap) 30 ∨ bit (w 3) 0 then { s with brg := { s.brg with pba := insertNat v s.brg.pba } }
    else s.send (.msi (w 0 + w 1 * 2 ^ 32) (w 2))

/-- Pending vectors that are no longer masked send their messages (R546, PCIe). -/
def Sw.msixFlush (s : Sw) : Sw :=
  if s.msixOn then s.brg.pba.foldl (fun s v => s.msix v) { s with brg := { s.brg with pba := [] } } else s

/-- One I3C in-band interrupt with data byte 0xA0 (15 R622). -/
def Sw.ibi (s : Sw) : Sw :=
  if s.rd L.lexI3cIbi = 1 ∧ s.i3c.ibi ∧ s.i3c.addr.isSome then s.send (.ibi 0xA0) else s

/-! ### The summary word (R662) -/

/-- Class of a fault code (Table 17.2): 1 corrected, 2 contained, 3 fatal. -/
def faultClass (c : Nat) : Nat :=
  if [0x01, 0x03, 0x40, 0x52].contains c then 1
  else if [0x02, 0x42, 0x4A, 0x54, 0x61].contains c then 3 else 2

/-- The bits below 124 that are set: a valid record, or a line held. -/
def Sw.sumBits (s : Sw) : List Nat := ((s.flt.recs.map (fun kv => kv.2.source)) ++ s.flt.held.map (fun h => h.2.1)).eraseDups

/-- `flt.sum` as a 128-bit number. -/
def Sw.fltSum (s : Sw) : Nat :=
  sumBy (fun n => 2 ^ n) s.sumBits + b2n s.flt.ovf * 2 ^ 124 +
  sumBy (fun c => if s.flt.recs.any (fun kv => kv.2.cls == c) then 2 ^ (124 + c) else 0) [1, 2, 3]

/-- The part is held as if RESET_N were low (20 R753, R757, R764). -/
def Sw.held (s : Sw) : Bool := !s.pins.resetN || s.pins.railLow || !s.pins.thermCritN

/-- FAULT_N (R676): low while a bit is set, the part is held in reset, or a bring-up has stopped. -/
def Sw.faultN (s : Sw) : Bool := s.fltSum == 0 && !s.held && !s.boot.error

/-- The rise of summary bits signals, once at an instant (R677). -/
def Sw.fltSignal (s : Sw) : Sw :=
  let n := s.fltSum
  if n = s.flt.seen then s
  else
    let rose := (List.range 128).any (fun i => bit n i && !bit s.flt.seen i)
    let last := s.flt.sigAt
    let s := { s with flt := { s.flt with seen := n, sigAt := if rose then some s.now else last } }
    if rose && last != some s.now then (s.msix 0).ibi else s

/-! ### Records (R667 to R674) -/

/-- The incarnation of a source's block (Table 17.3); 0 for a source without one. -/
def Sw.sourceInc (s : Sw) (f : FaultInfo) : Nat :=
  let n := f.source
  if n < 12 then s.incOf (incForge (n % 4))
  else if n < 16 then s.incOf (incCore (fld f.aux.toNat 32 16 % 64))
  else if n < 32 then s.incOf (incArray (n - 16))
  else if 40 ≤ n ∧ n < 46 then s.incOf (incStack (n - 40))
  else if 64 ≤ n ∧ n < 68 then s.incOf (incBport (n - 64))
  else if 68 ≤ n then s.incOf incM else 0

/-- When a record whose handling ends now closes (R670); at once where `flt.merge_ns` is 0 (R686). -/
def Sw.closeTime (s : Sw) : Nat := if s.rd L.fltMergeNs = 0 then s.now else deadline s.now (s.rd L.fltMergeNs)

/-- A record whose time is over is open no more. -/
def FltRec.due (r : FltRec) (now : Nat) : Bool := r.open_ && r.waits.isEmpty && decide (r.closeAt ≤ now)

/-- The open record of a source. -/
def Sw.openRec (s : Sw) (src : Nat) : Option (Nat × FltRec) := s.flt.recs.find? (fun kv => kv.2.source == src && kv.2.open_)

/-- The record a new fault takes: a free one, the lowest (DESIGN CHOICE, log 19); for a contained or fatal fault else the
oldest corrected one that is not open (R672). -/
def Sw.recSlot (s : Sw) (cls : Nat) : Option Nat :=
  if s.flt.recs.length < 512 then (List.range 512).find? (fun i => (s.flt.recs.get? i).isNone)
  else if 2 ≤ cls then
    (minBy (fun kv => kv.2.time) (s.flt.recs.filter (fun kv => kv.2.cls == 1 && !kv.2.open_))).map Prod.fst
  else none

/-- Change the collector. -/
def Sw.updFlt (s : Sw) (f : Flt → Flt) : Sw := { s with flt := f s.flt }

/-- Records whose time has passed take no more merges (R670). -/
def Sw.closeDue (s : Sw) : Sw :=
  if s.flt.recs.any (fun kv => kv.2.due s.now) then
    s.updFlt (fun x => { x with recs := x.recs.map (fun kv => if kv.2.due s.now then (kv.1, { kv.2 with open_ := false }) else kv) })
  else s

/-- The collector takes one fault; `waits`: the tenancies whose quench ends its handling. -/
def Sw.collect (s : Sw) (f : FaultInfo) (waits : List Nat) : Sw :=
  let cls := faultClass f.code
  let close := s.closeTime
  match s.openRec f.source with
  | some (i, r) =>
    s.updFlt (fun x => { x with recs := AMap.set x.recs i { r with
      merges := min 0xFFFF (r.merges + 1), last := f.code, cls := max r.cls cls
      waits := r.waits ++ waits, closeAt := max r.closeAt close
      lastAt := s.now, lately := if r.lastAt = s.now then r.lately ++ [f] else [f] } })
  | none =>
    match s.recSlot cls with
    | some i =>
      s.updFlt (fun x => { x with recs := AMap.set x.recs i {
        time := s.now, code := f.code, cls := cls, source := f.source, ten := f.ten.map BitVec.toNat, inc := s.sourceInc f
        detail := f.detail.toNat, aux := f.aux.toNat, last := f.code, waits := waits, closeAt := close
        lastAt := s.now, lately := [f] } })
    | none => (s.inc L.fltLost).updFlt (fun x => { x with ovf := true, ovfAt := s.now })

/-- The 256-bit form of a record (Table 17.3). -/
def FltRec.word (r : FltRec) : Nat :=
  [(192, 64, r.time), (128, 64, r.detail), (64, 64, r.aux), (48, 16, r.merges), (40, 8, r.last), (32, 8, r.code), (24, 8, r.inc),
   (16, 8, r.ten.getD 0), (9, 7, r.source), (7, 2, r.cls), (6, 1, b2n r.ten.isSome), (1, 1, b2n r.open_), (0, 1, 1)].foldl
    (fun w f => setFld w f.1 f.2.1 f.2.2) 0

/-! ### Fail-stop (R678 to R682) -/

/-- The slice number of a detail of layout L. -/
def detNum (f : FaultInfo) : Nat := fld f.detail.toNat 40 16

/-- Slice of a fatal fault, with the further slices shown (Table 17.5). -/
def Sw.sliceOf (s : Sw) (f : FaultInfo) : Slice × List Slice :=
  match f.code with
  | 0x02 =>
    let j := f.source - 46
    (.link j, if 6 ≤ j ∧ j < 14 then
      ((List.range 64).filter (fun i => s.portCfg (64 * (j - 6) + i))).map (fun i => .port (64 * (j - 6) + i)) else [])
  | 0x42 => (.stack (f.source - 40), [])
  | 0x4A => (.port (detNum f), [])
  | 0x54 => (.bridge (f.source - 64), [])
  | _ => (.forge (detNum f), [])

/-- Tenancies with a CXL granule bound on some ports. -/
def Sw.cxlTens (s : Sw) (p : Nat → Bool) : List Nat :=
  ((s.elems L.tenCxl).filter (fun e => bit e.2 31 && p (e.1 / 4096))).map (fun e => fld e.2 0 8)

/-- Tenancies bound to role-1 ports that satisfy `f`. -/
def Sw.portTens (s : Sw) (f : Nat → Bool) : List Nat :=
  ((s.elems L.tenPort).filter (fun e => bit e.2 31 && s.role e.1 == 1 && f e.1)).map (fun e => fld e.2 0 8)

/-- Tenancies a fatal fault stops (Table 17.5). -/
def Sw.stops (s : Sw) (f : FaultInfo) : List Nat :=
  (match f.code with
   | 0x02 =>
     let j := f.source - 46
     if j < 6 then List.range 256
     else if j < 14 then s.portTens (fun p => p / 64 == j - 6)
     else s.cxlTens (fun _ => true)
   | 0x4A => s.portTens (fun p => p == detNum f)
   | 0x54 => s.cxlTens (fun p => p == f.source - 64)
   | 0x61 => List.range 256
   | _ => []).eraseDups

/-- A tenancy is stopped (R679, R680): an Active one is quenched with guard marking on its dies. -/
def Sw.stopTen (s : Sw) (t : Nat) : Sw :=
  let x := s.tenSt t
  if x.st = .active then
    let dies := (List.range 4).filter (s.usesDie t)
    (dies.foldl (fun s d => s.setMode d 1) s).quench t 3 true
  else s.setTen t { x with stopped := true, cause := if x.st = .quenching ∧ x.since = s.now then 3 else x.cause }

/-- The source holds its line for a condemned slice (R661, R678). -/
def Sw.holdLine (s : Sw) (sl : Slice) (src : Nat) (more : List Slice) : Sw :=
  s.updFlt (fun x => { x with held := x.held.filter (fun h => !decide (h.1 = sl)) ++ [(sl, src, more)] })

/-- The condition that held a line has passed (R682). -/
def Sw.restore (s : Sw) (sl : Slice) : Sw := s.updFlt (fun x => { x with held := x.held.filter (fun h => !decide (h.1 = sl)) })

/-- Forge dies whose ports or links a fatal fault takes out of use (05 R205). -/
def failDies (f : FaultInfo) : List Nat :=
  match f.code with
  | 0x02 =>
    let j := f.source - 46
    if j < 6 then (List.range 4).filter (fun d => (List.range 4).any (fun e => d != e && pairLink d e == j))
    else if j < 14 then [(j - 6) / 2] else [j - 14]
  | 0x4A => [laneDie (detNum f)]
  | _ => []

/-- One fault is taken: its record, and fail-stop for a fatal one (R671, R678). -/
def Sw.takeFault (s : Sw) (f : FaultInfo) : Sw :=
  if faultClass f.code = 3 then
    let sl := s.sliceOf f
    let ts := s.stops f
    let s := (s.holdLine sl.1 f.source sl.2)
    let s := (failDies f).foldl (fun s d => s.setMode d 1) s
    let s := ts.foldl Sw.stopTen s
    s.collect f (ts.filter (fun t => (s.tenSt t).st != .quenched))
  else s.collect f []

/-- Insert a fault by ascending source, then code (R673). -/
def insFault (f : FaultInfo) : List FaultInfo → List FaultInfo
  | [] => [f]
  | g :: gs => if f.source < g.source ∨ (f.source = g.source ∧ f.code < g.code) then f :: g :: gs else g :: insFault f gs

/-- The faults due are taken, those they lead to after them. -/
def Sw.collectAll : Nat → Sw → Sw
  | 0, s => s
  | n + 1, s =>
    if s.flt.due.isEmpty then s
    else
      let fs := s.flt.due.foldl (fun l f => insFault f l) []
      Sw.collectAll n (fs.foldl Sw.takeFault (s.updFlt (fun x => { x with due := [] })))

/-- Jobs and operations that a warm reset ended write their records, with the incarnations they ran in, once the part's target
paths have returned, which is when READY comes (08 Table 8.8, 09 R392; DEDUCED, log 130). -/
def Sw.lostRecords (s : Sw) : Sw :=
  let s := s.lostJobs.foldl (fun s k => s.jobDone { k.1 with tstart := if k.1.st = .running then k.1.tstart else s.now } 5 .ending k.2) s
  let s := s.lostOps.foldl (fun s k => s.opEnd k.1 5 .ending k.2) s
  { s with lostJobs := [], lostOps := [] }

/-- Step 9 of a bring-up: READY (16 R631, R633; 05 R205); memory ports that have still to return have 1 s (R640). -/
def Sw.bootReady (s : Sw) : Sw :=
  let b := s.boot
  let s := s.lostRecords
  let s := (List.range 4).foldl (fun s d => s.setMode d 1) s
  let s := s.updPwr (fun p => { p with idleAt := [], idle0 := (s.now, s.rd L.pwrParkIdleNs) })
  let s := s.wr L.devBootTime 0 (b.ms + (s.now - b.linkAt.getD s.now) / 1000000)
  { s with boot := { b with
      stage := 9, ready := true, linkAt := none
      returns := b.returns.map (fun r => (r.1, r.2.1, some (deadline s.now 1000000000))) } }

/-- Step 8 ends once no port that the image enables is still on its way (16 R632). -/
def Sw.bootTick (s : Sw) : Sw :=
  match s.boot.linkAt with
  | none => s
  | some _ =>
    if s.boot.enable.all (fun p => [PState.up, PState.failed, PState.disabled].contains (s.port p).st) then s.bootReady else s

/-- The end of every command: results that were lost in it end their share of the collective (10 R431); a context whose linger time
of 0 has started returns (07 R303); faults raised in it reach the
collector, records whose time is over close, and a rise of the summary signals; a parked unit that has been given work starts to wake, one that has become idle
begins an idle period (16 R642); a bring-up whose ports are done asserts READY; the schedulers note what became eligible (05 R194,
R197). -/
def Sw.settle (s : Sw) : Sw :=
  let s := s.lostNow.lingerNow
  let s := if s.flt.due.isEmpty then s else Sw.collectAll 8 s.closeDue
  s.closeDue.fltSignal.wakeAsked.idleMark.bootTick.eligSync

/-- A quench ended: records that waited for it may close (R670). -/
def Sw.quenchEnds (s : Sw) (t : Nat) : Sw :=
  let c := s.closeTime
  s.updFlt (fun x => { x with recs := x.recs.map (fun kv =>
    if kv.2.waits.contains t then
      let w := kv.2.waits.filter (fun u => u != t)
      (kv.1, { kv.2 with waits := w, closeAt := if w.isEmpty then max kv.2.closeAt c else kv.2.closeAt })
    else kv) })

/-! ### Clearing (R675) -/

/-- Records are cleared, and perhaps bit 124. Of the faults that came at this instant the write is applied first: they take new
records (R605). -/
def Sw.clearRecs (s : Sw) (p : Nat → FltRec → Bool) (ovf : Bool) : Sw :=
  let again := s.flt.recs.filter (fun kv => p kv.1 kv.2 && kv.2.lastAt == s.now)
  let s := s.updFlt (fun x => { x with
    recs := x.recs.filter (fun kv => !p kv.1 kv.2), ovf := x.ovf && (!ovf || x.ovfAt == s.now) })
  again.foldl (fun s kv => kv.2.lately.foldl (fun s f => s.collect f kv.2.waits) s) s

/-- A write to `flt.ack`, and to `flt.clr`. -/
def Sw.wrFltAck (s : Sw) (v : Nat) : Sw := if 512 ≤ v then s else s.clearRecs (fun i _ => i == v) false
def Sw.wrFltClr (s : Sw) (v : Nat) : Sw :=
  if v = 0xFF then s.clearRecs (fun _ _ => true) true
  else if 72 ≤ v then s else s.clearRecs (fun _ r => r.source == v) false

/-- `flt.slice` (Table 17.9). -/
def Sw.fltSlice (s : Sw) : Bytes :=
  let all := s.flt.held.flatMap (fun h => h.1 :: h.2.2)
  leBytes 72 (sumBy (fun b => 2 ^ b) ((all.map (fun x => match x with
    | .port p => p | .link j => 512 + j | .forge k => 536 + k | .stack n => 544 + n | .bridge p => 552 + p)).eraseDups))

/-! ### The end of a command -/

/-- Indices of entries that M itself holds, written as usual during a warm reset (16 R639). -/
def heldByM (i : Nat) : Bool :=
  decide ((0x1000 ≤ i ∧ i < 0x1100) ∨ (0x1200 ≤ i ∧ i < 0x2000) ∨ (0xA000 ≤ i ∧ i < 0xD000) ∨ 0xE000 ≤ i)

/-- A write of entry `i`:`sub` has no effect: answered Busy while M's firmware is replaced (14 R587), taken as the whole of
an activation (DEDUCED, log 37), and during a warm reset (16 R639, R641); not served while the part is held in reset, or in
recovery but for the image load (16 R634, R635). -/
def State.busyFor (s : State) (i sub : Nat) : Bool :=
  s.sec.busy == some 3 || s.sw.held || (s.sw.boot.error && i != 0xC002) ||
  (s.sw.boot.warm && !s.sw.boot.ready && !s.sw.boot.error && (!heldByM i || (i == 0xB000 && sub == 6)))

/-- The effect of a command that is a write of entry `i`:`sub`; answered Busy, it has none (15 R607). -/
def State.written (s : State) (i sub : Nat) (o : Host.Outcome State Fault Refusal) : Host.Outcome State Fault Refusal :=
  if s.busyFor i sub then .next s else o

/-- A command that changes only the switch: its effect, then the collector's. -/
def State.ends (s : State) (w : Sw) : Host.Outcome State Fault Refusal := .next { s with sw := w.settle }

/-- A command whose use a rule may leave undefined. -/
def State.endsOr (s : State) (r : Except Nat Sw) : Host.Outcome State Fault Refusal :=
  match r with
  | .ok w => s.ends w
  | .error n => .fault (.undefinedUse n)

end Sys2Proof.Machine
end

