-- ==== Sys2Proof/Machine/Ingress.lean ====
section
/-! DEFINITION. What arrives: header checks (02 R52 to R87, 14 R565 to R568), routing and metering of data and control
packets, end words (R71 to R74), truncated packets (R73), CREDIT (R66). An `Except.error r` is a use that rule R`r` leaves
undefined. -/

namespace Sys2Proof.Machine

/-- The Forge die, arriving key and lane port of an ingress. -/
def ingDie : Ingress → Nat
  | .port p => laneDie p
  | .bridge d => d
def ingKey : Ingress → Nat
  | .port p => p
  | .bridge d => 512 + d
def ingPort : Ingress → Option Nat
  | .port p => some p
  | .bridge _ => none
def ingFrom : Ingress → From
  | .port p => .port p
  | .bridge d => .bridge d

/-- The ingress takes packets: a port that is Up (12 R523) whose die-to-die link runs (01 R27). -/
def Sw.ingressOpen (s : Sw) (i : Ingress) : Bool :=
  match i with
  | .port p => s.portUp p && !s.pins.d2dFatal.contains (6 + p / 64)
  | .bridge d => !s.pins.d2dFatal.contains (14 + d)

/-! ### Discards -/

/-- A malformed packet (R55). -/
def Sw.malformed (s : Sw) (d : Nat) (ten : Nat) (det aux : Nat) : Sw :=
  (s.inc (L.fabRxMalformed.at d)).fault 0x10 d (some ten) det aux

/-- Detail of a packet at an ingress port. -/
def detOf (w : Word256) (p : Option Nat) (chk : Nat) : Nat :=
  detP (pSrc w) (hDst w) (hEntropy w) (pClass w) (p.getD 0) chk
def detCtl (w : Word256) (p : Option Nat) (chk : Nat) : Nat := detP (pSrc w) (cDst w) 0 (pClass w) (p.getD 0) chk

/-- A violation (14 R567). -/
def Sw.violation (s : Sw) (d ten det aux : Nat) : Sw := (s.inc (L.tenViol.at d)).fault 0x13 d (some ten) det aux

/-- The outcome of the ingress checks of a packet: admitted, or the check it failed. -/
inductive Check
  | ok | one | two | three | r80kind | r80
deriving DecidableEq, Repr

/-- The ingress checks in order (14 R565, R566, 02 R80). `len`: bytes touched; `req`: a WRITE or READ_REQ. -/
def Sw.checks (s : Sw) (d : Nat) (p : Option Nat) (src dst off len kind t : Nat) (data : Bool) : Check :=
  let kindBad := (data && s.r80Kind dst kind) || (!data && s.own dst && dst % 32 != 0 && kind != 2)
  let denies := data && decide (kind < 2) && s.r80 dst off (r80Len kind len)
  let resv := data && s.own dst && ownReserved (dst % 32) && kind != 3
  if s.own src ∧ s.own dst then
    if kindBad then .r80kind else if denies ∨ resv then .r80 else .ok
  else if !s.check1 p src t then .one
  else if !s.check2 d t then .two
  else if kindBad then .r80kind
  else if !s.check3 dst off len t ∨ (denies && !ownReserved (dst % 32)) then .three
  else if denies ∨ resv then .r80
  else .ok

/-! ### Cells on credit (04 R166, R167, R173) -/

/-- The billets of an arriving packet: its handles, whether it waits for them, and what it took of reserve and shared
credit. -/
structure Cells where
  hs   : List Nat := []
  wait : Bool := false
  res  : Nat := 0
  sh   : Nat := 0
deriving DecidableEq, Repr

/-- `n` cells use set-aside billets of a class: how many of its reserve, and the pools of the shared ones (R166). -/
def Sw.useCredit (s : Sw) (p c n : Nat) : Nat × List Nat × Credit :=
  let x := s.credit p c
  let res := min n (x.res - x.resUsed)
  let sh := n - res
  let small := min sh (x.shFree - x.big.length)
  (res, List.replicate small 0 ++ x.big.take (sh - small), { x with shFree := x.shFree - sh, big := x.big.drop (sh - small) })

/-- The billets of an arriving packet of `n` cells; none where it is discarded (Table 4.4). Those of a rebuild or of a refill
that cannot be made yet are waited for (04 R154, R155). An error is a ruled packet beyond its reserve (03 R147). -/
def Sw.takeCells (s : Sw) (p c n : Nat) (t : Ten) : Except Nat (Option (Cells × Sw)) :=
  let d := laneDie p
  let o : Owner := .ingress (Fin.ofNat 512 p) (Fin.ofNat 8 c)
  if s.ruled c then
    match Sw.allocCells n s d o (some t) with
    | .ok (hs, s') => .ok (some ({ hs := hs }, s'))
    | .error pend => if pend ∨ n ≤ s.ownerUnused d o then .ok (some ({ wait := true }, s)) else .error 147
  else if n ≤ s.unusedCredit p c then
    let u := s.useCredit p c n
    let sh := n - u.1
    let s := s.setCredit p c { u.2.2 with resUsed := u.2.2.resUsed + u.1, shUsed := u.2.2.shUsed + sh }
    let x : Cells := { res := u.1, sh := sh }
    let r := match if s.bil.rebuild.contains d then .error true
        else Sw.forceCells n (List.replicate u.1 0 ++ u.2.1) s d o (some t) with
      | .ok (hs, s') => ({ x with hs := hs }, s')
      | .error _ => ({ x with wait := true }, s)
    .ok (some (r.1, (r.2.askStep p c false).pfcCheck p c))
  else if (s.port p).plain then .ok none
  else match Sw.allocCells n s d o (some t) with
    | .ok (hs, s') => .ok (some ({ hs := hs }, s'))
    | .error true => .ok (some ({ wait := true }, s))
    | .error false => .ok none

/-- A free packet that is discarded at its ingress gives back the credit it used: its cells are freed at once (05 R203, 02
R66). -/
def Sw.unspent (s : Sw) (p c n : Nat) : Sw :=
  if s.ruled c ∨ (s.port p).plain ∨ s.unusedCredit p c < n then s
  else
    let u := s.useCredit p c n
    ((s.setCredit p c { u.2.2 with total := (u.2.2.total + u.1) % 65536 }).askStep p c false).pfcCheck p c

/-! ### Data packets -/

/-- An undefined meter binding (05 R217). -/
def Sw.badMeter (s : Sw) (d : Nat) (p : Option Nat) (t c : Nat) : Bool :=
  let bad (m : Nat) : Bool := decide (1024 ≤ m ∧ m < 0xFFFF)
  p.any (fun p => bad (s.rd (L.belPolPort.at d) (8 * (p % 128) + c))) || bad (s.rd (L.belPolTen.at d) (8 * t + c))

/-- The header of a data packet that arrives is remembered, and its reception numbered, until its end word. -/
def Sw.beginRx (s : Sw) (key : Nat) (w : Word256) : Sw :=
  { s with fab := { s.fab with
      nextId := s.fab.nextId + 1
      arriving := AMap.set s.fab.arriving key (s.fab.nextId + 1), rxHdr := AMap.set s.fab.rxHdr key w } }

/-- The packet that arrives is discarded at its header: the credit it used is given back, its rest only ends its copies. -/
def Sw.ignoreRest (s : Sw) (i : Ingress) (w : Word256) : Sw :=
  match i with
  | .port p => s.unspent p (pClass w) (cellsOf (hPlen w))
  | .bridge _ => s

/-- The packet record of a data header that arrives. -/
def Sw.newPkt (s : Sw) (i : Ingress) (w : Word256) (o : Out) (col att : Nat) (x : Cells) : DPkt :=
  let d := ingDie i
  { id := s.fab.arriving.getD (ingKey i) 0, hdr := w, src := ingFrom i, inDie := Fin.ofNat 4 d, out := o
    egDie := Fin.ofNat 4 (s.outDie d o (hOff w)), colour := col, cells := cellsOf (hPlen w), here := 1, att := att
    inBil := x.hs, inRes := x.res, inSh := x.sh, wait := x.wait }

/-- Who is charged for the cells of a packet that arrives: one from the bridge has no owner (DESIGN CHOICE, log 116). -/
def ingOwner (i : Ingress) (c : Nat) : Owner :=
  match i with
  | .port p => .ingress p (Fin.ofNat 8 c)
  | .bridge d => .bridge d

/-- A routed data packet takes its billets and joins its virtual output queue (R105). One from the bridge waits for them: its link
withholds its acknowledge (01 R29), and a free packet is never dropped for want of a billet (04 R168). -/
def Sw.admitData (s : Sw) (i : Ingress) (w : Word256) (o : Out) (col : Nat) : Except Nat Sw :=
  let n := cellsOf (hPlen w)
  let c := pClass w
  let d := ingDie i
  let t : Ten := BitVec.ofNat 8 (hTen w)
  let got : Except Nat (Option (Cells × Sw)) := match i with
    | .port p => s.takeCells p c n t
    | .bridge _ => .ok (some (match Sw.allocCells n s d (ingOwner i c) (some t) with
      | .ok (hs, s') => ({ hs := hs }, s')
      | .error _ => ({ wait := true }, s)))
  match got with
  | .error r => .error r
  | .ok none => .ok ((s.inc (L.bilDropNobuf.at d)).ignoreRest i w)
  | .ok (some (x, s)) =>
    let a := match i with | .port p => s.portAtt p | .bridge _ => (118 + s.fab.nextId % 4, s)
    let k := a.2.newPkt i w o col a.1 x
    .ok (if x.wait then (a.2.placeAs k).addWait d (ingOwner i c) (some t) 256 (.cells k.id) else a.2.placeAs k)

/-- A checked data packet is routed and metered (R111 to R118, 05 R201 to R207). -/
def Sw.forwardData (s : Sw) (i : Ingress) (w : Word256) : Except Nat Sw :=
  let c := pClass w
  let d := ingDie i
  let r := s.route d (hDst w) c (pSrc w) (hEntropy w) true
  let s := r.2
  let metered (o : Out) : Except Nat Sw :=
    if s.badMeter d (ingPort i) (hTen w) c then .error 217
    else
      let m := s.meters d (ingPort i) (hTen w) c
      match m.1 with
      | none => .ok (m.2.ignoreRest i w)
      | some col => m.2.admitData i w o col
  let go (o : Out) : Except Nat Sw :=
    if s.ruled c then s.admitData i w o 0
    else if s.guarding d then
      match i with
      | .bridge _ => s.admitData i w o 0
      | .port p =>
        let g := s.guard p
        if g.1 = 2 then .ok ((g.2.inc (L.belGuardRed.at d)).ignoreRest i w) else g.2.admitData i w o g.1
    else metered o
  match r.1 with
  | .own j => go (s.ownOut d j w)
  | .port q => go (.port (Fin.ofNat 512 q))
  | .none => .ok ((s.inc (L.fwdDropNoroute.at d)).ignoreRest i w)

/-- A data header that passed its check and is well formed goes through the ingress checks. -/
def Sw.checkData (s : Sw) (i : Ingress) (w : Word256) : Except Nat Sw :=
  let d := ingDie i
  let p := ingPort i
  let inc := s.incOf (incForge d)
  match s.checks d p (pSrc w) (hDst w) (hOff w) (touched w) (pKind w) (hTen w) true with
  | .ok => s.forwardData i w
  | .one => .ok ((s.violation d (hTen w) (detOf w p 1) (hSeq w * 2 ^ 32)).ignoreRest i w)
  | .two => .ok (((s.inc (L.tenQdrop.at d)).answer d w stQuenched inc [] .ending).ignoreRest i w)
  | .r80kind => .ok ((s.inc (L.fabRxMalformed.at d)).ignoreRest i w)
  | .three =>
    let s := s.violation d (hTen w) (detOf w p 3) (hSeq w * 2 ^ 32)
    let s := if s.r80 (hDst w) (hOff w) (r80Len (pKind w) (touched w)) ∧ !asks w then s.inc (L.fabRxMalformed.at d) else s
    .ok ((s.answer d w stDenied inc [] .both).ignoreRest i w)
  | .r80 => .ok ((s.deny d w).ignoreRest i w)

/-- A packet not yet sent that turns out faulty is discarded whole; one that has begun egress is completed with poison, and
with nothing of its payload beyond the cells that reached the egress die (R73, R125); so are the copies of what is sent
(R141). -/
def Sw.failPkt (s : Sw) (id : Nat) : Sw :=
  match s.pkt? id with
  | none => s
  | some k =>
    let f := hFlow k.hdr
    if k.stage = .leaving then
      let s := s.updPkt id (fun q => { q with fin := some false, here := q.cells, crossed := q.cells, moved := q.cells
                                              pay := q.reached })
      { s with fab := { s.fab with xm := s.fab.xm.filter (fun m => m.pkt != id) } }.poisonCopies id
    else
      let s := match s.flow f with
        | some x => if x.current = some id then s.setFlow f { x with current := none } else s
        | none => s
      ((s.freePkt k).loseRes k.hdr).reseq f

/-- The packet arriving at a key ends before its end word (R73, 12 R507, R523). -/
def Sw.cutArriving (s : Sw) (key : Nat) : Sw :=
  match s.fab.arriving.get? key with
  | none => s
  | some id =>
    let s := { s with fab := { s.fab with
      arriving := AMap.del s.fab.arriving key
      rxHdr := AMap.del s.fab.rxHdr key
      pkts := s.fab.pkts.map (fun (k : DPkt) => if k.orig = some id ∧ k.fin.isNone then { k with fin := some false, here := k.cells } else k) } }
    s.failPkt id

/-- A data header whose check passed is taken in (R55, 14 R565; 18 R697); the mirror sessions see it as received (R138), behind
its own admission, so that no copy takes a billet from it (R142). -/
def Sw.headerIn (s : Sw) (i : Ingress) (w : Word256) : Except Nat Sw :=
  let p := ingPort i
  let s := match p with
    | some q => s.recPacket q (hTen w) (wordBytes w) (some (hPlen w))
    | none => s
  let s := s.beginRx (ingKey i) w
  if hdrMalformed w then .ok ((s.malformed (ingDie i) (hTen w) (detOf w p 0) (hSeq w * 2 ^ 32)).ignoreRest i w)
  else if 2 ^ 40 < hOff w + 64 * hPlen w then .error 100
  else
    let k := s.newPkt i w (.service (Fin.ofNat 4 (ingDie i))) 0 0 {}
    (s.checkData i w).map (fun s => s.mirror false p { k with att := ((s.pkt? k.id).map DPkt.att).getD 124 })

/-- A data header arrives (R54); on a port that Feed replaces it is discarded (18 R704). -/
def Sw.rxHeader (s : Sw) (i : Ingress) (w : Word256) : Except Nat Sw :=
  if !s.ingressOpen i then .ok s
  else
    let key := ingKey i
    let s := (s.cutArriving key).countRx (ingPort i) (dataBytes (hPlen w))
    if !checkOk w then .ok s
    else if (ingPort i).any s.feedPort then .ok ((s.inc L.recNdiv).ignoreRest i w)
    else s.headerIn i w

/-- What waits for a packet that is now whole goes on: its target, the deep buffer, or another uplink. -/
def Sw.wholeNow (s : Sw) (id : Nat) : Sw := ((s.settlePkt id).deepSpill id).rerouteLate id

/-- The end word of the packet that arrives at an ingress, after `pay` (R71 to R74). -/
def Sw.endIn (s : Sw) (i : Ingress) (pay : Bytes) (e : BitVec 64) : Sw :=
  let key := ingKey i
  let d := ingDie i
  match s.fab.arriving.get? key with
  | none => s
  | some id =>
    let s := if fld e.toNat 0 8 ≠ 0xF0 then s.inc (L.fabRxPoisonSeen.at d) else s
    let s := (s.recEnd key pay e.toNat)
    let h := s.fab.rxHdr.getD key 0
    let n := 64 * hPlen h
    let good := endGood h pay e && pay.length == n
    let s := { s with fab := { s.fab with arriving := AMap.del s.fab.arriving key, rxHdr := AMap.del s.fab.rxHdr key } }
    match s.pkt? id with
    | none =>
      { s with fab := { s.fab with pkts := s.fab.pkts.map (fun (q : DPkt) =>
          if q.orig = some id ∧ q.fin.isNone then { q with here := q.cells, fin := some good, pay := slice pay 0 (64 * hPlen q.hdr) } else q) } }
    | some _ =>
      let s := { s with fab := { s.fab with pkts := s.fab.pkts.map (fun (q : DPkt) =>
        if q.id = id then { q with here := q.cells, fin := some good, pay := slice pay 0 n }
        else if q.orig = some id ∧ q.fin.isNone then { q with here := q.cells, fin := some good, pay := slice pay 0 (64 * hPlen q.hdr) }
        else q) } }
      if good then s.wholeNow id else s.failPkt id

/-- An end word arrives after `pay`. -/
def Sw.rxEnd (s : Sw) (i : Ingress) (pay : Bytes) (e : BitVec 64) : Sw := if s.ingressOpen i then s.endIn i pay e else s

/-! ### Control packets -/

/-- A checked control packet is routed through the control crossbar (R102, R108, R111, 05 R206, R207). -/
def Sw.forwardCtl (s : Sw) (d : Nat) (i : Ingress) (w : Word256) : Sw :=
  let g : Nat × Sw := match i with
    | .port p => if s.guarding d && !s.ruled (pClass w) then s.guard p else (0, s)
    | .bridge _ => (0, s)
  if g.1 = 2 then g.2.inc (L.belGuardRed.at d)
  else
    let r := g.2.route d (cDst w) (pClass w) (pSrc w) 0 false
    let a := match i with | .port p => r.2.portAtt p | .bridge _ => (118, r.2)
    match r.1 with
    | .own _ =>
      if pKind w = 2 then a.2.inc (L.agrSigDiscard.at d)
      else a.2.placeCtl (ingFrom i) d (.service (Fin.ofNat 4 (ctlDie d w))) (ctlDie d w) w a.1
    | .port q => a.2.placeCtl (ingFrom i) d (.port (Fin.ofNat 512 q)) (laneDie q) w a.1
    | .none => r.2.inc (L.fwdDropNoroute.at d)

/-- CREDIT adds the difference of each class's running total (R66). -/
def Sw.rxCredit (s : Sw) (p : Nat) (w : Word256) : Sw :=
  (List.range 8).foldl (fun s c =>
    let x := s.credit p c
    let v := hf w (64 + 16 * c) 16
    s.setCredit p c { x with tx := x.tx + (v + 65536 - x.rxLast) % 65536, rxLast := v }) s

/-- A control packet other than CREDIT, whose check passed, is taken in (R55, R102, 14 R565; 18 R697). A LEX_REQ to a reserved ID of
the own block is discarded and counted, with no answer: R80 does not say whether it asks for one (DESIGN CHOICE, log 149). -/
def Sw.ctlIn (s : Sw) (i : Ingress) (w : Word256) : Sw :=
  let d := ingDie i
  let p := ingPort i
  let t := cTen w
  let s := match p with
    | some q => s.recPacket q t (wordBytes w) none
    | none => s
  if ctlMalformed w then s.malformed d t (detCtl w p 0) 0
  else if pKind w = 6 ∨ pKind w = 7 then
    if s.own (cDst w) ∧ cDst w % 32 ≠ 0 then s.inc (L.fabRxMalformed.at d) else s.forwardCtl d i w
  else match s.checks d p (pSrc w) (cDst w) 0 0 (pKind w) t false with
    | .ok => s.forwardCtl d i w
    | .one => s.violation d t (detCtl w p 1) 0
    | .two => s.inc (L.tenQdrop.at d)
    | .three => s.violation d t (detCtl w p 3) 0
    | .r80kind | .r80 => s.inc (L.fabRxMalformed.at d)

/-- A control packet arrives (R54); on a port that Feed replaces it is discarded (18 R704). -/
def Sw.rxCtl (s : Sw) (i : Ingress) (w : Word256) : Sw :=
  if !s.ingressOpen i then s
  else
    let p := ingPort i
    let s := s.countRx p 32
    if !checkOk w then s
    else if pKind w = 0 ∧ !ctlMalformed w then (match p with | some q => s.rxCredit q w | none => s)
    else if p.any s.feedPort then s.inc L.recNdiv
    else s.ctlIn i w

/-- A packet's first word arrives; `ctl` says what it is (R52). -/
def Sw.rxWord (s : Sw) (i : Ingress) (w : Word256) : Except Nat Sw :=
  if pCtl w = 1 then .ok (s.rxCtl i w) else s.rxHeader i w

end Sys2Proof.Machine
end

