-- ==== Sys2Proof/Machine/Egress.lean ====
section
/-! DEFINITION. The crossbars of a Forge die (03 R103 to R109) and the egress side of a port (03 R122 to R125, 05 R180, 12
R503, R521). -/

namespace Sys2Proof.Machine

/-! ### The data crossbar -/

/-- A transfer not yet matched: packet, input attachment, the outputs that would take it, its virtual output queue. -/
structure XReq where
  pkt   : Nat
  inp   : Nat
  outs  : List Nat
  ruled : Bool
  cls   : Nat
  voq   : Nat
  fan   : Option Nat
  copy  : Bool
deriving DecidableEq, Repr

/-- Number of the virtual output queue's egress within an input (R105). -/
def outKey : Out → Nat
  | .port p => p
  | .hbm => 512
  | .cxl p => 513 + p
  | .service d => 517 + d

/-- The packet still has to cross its ingress die toward another die (R109). -/
def DPkt.away (k : DPkt) : Bool := k.inDie != k.egDie

/-- Output attachments on the egress die. -/
def Sw.outAttsOf (s : Sw) : Out → List Nat
  | .port p => s.outAtts p
  | .hbm => [122, 123]
  | .cxl _ => [118, 119, 120, 121]
  | .service _ => [124, 125, 126, 127]

/-- The input attachment of a packet that came over a Forge–Forge link (R109); which of the 18, by its number (DESIGN
CHOICE, log 20). -/
def DPkt.linkIn (k : DPkt) : Nat := linkAtt k.egDie k.inDie + k.id % 18

/-- The link to the bridge that an access to a CXL range crosses is stopped (01 R27). -/
def Sw.bridgeStopped (s : Sw) (k : DPkt) : Bool :=
  match k.out with
  | .cxl _ => s.pins.d2dFatal.contains (14 + k.egDie)
  | _ => false

/-- What packet `k` asks of the crossbar of die `d`: it has a cell there, holds its billets, and is not matched. -/
def Sw.xAsk (s : Sw) (d : Nat) (k : DPkt) : Option XReq :=
  let c := pClass k.hdr
  let mk (i : Nat) (os : List Nat) : XReq := ⟨k.id, i, os, s.ruled c && k.mir.isNone, c, outKey k.out, k.fan, k.mir.isSome⟩
  if k.wait ∨ s.fab.xm.any (fun m => m.die == d && m.pkt == k.id) then none
  else if k.away ∧ k.inDie.val = d then
    if k.crossed < k.here ∧ !s.pairStopped k.inDie k.egDie then
      some (mk k.att ((List.range 18).map (fun i => linkAtt k.inDie k.egDie + i)))
    else none
  else if k.egDie.val = d then
    if k.moved < (if k.away then k.crossed else k.here) ∧ !s.bridgeStopped k then
      some (mk (if k.away then k.linkIn else k.att) (s.outAttsOf k.out))
    else none
  else none

/-- The fan-out set of a packet, where it is one of a set (R107). -/
def Sw.fanOf (s : Sw) (i : Nat) : Option Nat := (s.pkt? i).bind DPkt.fan

/-- The input attachment of a request is matched, but for outputs of its own fan-out set; an output is (R107). -/
def Sw.inBusy (s : Sw) (d : Nat) (r : XReq) : Bool :=
  s.fab.xm.any (fun m => m.die == d && m.inp == r.inp && (r.fan.isNone || s.fanOf m.pkt != r.fan))
def Sw.outBusy (s : Sw) (d o : Nat) : Bool := s.fab.xm.any (fun m => m.die == d && m.out == o)

/-- The requests of die `d`: the head of each virtual output queue of each unmatched input. -/
def Sw.xReqs (s : Sw) (d : Nat) : List XReq :=
  let all := (s.fab.pkts.filterMap (s.xAsk d)).filter (fun r => !s.inBusy d r)
  all.filter (fun r => !all.any (fun q => q.inp == r.inp && q.voq == r.voq && q.cls == r.cls && decide (q.pkt < r.pkt)))

/-- The partner a round-robin pointer falls on: ruled before free, a mirrored copy behind both (R142), then the first at or after
the pointer; the oldest packet of a partner. -/
def rrPick (ptr : Nat) (l : List (Nat × XReq)) : Option (Nat × XReq) :=
  let o := l.filter (fun x => !x.2.copy)
  let l := if o.isEmpty then l else o
  let r := l.filter (fun x => x.2.ruled)
  minBy (fun x => (x.1 + 256 - ptr) % 256 * 2 ^ 40 + x.2.pkt) (if r.isEmpty then l else r)

/-- Who is charged for a packet's cells on its egress die: the egress port in its class; for a copy, and for the switch's own
targets, no owner, since Table 4.2 names none (DESIGN CHOICE, log 116). -/
def DPkt.egOwner (k : DPkt) : Owner :=
  match k.mir, k.out with
  | some m, _ => .mirror (Fin.ofNat 8 m)
  | none, .port p => .egress p (Fin.ofNat 8 (pClass k.hdr))
  | none, _ => .toOwn (Fin.ofNat 32 (hDst k.hdr))

/-- The tenancy charged for its cells; none for a copy (Table 4.2). -/
def DPkt.egTen (k : DPkt) : Option Ten := if k.mir.isSome then none else some (BitVec.ofNat 8 (hTen k.hdr))

/-- A packet that leaves its ingress die takes billets of the egress die first (04 R168): those of its egress port and
tenancy, in its egress class. An error: it stays in its virtual output queue. -/
def Sw.xGrant (s : Sw) (k : DPkt) : Except Bool Sw :=
  if !k.egBil.isEmpty then .ok s
  else (Sw.allocCells k.cells s k.egDie k.egOwner k.egTen).map (fun r => r.2.updPkt k.id (fun q => { q with egBil := r.1 }))

/-- The same, where the billets are admitted. -/
def Sw.xAdmit (s : Sw) (k : DPkt) : Option Sw := (s.xGrant k).toOption

/-- The copies of packet `k` that hold billets on its egress die and have not begun to leave are dropped. -/
def Sw.dropCopies (s : Sw) (k : DPkt) : Sw :=
  (s.fab.pkts.filter (fun q => q.orig == some k.id && q.mir.isSome && q.stage != .leaving &&
    ((q.egDie == k.egDie && !q.egBil.isEmpty) || (q.inDie == k.egDie && !q.inBil.isEmpty)))).foldl
    (fun s q => (s.freePkt q).inc (L.mirDropped.atIdx (q.mir.getD 0))) s

/-- A transfer that finds no admissible billet on its egress die: a copy is dropped (Table 4.4); a packet whose own copies hold
the billets it needs goes before them, since a copy never delays its original (R142); else it waits for them as a request (04
R164, R168, R174). -/
def Sw.xWait (s : Sw) (k : DPkt) : Sw :=
  match s.xGrant k, k.mir with
  | .ok _, _ => s
  | .error false, some m => (s.freePkt k).inc (L.mirDropped.atIdx m)
  | .error _, _ =>
    let t := s.dropCopies k
    if (t.xAdmit k).isSome then t
    else if s.bil.waits.any (fun x => decide (x.who = .xfer k.id)) then s
    else s.addWait k.egDie k.egOwner k.egTen 256 (.xfer k.id)

/-- The transfers of die `d` that find no admissible billet. -/
def Sw.xWaits (s : Sw) (d : Nat) : Sw :=
  (s.xReqs d).foldl (fun s r => match s.pkt? r.pkt with
    | some k => if k.away ∧ k.inDie.val = d then s.xWait k else s
    | none => s) s

/-- An input accepts output `o` for request `r` (R106): a match, its pointers moved in the first iteration. -/
def Sw.xAccept (s : Sw) (d o : Nat) (r : XReq) (first : Bool) : Sw :=
  match s.pkt? r.pkt with
  | none => s
  | some k =>
    let go (s : Sw) : Sw :=
      let s := { s with fab := { s.fab with xm := s.fab.xm ++ [⟨d, r.inp, o, r.pkt⟩] } }
      if first then { s with fab := { s.fab with
        gptr := AMap.put s.fab.gptr (256 * d + o) ((r.inp + 1) % 256) 0
        aptr := AMap.put s.fab.aptr (256 * d + r.inp) ((o + 1) % 256) 0 } }
      else s
    if k.away ∧ k.inDie.val = d then (match s.xAdmit k with | some s' => go s' | none => s) else go s

/-- One iteration of request, grant and accept (R106). -/
def Sw.xIter (s : Sw) (d : Nat) (first : Bool) : Sw :=
  let reqs := (s.xReqs d).filter (fun r => match s.pkt? r.pkt with
    | some k => !(k.away && k.inDie.val == d) || (s.xAdmit k).isSome
    | none => false)
  let outs := ((reqs.flatMap XReq.outs).eraseDups).filter (fun o => !s.outBusy d o)
  let grants := outs.filterMap (fun o =>
    (rrPick (s.fab.gptr.getD (256 * d + o) 0) ((reqs.filter (fun r => r.outs.contains o)).map (fun r => (r.inp, r)))).map
      (fun x => (o, x.2)))
  let inps := (grants.map (fun g => g.2.inp)).eraseDups
  inps.foldl (fun s i =>
    let mine := grants.filter (fun g => g.2.inp == i)
    match rrPick (s.fab.aptr.getD (256 * d + i) 0) mine with
    | some (o, r) =>
      let mates := mine.filter (fun g => r.fan.isSome && g.2.fan == r.fan && g.2.pkt != r.pkt)
      mates.foldl (fun s g => s.xAccept d g.1 g.2 first) (s.xAccept d o r first)
    | none => s) s

/-- Cells that the input of die `d` has handed on. -/
def DPkt.gone (k : DPkt) (d : Nat) : Nat := if k.away ∧ k.inDie.val = d then k.crossed else k.moved

/-- The input of die `d` keeps a cell of a fan-out set until every output of the set has taken it (R107): packet `k` is not
ahead of the others. -/
def Sw.fanTurn (s : Sw) (d : Nat) (k : DPkt) : Bool :=
  k.fan.isNone || k.inDie.val != d ||
  s.fab.pkts.all (fun x => x.fan != k.fan || x.inDie != k.inDie || decide (k.gone d ≤ x.gone d))

/-- The match has a cell ready on its input side. -/
def Sw.xReady (s : Sw) (m : Match) : Bool :=
  match s.pkt? m.pkt with
  | none => false
  | some k =>
    !s.bridgeStopped k && s.fanTurn m.die k &&
    if k.away ∧ k.inDie.val = m.die then decide (k.crossed < k.here) && !s.pairStopped k.inDie k.egDie
    else decide (k.moved < (if k.away then k.crossed else k.here))

/-- The two 1-lane ports of a lane pair contend (R104): which matches go, and the alternation moved. `sel` reads the
attachment of the direction `dir`. -/
def Sw.pairTurn (s : Sw) (d dir : Nat) (sel : Match → Nat) (ms : List Match) : List Match × Sw :=
  let both (i : Nat) : Bool := ms.any (fun m => sel m == i) && ms.any (fun m => sel m == i + 128)
  let con := (List.range 64).filter both
  let lose (i : Nat) : Nat := if s.fab.alt.getD (512 * dir + 64 * d + i) true then i + 128 else i
  (ms.filter (fun m => !con.any (fun i => lose i == sel m)),
   con.foldl (fun s i =>
     let k := 512 * dir + 64 * d + i
     { s with fab := { s.fab with alt := AMap.put s.fab.alt k (!s.fab.alt.getD k true) true } }) s)

/-- A match ends. -/
def Sw.unmatch (s : Sw) (m : Match) : Sw := { s with fab := { s.fab with xm := eraseOne m s.fab.xm } }

/-- One cell leaves the ingress side: a billet of it and, for credit, first a reserve billet (04 R159, R166). -/
def Sw.leaveIngress (s : Sw) (k : DPkt) : Sw :=
  let res := if 0 < k.inRes then 1 else 0
  let sh := if k.inRes = 0 ∧ 0 < k.inSh then 1 else 0
  (s.updPkt k.id (fun q => { q with inRes := q.inRes - res, inSh := q.inSh - sh })).creditBack k.src (pClass k.hdr) res sh

/-- One cell of a match moves (R103, R107, R109). -/
def Sw.xMove (s : Sw) (m : Match) : Sw :=
  match s.pkt? m.pkt with
  | none => s.unmatch m
  | some k =>
    if k.away ∧ k.inDie.val = m.die then
      let s := s.updPkt k.id (fun q => { q with crossed := q.crossed + 1, inBil := q.inBil.drop 1 })
      let s := ((s.releaseAll (k.inBil.take 1)).leaveIngress k).bilRetry
      if k.crossed + 1 = k.cells then ((s.unmatch m).updPkt k.id (fun q => { q with deep := [] })).releaseAll k.deep else s
    else
      let o := k.egOwner
      let s := if k.away then s.updPkt k.id (fun q => { q with moved := q.moved + 1 })
        else
          let s := s.updPkt k.id (fun q => { q with moved := q.moved + 1, inBil := q.inBil.drop 1, egBil := q.egBil ++ k.inBil.take 1 })
          (((k.inBil.take 1).foldl (fun s h => s.recharge h o) s).leaveIngress k).bilRetry
      let s := if k.moved + 1 = k.cells then s.unmatch m else s
      let s := if k.moved = 0 then s.firstCell k.id else s
      if k.moved + 1 = k.cells then s.wholeNow k.id else s

/-- The data crossbar's slot: three iterations, then at most one cell per attachment and direction. Where the turns of R104 on
the two sides meet, the input's is taken first, and an output chooses among the matches that are left (DESIGN CHOICE, log
117). -/
def Sw.dataSlot (s : Sw) (d : Nat) : Sw :=
  let s := (((s.xIter d true).xIter d false).xIter d false).xWaits d
  let ready := s.fab.xm.filter (fun m => m.die == d && s.xReady m)
  let a := s.pairTurn d 0 Match.inp ready
  let b := a.2.pairTurn d 1 Match.out a.1
  b.1.foldl Sw.xMove b.2

/-! ### The control crossbar (R108) -/

/-- The control packet still has to cross its ingress die toward another die (R109). -/
def CPkt.away (c : CPkt) : Bool := !c.link && c.inDie != c.egDie

/-- The die whose control crossbar it crosses next. -/
def CPkt.at_ (c : CPkt) : Die := if c.away then c.inDie else c.egDie

/-- Output attachment a control packet asks for: the first of its port, or one of the 18 toward another die, by its number
(DESIGN CHOICE, log 113). The two ports of a lane pair share theirs. -/
def Sw.ctlOut (s : Sw) (c : CPkt) : Nat :=
  if c.away then linkAtt c.inDie c.egDie + c.id % 18 else (s.outAttsOf c.out).headD 124 % 128

/-- Input attachment at which a control packet waits. -/
def CPkt.inp (c : CPkt) : Nat := if c.link then linkAtt c.egDie c.inDie + c.id % 18 else c.att % 128

/-- What the input attachments of die `d` ask of the control crossbar: for each output, the oldest packet they hold for
it, class 7 first. -/
def Sw.ctlAsks (s : Sw) (d : Nat) : List (Nat × CPkt) :=
  let l := s.fab.ctl.filter (fun c => !c.atEg && c.at_.val == d && !(c.away && s.pairStopped c.inDie c.egDie))
  let key (c : CPkt) : Nat := (7 - pClass c.pkt) * 2 ^ 40 + c.id
  (l.filter (fun c => !l.any (fun e => e.inp == c.inp && s.ctlOut e == s.ctlOut c && decide (key e < key c)))).map
    (fun c => (c.inp, c))

/-- The partner a pointer of the control crossbar falls on, class 7 before class 6. -/
def ctlPick (ptr : Nat) (l : List (Nat × CPkt)) : Option (Nat × CPkt) :=
  let seven := l.filter (fun a => pClass a.2.pkt == 7)
  minBy (fun a : Nat × CPkt => (a.1 + 256 - ptr) % 256) (if seven.isEmpty then l else seven)

/-- A reply is of the incarnation its requester recorded (14 R585): of the target block, or, where a die may have decided it
(02 R83), of that die. -/
def incMatches (inc : Option Nat) (dieInc status got : Nat) : Bool :=
  match inc with
  | none => true
  | some i => i == got || ((status == stDenied || status == stQuenched) && dieInc == got)

/-- The ACK that `x` awaits: of its tenancy and target, for its flow and sequence number. -/
def AckWait.isFor (x : AckWait) (w : Word256) : Bool :=
  hTen x.hdr == cTen w && hDst x.hdr == pSrc w && pClass x.hdr == aClass w && hEntropy x.hdr == aEnt w && hSeq x.hdr == aSeq w

/-- An ACK reaches the service ID on die `d`. One of another incarnation than its WRITE recorded is discarded and counted (14 R585);
one that refuses a WRITE of a host window raises a contained fault naming the window's flow and the target (13 R541). An ACK that no
WRITE awaits comes to nothing. -/
def Sw.ackIn (s : Sw) (d : Nat) (w : Word256) : Sw :=
  match s.brg.acks.find? (fun x => x.isFor w) with
  | none => s
  | some x =>
    if !incMatches x.inc x.dieInc (aStatus w) (cInc w) then s.inc (L.tenStaleReply.at d)
    else
      let s := { s with brg := { s.brg with acks := eraseOne x s.brg.acks } }
      if aStatus w = 0 then s
      else s.fault 0x51 64 (some (cTen w)) (detP (cDst w) (pSrc w) (aEnt w) (aClass w) 0 0) (aSeq w * 2 ^ 32)

/-- A control packet reaches its egress: a SIGNAL toward an endpoint is held or goes on (11 R471), one for the part's service ID
waits for its unit; a SIGNAL for the part, a packet of the part for another ID of its own block (02 R80, 11 R471) and a LEX_RESP
(15 R612) are discarded and counted. -/
def Sw.ctlArrive (s : Sw) (c : CPkt) : Sw :=
  let s := { s with fab := { s.fab with ctl := s.fab.ctl.filter (fun e => e.id != c.id) } }
  match c.out with
  | .port p =>
    if pKind c.pkt = 2 ∧ s.role p = 1 then s.signalArrive c.egDie c.out c.pkt
    else { s with fab := { s.fab with
      nextOrd := s.fab.nextOrd + 1
      ctl := s.fab.ctl ++ [{ c with atEg := true, ord := s.fab.nextOrd + 1 }] } }
  | _ =>
    if pKind c.pkt = 2 then s.inc (L.agrSigDiscard.at c.egDie)
    else if cDst c.pkt % 32 ≠ 0 then s.inc (L.fabRxMalformed.at c.egDie)
    else if pKind c.pkt = 1 then s.ackIn c.egDie c.pkt
    else if pKind c.pkt = 7 then s.inc (L.lexMalformed.at 0)
    else { s with fab := { s.fab with svcCtl := s.fab.svcCtl ++ [c.pkt] } }

/-- A control packet has crossed a die: it stands at the link attachment of its egress die, or at its egress. -/
def Sw.ctlMove (s : Sw) (c : CPkt) : Sw :=
  if c.away then
    { s with fab := { s.fab with ctl := s.fab.ctl.map (fun x => if x.id = c.id then { x with link := true } else x) } }
  else s.ctlArrive c

/-- One matching iteration of the control crossbar: each output grants one packet, each input accepts one, class 7 first,
then by their pointers. -/
def Sw.ctlSlot (s : Sw) (d : Nat) : Sw :=
  let asks := s.ctlAsks d
  let outs := (asks.map (fun a => s.ctlOut a.2)).eraseDups
  let grants := outs.filterMap (fun o =>
    (ctlPick (s.fab.cgptr.getD (256 * d + o) 0) (asks.filter (fun a => s.ctlOut a.2 == o))).map (fun a => (o, a.2)))
  let inps := (grants.map (fun g => g.2.inp)).eraseDups
  inps.foldl (fun s i =>
    match ctlPick (s.fab.captr.getD (256 * d + i) 0) (grants.filter (fun g => g.2.inp == i)) with
    | none => s
    | some (o, c) =>
      { s with fab := { s.fab with cgptr := AMap.put s.fab.cgptr (256 * d + o) ((i + 1) % 256) 0
                                   captr := AMap.put s.fab.captr (256 * d + i) ((o + 1) % 256) 0 } }.ctlMove c) s

/-! ### Native codewords (12 R495 to R497) -/

/-- The two bits of a PAM4 symbol under Gray coding: bit 2i, the more significant, and bit 2i + 1 (12 R495). -/
def pamBits : Pam → Nat × Nat
  | .n3 => (0, 0)
  | .n1 => (0, 1)
  | .p1 => (1, 1)
  | .p3 => (1, 0)

/-- The symbol of bits 2i and 2i + 1. -/
def pamOf (hi lo : Bool) : Pam := if hi then (if lo then .p1 else .p3) else if lo then .n1 else .n3

/-- A symbol of a lane whose pair is inverted (12 R488). -/
def Pam.flip : Pam → Pam
  | .n3 => .p3
  | .n1 => .p1
  | .p1 => .n1
  | .p3 => .n3

/-- The bits that PAM4 symbols carry, bit 0 first. -/
def pamNat : List Pam → Nat
  | [] => 0
  | x :: l => (pamBits x).1 + 2 * (pamBits x).2 + 4 * pamNat l

/-- The symbols of `2 n` bits, bit 0 first. -/
def pamList (n v : Nat) : List Pam := (List.range n).map (fun i => pamOf (bit v (2 * i)) (bit v (2 * i + 1)))

/-- Ten bits of a kind symbol: a 5-bit value, and its inverse above it (12 R495). -/
def kindBits (k : Nat) : Nat := k + (31 - k) * 32

/-- The kinds of the blocks of a codeword: one of kind 0b0_0001, or blocks 0 to 15 of a long one. -/
def cwKinds (long : Bool) : List Nat := if long then (List.range 16).map (fun i => 16 + i) else [1]

/-- The message of a short codeword (12 Table 12.3). -/
def shortMsg (nak idle eidle : Bool) (lseq aseq pkt : Nat) : Nat :=
  b2n nak * 2 ^ 291 + b2n idle * 2 ^ 290 + b2n eidle * 2 ^ 289 + lseq * 2 ^ 272 + aseq * 2 ^ 256 + pkt

/-- Bytes of flits, one after another. -/
def flitBits : List Bytes → Nat
  | [] => 0
  | f :: l => leNat (slice f 0 64) + 2 ^ 512 * flitBits l

/-- The message of a long codeword: the header of Table 12.4 in its lowest 160 bits, flits 0 to 9 above it (12 R497; DEDUCED, log
148). -/
def longMsg (nak eidle : Bool) (lseq aseq fsop : Nat) (fl : List Bytes) : Nat :=
  lseq * 2 ^ 144 + aseq * 2 ^ 128 + b2n nak * 2 ^ 127 + b2n eidle * 2 ^ 126 + (2 ^ fl.length - 1) * 2 ^ 116 + fsop * 2 ^ 106 +
  2 ^ 160 * flitBits fl

/-- The message that carries a load. -/
def Load.msg (l : Load) (nak : Bool) (lseq aseq : Nat) : Nat :=
  match l with
  | .ctl w => shortMsg nak false false lseq aseq w.toNat
  | .flits o fl => longMsg nak false lseq aseq o fl

/-- A load of flits makes a long codeword. -/
def Load.long : Load → Bool
  | .ctl _ => false
  | .flits _ _ => true

/-- Bytes of a codeword in the replay buffer (12 R504). -/
def Load.size (l : Load) : Nat := if l.long then 660 else 40

/-- The flits of a packet of `plen` p, p + 1 of them, the last filled with zeros (12 R498). -/
def flitsOf (bs : Bytes) : List Bytes := (List.range (cdiv bs.length 64)).map (fun i => slice bs (64 * i) 64)

/-- What long codewords carry of a packet: ten flits each, the first one beginning the packet. -/
def loadsOf (fl : List Bytes) : List Load :=
  (List.range (cdiv fl.length 10)).map (fun i => .flits (if i = 0 then 1 else 0) ((fl.drop (10 * i)).take 10))

/-! ### The native transmitter (12 R499, R500, R503, R504) -/

/-- Bytes of the replay buffer in use, and its size: 64 KiB for each lane. -/
def Sw.keptBytes (s : Sw) (p : Nat) : Nat := sumBy (fun k => k.load.size) (s.port p).kept
def Sw.keptRoom (s : Sw) (p : Nat) : Nat := 65536 * (s.port p).width

/-- Long codewords that carry a data packet of `plen` units: `plen` + 1 flits, ten to a codeword that no other packet
shares (12 R497, R498; DESIGN CHOICE, log 21). -/
def longWords (plen : Nat) : Nat := cdiv (plen + 1) 10

/-- The port's replay buffer takes `n` codewords of `size` bytes; an Ethernet port keeps none. -/
def Sw.linkRoom (s : Sw) (p n size : Nat) : Bool :=
  (s.port p).mode != 1 || decide (s.keptBytes p + n * size ≤ s.keptRoom p)

/-- Line bits of a native lane in 1 ns, of a block, and of a comma with its lane tag (R494, R496, R500); the lane's line bits
from one tag to the next where all its codewords are short. -/
def lineBits : Nat := 224
def blockBits : Nat := 350
def tagBits : Nat := 96
def tagCycle : Nat := blockBits * 16384 + tagBits

/-- The transmitter of a lane after codewords and blocks: after every 16,384 codewords a comma and a lane tag follow, and the
scrambler starts again (R499, R500). -/
def LaneSt.sends (x : LaneSt) (words blocks : Nat) : LaneSt :=
  let n := x.sent + words
  { x with
    freeAt := x.freeAt + blockBits * blocks + tagBits * (n / 16384)
    sent := n % 16384
    scr := if n < 16384 then x.scr + 340 * blocks else 340 * (n % 16384) }

/-- Idle short codewords that fill a lane until line bit `t` (R503), and the lane after them. -/
def LaneSt.idles (x : LaneSt) (t : Nat) : Nat :=
  let d := t - x.freeAt
  let first := blockBits * (16384 - x.sent)
  if d ≤ first then cdiv d blockBits
  else
    let e := d - (first + tagBits)
    16384 - x.sent + e / tagCycle * 16384 + min 16384 (cdiv (e % tagCycle) blockBits)
def LaneSt.idleTo (x : LaneSt) (t : Nat) : LaneSt := if t ≤ x.freeAt then x else x.sends (x.idles t) (x.idles t)

/-- The lane tag of a port's lane (R500): port number, offset and 0x5, with the inverse of these bits above. -/
def laneTag (p off : Nat) : Nat := let v := p * 128 + off * 16 + 5; v + (65535 - v) * 65536

/-- Commas and tags that a lane sent, if any. -/
def Sw.commas (s : Sw) (p lane n : Nat) : Sw := if n = 0 then s else s.send (.comma p lane (laneTag p (lane - p)) n)

/-- The lanes of a native port are driven: it is Aligning or Up, and out of electrical idle (R494, R500, R520). -/
def Sw.driven (s : Sw) (p : Nat) : Bool :=
  let x := s.port p
  x.mode == 1 && (x.st == .aligning || x.st == .up) && !x.eidleTx

/-- Every lane of a driven port has sent idle codewords, commas and tags up to now. -/
def Sw.linesTo (s : Sw) (p : Nat) : Sw :=
  if !s.driven p then s
  else (List.range (s.port p).width).foldl (fun s i =>
    let x := s.lane (p + i)
    let n := x.idles (lineBits * s.now)
    (s.setLane (p + i) (x.idleTo (lineBits * s.now))).commas p (p + i) (if lineBits * s.now ≤ x.freeAt then 0 else (x.sent + n) / 16384)) s

/-- The lanes of a port begin to send, at this instant: no codeword since the last tag, the scrambler at all ones. -/
def Sw.linesBegin (s : Sw) (p : Nat) : Sw :=
  (List.range (s.port p).width).foldl (fun s i =>
    s.setLane (p + i) { (s.lane (p + i)) with freeAt := lineBits * s.now, sent := 0, scr := 0 }) s

/-- What every block says of the receiver: the last `lseq` accepted in order (R505). -/
def PortSt.aseq (x : PortSt) : Nat := (x.rxNext + 65535) % 65536

/-- The scrambler x^31 + x^28 + 1: its next state, the state after `n` bits, and the next `n` bits (R499). -/
def scrStep (r : Nat) : Nat := r / 2 + 2 ^ 30 * (Nat.xor r (r / 2 ^ 3) % 2)
def scrRun : Nat → Nat → Nat
  | 0, r => r
  | n + 1, r => scrRun n (scrStep r)
def scrBits : Nat → Nat → Nat
  | 0, _ => 0
  | n + 1, r => r % 2 + 2 * scrBits n (scrStep r)

/-- The levels of a codeword's blocks on the line: a kind symbol and 340 scrambled bits each; `n` coded bits since the last tag, when
the scrambler was all ones; the transmitter may invert (R488, R495, R499). -/
def wireBlocks (inv long : Bool) (msg n : Nat) : List (List Pam) :=
  let bits := Config.rsCoded (if long then 544 else 34) msg
  (cwKinds long).zipIdx.map (fun k =>
    let body := Nat.xor (fld bits (340 * k.2) 340) (scrBits 340 (scrRun (n + 340 * k.2) (2 ^ 31 - 1)))
    let l := pamList 175 (kindBits k.1 + 2 ^ 10 * body)
    if inv then l.map Pam.flip else l)

/-- One codeword goes on the lane of the port that becomes free first at a block boundary, the lowest on a tie (R499). -/
def Sw.putWord (s : Sw) (p : Nat) (long : Bool) (msg : Nat) : Sw :=
  let s := s.linesTo p
  match minBy (fun n => (s.lane n).freeAt) ((List.range (s.port p).width).map (fun i => p + i)) with
  | none => s
  | some n =>
    let y := s.lane n
    (((s.setLane n (y.sends 1 (if long then 16 else 1))).send
      (.codeword p n msg (wireBlocks (bit (s.rd L.linkLanePol n) 0) long msg y.scr)))).commas p n ((y.sent + 1) / 16384)

/-- A sequenced codeword leaves, the first time or again, with what its block says of the receiver; a `nak` that is due goes with
it (R505). -/
def Sw.putLoad (s : Sw) (p lseq : Nat) (l : Load) : Sw :=
  let x := s.port p
  (s.putWord p l.long (l.msg x.nakDue lseq x.aseq)).updPort p (fun y => { y with nakDue := false })

/-- An idle short codeword that says something leaves (R505, R520). -/
def Sw.putIdle (s : Sw) (p : Nat) (eidle : Bool) : Sw :=
  let x := s.port p
  (s.putWord p false (shortMsg x.nakDue true eidle 0 x.aseq 0)).updPort p (fun y => { y with nakDue := false })

/-- A sequenced codeword leaves and is kept (R503). -/
def Sw.putSeq (s : Sw) (p : Nat) (l : Load) : Sw :=
  (s.putLoad p (s.port p).lseq l).updPort p (fun y => { y with
    lseq := (y.lseq + 1) % 65536, kept := y.kept ++ [⟨y.lseq, s.now, l⟩] })

/-- What a packet is carried by leaves: the port is no longer quiet, and an entry to electrical idle that was asked for is
abandoned (R520). -/
def Sw.linkSend (s : Sw) (p : Nat) (ls : List Load) : Sw :=
  let s := s.updPort p (fun y => { y with quietAt := s.now, wantIdle := false })
  if (s.port p).mode ≠ 1 then s else ls.foldl (fun s l => s.putSeq p l) s

/-! ### The egress side of a port -/

/-- A control packet goes on the wire of a port. -/
def Sw.putCtl (s : Sw) (p : Nat) (w : Word256) : Sw :=
  (((s.send (.ctl p w)).frameTx p (pClass w) (wordBytes w)).countTx p 32).linkSend p [.ctl w]

/-- The totals a CREDIT would carry now. -/
def Sw.totals (s : Sw) (p : Nat) : List Nat := (List.range 8).map (fun c => (s.credit p c).total)

/-- A CREDIT is due: a native or fabric port whose totals differ from those last sent (R66). -/
def Sw.creditDue (s : Sw) (p : Nat) : Bool := !(s.port p).plain && s.totals p != (s.port p).sentTot

/-- A packet is leaving at a port. -/
def Sw.leavingAt (s : Sw) (p : Nat) : Option DPkt :=
  s.fab.pkts.find? (fun k => k.stage == .leaving && decide (k.out = .port (Fin.ofNat 512 p)))

/-- Control packets waiting at a port in class `c`, and the first of them. -/
def Sw.ctlHead (s : Sw) (p c : Nat) : Option CPkt :=
  minBy CPkt.ord (s.fab.ctl.filter (fun e => e.atEg && decide (e.out = .port (Fin.ofNat 512 p)) && pClass e.pkt == c))

/-- The first copy made that is queued at an analysis port (R142; the order is a DESIGN CHOICE, log 114). -/
def Sw.copyHead (s : Sw) (p : Nat) : Option DPkt :=
  minBy DPkt.ord (s.fab.pkts.filter (fun k => k.stage == .queued && k.mir.isSome && k.fin.isSome && k.moved == k.cells &&
    decide (k.out = .port (Fin.ofNat 512 p))))

/-- The oldest ruled data packet of class `c` at a port. -/
def Sw.ruledHead (s : Sw) (p c : Nat) : Option DPkt :=
  minBy DPkt.ord (s.fab.pkts.filter (fun k => k.stage == .queued && k.mir.isNone && pClass k.hdr == c &&
    decide (k.out = .port (Fin.ofNat 512 p))))

/-- What a port sends next. -/
inductive Pick
  | credit
  | ctl (c : CPkt)
  | data (k : DPkt) (free : Bool)
deriving DecidableEq, Repr

/-- The ruled packet to send: the highest class with one ready, first in first out within the class; class 6 holds
control packets too (R180 level 2). -/
def Sw.pickRuled (s : Sw) (p : Nat) : Option Pick :=
  [6, 5, 4, 3, 2, 1, 0].findSome? (fun c =>
    if !s.ruled c ∨ s.paused p c then none
    else
      let d := s.ruledHead p c
      let e := if c = 6 then s.ctlHead p 6 else none
      match d, e with
      | some k, some x =>
        if x.ord < k.ord then some (.ctl x) else if s.mayLeave p k then some (.data k false) else none
      | some k, none => if s.mayLeave p k then some (.data k false) else none
      | none, some x => some (.ctl x)
      | none, none => none)

/-- The selection of R180, with the Bellows state moved where a free data packet is chosen. -/
def Sw.pick (s : Sw) (p : Nat) : Option Pick × Sw :=
  if s.role p = 3 then ((s.copyHead p).map (fun k => .data k false), s)
  else if s.creditDue p then (some .credit, s)
  else match (if s.paused p 7 then none else s.ctlHead p 7) with
  | some c => (some (.ctl c), s)
  | none => match s.pickRuled p with
  | some x => (some x, s)
  | none => match (if s.ruled 6 ∨ s.paused p 6 then none else s.ctlHead p 6) with
  | some c => (some (.ctl c), s)
  | none =>
    let r := s.pickFree p
    (r.1.map (fun k => .data k true), r.2)

/-- The chosen packet leaves or begins to. -/
def Sw.sendPick (s : Sw) (p : Nat) : Pick → Sw
  | .credit =>
    let t := s.totals p
    (s.putCtl p (mkCredit t)).updPort p (fun y => { y with sentTot := t })
  | .ctl c =>
    let s := { s with fab := { s.fab with ctl := s.fab.ctl.filter (fun e => e.id != c.id) } }
    s.putCtl p c.pkt
  | .data k free =>
    let c := pClass k.hdr
    let s := match s.flow (hFlow k.hdr) with
      | some f => if f.overflow ∧ s.resequences k then s.beginSignal k f else s
      | none => s
    let k := (s.pkt? k.id).getD k
    let s := (s.updPkt k.id (fun q => { q with stage := .leaving, cut := q.fin.isNone })).partialLeaves k
    let s := if !free ∨ (s.port p).plain then s
      else s.setCredit p c { (s.credit p c) with tx := (s.credit p c).tx - k.cells }
    let s := s.updPort p (fun y => { y with quietAt := s.now, wantIdle := false })
    let s := if k.mir.isSome then s else s.mirror true (some p) { k with stage := .leaving }
    if free then s.afterServe p c k.qn else s

/-- The codewords a choice needs. -/
def Pick.words : Pick → Nat × Nat
  | .data k _ => (longWords (hPlen k.hdr), 660)
  | _ => (1, 40)

/-- The link die of a port runs (01 R27). -/
def Sw.linkRuns (s : Sw) (p : Nat) : Bool := !s.pins.d2dFatal.contains (6 + p / 64)

/-- A packet in deep pages is read back before it is sent (04 R170); one that cannot be read has not started egress, and is
discarded whole (02 R73). None: there is nothing to send of it. -/
def Sw.fromDeep (s : Sw) : Pick → Option Pick × Sw
  | .data k free =>
    if k.deep.isEmpty then (some (.data k free), s)
    else
      let r := s.deepRead k.deep
      match r.1 with
      | none => (none, r.2.failPkt k.id)
      | some bs =>
        let pay := slice bs 32 (64 * hPlen k.hdr)
        (some (.data { k with pay := pay } free), r.2.updPkt k.id (fun q => { q with pay := pay }))
  | x => (some x, s)

/-- A packet boundary at an egress port (R180; R521 where the transmitter is idle). -/
def Sw.egressSelect (s : Sw) (p : Nat) : Sw :=
  let x := s.port p
  if !s.portUp p ∨ !s.linkRuns p ∨ (s.leavingAt p).isSome ∨ x.exitAt.isSome then s
  else
    let s := s.bellowsUp
    let r := s.pick p
    match r.1 with
    | none => r.2
    | some k =>
      if x.eidleTx then s.updPort p (fun y => { y with exitAt := some s.now })
      else if s.linkRoom p k.words.1 k.words.2 then
        let d := r.2.fromDeep k
        match d.1 with
        | some k => d.2.sendPick p k
        | none => d.2
      else s

/-- A packet that was leaving is gone: its cells are free, its flow goes on. -/
def Sw.leftPort (s : Sw) (k : DPkt) (good : Bool) : Sw :=
  let f := hFlow k.hdr
  let s := match s.flow f with
    | some x =>
      if k.mir.isNone ∧ (x.current = some k.id ∨ (x.overflow ∧ good)) then s.endDelivery f k good else s
    | none => s
  (s.freePkt k).reseq f

/-- The payload a packet leaves with: that of a staged RESULT is read back, whole lines at a time; none where a line is
uncorrectable or its stack is in reset (08 R346, 10 R436). -/
def Sw.readBack (s : Sw) (k : DPkt) : Option Bytes × Sw :=
  match k.staged with
  | none => (some k.pay, s)
  | some a => s.readLines a (cdiv k.pay.length 64) rdAnvil

/-- The end word of the packet that is leaving at a port goes out (Table 3.3); what was received before the fault of a
poisoned packet, then zero filler (R125). On a native port its flits leave with it, ten to a long codeword (12 R498; DESIGN
CHOICE, log 21). -/
def Sw.egressComplete (s : Sw) (p : Nat) : Sw :=
  match s.leavingAt p with
  | none => s
  | some k =>
    match k.fin with
    | none => s
    | some good =>
      if k.moved < k.cells then s
      else
        let n := 64 * hPlen k.hdr
        let r := s.readBack k
        let good := good && r.1.isSome
        let pay := slice (r.1.getD []) 0 n
        let s := (r.2.putData p k.hdr pay good).linkSend p (loadsOf (flitsOf (dataWire k.hdr pay good)))
        let s := if good then s else (s.inc (L.fabRxPoisonMade.at k.egDie)).poisonCopies k.id
        let s := if good then s else s.loseRes k.hdr
        let s := s.leftPort k good
        if pKind k.hdr = 6 ∧ k.mir.isNone ∧ s.own (pSrc k.hdr) then s.collDrain (hTen k.hdr) (kGroup k.hdr) (kCseq k.hdr) .both |>.admitScan else s

end Sys2Proof.Machine
end

