-- ==== Sys2Proof/Machine/Billets.lean ====
section
/-! DEFINITION. The commands of chapter 04: billets, their rings, pool sizes and quotas. -/

namespace Sys2Proof.Machine

/-- What a write of an entry with rules of its own answers: a status of Table 15.5 and the state, or the rule that leaves
the use undefined. -/
abbrev WrRes := Except Nat (Nat × Sw)

/-- A write that took effect, and one refused with Out-of-Range (15 R600). -/
def wrOk (s : Sw) : WrRes := .ok (0, s)
def wrRange (s : Sw) : WrRes := .ok (4, s)

/-- An RWQ entry of the switch core is written only while the core is quenched; else the use is undefined (15 R595, R630). -/
def Sw.rwq (s : Sw) (r : WrRes) : WrRes := if s.coreQuenched then r else .error 630

/-- The end of a command that is such a write. -/
def State.endsWr (s : State) (r : WrRes) : Host.Outcome State Fault Refusal :=
  match r with
  | .ok x => s.ends x.2
  | .error n => .fault (.undefinedUse n)

/-! ### Allocate and free (R162 to R164) -/

/-- BILLET_ALLOCATE: the null handle, a billet, or a request that waits (R162, R163); a context spills before it waits
(07 R291). -/
def execBilletAllocate (die : Die) (owner : Owner) (ten : Option Ten) (bytes : Nat) (s : State) :
    Host.Outcome State Fault Refusal :=
  let w := s.sw.spillsFor owner bytes
  match w.allocate die owner ten bytes with
  | .null => .next s
  | .got _ w => s.ends w
  | .wait | .pending => s.ends (w.addWait die owner ten bytes .owner)

/-- BILLET_FREE: a billet of `owner` returns to its pool on the die that its handle names, and what waits is tried again (R164); a
handle that was not granted to `owner` is an undefined use (R178). -/
def execBilletFree (_die : Die) (owner : Owner) (handle : BitVec 32) (s : State) : Host.Outcome State Fault Refusal :=
  let h := handle.toNat
  match s.sw.bil.granted.get? h with
  | some g => if g.owner = owner then s.ends (s.sw.release h).bilRetry else .fault (.undefinedUse 178)
  | none => .fault (.undefinedUse 178)

/-! ### Rings (R153 to R156) -/

/-- FREE_RING_REFILL: a cache of fewer than 128 handles takes 256 more, 16 to a ring line; those of the uncorrectable lines,
`badLines` among them, are lost until the next rebuild. -/
def execFreeRingRefill (die : Die) (pool : Fin 6) (badLines : List (Fin 16)) (s : State) :
    Host.Outcome State Fault Refusal :=
  if 128 ≤ runLen (s.sw.store die pool).cache then .next s
  else s.ends (s.sw.refill die pool (badLines.map Fin.val)).bilRetry

/-- FREE_RING_WRITEBACK: 256 handles go back to the ring (R153), the oldest of the cache (DESIGN CHOICE, log 9). -/
def execFreeRingWriteback (die : Die) (pool : Fin 6) (s : State) : Host.Outcome State Fault Refusal :=
  if runLen (s.sw.store die pool).cache ≤ 448 then .next s else s.ends (s.sw.writeback die pool)

/-- A rebuild starts: every handle of the die is free, requests wait until it completes (R155). A write to one die's `bil.pool.units`
or `bil.deep.gib` rebuilds the rings and caches of that die alone (DESIGN CHOICE, log 151). -/
def Sw.startRebuild (s : Sw) (d : Nat) : Sw :=
  let s := s.rebuildDie d
  { s with bil := { s.bil with rebuild := insertNat d s.bil.rebuild } }

/-- A write to `bil.pool.units` of die `d`: the elements it covers (R149, R155). -/
def Sw.wrPoolUnits (s : Sw) (d : Nat) (us : List (Nat × Nat)) : WrRes :=
  s.rwq (
    let s' := us.foldl (fun s u => s.wr (L.bilPoolUnits.at d) u.1 u.2) s
    if 768 < sumBy (fun p => s'.rd (L.bilPoolUnits.at d) p) (List.range 5) then wrRange s else wrOk (s'.startRebuild d))

/-- POOL_UNITS_WRITE (R149). -/
def execPoolUnitsWrite (die : Die) (units : List (Fin 5 × BitVec 16)) (s : State) : Host.Outcome State Fault Refusal :=
  s.written 0x5000 (1 + die) (s.endsWr (s.sw.wrPoolUnits die (units.map (fun u => (u.1.val, u.2.toNat)))))

/-- Reserved granules of a die, local numbers below this one (08 R310). -/
def Sw.reservedGran (s : Sw) (d : Nat) : Nat := 4 + s.rd (L.bilDeepGib.at d) + s.rd (L.anvilSpillGib.at d)

/-- No granule below the reserved limit is bound (04 R169, 08 R310; DESIGN CHOICE, log 22). -/
def Sw.reservedFree (s : Sw) (d : Nat) : Bool :=
  (s.elems L.tenHbm).all (fun e => !bit e.2 31 || s.hbmDie (e.1 * gib) != d || decide (s.reservedGran d ≤ e.1 - d * (s.dieRegion / gib)))

/-- A write to `bil.deep.gib` (R155, R169). -/
def Sw.wrDeepGib (s : Sw) (d v : Nat) : WrRes :=
  s.rwq (
    let s' := s.wr (L.bilDeepGib.at d) 0 v
    if 16 < v ∨ 64 < sumBy (fun k => s'.rd (L.bilDeepGib.at k)) (List.range 4) ∨ !s'.reservedFree d then wrRange s
    else wrOk (s'.startRebuild d))

/-- DEEP_GIB_WRITE (R169). -/
def execDeepGibWrite (die : Die) (gib : BitVec 8) (s : State) : Host.Outcome State Fault Refusal :=
  s.written 0x5008 (1 + die) (s.endsWr (s.sw.wrDeepGib die gib.toNat))

/-- BILLET_REBUILD_COMPLETE (R155): requests are served again. -/
def execBilletRebuildComplete (die : Die) (s : State) : Host.Outcome State Fault Refusal :=
  if s.sw.bil.rebuild.contains die then
    s.ends ({ s.sw with bil := { s.sw.bil with rebuild := s.sw.bil.rebuild.filter (fun d => d != die.val) } }).bilRetry
  else .next s

/-! ### Quotas (R160, R165) -/

/-- The sum of the minima homed in pool `p` of die `d` (R165). -/
def Sw.minima (s : Sw) (d p : Nat) : Nat :=
  sumBy (fun o => let q := s.ownerQuota d o; if q.home = p then q.min else 0) (s.reserveOwners d) +
  sumBy (fun e => let q := s.tenQuota d e.1; if q.home = p then q.min else 0) (s.elems (L.bilTenQuota.at d))

/-- Every pool of a die holds its minima. -/
def Sw.minimaFit (s : Sw) (d : Nat) : Bool := (List.range 5).all (fun p => decide (s.minima d p ≤ s.bilCount d p))

/-- The entry a quota table names, and the die it belongs to. -/
def quotaReg (t : QuotaTable) (d el : Nat) : Reg × Nat :=
  match t with
  | .portMin => (L.bilPortMin, laneDie (el / 8))
  | .portMax => (L.bilPortMax, laneDie el)
  | .ten => (L.bilTenQuota.at d, d)
  | .ctx => (L.bilCtxQuota.at d, d)
  | .core => (L.bilCoreQuota.at d, d)

/-- Elements of each quota table. -/
def quotaCount : QuotaTable → Nat
  | .portMin => 4096
  | .portMax => 512
  | .ten => 256
  | .ctx => 1024
  | .core => 16

/-- A quota word as it is kept: its reserved bits read 0 (00 R15). -/
def quotaMask (t : QuotaTable) (v : Nat) : Nat :=
  match t with
  | .portMin => v % 65536
  | .portMax => v % 2 ^ 32
  | _ => setFld v 40 21 0 % 2 ^ 64

/-- A quota write of elements of one table (R160, R165): it takes effect for the next grant; a larger reserve of a port that is Up
is set aside and offered at once (R166). Minima that do not fit their
pool are refused; a write that leaves their sum as it was or lower is not (log 24). -/
def Sw.wrQuotas (s : Sw) (t : QuotaTable) (d : Nat) (us : List (Nat × Nat)) : WrRes :=
  let s' := us.foldl (fun s u => s.wr (quotaReg t d u.1).1 u.1 (quotaMask t u.2)) s
  let home (v : Nat) : Bool := match t with | .portMin | .portMax => false | _ => decide (5 ≤ fld v 61 3)
  let worse (e : Nat) : Bool := (List.range 5).any (fun p =>
    decide (s'.bilCount e p < s'.minima e p ∧ s.minima e p < s'.minima e p))
  let sync (s : Sw) : Sw := match t with
    | .portMin => us.foldl (fun s u => s.reserveSync (u.1 / 8) (u.1 % 8)) s
    | _ => s
  if us.any (fun u => decide (quotaCount t ≤ u.1) || home u.2 || worse (quotaReg t d u.1).2) then wrRange s else wrOk (sync s').bilRetry

/-- A quota write of one element. -/
def Sw.wrQuota (s : Sw) (t : QuotaTable) (d el v : Nat) : WrRes := s.wrQuotas t d [(el, v)]

/-- QUOTA_WRITE (R165). -/
def execQuotaWrite (table : QuotaTable) (die : Die) (el : Nat) (value : BitVec 64) (s : State) :
    Host.Outcome State Fault Refusal := s.written (quotaReg table die el).1.index 1 (s.endsWr (s.sw.wrQuota table die el value.toNat))

/-! ### Starvation (R174) -/

/-- The number by which a starvation fault names an owner: its rank of R164, and its unit (log 23). -/
def ownerCode : Owner → Nat
  | .ingress p c => Config.ownerCode 1 (8 * p.val + c.val)
  | .egress p c => Config.ownerCode 2 (8 * p.val + c.val)
  | .ctx c => Config.ownerCode 3 c.val
  | .core c => Config.ownerCode 4 c.val
  | .target i => Config.ownerCode 5 i.val
  | .bridge d => Config.ownerCode 1 (4096 + d.val)
  | .toOwn i => Config.ownerCode 2 (4096 + i.val)
  | .mirror k => Config.ownerCode 6 k.val

/-- BILLET_STARVATION_TIMEOUT: waiting request `req` of the die has waited `bil.wait_ns`: one contained fault; it keeps
waiting (R174). -/
def execBilletStarvationTimeout (die : Die) (req : Nat) (s : State) : Host.Outcome State Fault Refusal :=
  let w := s.sw
  match (w.bil.waits.filter (fun r => r.die == die.val))[req]? with
  | none => .next s
  | some r =>
    let ns := w.rd L.bilWaitNs
    if ns = 0 ∨ r.warned then .next s
    else
      let w := w.reach (deadline r.since ns)
      let w := { w with bil := { w.bil with waits := w.bil.waits.map (fun x => if x = r then { x with warned := true } else x) } }
      s.ends (w.fault 0x15 die (r.ten.map BitVec.toNat) (poolFor r.bytes) (ownerCode r.owner))

end Sys2Proof.Machine
end

