-- ==== Sys2Proof/Machine/Collectives.lean ====
section
/-! DEFINITION. The commands of chapters 07 and 10 that concern collectives: packets to the service ID, node and root
formation, spills, timers, group entries. -/

namespace Sys2Proof.Machine

/-! ### Packets taken from the service ID -/

/-- A control packet that waited at the service ID is taken. -/
def Sw.takeCtl (s : Sw) (w : Word256) : Sw := { s with fab := { s.fab with svcCtl := eraseOne w s.fab.svcCtl } }

/-- The lowest die of `anvil.dies`, which counts packets that name no block (log 26). -/
def Sw.anvilLow (s : Sw) : Nat := s.anvilDies.headD 0

/-- A denied collective packet (R411): counted; an endpoint is told, with the digest of the packet (R415). -/
def Sw.collDeny (s : Sw) (d src t g q dig : Nat) : Sw :=
  let s := s.inc (L.collDenied.at d)
  if s.epKind src = 1 then s.sendColl d src t g q 3 9 0 .both dig else s

/-- A packet that is stale for its group is discarded and counted (R419). -/
def Sw.collStaleAt (s : Sw) (d : Nat) : Sw := s.inc (L.collStale.at d)

/-! ### Descriptors and contributions -/

/-- A descriptor's first entry that still waits for a die keeps its billets; they return where none waits. -/
def Sw.keepBil (s : Sw) (h : Word256) (bil : List Nat) : Sw :=
  match s.anv.admq.find? (fun e => !e.ctl && decide (e.pkt.hdr = h)) with
  | none => s.freeBil bil
  | some e => s.updAnv (fun a => { a with admq := a.admq.map (fun x =>
      if x.die = e.die ∧ !x.ctl ∧ x.pkt = e.pkt then { x with pkt := { x.pkt with bil := x.pkt.bil ++ bil } } else x) })

/-- A descriptor (R411 to R417, R419, R420): it is placed on every die of its blocks, or waits there, and then acts on its slots.
Where it is bad its fault is raised once, on the first die it reaches (07 R297; DEDUCED, log 133). -/
def Sw.rxDescriptor (s : Sw) (k : Stored) : Sw :=
  let h := k.hdr
  let t := hTen h
  let g := kGroup h
  let q := kCseq h
  let low := s.anvilLow
  if s.collDenied g t (pSrc h) (some (pClass h)) then (s.freeBil k.bil).collDeny low (pSrc h) t g q (kDigest h)
  else if s.collStaleFor g q then (s.freeBil k.bil).collStaleAt low
  else
    let p := leNat (k.pay.take 64)
    let placed := (s.descDies h p).foldl (fun (a : List Nat × Sw) d =>
      match a.2.placeColl d t g q with
      | some (c, s') => (a.1 ++ [c], if slotCase (s'.slot c q) q = 3 then s'.openSlot c q (some (kDigest h)) else s')
      | none => (a.1, a.2.admitWait d false { k with bil := [] })) ([], s)
    let r := placed.1.foldl (fun (a : List Nat × Sw) c => a.2.giveDesc c h p a.1) ([], placed.2)
    r.2.keepBil h k.bil

/-- COLL_DESCRIPTOR_RECEIVE (07 R257, R416): a descriptor that waits at the service ID. Of a packet with another `level` it takes
nothing. -/
def execCollDescriptorReceive (hdr : Word256) (payload : Bytes) (s : State) : Host.Outcome State Fault Refusal :=
  if kLevel hdr = 1 ∧ (pKind hdr = 4 ∨ pKind hdr = 5) ∧ hDst hdr = s.sw.svcEp ∧ s.sw.svcHas hdr payload ∧
      !s.sw.collWaits (kGroup hdr) then
    let k := s.sw.takeKeep hdr payload
    s.ends (k.2.rxDescriptor k.1).admitScan
  else .next s

/-- A gather-phase block of UPDATE on its way to the top (R438 step 3): sent on unchanged, or committed at the top once
all its parts are there. -/
def Sw.rxGathered (s : Sw) (k : Stored) : Sw :=
  let h := k.hdr
  let free (s : Sw) : Sw := s.freeBil k.bil
  let t := hTen h
  let g := kGroup h
  let q := kCseq h
  let n := bNum h
  let d := s.blockDie n
  if s.collDenied g t (pSrc h) (some (pClass h)) then (free s).collDeny d (pSrc h) t g q (kDigest h)
  else if s.collStaleFor g q then (free s).collStaleAt d
  else match s.slotFor d t g q with
  | some (c, 1) =>
    let y := s.slot c q
    if y.st = .aborting then (free s).inc (L.anvilStale.at d)
    else if y.digest ≠ some (kDigest h) then (free s).abortHere c q 1
    else if !gTop (s.group g) then
      ((free s).sendBlock d c 5 t g q (kDigest h) 2 (blockGfa t (gParent (s.group g)) n (bPart h)) 0 (k.pay.take (validLen h)))
    else
      let w := (y.word.getD 0) % 2 ^ 128
      let want := updateParts w n
      let old := (y.blocks.filter (fun b => b.num == n)).flatMap Blk.stored
      if (s.coll t g q).gathered.contains n ∨ old.any (fun p => bPart p.hdr == bPart h) then (free s).dupContrib d t g q (pSrc h)
      else
        let all := old ++ [k]
        let s := k.bil.foldl (fun s h => s.recharge h (.ctx (Fin.ofNat 4096 c))) s
        let s := s.updSlot c q (fun y => { y with blocks := y.blocks.filter (fun b => b.num != n) ++ [{ num := n, stored := all }] })
        if all.length < want then s
        else
          let bs := (List.range want).flatMap (fun i =>
            (all.filter (fun p => bPart p.hdr == i)).flatMap (fun p => p.pay.take (validLen p.hdr)))
          let s := s.updSlot c q (fun y => { y with blocks := y.blocks.filter (fun b => b.num != n) })
          (((s.releaseAll (all.flatMap Stored.bil)).bilRetry).commit c q n bs true)
  | _ => (free s).inc (L.anvilStale.at d)

/-- A block packet of a member (R282, R411, R419, R420). -/
def Sw.rxContrib (s : Sw) (k : Stored) : Sw :=
  let h := k.hdr
  let t := hTen h
  let g := kGroup h
  let q := kCseq h
  let d := s.blockDie (bNum h)
  if s.collDenied g t (pSrc h) (some (pClass h)) then (s.freeBil k.bil).collDeny d (pSrc h) t g q (kDigest h)
  else if s.collStaleFor g q then (s.freeBil k.bil).collStaleAt d
  else
    match s.placeColl d t g q with
    | some (c, s') => s'.contribAt c k
    | none => s.admitWait d false k

/-- ANVIL_CONTRIBUTION (07 R257, R282, 10 R438): a packet to the service ID that waits there, its end word checked and good; no
other has arrived (DEDUCED, log 135). Of a descriptor it takes nothing. -/
def execAnvilContribution (hdr : Word256) (payload : Bytes) (s : State) : Host.Outcome State Fault Refusal :=
  let k := s.sw.takeKeep hdr payload
  if (pKind hdr ≠ 4 ∧ pKind hdr ≠ 5) ∨ hDst hdr ≠ s.sw.svcEp ∨ !s.sw.svcHas hdr payload ∨ s.sw.collWaits (kGroup hdr) then .next s
  else if kLevel hdr = 0 then s.ends (k.2.rxContrib k.1).admitScan
  else if kLevel hdr = 2 ∧ pKind hdr = 5 then s.ends (k.2.rxGathered k.1).admitScan
  else .next s

/-! ### Roots (07 R270, R274, R279, R299) -/

/-- The formed root of a block: one value over all members, at hand. -/
def Sw.rootOf (s : Sw) (c i n : Nat) : Option Item :=
  match s.anv.ctx.get? c with
  | none => none
  | some x =>
    let y := x.slot i
    match y.st, y.word, y.blocks.find? (fun b => b.num == n) with
    | .gathering, some _, some b =>
      match b.items with
      | [it] => if it.lo = 0 ∧ it.hi = (s.groupMembers (s.group x.group)).length ∧ (it.vals.isSome ∨ it.empty) then some it else none
      | _ => none
    | _, _, _ => none

/-- A block whose root has been handed on leaves its slot. -/
def Sw.blockDone (s : Sw) (c i n : Nat) (it : Item) : Sw :=
  let s := s.updSlot c i (fun y => { y with blocks := y.blocks.filter (fun b => b.num != n), done := y.done ++ [n] })
  let s := { s with bil := { s.bil with waits := s.bil.waits.filter (fun r =>
    !(decide (r.owner = Owner.ctx (Fin.ofNat 4096 c)) && decide (r.who = Waiter.held i n))) } }
  (s.releaseAll it.bil).bilRetry

/-- The root of block `n` is sent up, or converted and handed to the commit path (R270, R282). -/
def Sw.rootFormed (s : Sw) (c i n : Nat) : Sw :=
  match s.anv.ctx.get? c, s.rootOf c i n with
  | some x, some it =>
    if s.collWaits x.group then s
    else
      let y := x.slot i
      let word := y.word.getD 0
      let coll := dColl word
      let w := word % 2 ^ 128
      let b := (y.blocks.find? (fun b => b.num == n)).getD { num := n }
      let g := s.group x.group
      let d := c / 1024
      if gTop g then
        let r := resultOf coll w n (gNtotal g) it b.sat
        let s := (s.blockDone c i n it).updSlot c i (fun y => { y with
          astat := astatMerge y.astat r.2, xlow := y.xlow || b.xlow, xhigh := y.xhigh || b.xhigh
          final := y.final ++ [(n, r.1)] })
        (((s.commitReady c i).openBeyond c i).drainCheck c i)
      else
        let bs := (it.vals.getD []).flatMap (fun v => leBytes (heldWidth w) v)
        let flags := b2n b.sat + 2 * b2n b.xlow + 4 * b2n b.xhigh
        let s := (parts bs).foldl (fun s pb =>
          s.sendBlock d c 5 x.ten x.group y.cseq (y.digest.getD 0) 0 (blockGfa x.ten (gParent g) n pb.1) flags pb.2) s
        (((s.blockDone c i n it).openBeyond c i).drainCheck c i)
  | _, _ => s

/-- ANVIL_ROOT_FORMED (R299). -/
def execAnvilRootFormed (ctx : CtxId) (slot : Fin 2) (block : Nat) (s : State) : Host.Outcome State Fault Refusal :=
  if !s.sw.unitAwake (.anvil (Fin.ofNat 4 (ctx.val / 1024))) then .next s
  else s.ends (s.sw.rootFormed ctx slot block)

/-! ### Withdraw, abort, commit, results, completion (R423 to R433, R769, R770) -/

/-- An abort is placed on every die of `anvil.dies`; where no context is free it waits (R770). -/
def Sw.abortAll (s : Sw) (t g q cause : Nat) (pkt : Word256) : Sw :=
  s.anvilDies.foldl (fun s d =>
    match s.abortOn d t g q cause with
    | some s' => s'
    | none => s.admitWait d true { hdr := pkt, pay := [] }) s

/-- WITHDRAW_RECEIVE (07 R288, R295; R411, R770). -/
def execWithdrawReceive (pkt : Word256) (s : State) : Host.Outcome State Fault Refusal :=
  let w := s.sw.takeCtl pkt
  let t := cTen pkt
  let g := wGroup pkt
  let q := wCseq pkt
  if pKind pkt ≠ 5 ∨ s.sw.collWaits g then .next s
  else if w.collDenied g t (pSrc pkt) none then s.ends (w.collDeny w.anvilLow (pSrc pkt) t g q 0)
  else if w.collStaleFor g q then s.ends (w.collStaleAt w.anvilLow)
  else
    let w := w.abortAll t g q 4 pkt
    s.ends (if (w.collSlots t g q).any (fun cy => cy.2.st == .aborting) then w.aborted t g q else w).admitScan

/-- A COLL ABORT from a member, or a write to `coll.abort` (R430): nothing where the `cseq` is Closed here. What goes out for it
carries its digest where no slot has one (R415; a write to `coll.abort` has none: 0, log 122). -/
def Sw.abortColl (s : Sw) (t g q status : Nat) (pkt : Word256) : Sw :=
  if s.collStaleFor g q then s.collStaleAt s.anvilLow
  else if (s.collSlots t g q).any (fun cy => cy.2.st == .closed) then s
  else ((s.abortAll t g q (causeOf status) pkt).abortUp t g q (causeOf status) status (oDigest pkt)).admitScan

/-- COLL_ABORT_RECEIVE (R430). -/
def execCollAbortReceive (pkt : Word256) (s : State) : Host.Outcome State Fault Refusal :=
  let w := s.sw.takeCtl pkt
  let t := cTen pkt
  let g := oGroup pkt
  let q := oCseq pkt
  if pKind pkt ≠ 4 ∨ oOp pkt ≠ 2 ∨ s.sw.collWaits g then .next s
  else if w.collDenied g t (pSrc pkt) none then s.ends (w.collDeny w.anvilLow (pSrc pkt) t g q (oDigest pkt))
  else s.ends (w.abortColl t g q (oStatus pkt) pkt)

/-- COLL_COMMIT_RECEIVE (R424, R411): forwarded to the child switches. -/
def execCollCommitReceive (pkt : Word256) (s : State) : Host.Outcome State Fault Refusal :=
  let w := s.sw.takeCtl pkt
  let t := cTen pkt
  let g := oGroup pkt
  let q := oCseq pkt
  if pKind pkt ≠ 4 ∨ oOp pkt ≠ 1 ∨ s.sw.collWaits g then .next s
  else if !w.fromParent g t (pSrc pkt) then s.ends (w.inc (L.collDenied.at w.anvilLow))
  else if w.collStaleFor g q then s.ends (w.collStaleAt w.anvilLow)
  else s.ends (((w.groupMembers (w.group g)).filter Member.child).foldl
    (fun w m => w.sendColl w.anvilLow m.id t g q 1 0 0 .both (oDigest pkt)) w)

/-- The slot that takes part in a collective on the die of a block. -/
def Sw.liveSlot (s : Sw) (d t g q : Nat) : Option Nat :=
  ((s.ctxsOf d t g).find? (fun kv => let y := kv.2.slot q
    y.cseq == q && (y.st == .gathering || y.st == .draining))).map Prod.fst

/-- A RESULT packet at the slot of its collective: a digest that differs aborts the slot (R415). -/
def Sw.digestDiffers (s : Sw) (c q : Nat) (h : Word256) : Bool := decide ((s.slot c q).digest ≠ some (kDigest h))

/-- RESULT_RECEIVE (R415, R425): sent on, part by part, to the members whose receive claims cover the block. -/
def execResultReceive (hdr : Word256) (payload : Bytes) (s : State) : Host.Outcome State Fault Refusal :=
  let w := s.sw.takeIn hdr payload
  let t := hTen hdr
  let g := kGroup hdr
  let q := kCseq hdr
  let d := w.blockDie (bNum hdr)
  if pKind hdr ≠ 6 ∨ kLevel hdr ≠ 0 ∨ !s.sw.svcHas hdr payload ∨ s.sw.collWaits g then .next s
  else if !w.fromParent g t (pSrc hdr) then s.ends (w.inc (L.collDenied.at d))
  else if w.collStaleFor g q then s.ends (w.collStaleAt d)
  else match w.liveSlot d t g q with
    | some c =>
      if w.digestDiffers c q hdr then s.ends (w.abortHere c q 1).admitScan
      else s.ends (w.sendResults c q (bNum hdr) [(bPart hdr, payload.take (validLen hdr))])
    | none => s.ends w

/-- An abort that came from above acts on a die's slot as a COLL ABORT would (Table 7.6), but nothing goes to the parent for it
(R429). -/
def Sw.abortBelow (s : Sw) (d t g q cause : Nat) : Sw :=
  match s.slotFor d t g q with
  | some (c, 1) => if (s.slot c q).st = .aborting then s else s.slotAbort c q cause false false .both
  | some (c, 3) => (s.updSlot c q (fun _ => { st := .closed, cseq := q, cause := cause, ended := true })).lingerCheck c
  | _ => s

/-- COMPLETE from the parent (R427, R429): slots not Closed abort where the status is not OK, it is forwarded, and the slots
close once every member has been told. -/
def Sw.rxComplete (s : Sw) (t g q status level dig : Nat) : Sw :=
  let s := if status = 0 then s else s.anvilDies.foldl (fun s d => s.abortBelow d t g q (causeOf status)) s
  (s.collEnd t g q status level .both dig).admitScan

/-- COLL_COMPLETE_RECEIVE (R427, R429). -/
def execCollCompleteReceive (pkt : Word256) (s : State) : Host.Outcome State Fault Refusal :=
  let w := s.sw.takeCtl pkt
  let t := cTen pkt
  let g := oGroup pkt
  let q := oCseq pkt
  if pKind pkt ≠ 4 ∨ oOp pkt ≠ 3 ∨ s.sw.collWaits g then .next s
  else if !w.fromParent g t (pSrc pkt) then s.ends (w.inc (L.collDenied.at w.anvilLow))
  else if w.collStaleFor g q then s.ends (w.collStaleAt w.anvilLow)
  else s.ends (w.rxComplete t g q (oStatus pkt) (oLevel pkt) (oDigest pkt))

/-- Every block is committed and every RESULT has left (R426). -/
def Sw.mayFinish (s : Sw) (t g q : Nat) : Bool :=
  let r := s.coll t g q
  gTop (s.group g) && r.ended.isNone && !r.aborted && !s.collWaits g && !s.resultWaits t g q none &&
  (match (s.collSlots t g q).findSome? (fun cy => cy.2.word) with
   | some w => r.commits == blockCount (dColl w) (w % 2 ^ 128)
   | none => false)

/-- `level` of the COMPLETE (R426). -/
def Sw.finishLevel (s : Sw) (t g q : Nat) : Nat :=
  let a := (s.collSlots t g q).map (fun cy => cy.2.astat)
  2 * b2n (a.any (fun w => bit w 63 || bit w 62)) + b2n (a.any (fun w => bit w 61))

/-- COLLECTIVE_FINISH (R426): COMPLETE with OK to every member, and the `cseq` closes. -/
def execCollectiveFinish (ten : Ten) (group : Fin 4096) (cseq : BitVec 32) (s : State) : Host.Outcome State Fault Refusal :=
  let w := s.sw
  let t := ten.toNat
  let q := cseq.toNat
  if w.mayFinish t group q then s.ends (w.collEnd t group q 0 (w.finishLevel t group q) .both).admitScan else .next s

/-- A write to `coll.abort` (R430): a COLL ABORT from a member with status Withdrawn. -/
def Sw.wrCollAbort (s : Sw) (v : Nat) : Sw :=
  let t := fld v 44 8
  let g := fld v 32 12
  let q := fld v 0 32
  let w := s.group g
  if gValid w ∧ gTen w = t then
    s.abortColl t g q 4 (mkColl s.svcEp s.svcEp t 0 2 4 0 q g 0)
  else s.inc (L.collDenied.at s.anvilLow)

/-- COLL_ABORT_WRITE (R430). -/
def execCollAbortWrite (value : BitVec 64) (s : State) : Host.Outcome State Fault Refusal :=
  s.written 0x7800 4 (s.ends (s.sw.wrCollAbort value.toNat))

/-- CROSS_DIE_ABORT (R769): the abort reaches the slots of the other dies, and goes up once. -/
def execCrossDieAbort (ten : Ten) (group : Fin 4096) (cseq : BitVec 32) (s : State) : Host.Outcome State Fault Refusal :=
  let w := s.sw
  let t := ten.toNat
  let q := cseq.toNat
  if !w.collWaits group ∧ (w.collSlots t group q).any (fun cy => cy.2.st == .aborting) = true then
    let k := w.lowestCause t group q
    s.ends (((w.liveSlots t group q).foldl (fun w cy => w.slotAbort cy.1 q k false true .both) w).aborted t group q).admitScan
  else .next s

/-! ### Timers -/

/-- ANVIL_LINGER_EXPIRE (07 R285). -/
def execAnvilLingerExpire (ctx : CtxId) (s : State) : Host.Outcome State Fault Refusal :=
  match (s.sw.anv.ctx.get? ctx).bind Ctx.linger with
  | none => .next s
  | some t => s.ends ((s.sw.reach t).freeCtx ctx)

/-- The held value that a command names. -/
def Sw.nodeAt (s : Sw) (c i : Nat) (n : NodeId) : Option Item :=
  ((s.slot c i).blocks.find? (fun b => b.num == n.block)).bind (fun b => b.items.find? (fun it => it.lo == n.lo && it.hi == n.hi))

/-- Change a held value. -/
def Sw.updItem (s : Sw) (c i : Nat) (n : NodeId) (f : Item → Item) : Sw :=
  s.updSlot c i (fun y => { y with blocks := y.blocks.map (fun b => if b.num = n.block then
    { b with items := b.items.map (fun it => if it.lo = n.lo ∧ it.hi = n.hi then f it else it) } else b) })

/-- ANVIL_SPILL_TIMEOUT (07 R291, R294): spilled, or kept where the area is full. -/
def execAnvilSpillTimeout (ctx : CtxId) (slot : Fin 2) (node : NodeId) (s : State) : Host.Outcome State Fault Refusal :=
  let w := s.sw
  match w.nodeAt ctx slot node with
  | none => .next s
  | some it => match it.due with
    | none => .next s
    | some t =>
      let w := (w.reach t).updItem ctx slot node (fun x => { x with due := none })
      s.ends (w.spillItem ctx slot node.block { it with due := none }).admitScan

/-- The value that waits in the spill area has its sibling formed, or is a root: it is read back (07 R293). -/
def Sw.readsBack (s : Sw) (c i : Nat) (n : NodeId) : Bool :=
  match s.anv.ctx.get? c, (s.slot c i).blocks.find? (fun b => b.num == n.block) with
  | some x, some b => siblingFormed (s.groupMembers (s.group x.group)).length b.items n.lo n.hi
  | _, _ => false

/-- SPILL_READBACK_COMPLETE (07 R293, R294, 14 R586): the value is back and combines with its sibling; an uncorrectable line,
or a stack in reset, aborts the slot. `errs` are the errors of its first line (DESIGN CHOICE, log 129). -/
def execSpillReadbackComplete (ctx : CtxId) (slot : Fin 2) (node : NodeId) (errs : LineErr) (s : State) :
    Host.Outcome State Fault Refusal :=
  let w := s.sw
  match w.nodeAt ctx slot node, (w.slot ctx slot).word with
  | some it, some word => match it.spill with
    | none => .next s
    | some a =>
      if !w.readsBack ctx slot node then .next s else
      let op := word % 2 ^ 128
      let n := elemsOf (dColl word) op node.block
      let bytes := n * spillWidth op
      let f := w.lineFetch a rdAnvil errs
      let r := if f.1.isNone then (none, f.2) else f.2.readLines a (cdiv bytes 64) rdAnvil
      let w := r.2
      match r.1 with
      | none => s.ends (w.abortHere ctx slot 5).admitScan
      | some bs =>
        let vs := (List.range n).map (fun j => spillDec op (leNat (slice bs (j * spillWidth op) (spillWidth op))))
        let w := w.updItem ctx slot node (fun x => { x with vals := some vs, spill := none, since := w.now })
        s.ends (w.formAt ctx slot node.block)
  | _, _ => .next s

/-- CONTEXT_STARVATION_TIMEOUT (R422): entry `entry` of the die's admission queue has waited too long. -/
def execContextStarvationTimeout (die : Die) (entry : Nat) (s : State) : Host.Outcome State Fault Refusal :=
  let w := s.sw
  match (w.anv.admq.filter (fun e => e.die == die.val))[entry]? with
  | none => .next s
  | some e => match e.due with
    | none => .next s
    | some t =>
      let h := e.pkt.hdr
      let gq : Nat × Nat := if e.ctl then (if pKind h = 5 then (wGroup h, wCseq h) else (oGroup h, oCseq h)) else (kGroup h, kCseq h)
      let w := (w.reach t).updAnv (fun a => { a with admq := a.admq.map (fun x => if x = e then { x with due := none } else x) })
      s.ends ((w.inc (L.collStarved.at die)).fault 0x28 (8 + die) (some (if e.ctl then cTen h else hTen h)) (detC gq.1 gq.2)
        (auxC 0xFFFF 0 0))

/-- A member is missing at a slot's die (R435): no descriptor, or block packets still owed. -/
def Sw.missing (s : Sw) (c : Nat) (y : Slot) (m : Member) : Bool :=
  match y.word, descOf y m.id with
  | some word, some p =>
    let coll := dColl word
    let op := word % 2 ^ 128
    let cl := if gathers coll op then contribClaim p m else (0, blockCount coll op - 1)
    let owed := s.claimOn coll op (c / 1024) cl
    let part (n : Nat) : Nat := if m.child ∧ !isGather coll then partCount coll op n else 1
    let rank := ((memberOf (s.groupMembers (s.group (((s.anv.ctx.get? c).map Ctx.group).getD 0))) m.id).map Prod.fst).getD 0
    -- the packets of one block: an empty leaf is whole with its one packet (R403)
    let whole (n : Nat) (ps : List Stored) : Bool :=
      decide (part n ≤ ps.length) || ps.any (fun p => coll == 6 && hPlen p.hdr == 0)
    let done := (y.done.filter (inClaim cl)).length
    let open_ := (y.blocks.filter (fun b => inClaim cl b.num &&
      (b.items.any (fun it => decide (it.lo ≤ rank ∧ rank < it.hi)) ||
        whole b.num (b.stored.filter (fun p => pSrc p.hdr == m.id))))).length
    let later := (((y.beyond.filter (fun r => pSrc r.hdr == m.id)).map (fun r => bNum r.hdr)).eraseDups.filter (fun n =>
      whole n (y.beyond.filter (fun r => pSrc r.hdr == m.id && bNum r.hdr == n)))).length
    decide (done + open_ + later < owed)
  | _, _ => true

/-- COLLECTIVE_STALL_TIMEOUT (R435). -/
def execCollectiveStallTimeout (ctx : CtxId) (slot : Fin 2) (s : State) : Host.Outcome State Fault Refusal :=
  let w := s.sw
  let y := w.slot ctx slot
  match w.anv.ctx.get? ctx, y.stallAt with
  | some x, some t =>
    if y.st ≠ .gathering then .next s
    else
      let w := w.reach t
      let ms := (w.groupMembers (w.group x.group)).filter (w.missing ctx y)
      let first := ((ms.head?).map Member.id).getD 0xFFFF
      let d := ctx.val / 1024
      s.ends ((w.updSlot ctx slot (fun y => { y with stallAt := none })).fault 0x29 (8 + d) (some x.ten)
        (detC x.group y.cseq) (auxC first 0 ms.length))
  | _, _ => .next s

/-- A RESULT header carries a part of block `b` of the slot's collective: to a switch by its block number, to an endpoint by the
bytes at which it receives the block (R425). -/
def Sw.resultOfBlock (s : Sw) (g : Nat) (y : Slot) (b : Nat) (h : Word256) : Bool :=
  if s.epKind (hDst h) = 2 then bNum h == b
  else (s.groupMembers (s.group g)).any (fun m => !m.child && (match descOf y m.id with
    | none => false
    | some p =>
      let f := if dColl p = 2 ∨ dColl p = 6 then dRfirst p else 0
      let n := fullBlock (dColl p) ((y.word.getD 0) % 2 ^ 128)
      decide ((hGfa h + 2 ^ 64 - (dRbase p + (b - f) * n) % 2 ^ 64) % 2 ^ 64 < n)))

/-- RESULT packets of a block that have not begun to leave and are not staged. -/
def Sw.blockResults (s : Sw) (d : Nat) (t g q b : Nat) (y : Slot) : List DPkt :=
  s.fab.pkts.filter (fun p => p.mir.isNone && pKind p.hdr == 6 && pSrc p.hdr == s.svcEp && hTen p.hdr == t &&
    kGroup p.hdr == g && kCseq p.hdr == q && p.stage != .leaving && p.staged.isNone && p.inDie.val == d &&
    s.resultOfBlock g y b p.hdr)

/-- A packet moves to the spill area: the billets of one that is not crossing return. -/
def Sw.stagePkt (s : Sw) (i a : Nat) : Sw :=
  match s.pkt? i with
  | none => s
  | some p =>
    if p.moved = 0 ∧ p.crossed = 0 ∧ p.here = p.cells ∨ p.moved = p.cells then
      (s.updPkt i (fun k => { k with staged := some a, inBil := [], egBil := [] })).freeBil (p.inBil ++ p.egBil)
    else s.updPkt i (fun k => { k with staged := some a })

/-- The parts of a block are written to the spill area, each once for all its destinations (one fan-out set), 4,096 bytes apart. -/
def Sw.stageParts : Nat → Sw → Nat → List DPkt → Sw
  | 0, s, _, _ => s
  | _ + 1, s, _, [] => s
  | n + 1, s, a, p :: ps =>
    let same (k : DPkt) : Bool := decide (k.id = p.id) || (p.fan.isSome && decide (k.fan = p.fan))
    let s := (s.writeLines a p.pay rdAnvil).2
    let s := ((p :: ps).filter same).foldl (fun s k => s.stagePkt k.id a) s
    Sw.stageParts n s (a + 4096) (ps.filter (fun k => !same k))

/-- RESULT_STAGING_TIMEOUT (R436): a committed block that still waits moves to the spill area, where there is room; a
stack in reset aborts the slot (14 R586). -/
def execResultStagingTimeout (ctx : CtxId) (slot : Fin 2) (block : Nat) (s : State) : Host.Outcome State Fault Refusal :=
  let w := s.sw
  match w.anv.ctx.get? ctx with
  | none => .next s
  | some x =>
    let q := (x.slot slot).cseq
    let d := ctx.val / 1024
    let r := w.coll x.ten x.group q
    match r.commitAt.find? (fun e => e.1 == block) with
    | none => .next s
    | some e =>
      if e.2 = 0 ∨ r.staged.any (fun z => z.block == block) then .next s
      else
        let w := w.reach e.2
        match w.blockResults d x.ten x.group q block (x.slot slot), w.spillSlot d with
        | p :: ps, some a =>
          if w.linesReset a 1024 then s.ends (w.abortHere ctx q 5).admitScan
          else s.ends ((Sw.stageParts 16 w a (p :: ps)).updColl x.ten x.group q (fun r => { r with staged := r.staged ++ [⟨d, block, a⟩] }))
        | _, _ => s.ends w

/-! ### UPDATE (R439) -/

/-- UPDATE_BLOCK_RECEIVE (R415, R439): written by its owner or sent on to the child that covers it. -/
def execUpdateBlockReceive (hdr : Word256) (payload : Bytes) (s : State) : Host.Outcome State Fault Refusal :=
  let w := s.sw.takeIn hdr payload
  let t := hTen hdr
  let g := kGroup hdr
  let q := kCseq hdr
  let n := bNum hdr
  let d := w.blockDie n
  if pKind hdr ≠ 6 ∨ kLevel hdr ≠ 2 ∨ !s.sw.svcHas hdr payload ∨ s.sw.collWaits g then .next s
  else if !w.fromParent g t (pSrc hdr) then s.ends (w.inc (L.collDenied.at d))
  else if w.collStaleFor g q then s.ends (w.collStaleAt d)
  else match w.liveSlot d t g q with
    | none => s.ends w
    | some c =>
      if w.digestDiffers c q hdr then s.ends (w.abortHere c q 1).admitScan
      else s.ends (w.updateBlock c q n [(bPart hdr, payload.take (validLen hdr))])

/-! ### Group entries (R407, R410, R443, 14 R563) -/

/-- A group entry as it is kept: reserved bits read 0 (00 R15). -/
def groupMask (v : Nat) : Nat := (setFld (setFld (setFld (setFld v 488 6 0) 384 63 0) 0 148 0) 152 7 0) % 2 ^ 512

/-- A context of the group is bound, or a packet of it waits (R451). -/
def Sw.groupBusy (s : Sw) (g : Nat) : Bool :=
  s.anv.ctx.any (fun kv => kv.2.group == g) ||
  s.anv.admq.any (fun e => if e.ctl then (if pKind e.pkt.hdr = 5 then wGroup e.pkt.hdr else oGroup e.pkt.hdr) == g
    else kGroup e.pkt.hdr == g) ||
  s.fab.svcIn.any (fun p => decide (4 ≤ pKind p.hdr) && kGroup p.hdr == g)

/-- Groups registered for tenancy `t`, or for any. -/
def Sw.registered (s : Sw) (t : Option Nat) : Nat :=
  ((s.elems L.collGroup).filter (fun e => gValid e.2 && gReg e.2 && (match t with | some t => gTen e.2 == t | none => true))).length

/-- A program is loaded into a core and starts at address 0 with the group number in a0 (R443, 15 R623). A core that runs
the program already goes on (DESIGN CHOICE, log 27); one in reset takes no request (14 R583). -/
def Sw.startCore (s : Sw) (j slot g : Nat) : Sw :=
  let c := s.core j
  if (c.running ∧ c.prog = slot) ∨ s.blkRst.contains (.core (Fin.ofNat 64 j)) then s
  else match s.lib.get? slot with
  | none => s
  | some p => s.setCore j { regs := [(10, g)], pc := 0, mem := memWrs [] 0 (p.code.take 65536), running := true, prog := slot }

/-- A write of a group entry. -/
def Sw.wrGroup (s : Sw) (g v : Nat) : WrRes :=
  let w := groupMask v
  let s' := s.wr L.collGroup g w
  let j := gCore w
  let start := gValid w && gProg w != 0
  let c := s.core j
  if s.groupBusy g then .error 451
  else if s.agrHolds g then .error 484
  else if gClass w = 7 ∨ 6 < gUcount w then wrRange s
  else if gValid w ∧ gReg w ∧ (512 < s'.registered none ∨
      (List.range 4).any (fun d => decide (fld (s.rd (L.tenCtx.at d) (gTen w)) 16 11 < 2 * s'.registered (some (gTen w))))) then wrRange s
  else if start ∧ ((c.running && c.prog != gProg w) || !boundTo (s.rd L.tenCore j) (gTen w) || (s.lib.get? (gProg w)).isNone) then
    wrRange s
  else wrOk (if start then s'.startCore j (gProg w) g else s')

/-- GROUP_ENTRY_WRITE (R443). -/
def execGroupEntryWrite (group : Fin 4096) (value : BitVec 512) (s : State) : Host.Outcome State Fault Refusal :=
  s.written 0x7803 1 (s.endsWr (s.sw.wrGroup group value.toNat))

end Sys2Proof.Machine
end

