-- ==== Sys2Proof/Machine/Agreement.lean ====
section
/-! DEFINITION. The commands of chapter 11: arrivals, releases, the force write, binding, lending reports. -/

namespace Sys2Proof.Machine

/-- AGREE_ARRIVE (R454, R457, R462). -/
def execAgreeArrive (pkt : Word256) (s : State) : Host.Outcome State Fault Refusal :=
  let w := s.sw.takeCtl pkt
  if pKind pkt ≠ 3 ∨ gOp pkt ≠ 0 then .next s
  else s.ends (if w.agrDenied pkt then w.agrDeny pkt else w.agrArrive pkt)

/-- AGREE_RELEASE (R454, R462, R463). -/
def execAgreeRelease (pkt : Word256) (s : State) : Host.Outcome State Fault Refusal :=
  let w := s.sw.takeCtl pkt
  if pKind pkt ≠ 3 ∨ gOp pkt ≠ 1 then .next s
  else s.ends (if w.agrDenied pkt then w.agrDeny pkt else w.agrRelease pkt)

/-- AGR_FORCE (R465): a write that does not name the counter's current epoch is refused. -/
def execAgrForce (value : BitVec 32) (s : State) : Host.Outcome State Fault Refusal :=
  s.written 0x8000 3 (match s.sw.wrAgrForce value.toNat with
    | none => .next s
    | some w => s.ends w)

/-- AGR_BIND_WRITE (R455); reserved bits read 0 (00 R15). -/
def execAgrBindWrite (counter : Fin 2048) (value : BitVec 32) (s : State) : Host.Outcome State Fault Refusal :=
  s.written 0x8000 1 (s.ends (s.sw.wrAgrBind counter value.toNat))

/-- LEND_REPORT_START (R469, 16 R653): the wait of the counter's current round has run out. While M's firmware is replaced nothing
is lent (14 R587). -/
def execLendReportStart (counter : Fin 2048) (s : State) : Host.Outcome State Fault Refusal :=
  let w := s.sw
  let x := w.agrCtr counter
  match x.cur.lendAt with
  | none => .next s
  | some t =>
    if x.st = .waiting ∨ x.lending then .next s
    else
      let w := w.reach t
      let w := w.setAgr counter { x with lending := true }
      s.ends (if s.sec.busy = some 3 then w.lendPark (bTen (w.agrBind counter)) else w.lendStart (bTen (w.agrBind counter)))

end Sys2Proof.Machine
end

