-- ==== Sys2Proof/Machine/Bellows.lean ====
section
/-! DEFINITION. The commands of chapter 05: guard mode, parameters, queue telemetry. -/

namespace Sys2Proof.Machine

/-- BEL_MODE_WRITE (R205, R208). -/
def execBelModeWrite (die : Die) (value : BitVec 8) (s : State) : Host.Outcome State Fault Refusal :=
  s.written 0x5800 (1 + die) (s.ends (s.sw.setMode die value.toNat))

/-! ### Parameters (R214) -/

/-- Entry of a parameter, and its elements. -/
def belReg (e : BelEntry) (d : Nat) : Reg × Nat :=
  match e with
  | .tq => (L.belTq.at d, 256)
  | .qShape => (L.belQShape.at d, 7168)
  | .clsWeight => (L.belClsWeight.at d, 7)
  | .tenCir => (L.belTenCir.at d, 256)
  | .tenPir => (L.belTenPir.at d, 256)
  | .polRate => (L.belPolRate.at d, 1024)
  | .polCtl => (L.belPolCtl.at d, 1024)
  | .polPort => (L.belPolPort.at d, 1024)
  | .polTen => (L.belPolTen.at d, 2048)
  | .guardCir => (L.belGuardCir, 1)
  | .guardPir => (L.belGuardPir, 1)

/-- A use that R217 lists as undefined. -/
def Sw.belBad (s : Sw) (e : BelEntry) (el v : Nat) : Bool :=
  match e with
  | .tq => (s.tenSt el).st != .quenched
  | .qShape => fld v 56 7 != 0
  | .tenCir | .tenPir | .guardCir | .guardPir => fld v 48 16 != 0
  | .polCtl => fld v 3 5 != 0
  | .polPort | .polTen => decide (1024 ≤ v ∧ v < 0xFFFF)
  | .clsWeight | .polRate => false

/-- A level brought up to now and written down, so that a later change of its rate does not reach back. -/
def pinLevel (m : AMap Level) (k rate burst now : Nat) : AMap Level := AMap.set m k ((lvl m k burst now).up rate burst now)

/-- A level cut to a new burst. -/
def cutLevel (m : AMap Level) (k burst : Nat) : AMap Level :=
  match m.get? k with
  | some l => AMap.set m k ⟨min l.q (burst * onePkt), l.upto⟩
  | none => m

/-- First lanes of the configured ports. -/
def Sw.cfgPorts (s : Sw) : List Nat := ((s.elems L.linkPortWidth).filter (fun e => e.2 != 0)).map Prod.fst

/-- The levels that an entry governs are written down as they stand before it changes. -/
def Sw.belPin (s : Sw) (e : BelEntry) (d el : Nat) : Sw :=
  let b := s.bel
  match e with
  | .qShape => let k := 7168 * d + el
    { s with bel := { b with qcr := pinLevel b.qcr k (s.shapeOf k).1 (s.shapeOf k).2 s.now } }
  | .tenCir => let k := 256 * d + el
    { s with bel := { b with tcom := pinLevel b.tcom k (s.comOf k).1 (s.comOf k).2 s.now } }
  | .tenPir => let k := 256 * d + el
    { s with bel := { b with tpk := pinLevel b.tpk k (s.pkOf k).1 (s.pkOf k).2 s.now } }
  | .polRate => let k := 1024 * d + el
    let w := s.rd (L.belPolRate.at d) el
    -- under guard marking the buckets of a meter do not change (R207)
    let x := if s.guarding d then (lvl b.mTc k (fld w 32 16) s.now, lvl b.mTe k (fld w 48 16) s.now) else s.meterUp k
    { s with bel := { b with mTc := AMap.set b.mTc k x.1, mTe := AMap.set b.mTe k x.2 } }
  | .guardCir =>
    let w := bucketOf (s.rd L.belGuardCir)
    { s with bel := { b with gTc := s.cfgPorts.foldl (fun m p => pinLevel m p (max 1 (s.port p).width * w.1) w.2 s.now) b.gTc } }
  | .guardPir =>
    let w := bucketOf (s.rd L.belGuardPir)
    { s with bel := { b with gTp := s.cfgPorts.foldl (fun m p => pinLevel m p (max 1 (s.port p).width * w.1) w.2 s.now) b.gTp } }
  | _ => s

/-- A level above a new burst is cut to that burst (R214). -/
def Sw.belCut (s : Sw) (e : BelEntry) (d el : Nat) : Sw :=
  let b := s.bel
  match e with
  | .qShape => let k := 7168 * d + el
    { s with bel := { b with qcr := cutLevel b.qcr k (s.shapeOf k).2 } }
  | .tenCir => let k := 256 * d + el
    { s with bel := { b with tcom := cutLevel b.tcom k (s.comOf k).2 } }
  | .tenPir => let k := 256 * d + el
    { s with bel := { b with tpk := cutLevel b.tpk k (s.pkOf k).2 } }
  | .polRate => let k := 1024 * d + el
    let w := s.rd (L.belPolRate.at d) el
    { s with bel := { b with mTc := cutLevel b.mTc k (fld w 32 16), mTe := cutLevel b.mTe k (fld w 48 16) } }
  | .guardCir =>
    { s with bel := { b with gTc := (b.gTc.map Prod.fst).foldl (fun m p => cutLevel m p (bucketOf (s.rd L.belGuardCir)).2) b.gTc } }
  | .guardPir =>
    { s with bel := { b with gTp := (b.gTp.map Prod.fst).foldl (fun m p => cutLevel m p (bucketOf (s.rd L.belGuardPir)).2) b.gTp } }
  | _ => s

/-- A write of a Bellows rate, burst, quantum, weight, binding or queue number (R214). -/
def Sw.wrBel (s : Sw) (e : BelEntry) (d el v : Nat) : WrRes :=
  let r := belReg e d
  if r.2 ≤ el then wrRange s
  else if s.belBad e el v then .error 217
  else wrOk (((s.belPin e d el).wr r.1 el (if e = .tq then v % 8 else v)).belCut e d el)

/-- BELLOWS_PARAM_WRITE (R214). -/
def execBellowsParamWrite (entry : BelEntry) (die : Die) (el : Nat) (value : BitVec 64) (s : State) :
    Host.Outcome State Fault Refusal := s.written (belReg entry die).1.index (belReg entry die).1.sub (s.endsWr (s.sw.wrBel entry die el value.toNat))

/-! ### Telemetry (R209 to R212) -/

/-- 1 MiB. -/
def mib : Nat := 2 ^ 20

/-- Offset of the telemetry ring of a die (Table 8.2). -/
def Sw.telBase (s : Sw) (d : Nat) : Nat := s.sysBase d + 544 * mib

/-- A range of HBM becomes zero; its lines are good again. -/
def Sw.zeroHbm (s : Sw) (lo hi : Nat) : Sw :=
  { s with hbm := memZeroRange s.hbm lo hi, hbmBad := s.hbmBad.filter (fun l => !(decide (lo ≤ 64 * l ∧ 64 * l + 64 ≤ hi))) }

/-- A write to `bel.tel.ring_mib` (R214); more than 256 MiB does not fit (DEDUCED, log 25). -/
def Sw.wrTelRing (s : Sw) (v : Nat) : WrRes :=
  if !s.coreQuenched then .error 217
  else if 256 < v then wrRange s
  else wrOk ((List.range 4).foldl (fun s d => (s.wr (L.belTelWp.at d) 0 0).zeroHbm (s.telBase d) (s.telBase d + v * mib))
    (s.wr L.belTelRingMib 0 v))

/-- TEL_RING_MIB_WRITE (R214). -/
def execTelRingMibWrite (mib : BitVec 16) (s : State) : Host.Outcome State Fault Refusal := s.written 0x580D 2 (s.endsWr (s.sw.wrTelRing mib.toNat))

/-- A write to `bel.tel.period_ns` (R209). -/
def Sw.wrTelPeriod (s : Sw) (v : Nat) : Sw := s.wr L.belTelPeriodNs 0 (if v = 0 then 0 else max 500 v)

/-- TEL_PERIOD_WRITE (R209). -/
def execTelPeriodWrite (ns : BitVec 32) (s : State) : Host.Outcome State Fault Refusal := s.written 0x580D 1 (s.ends (s.sw.wrTelPeriod ns.toNat))

/-- A sample of one queue (Table 5.4). -/
def Sw.telRecord (s : Sw) (p c n : Nat) : Nat :=
  let q := s.queue p c n
  let delay := match headOf q with | some k => min 0xFFFFFF ((s.now - k.joined) / 8) | none => 0
  [(64, 64, s.now), (63, 1, 1), (54, 9, p), (51, 3, c), (48, 3, n), (24, 24, min 0xFFFFFF q.length), (0, 24, delay)].foldl
    (fun w f => setFld w f.1 f.2.1 f.2.2) 0

/-- One record goes to the ring of the die (R212). -/
def Sw.telPut (s : Sw) (d n w : Nat) : Sw :=
  let i := s.rd (L.belTelWp.at d)
  ((s.writeLines (s.telBase d + 16 * (i % n)) (leBytes 16 w) rdSystem).2).wr (L.belTelWp.at d) 0 (i + 1)

/-- The queues a sweep takes: selected, at first lanes of configured ports (R210). -/
def Sw.telQueues (s : Sw) (d : Nat) : List Nat :=
  let sel := s.rd (L.belTelSel.at d)
  ((s.cfgPorts.filter (fun p => laneDie p == d)).flatMap (fun p =>
    (List.range 56).map (fun i => 56 * (p % 128) + i))).filter (fun i => bit sel i)

/-- When the next sweep of a die is: the next whole multiple of the period at which it has not swept yet (R209). -/
def Sw.sweepAt (s : Sw) (d : Nat) : Nat :=
  nextTick (s.rd L.belTelPeriodNs) s.now (s.bel.swept.get? d)

/-- TELEMETRY_SWEEP (R209 to R212): at the next whole multiple of the period at which the die has not swept yet; none in Parked
(16 R645). -/
def execTelemetrySweep (die : Die) (s : State) : Host.Outcome State Fault Refusal :=
  let w := s.sw
  let n := w.rd L.belTelRingMib * 65536
  if w.rd L.belTelPeriodNs = 0 ∨ n = 0 ∨ w.pwr.state = .parked then .next s
  else
    let m := w.sweepAt die
    let w := w.reach m
    let w := { w with bel := { w.bel with swept := AMap.set w.bel.swept die m } }
    let qs := w.telQueues die
    let w := if qs.length ≤ 1024 then w else w.inc (L.belTelSkipped.at die) 0 (qs.length - 1024)
    s.ends ((qs.take 1024).foldl (fun w i => w.telPut die n (w.telRecord (128 * die + i / 56) (i % 56 / 8) (i % 8))) w)

end Sys2Proof.Machine
end

