-- ==== Sys2Proof/Machine/BridgeOps.lean ====
section
/-! DEFINITION. Die B (13): host windows, host reads, reverse windows, MSI-X, loss of a host or a device, port states. -/

namespace Sys2Proof.Machine

/-- Change the bridge's state. -/
def Sw.updBrg (s : Sw) (f : Brg → Brg) : Sw := { s with brg := f s.brg }

/-- Change a bridge port. -/
def Sw.updBport (s : Sw) (p : Nat) (f : BPortSt → BPortSt) : Sw := s.setBport p (f (s.bport p))

/-- The host link is up: B.P0 in the host role, in L0. -/
def Sw.hostUp (s : Sw) : Bool := s.hostRole && (s.bport 0).st == .ready

/-- An error of port `p` is logged in its AER uncorrectable error status (R533). Which bits PCIe gives is PRESUMED (log 155):
12 poisoned TLP, 14 completion timeout, 15 completer abort, 16 unexpected completion, 20 unsupported request, 5 surprise down. -/
def Sw.aerSet (s : Sw) (p n : Nat) : Sw :=
  s.updBrg (fun b => { b with aer := AMap.set b.aer (2 * p) (Nat.lor (b.aer.getD (2 * p) 0) (2 ^ n)) })

/-- Bits of an AER status word of B.P0 are cleared. -/
def Sw.aerClear (s : Sw) (k v : Nat) : Sw :=
  s.updBrg (fun b => { b with aer := AMap.put b.aer k (Nat.land (b.aer.getD k 0) (2 ^ 32 - 1 - v % 2 ^ 32)) 0 })

/-- Status code of the port in Table 13.8. -/
def BState.code : BState → Nat
  | .disabled => 0
  | .training => 1
  | .enumerating => 2
  | .ready => 3
  | .down => 4
  | .unsupported => 5

/-- The word of `brg.port.status`. -/
def Sw.bportWord (s : Sw) (p : Nat) : Nat :=
  let b := s.bport p
  b.cause * 2 ^ 24 + s.incOf (incBport p) * 2 ^ 16 + b.width * 256 + b.rate * 32 + b2n b.cxl * 16 + b2n b.flit * 8 + b.st.code

/-- A fault of a bridge port, layout L. -/
def Sw.bportFault (s : Sw) (p code cause : Nat) : Sw := s.fault code (64 + p) none (detL 4 p cause 0 0) 0

/-! ### Host windows (R535 to R541) -/

/-- Fields of a window entry (Table 13.3). -/
def winGfa (e : Nat) : Nat := fld e 64 64
def winEn (e : Nat) : Bool := bit e 63
def winRo (e : Nat) : Bool := bit e 62
def winClass (e : Nat) : Nat := fld e 59 3
def winAck (e : Nat) : Bool := bit e 58
def winDie (e : Nat) : Nat := fld e 56 2
def winEnt (e : Nat) : Nat := fld e 48 8
def winSelf (e : Nat) : Bool := bit e 47

/-- The slot size in force. -/
def Sw.winSize (s : Sw) : Nat := 2 ^ s.brg.winLog

/-- The GFA an access at window offset `o` reaches (R536). -/
def Sw.winTarget (s : Sw) (e o : Nat) : Nat :=
  let t := (winGfa e + o) % 2 ^ 64
  if winSelf e then setFld t 40 16 s.selfEp else t

/-- A packet of the bridge takes the next sequence number of its flow, and its check. -/
def Sw.bridgeSeal (s : Sw) (w : Word256) : Word256 × Sw :=
  let q := s.nextSeq (hFlow w) (hTen w)
  (sealPkt (hset w 120 32 q.1), q.2)

/-- A sealed packet of the bridge enters its die (R537). -/
def Sw.bridgeIn (s : Sw) (d : Die) (w : Word256) (pay : Bytes) : Except Nat Sw :=
  match s.rxHeader (.bridge d) w with
  | .error r => .error r
  | .ok s => .ok (s.rxEnd (.bridge d) pay (mkEnd w pay true))

/-- Runs of enabled bytes of a host write, as offset and bytes (R538). -/
def runsIn : Nat → List (Option Byte) → List (Nat × Bytes)
  | _, [] => []
  | n, none :: bs => runsIn (n + 1) bs
  | n, some b :: bs =>
    match runsIn (n + 1) bs with
    | (m, cs) :: rs => if m = n + 1 then (n, b :: cs) :: rs else (n, [b]) :: (m, cs) :: rs
    | [] => [(n, [b])]

/-- The flow of a window holds fabric credit toward an ID (R541, 03 R122); always toward the switch's own targets and where
the packet is not routed. -/
def Sw.hostCredit (s : Sw) (d dst c cells : Nat) : Bool :=
  if s.own dst then true
  else
    let e := s.rd L.fwdRoute dst
    match fld e 14 2 with
    | 1 => s.hasCredit (fld e 0 9) c cells
    | 2 => let ms := s.members d (fld e 0 6); ms.isEmpty || ms.any (fun p => s.hasCredit p c cells)
    | _ => true

/-- The incarnation of the block of this part that serves a request, which the requester records (14 R585): none for another
switch's target. At the service ID it is the block of the window (15 Table 15.8); where no window takes the request, the die. -/
def Sw.targetInc (s : Sw) (d gfa : Nat) (pay : Bytes) : Option Nat :=
  let dst := fld gfa 40 16
  let off := fld gfa 0 40
  let job := leNat (pay.take 64)
  let at_ (r : Reg) (n : Nat) : Bool := decide (s.rd r ≤ off ∧ off < s.rd r + n)
  if !s.own dst then none
  else some (s.incOf (
    if dst % 32 = 0 then
      if at_ L.lexMboxWin 4096 then incM
      else if at_ L.hearthJobWin 64 then incStack (s.hbmStack (jPblk job)).1
      else if at_ L.swageJobWin 64 then incArray (fld job 16 4)
      else if at_ L.swageStreamWin (16 * 2 ^ 32) then incArray ((off - s.rd L.swageStreamWin) / 2 ^ 32)
      else if at_ L.brgRevWin (64 * 2 ^ 32) || at_ L.brgMsiWin 4096 then incBport 0
      else incForge d
    else if dst % 32 = 1 then incStack (s.hbmStack off).1
    else if 4 ≤ dst % 32 ∧ dst % 32 < 20 then incBport ((dst % 32 - 4) / 4)
    else incForge d))

/-- One run of a host write becomes one WRITE (R538); of a window with `ack` 1 the ACK is awaited (R541). -/
def Sw.hostRun (s : Sw) (w e o : Nat) (bs : Bytes) : Except Nat Sw :=
  let n := bs.length
  let d := winDie e
  let g := s.winTarget e o
  let r := (s.recHost d w (w * s.winSize + o) bs).bridgeSeal
    (hset (mkWrite s.selfEp (winClass e) (winEnt e) g n) 11 1 (b2n (winAck e)))
  let pay := bs ++ zeros (pad64 n - n)
  let x : AckWait := { hdr := r.1, win := w, inc := s.targetInc d g pay, dieInc := s.incOf (incForge d) }
  (r.2.updBrg (fun b => if winAck e then { b with acks := b.acks ++ [x] } else b)).bridgeIn (Fin.ofNat 4 d) r.1 pay

/-- A host memory write at BAR0 offset `a` (R535 to R541). None where posted credit is withheld. -/
def Sw.hostWrite (s : Sw) (a : Nat) (bytes : List (Option Byte)) : Except Nat (Option Sw) :=
  let w := a / s.winSize
  let o := a % s.winSize
  let e := s.rd L.brgWin w
  let runs := runsIn o bytes
  if runs.isEmpty then .ok (some s)
  else if !winEn e ∨ winRo e then .ok (some (s.inc L.brgDenied))
  else if runs.any (fun r => !s.hostCredit (winDie e) (fld (s.winTarget e r.1) 40 16) (winClass e) (cellsOf (cdiv r.2.length 64))) then
    .ok none
  else (runs.foldl (fun (acc : Except Nat Sw) r => match acc with
    | .ok s => s.hostRun w e r.1 r.2
    | .error n => .error n) (.ok s)).map some

/-! ### Host reads (R539, R540) -/

/-- Bridge tags in use. -/
def Sw.tagsUsed (s : Sw) : List Nat := s.brg.reads.flatMap (fun r => r.parts.map HostPart.tag)

/-- `n` free tags, in turn from the next, those not abandoned first (DESIGN CHOICE, log 33). -/
def Sw.freeTags (s : Sw) (n : Nat) : List Nat :=
  let used := s.tagsUsed
  let all := (List.range 1024).map (fun i => (s.brg.nextTag + i) % 1024)
  let fresh := all.filter (fun t => !used.contains t && !s.brg.late.contains t)
  let old := all.filter (fun t => !used.contains t && s.brg.late.contains t)
  (fresh ++ old).take n

/-- A READ_REQ of the bridge. -/
def mkReadReq (src cls ent gfa roff units tag : Nat) : Word256 :=
  mkPkt [(0, 5, 1), (5, 2, 1), (8, 3, cls), (16, 8, ent), (24, 16, src), (56, 64, gfa), (152, 40, roff), (192, 7, units),
    (200, 16, tag)]

/-- A host memory read at BAR0 offset `a` (R539). None where non-posted credit is withheld. -/
def Sw.hostRead (s : Sw) (a n : Nat) : Except Nat (Option Sw) :=
  let e := s.rd L.brgWin (a / s.winSize)
  let t := s.winTarget e (a % s.winSize)
  let lo := t / 64 * 64
  let units := (pad64 (t + n) - lo) / 64
  let chunks := if units ≤ 64 then [(lo, units)] else [(lo, 64), (lo + 4096, units - 64)]
  let tags := s.freeTags chunks.length
  let d := winDie e
  if n = 0 then .ok (some (s.send (.hostCpl 0 .ok [])))
  else if !winEn e then .ok (some ((s.send (.hostCpl 0 .unsupported [])).aerSet 0 20))
  else if 1024 ≤ s.brg.reads.length ∨ tags.length < chunks.length then .ok none
  else
    let ps : List HostPart := (chunks.zip tags).map (fun ct =>
      { tag := ct.2, gfa := ct.1.1, units := ct.1.2, inc := s.targetInc d ct.1.1 [], dieInc := s.incOf (incForge d), due := s.dueIn (s.rd L.brgRdNs) })
    let s := s.updBrg (fun b => { b with
      reads := b.reads ++ [{ target := t, bytes := n, parts := ps }], nextTag := (b.nextTag + ps.length) % 1024
      late := b.late.filter (fun x => !tags.contains x) })
    (ps.foldl (fun (acc : Except Nat Sw) p => match acc with
      | .ok s =>
        let r := s.bridgeSeal (mkReadReq s.selfEp (winClass e) (winEnt e) p.gfa (s.rd L.brgRetWin + 4096 * p.tag) p.units p.tag)
        r.2.bridgeIn (Fin.ofNat 4 d) r.1 []
      | .error r => .error r) (.ok s)).map some

/-- Rank of a READ_RESP status in Table 13.4. -/
def cplRank (status : Nat) : Nat := if status = stOk then 0 else if status = stDenied then 1 else if status = stUncorrectable then 3 else 2

/-- The completion for a rank. -/
def cplOf : Nat → CplStatus
  | 0 => .ok
  | 1 => .unsupported
  | 3 => .poisoned
  | _ => .abort

/-- Bit of the AER uncorrectable error status that a completion status sets at the completer (PCIe). -/
def aerCpl : CplStatus → Option Nat
  | .unsupported => some 20
  | .abort => some 15
  | _ => none

/-- A host read completes with the requested bytes only (R539, R540). -/
def Sw.readDone (s : Sw) (r : HostRd) : Sw :=
  let data := r.parts.flatMap (fun p => p.data.getD [])
  let k := cplOf r.worst
  let s := s.updBrg (fun b => { b with reads := eraseOne r b.reads })
  let s := match aerCpl k with | some n => s.aerSet 0 n | none => s
  s.send (.hostCpl ((r.parts.map HostPart.tag).headD 0) k
    (if k = .ok ∨ k = .poisoned then slice data (r.target % 64) r.bytes else []))

/-- A READ_RESP at the return area, which reached die `d` (R540, 14 R585). -/
def Sw.readResp (s : Sw) (d : Nat) (h : Word256) (pay : Bytes) : Sw :=
  let tag := (hOff h - s.rd L.brgRetWin) / 4096
  let st := kRstatus h
  match s.brg.reads.find? (fun r => r.parts.any (fun p => p.tag == tag && p.data.isNone)) with
  | none => (s.inc L.brgLate).updBrg (fun b => { b with late := b.late.filter (fun t => t != tag) })
  | some r =>
    if r.parts.any (fun p => p.tag == tag && !incMatches p.inc p.dieInc st (kRinc h)) then s.inc (L.tenStaleReply.at d)
    else
      let r' := { r with
        worst := max r.worst (cplRank st)
        parts := r.parts.map (fun p => if p.tag = tag ∧ p.data.isNone then { p with data := some (slice pay 0 (64 * p.units)) } else p) }
      let s := s.updBrg (fun b => { b with reads := b.reads.map (fun x => if x = r then r' else x) })
      if r'.parts.all (fun p => p.data.isSome) then s.readDone r' else s

/-- Tags of a host read that still wait. -/
def HostRd.waiting (r : HostRd) : List Nat := (r.parts.filter (fun p => p.data.isNone)).map HostPart.tag

/-- A host read times out: Completer Abort; its tags are abandoned (Table 13.4). -/
def Sw.readTimeout (s : Sw) (r : HostRd) : Sw :=
  (s.updBrg (fun b => { b with reads := eraseOne r b.reads, late := r.waiting.foldl (fun l t => insertNat t l) b.late })).send
    (.hostCpl ((r.parts.map HostPart.tag).headD 0) .abort [])

/-! ### Reverse windows (R543 to R545) -/

/-- The max payload in force, 128 to 512 bytes, and max read request size, at least 128 (R533). -/
def hostMps : Nat := min 512 (max 128 Config.hostMps)
def hostMrrs : Nat := max 128 Config.hostMrrs

/-- A host address range cut at 4 KiB boundaries and at `m` bytes: address and length; `f` bounds the pieces. -/
def hostPieces (m : Nat) : Nat → Nat → Nat → List (Nat × Nat)
  | 0, _, _ => []
  | f + 1, a, n =>
    if n = 0 then []
    else
      let k := min n (min m (4096 - a % 4096))
      (a, k) :: hostPieces m f (a + k) (n - k)

/-- Host reads of reverse windows outstanding. -/
def Sw.revBusy (s : Sw) : Nat := sumBy (fun r => (r.parts.filter (fun p => !p.fin)).length) s.brg.revs

/-- Host reads that a READ_REQ becomes (R545). -/
def revPieces (h : Word256) (addr : Nat) : List (Nat × Nat) := hostPieces hostMrrs 4096 addr (64 * kRlen h)

/-- There is room for the host reads of a READ_REQ: at most 1,024 are outstanding (R545). -/
def Sw.revRoom (s : Sw) (h : Word256) (addr : Nat) : Bool := decide (s.revBusy + (revPieces h addr).length ≤ 1024)

/-- An admitted READ_REQ becomes host reads. -/
def Sw.revStart (s : Sw) (h : Word256) (addr d : Nat) : Sw :=
  let ps := revPieces h addr
  let parts : List RevPart := (List.range ps.length).map (fun i => { id := s.brg.nextId + i, bytes := (ps.getD i (0, 0)).2 })
  let s := (List.range ps.length).foldl (fun s i =>
    s.send (.hostReadReq (s.brg.nextId + i) (ps.getD i (0, 0)).1 (ps.getD i (0, 0)).2)) s
  s.updBrg (fun b => { b with
    nextId := b.nextId + ps.length
    revs := b.revs ++ [{ req := h, die := d, parts := parts, due := s.dueIn (s.rd L.brgDmaNs) }] })

/-- Entry of the reverse window an offset names, and q. -/
def Sw.revEntry (s : Sw) (off : Nat) : Nat × Nat :=
  let o := off - s.rd L.brgRevWin
  (s.rd L.brgRev (o / 2 ^ 32), o % 2 ^ 32)

/-- READ_REQs that waited start as room comes (R545). -/
def Sw.revNext (s : Sw) : Sw :=
  forN s.brg.revWait.length s (fun _ s =>
    match s.brg.revWait with
    | [] => s
    | x :: rest => if s.revRoom x.1 x.2.1 then (s.updBrg (fun b => { b with revWait := rest })).revStart x.1 x.2.1 x.2.2 else s)

/-- The answer to a reverse-window request, from B.P0 (02 R83; log 28). -/
def Sw.revAnswer (s : Sw) (d : Nat) (h : Word256) (status : Nat) (data : Bytes) : Sw :=
  s.bridgeAnswer d h status (s.incOf (incBport 0)) data

/-- A WRITE or READ_REQ to a reverse window, from die `d` (R544, R545, R551, R557). -/
def Sw.revRequest (s : Sw) (d : Nat) (h : Word256) (pay : Bytes) : Sw :=
  let eq := s.revEntry (hOff h)
  let e := eq.1
  let ok := s.hostRole && bit e 63 && (if pKind h = 0 then bit e 62 else bit e 61) && hTen h == fld e 48 8 &&
    decide (0 < fld e 0 20 ∧ eq.2 + touched h ≤ fld e 0 20 * 4096)
  let addr := fld e 64 64 + eq.2
  if !ok then s.revAnswer d h stDenied []
  else if !s.hostUp then s.revAnswer d h stTargetReset []
  else if pKind h = 0 then
    ((hostPieces hostMps 4096 addr (validLen h)).foldl (fun s p => s.send (.hostMem p.1 (slice pay (p.1 - addr) p.2))) s).revAnswer d h stOk []
  else if kRlen h = 0 then s.revAnswer d h stOk []
  else if !s.revRoom h addr ∨ !s.brg.revWait.isEmpty then s.updBrg (fun b => { b with revWait := b.revWait ++ [(h, addr, d)] })
  else s.revStart h addr d

/-- The status a host completion gives (R545). -/
def revStatus : CplStatus → Nat
  | .ok => stOk
  | .poisoned => stUncorrectable
  | _ => stDenied

/-- A host completion arrives; the READ_RESP goes once every one has (R545). Of several statuses the highest code is sent
(DESIGN CHOICE, log 34). -/
def Sw.hostCompletion (s : Sw) (id : Nat) (st : CplStatus) (bs : Bytes) : Sw :=
  match s.brg.revs.find? (fun r => r.parts.any (fun p => p.id == id && !p.fin)) with
  | none => (s.inc L.brgLate).aerSet 0 16
  | some r =>
    let s := if st = .poisoned then s.aerSet 0 12 else s
    let parts := r.parts.map (fun p => if p.id = id then
      let d := p.data ++ bs
      { p with data := d, fin := decide (p.bytes ≤ d.length) || st == .unsupported || st == .abort } else p)
    let r' := { r with parts := parts, status := max r.status (revStatus st) }
    if parts.all RevPart.fin then
      ((s.updBrg (fun b => { b with revs := eraseOne r b.revs })).revAnswer r.die r.req r'.status
        (if r'.status = stOk then parts.flatMap (fun p => slice p.data 0 p.bytes) else [])).revNext
    else s.updBrg (fun b => { b with revs := b.revs.map (fun x => if x = r then r' else x) })

/-! ### Loss of the host (Table 13.6) -/

/-- A loss of the host: waiting reads are dropped, reverse-window requests get Target-Reset with the incarnation they were
addressed to, the incarnation advances, a contained fault. -/
def Sw.hostLost (s : Sw) (cause : Nat) : Sw :=
  let tags := s.brg.reads.flatMap HostRd.waiting
  let reqs := s.brg.revs.map (fun r => (r.req, r.die)) ++ s.brg.revWait.map (fun x => (x.1, x.2.2))
  let s := s.updBrg (fun b => { b with reads := [], revs := [], revWait := [], late := tags.foldl (fun l t => insertNat t l) b.late })
  let s := reqs.foldl (fun s x => s.revAnswer x.2 x.1 stTargetReset []) s
  let s := (s.bump (incBport 0)).updBport 0 (fun b => { b with cause := cause })
  s.bportFault 0 0x50 cause

/-- A reset of the function: configuration space, MSI-X table and pending bits return to their defaults (R534). -/
def Sw.funcReset (s : Sw) : Sw :=
  s.updBrg (fun b => { b with cfg := [], msix := [], pba := [], aer := b.aer.filter (fun kv => 2 ≤ kv.1) })

/-- A reset of the host port: the slot size takes effect too (Table 13.9). -/
def Sw.hostReset (s : Sw) (cause : Nat) : Sw :=
  ((s.hostLost cause).funcReset.updBrg (fun b => { b with winLog := s.rd L.brgWinLog2 })).updBport 0 (fun b => { b with
    st := .training, width := 0, rate := 0, cxl := false, flit := false })

/-! ### Memory ports (R547 to R551) -/

/-- Requests in flight at a memory port are answered Target-Reset (Table 13.6). -/
def Sw.cxlFlush (s : Sw) (p : Nat) : Sw :=
  let xs := s.brg.cxl.filter (fun x => x.port == p)
  let s := s.updBrg (fun b => { b with cxl := b.cxl.filter (fun x => x.port != p) })
  xs.foldl (fun s x => match x.req with
    | some h => s.bridgeAnswer x.die h stTargetReset (s.incOf (incBport p)) []
    | none => s) s

/-- What a port knows of its link is gone. -/
def BPortSt.unlinked (b : BPortSt) (st : BState) : BPortSt :=
  { b with st := st, width := 0, rate := 0, cxl := false, flit := false, cap := 0 }

/-- A memory port goes Down: a fatal fault (Table 13.6, R547). -/
def Sw.memDown (s : Sw) (p cause : Nat) : Sw :=
  let s := (s.cxlFlush p).bump (incBport p)
  let s := s.updBport p (fun b => { b.unlinked .down with cause := cause, released := false, lost := true })
  let s := { s with clr := s.clr.filter (fun kv => !(decide (1024 + 4096 * p ≤ kv.1 ∧ kv.1 < 1024 + 4096 * (p + 1))))
                    pins := { s.pins with memUp := s.pins.memUp.filter (fun q => q != p) } }
  (if cause = 1 then s.aerSet p 5 else if cause = 4 then s.aerSet p 14 else s).bportFault p 0x54 cause

/-- Width and rate a bridge link settles on, which no rule states: free values (R533). -/
def Sw.linkUp (s : Sw) (p : Nat) (st : BState) (cxl : Bool) : Sw :=
  let a := s.draw
  let b := a.2.draw
  let rate := 1 + b.1 % 6
  b.2.updBport p (fun x => { x with st := st, width := [4, 8, 16].getD (a.1 % 3) 16, rate := rate, cxl := cxl, flit := rate == 6 })

/-- A memory device is Ready again after a loss: its contents are undefined (free values), none of its granules is bound and the
incarnation advances (R551, Table 13.6). -/
def Sw.freshDevice (s : Sw) (p : Nat) : Sw :=
  let s := s.bump (incBport p)
  let lo := p * 2 ^ 42
  let s := { s with free := s.free + 1
                    brg := { s.brg with unk := AMap.set s.brg.unk p { gen := s.free } }
                    cxl := memZeroRange s.cxl lo (lo + 2 ^ 42), cxlBad := s.cxlBad.filter (fun l => l / 2 ^ 36 != p) }
  ((s.elems L.tenCxl).filter (fun e => e.1 / 4096 == p)).foldl (fun s e => s.wr L.tenCxl e.1 0) s

/-- Enumeration of a memory port (R547): C is the capacity rounded down to 256 MiB, at most 4 TiB. -/
def Sw.enumerate (s : Sw) (p : Nat) (supported : Bool) (capacity : Nat) : Sw :=
  if !supported then (s.linkUp p .unsupported true).updBport p (fun b => { b with cause := 6 })
  else
    let c := min (2 ^ 42) (capacity / 2 ^ 28 * 2 ^ 28)
    (s.linkUp p .ready true).updBport p (fun b => { b with cap := c, released := false, lost := false })

/-! ### Port commands (Table 13.9) -/

/-- A port leaves service by command: a host link is disabled (Table 13.6); at a memory port requests in flight are
answered Target-Reset (DESIGN CHOICE, log 35). -/
def Sw.bportStop (s : Sw) (p : Nat) (st : BState) : Sw :=
  let s := if p = 0 ∧ s.hostRole then (if (s.bport 0).st = .ready then s.hostReset 2 else s) else s.cxlFlush p
  s.updBport p (fun b => b.unlinked st)

/-- Enable, Disable, Retrain and Release; a release is an event of Table 13.6 (R551). -/
def Sw.bportEnable (s : Sw) (p : Nat) : Sw :=
  if (s.bport p).st = .disabled then s.updBport p (fun b => { b with st := .training, enAt := s.now }) else s
def Sw.bportDisable (s : Sw) (p : Nat) : Sw :=
  let s := s.bportStop p .disabled
  { s with pins := { s.pins with memUp := s.pins.memUp.filter (fun q => q != p) } }
def Sw.bportRetrain (s : Sw) (p : Nat) : Sw :=
  if (s.bport p).st = .disabled then s
  else
    let s := s.bportStop p .training
    s.updBport p (fun b => { b with enAt := s.now })
def Sw.bportRelease (s : Sw) (p : Nat) : Sw :=
  if (s.bport p).st = .down then (s.bump (incBport p)).updBport p (fun b => { b with released := true }) else s

/-! ### Configuration space and MSI-X (R534, R546) -/

/-- The bits of a configuration dword the host may write: those of the identity, the class code and the fixed low bits of
the BARs are read-only (PRESUMED PCIe, log 36). -/
def Sw.cfgMask (s : Sw) (a : Nat) : Nat :=
  match a with
  | 0 | 8 => 0
  | 0x10 => (2 ^ 64 - 64 * s.winSize) % 2 ^ 32
  | 0x14 => (2 ^ 64 - 64 * s.winSize) / 2 ^ 32
  | 0x18 => 0xFFFFE000
  | 0x1C => 0xFFFFFFFF
  | _ => 0xFFFFFFFF

/-- A write of the host to the configuration space; the AER status words clear where 1 is written (R533, PCIe). -/
def Sw.cfgWrite (s : Sw) (a v : Nat) : Sw :=
  let a := a / 4 * 4
  let m := s.cfgMask a
  if a = Config.aerCap + 4 then s.aerClear 0 v else if a = Config.aerCap + 16 then s.aerClear 1 v
  else if m = 0 then s else (s.updBrg (fun b => { b with cfg := AMap.put b.cfg a (Nat.land v m) 0 })).msixFlush

/-- A host write to the MSI-X table; only bit 0 of Vector Control is kept. -/
def Sw.msixWrite (s : Sw) (o v : Nat) : Sw :=
  if 1024 ≤ o ∨ o % 4 ≠ 0 then s
  else
    let k := o % 16 / 4
    let v := if k = 3 then v % 2 else if k = 0 then v / 4 * 4 else v
    (s.updBrg (fun b => { b with msix := AMap.put b.msix o v (if k = 3 then 1 else 0) })).msixFlush

end Sys2Proof.Machine
end

