-- ==== Sys2Proof/Machine/Bridge.lean ====
section
/-! DEFINITION. The commands of chapter 13: the host's accesses, reverse windows, MSI-X, CXL memory and the bridge ports. -/

namespace Sys2Proof.Machine

/-- A host access that may be withheld until credit comes. -/
def State.endsHost (s : State) (r : Except Nat (Option Sw)) : Host.Outcome State Fault Refusal :=
  match r with
  | .ok none => .next s
  | .ok (some w) => s.ends w
  | .error n => .fault (.undefinedUse n)

/-! ### Host windows -/

/-- HOST_WRITE (R535 to R538, R541). During a warm reset it is discarded (16 R640). -/
def execHostWrite (offset : Nat) (bytes : List (Option Byte)) (s : State) : Host.Outcome State Fault Refusal :=
  let w := s.sw
  if !w.hostUp ∨ !w.boot.ready then .next s
  else if 64 * w.winSize < offset + bytes.length then .fault (.undefinedUse 558)
  else s.endsHost (w.hostWrite offset bytes)

/-- HOST_READ (R539). During a warm reset it completes with Completer Abort (16 R640). -/
def execHostRead (offset bytes : Nat) (s : State) : Host.Outcome State Fault Refusal :=
  let w := s.sw
  if !w.hostUp then .next s
  else if !w.boot.ready then s.ends ((w.send (.hostCpl 0 .abort [])).aerSet 0 15)
  else if 64 * w.winSize < offset + bytes then .fault (.undefinedUse 558)
  else s.endsHost (w.hostRead offset bytes)

/-- A packet for the bridge waits at a die whose link to it is stopped (01 R27): it gets no further. -/
def Sw.svcCut (s : Sw) (h : Word256) (pay : Bytes) : Bool := s.pins.d2dFatal.contains (14 + (s.takeKeep h pay).1.die)

/-- HOST_READ_RESP (R540). -/
def execHostReadResp (hdr : Word256) (payload : Bytes) (s : State) : Host.Outcome State Fault Refusal :=
  let w := s.sw.takeIn hdr payload
  let base := w.rd L.brgRetWin
  if pKind hdr ≠ 2 ∨ hOff hdr < base ∨ base + 4096 * 1024 ≤ hOff hdr ∨ s.sw.svcCut hdr payload then .next s
  else s.ends (w.readResp (s.sw.takeKeep hdr payload).1.die hdr payload)

/-- HOST_READ_TIMEOUT (Table 13.4). -/
def execHostReadTimeout (tag : Fin 1024) (s : State) : Host.Outcome State Fault Refusal :=
  match s.sw.brg.reads.find? (fun r => r.waiting.contains tag.val) with
  | none => .next s
  | some r => match (r.parts.find? (fun p => p.tag == tag.val)).bind HostPart.due with
    | none => .next s
    | some t => s.ends ((s.sw.reach t).readTimeout r)

/-! ### Reverse windows and MSI-X -/

/-- REVERSE_WINDOW_REQUEST (R543 to R545); Denied where the switch has no host (R531). -/
def execReverseWindowRequest (hdr : Word256) (payload : Bytes) (s : State) : Host.Outcome State Fault Refusal :=
  let w := s.sw.takeIn hdr payload
  let base := w.rd L.brgRevWin
  if 1 < pKind hdr ∨ hOff hdr < base ∨ base + 64 * 2 ^ 32 ≤ hOff hdr ∨ s.sw.svcCut hdr payload then .next s
  else s.ends (w.revRequest (s.sw.takeKeep hdr payload).1.die hdr payload)

/-- HOST_COMPLETION_RECEIVE (R545). -/
def execHostCompletionReceive (id : Nat) (status : CplStatus) (payload : Bytes) (s : State) : Host.Outcome State Fault Refusal :=
  if !s.sw.hostUp then .next s else s.ends (s.sw.hostCompletion id status payload)

/-- REVERSE_READ_TIMEOUT (R545). -/
def execReverseReadTimeout (id : Nat) (s : State) : Host.Outcome State Fault Refusal :=
  match s.sw.brg.revs.find? (fun r => r.parts.any (fun p => p.id == id)) with
  | none => .next s
  | some r => match r.due with
    | none => .next s
    | some t =>
      let w := (s.sw.reach t).updBrg (fun b => { b with revs := eraseOne r b.revs })
      s.ends ((w.aerSet 0 14).revAnswer r.die r.req stTargetReset []).revNext

/-- MSI_WRITE (R546): admitted only from its vector's tenancy; discarded while the host link is down (Table 13.6). -/
def execMsiWrite (hdr : Word256) (s : State) : Host.Outcome State Fault Refusal :=
  let pay := ((s.sw.fab.svcIn.find? (fun x => decide (x.hdr = hdr))).map Stored.pay).getD []
  let d := (s.sw.takeKeep hdr pay).1.die
  let w := s.sw.takeIn hdr pay
  let base := w.rd L.brgMsiWin
  let o := hOff hdr - base
  let v := o / 64
  if pKind hdr ≠ 0 ∨ hOff hdr < base ∨ 4096 ≤ o ∨ s.sw.svcCut hdr pay then .next s
  else if !w.hostRole ∨ o % 64 ≠ 0 ∨ v = 0 ∨ hPlen hdr ≠ 1 ∨ w.rd L.brgMsiTen v ≠ hTen hdr then s.ends (w.revAnswer d hdr stDenied [])
  else if !w.hostUp then s.ends w
  else s.ends ((w.msix v).revAnswer d hdr stOk [])

/-! ### The host link -/

/-- HOST_LINK_LOSS (Table 13.6). -/
def execHostLinkLoss (cause : HostLoss) (s : State) : Host.Outcome State Fault Refusal :=
  if !s.sw.hostUp then .next s
  else s.ends (match cause with
    | .linkDown => (s.sw.hostLost 1).updBport 0 (fun b => b.unlinked .training)
    | .hotReset => s.sw.hostReset 2)

/-- FUNCTION_LEVEL_RESET (Table 13.6): the link stays up. -/
def execFunctionLevelReset (s : State) : Host.Outcome State Fault Refusal :=
  if !s.sw.hostUp then .next s else s.ends (s.sw.hostLost 3).funcReset

/-- PERST_N_FALL (20 R757): the first row of Table 13.6 in the host role, ignored in the memory role. -/
def execPerstNFall (s : State) : Host.Outcome State Fault Refusal :=
  if !s.sw.hostUp then .next s else s.ends (s.sw.hostReset 2)

/-- HOST_LINK_UP (R551): the trained host link is in L0. -/
def execHostLinkUp (s : State) : Host.Outcome State Fault Refusal :=
  if !s.sw.hostRole ∨ (s.sw.bport 0).st ≠ .training then .next s
  else
    let r := s.sw.draw
    s.ends (r.2.linkUp 0 .ready (r.1 % 2 == 1))

/-- HOST_CONFIG_WRITE (R534); reprogramming BAR0 while host reads are outstanding is an undefined use (R558). -/
def execHostConfigWrite (address : BitVec 12) (value : BitVec 32) (s : State) : Host.Outcome State Fault Refusal :=
  let a := address.toNat / 4 * 4
  if !s.sw.hostUp then .next s
  else if (a = 0x10 ∨ a = 0x14) ∧ s.sw.brg.reads ≠ [] then .fault (.undefinedUse 558)
  else s.ends (s.sw.cfgWrite a value.toNat)

/-- MSIX_TABLE_WRITE (R546, Table 13.2A). -/
def execMsixTableWrite (offset : Nat) (value : BitVec 32) (s : State) : Host.Outcome State Fault Refusal :=
  if !s.sw.hostUp then .next s else s.ends (s.sw.msixWrite offset value.toNat)

/-! ### CXL memory -/

/-- The port faces a memory device. -/
def Sw.memRole (s : Sw) (p : Nat) : Bool := !(p == 0 && s.hostRole)

/-- The capacity a port had before the warm reset under way, while it has still to return (16 R640). -/
def Sw.awaited (s : Sw) (p : Nat) : Option Nat := (s.boot.returns.find? (fun r => r.1 == p)).map (fun r => r.2.1)

/-- A device that is Ready for the first time since the cold reset is cleared (14 R579). -/
def Sw.clearDevice (s : Sw) (p : Nat) : Sw :=
  if (s.bport p).unclear then
    (List.range ((s.bport p).cap / gib)).foldl (fun s g => s.clearCxl p g) (s.updBport p (fun b => { b with unclear := false }))
  else s

/-- The port is Ready: its slice is no longer condemned (17 Table 17.5), a device new since the cold reset is cleared. -/
def Sw.deviceReady (s : Sw) (p : Nat) : Sw := if (s.bport p).st = .ready then (s.restore (.bridge p)).clearDevice p else s

/-- MEM_PORT_ENUMERATE (R547, R551, 16 R640): the port reaches L0, after training or after a loss; one that returns from a warm
reset with another capacity goes Down. -/
def execMemPortEnumerate (port : BPort) (supported : Bool) (capacity : Nat) (s : State) : Host.Outcome State Fault Refusal :=
  let w := s.sw
  if !w.memRole port ∨ (w.bport port).st = .disabled ∨ (w.bport port).st = .ready then .next s
  else
    let x := w.enumerate port supported capacity
    match w.awaited port with
    | some c =>
      let x := { x with boot := { x.boot with returns := x.boot.returns.filter (fun r => r.1 != port.val) } }
      s.ends (if supported ∧ (x.bport port).cap = c then x.deviceReady port else x.memDown port 1)
    | none => s.ends ((if supported ∧ (w.bport port).lost then x.freshDevice port else x).deviceReady port)

/-- CXL_ACCESS (R548, R549): an access to device address `address`; one that the port does not serve comes to nothing
here. -/
def execCxlAccess (port : BPort) (address : BitVec 42) (op : CxlOp) (s : State) : Host.Outcome State Fault Refusal :=
  let a := address.toNat
  let n := match op with | .read u => 64 * u | .write bs => bs.length
  if n = 0 ∨ (s.sw.cxlJudge port a n).isSome then .next s
  else s.ends (match op with
    | .read u => s.sw.cxlStart port a u none none
    | .write bs => s.sw.cxlStart port a 0 (some bs) none)

/-- CXL_RESPONSE (R549, R550): the oldest access that waits for the line. -/
def execCxlResponse (port : BPort) (line : Nat) (poison : Bool) (s : State) : Host.Outcome State Fault Refusal :=
  let w := s.sw
  match w.brg.cxl.find? (fun x => x.port == port.val && x.lines.contains line) with
  | none => .next s
  | some x =>
    let r := w.cxlLine x line poison
    let k := port.val * 2 ^ 36 + line
    let bad := poison && (x.wr.isNone || r.1.poison)
    let w := { r.2 with cxlBad := if bad then insertNat k r.2.cxlBad else if x.wr.isSome then r.2.cxlBad.filter (fun l => l != k) else r.2.cxlBad }
    if r.1.lines.isEmpty then s.ends ((w.updBrg (fun b => { b with cxl := eraseOne x b.cxl })).cxlFinish r.1)
    else s.ends (w.updBrg (fun b => { b with cxl := b.cxl.map (fun y => if y = x then r.1 else y) }))

/-- MEM_DEVICE_TIMEOUT (R551): the oldest request has had no response for `brg.mem.to_ns`. -/
def execMemDeviceTimeout (port : BPort) (s : State) : Host.Outcome State Fault Refusal :=
  match (s.sw.brg.cxl.find? (fun x => x.port == port.val)).bind CxlAcc.due with
  | none => .next s
  | some t => s.ends ((s.sw.reach t).memDown port 4)

/-- DEVICE_EVENT_RECORD (R550). -/
def execDeviceEventRecord (port : BPort) (uncorrectable : Bool) (address : BitVec 40) (s : State) :
    Host.Outcome State Fault Refusal :=
  if !s.sw.memRole port then .next s
  else s.ends (s.sw.fault (if uncorrectable then 0x53 else 0x52) (64 + port) none (detM 2 port 0 address.toNat) 6)

/-- MEM_DEVICE_DOWN (Table 13.6). -/
def execMemDeviceDown (port : BPort) (cause : DownCause) (s : State) : Host.Outcome State Fault Refusal :=
  if !s.sw.memRole port ∨ (s.sw.bport port).st ≠ .ready then .next s
  else s.ends (s.sw.memDown port (match cause with | .linkDown => 1 | .timeout => 4 | .viral => 5))

/-! ### Port commands -/

/-- BRG_PORT_ENABLE (R555). -/
def execBrgPortEnable (port : BPort) (s : State) : Host.Outcome State Fault Refusal := s.written 0x1101 4 (s.ends (s.sw.bportEnable port))

/-- BRG_PORT_DISABLE (R555). -/
def execBrgPortDisable (port : BPort) (s : State) : Host.Outcome State Fault Refusal := s.written 0x1101 4 (s.ends (s.sw.bportDisable port))

/-- BRG_PORT_RETRAIN (R555). -/
def execBrgPortRetrain (port : BPort) (s : State) : Host.Outcome State Fault Refusal := s.written 0x1101 4 (s.ends (s.sw.bportRetrain port))

/-- BRG_PORT_RELEASE (Table 13.6). -/
def execBrgPortRelease (port : BPort) (s : State) : Host.Outcome State Fault Refusal := s.written 0x1101 4 (s.ends (s.sw.bportRelease port))

end Sys2Proof.Machine
end

