-- ==== Sys2Proof/Machine/Fabric.lean ====
section
/-! DEFINITION. The commands of chapters 01 to 03: rate monitors, die-to-die links, packets in, the crossbar, packets out. -/

namespace Sys2Proof.Machine

/-! ### Rate monitors and die-to-die links (01) -/

/-- When the window that runs at a die began. -/
def Sw.hsAt (s : Sw) (d : Nat) : Nat := s.pins.hsAt.getD d 0

/-- RATE_MONITOR_WINDOW (R37, R46): at the end of the window that runs, its count and mean voltage; the next begins, with the
length then in force (R45, R50). A core supply outside 600 to 850 mV is an undefined use (R51). A stopped monitor ends no
window. -/
def execRateMonitorWindow (die : Die) (rate : BitVec 32) (mv : BitVec 16) (s : State) : Host.Outcome State Fault Refusal :=
  let w := s.sw
  if w.hsWin die = 0 then .next s
  else if mv.toNat < 600 ∨ 850 < mv.toNat then .fault (.undefinedUse 51)
  else
    let t := w.hsAt die + w.hsWin die
    let w := w.reach t
    let w := (w.wr (L.devCoreHsRate.at die) 0 rate.toNat).wr (L.devCoreVddMv.at die) 0 mv.toNat
    s.ends { w with pins := { w.pins with
      hsWin := AMap.put w.pins.hsWin die (w.rd L.devCoreHsWindow) 10000
      hsAt := AMap.set w.pins.hsAt die t } }

/-- The value a write to `dev.core.hs_window` stores (R45, R50). -/
def hsClamp (v : Nat) : Nat := if v = 0 then 0 else max 1000 (min 1000000 v)

/-- A write to `dev.core.hs_window`: stored; a stopped monitor starts again (R45, R50). -/
def Sw.wrHsWindow (s : Sw) (v : Nat) : Sw :=
  let s := s.wr L.devCoreHsWindow 0 (hsClamp v)
  let still := (List.range 4).filter (fun d => s.hsWin d == 0)
  { s with pins := { s.pins with
      hsWin := still.foldl (fun m d => AMap.put m d (hsClamp v) 10000) s.pins.hsWin
      hsAt := still.foldl (fun m d => AMap.set m d s.now) s.pins.hsAt } }

/-- HS_WINDOW_WRITE (R45). -/
def execHsWindowWrite (value : BitVec 32) (s : State) : Host.Outcome State Fault Refusal := s.written 0x2010 5 (s.ends (s.sw.wrHsWindow value.toNat))

/-- D2D_WORD_CORRECTED (R26): counted, and a corrected fault. A stopped link carries no word. -/
def execD2dWordCorrected (link : LinkId) (s : State) : Host.Outcome State Fault Refusal :=
  if s.sw.pins.d2dFatal.contains link then .next s
  else s.ends ((s.sw.inc (L.devD2dCorrected.at link)).fault 0x01 (46 + link) none (detL 1 link 0 0 0) 0)

/-- A packet has words still to send over link `j`: over a Forge–Forge link until all its cells have crossed, toward a link die
until it has left, toward the bridge until its last cell has moved. -/
def DPkt.needs (k : DPkt) (j : Nat) : Bool :=
  if j < 6 then k.away && pairLink k.inDie k.egDie == j && decide (k.crossed < k.cells)
  else match k.out with
    | .port p => p.val / 64 + 6 == j
    | .cxl _ => k.egDie.val + 14 == j && decide (k.moved < k.cells)
    | _ => false

/-- A link stops (R28, 02 R73): packets that arrive over it are cut; those with words still to send over it are ended with
poison where they have begun egress, and discarded whole where they have not. -/
def Sw.linkLost (s : Sw) (j : Nat) : Sw :=
  let over_ (key : Nat) : Bool := if key < 512 then key / 64 + 6 == j else key - 512 + 14 == j
  let s := ((s.fab.arriving.map Prod.fst).filter over_).foldl (fun s k => s.cutArriving k) s
  (s.fab.pkts.filter (fun k => k.needs j)).foldl (fun s k => s.failPkt k.id) s

/-- D2D_LINK_STOP (R27, R28): the link stops, a fatal fault. -/
def execD2dLinkStop (link : LinkId) (s : State) : Host.Outcome State Fault Refusal :=
  let w := s.sw
  if w.pins.d2dFatal.contains link then .next s
  else
    let w := w.linkLost link
    let w := { w with pins := { w.pins with d2dFatal := insertNat link w.pins.d2dFatal
                                            d2dUp := w.pins.d2dUp.filter (fun n => n != link.val) } }
    s.ends (w.fault 0x02 (46 + link) none (detL 1 link 0 0 0) 0)

/-! ### Packets in (02, 03) -/

/-- DATA_HEADER_RECEIVE (02 R52 to R61, 14 R565, 03 R105 to R118, 05 R199 to R207): a word whose `ctl` is 1 is a control
packet, whatever brought it. -/
def execDataHeaderReceive (src : Ingress) (hdr : Word256) (s : State) : Host.Outcome State Fault Refusal :=
  s.endsOr (s.sw.rxWord src hdr)

/-- CONTROL_PACKET_RECEIVE (02 R52, 03 R102): a word whose `ctl` is 0 is a data header. -/
def execControlPacketReceive (src : Ingress) (pkt : Word256) (s : State) : Host.Outcome State Fault Refusal :=
  s.endsOr (s.sw.rxWord src pkt)

/-- DATA_END_WORD_RECEIVE (02 R71 to R74, 03 R124). -/
def execDataEndWordReceive (src : Ingress) (payload : Bytes) (endWord : BitVec 64) (s : State) :
    Host.Outcome State Fault Refusal := s.ends (s.sw.rxEnd src payload endWord)

/-- CREDIT_RECEIVE (02 R66): a checked CREDIT adds to the credit of each class; any other packet is not one. -/
def execCreditReceive (port : Lane) (pkt : Word256) (s : State) : Host.Outcome State Fault Refusal :=
  if pCtl pkt = 1 ∧ pKind pkt = 0 then s.ends (s.sw.rxCtl (.port port) pkt) else .next s

/-! ### Inside (03) -/

/-- CROSSBAR_CELL_SLOT (R106 to R109). -/
def execCrossbarCellSlot (die : Die) (s : State) : Host.Outcome State Fault Refusal :=
  s.ends ((s.sw.dataSlot die).ctlSlot die)

/-- DEPTH_REPORT_REFRESH (R116): the die's copies of the depths of ports on other dies. -/
def execDepthReportRefresh (die : Die) (s : State) : Host.Outcome State Fault Refusal :=
  let w := s.sw
  let keys := ((w.fab.pkts.filterMap (fun k => match k.out with
    | .port p => if laneDie p ≠ die.val ∧ k.mir.isNone ∧ 0 < k.moved then some (8 * p.val + pClass k.hdr) else none
    | _ => none)).eraseDups)
  let rest := w.fab.depth.filter (fun kv => kv.1 / 4096 != die.val)
  s.ends { w with fab := { w.fab with
    depth := keys.foldl (fun m k => AMap.put m (4096 * die + k) (w.depthOf (k / 8) (k % 8)) 0) rest } }

/-- SPRAY_HALVING_EXPIRE (R117): the member's weight is whole again. -/
def execSprayHalvingExpire (die : Die) (port : Lane) (cls : Fin 8) (s : State) : Host.Outcome State Fault Refusal :=
  let w := s.sw
  let k := 4096 * die.val + 8 * port.val + cls.val
  match w.fab.halve.get? k with
  | none => .next s
  | some t =>
    let w := w.reach t
    s.ends { w with fab := { w.fab with halve := AMap.del w.fab.halve k } }

/-- HOLE_TIMER_EXPIRE (R131 to R133): a hole is declared, and the lowest held packet is delivered. -/
def execHoleTimerExpire (src dst : EpId) (cls : Fin 8) (entropy : BitVec 8) (s : State) : Host.Outcome State Fault Refusal :=
  let w := s.sw
  let k := flowKey src.toNat dst.toNat cls entropy.toNat
  match w.flow k with
  | none => .next s
  | some f => match f.timer with
    | none => .next s
    | some t => s.ends (((w.reach t).declareHole k).reseq k)

/-! ### Packets out (03, 05) -/

/-- EGRESS_SELECT (05 R180). -/
def execEgressSelect (port : Lane) (s : State) : Host.Outcome State Fault Refusal := s.ends (s.sw.egressSelect port)

/-- EGRESS_PACKET_COMPLETE (03 R131, R125). -/
def execEgressPacketComplete (port : Lane) (s : State) : Host.Outcome State Fault Refusal :=
  s.ends (s.sw.egressComplete port)

/-- SIGNAL_HOLD_EXPIRE (02 R95, 11 R472): the oldest held SIGNAL that equals `pkt` is released Short. -/
def execSignalHoldExpire (pkt : Word256) (s : State) : Host.Outcome State Fault Refusal :=
  let w := s.sw
  match w.fab.held.find? (fun h => decide (h.pkt = pkt)) with
  | none => .next s
  | some h =>
    let w := w.reach h.deadline
    let w := { w with fab := { w.fab with held := eraseOne h w.fab.held } }
    s.ends (w.releaseShort h.die h.out h.pkt)

end Sys2Proof.Machine
end

