-- ==== Sys2Proof/Machine/LinkOps.lean ====
section
/-! DEFINITION. Ports (12): states, going down, re-routing, Up, negotiation, lanes and floors, link-level retry, electrical
idle, PFC. -/

namespace Sys2Proof.Machine

/-! ### Lanes and figures of merit (R514 to R517) -/

/-- The lanes a port runs on: its present width from its first lane on. -/
def Sw.portLanes (s : Sw) (p : Nat) : List Nat := (List.range (s.port p).width).map (fun i => p + i)

/-- The floor of a mode. -/
def Sw.floorOf (s : Sw) (mode : Nat) : Nat := s.rd L.linkFomFloor (mode - 1)

/-- The lowest figure of merit among the active lanes. -/
def Sw.minFom (s : Sw) (p : Nat) : Nat := (((s.portLanes p).map (fun n => (s.lane n).fom)).min?).getD 0

/-- Lanes below the floor of the port's mode. -/
def Sw.lanesBelow (s : Sw) (p : Nat) : List Nat := (s.portLanes p).filter (fun n => decide ((s.lane n).fom < s.floorOf (s.port p).mode))

/-- A figure of merit from the measured eye (R514). -/
def fomOf (e : LaneEye) : Nat := min (min 255 (2 * e.h / 1000)) (min 255 (max 0 (8 * (e.snr - 10000) / 1000)).toNat)

/-- A fault of a port, layout L: cause, width and lowest figure before any change, and the figure of each lane. -/
def Sw.portFault (s : Sw) (p code : Nat) : Sw :=
  let x := s.port p
  s.fault code (32 + p / 64) none (detL 0 p x.cause x.width (s.minFom p))
    (leNat ((List.range x.width).map (fun i => BitVec.ofNat 8 (s.lane (p + i)).fom)))

/-! ### States (R508, R523) -/

/-- What a port's link machinery holds is gone: replay buffer, receiver, electrical idle, pauses. -/
def PortSt.quiet (x : PortSt) : PortSt :=
  { x with lseq := 0, kept := [], resends := 0, rxNext := 0, nakDue := false, skip := false, stash := [], wantIdle := false
           eidleTx := false, eidleRx := false, exitAt := none, ackFrom := none, pause := [], pfcSent := [], sentTot := []
           rxBuf := [], rxLeft := 0, rxCut := false, rxOther := false, locked := false, pfc := false }

/-- Going down from Up (R523): counted; a contained fault unless a command caused it; the packet partly sent is lost to the
hop, the one partly received is cut, and those held whole are routed again. -/
def Sw.goDown (s : Sw) (p cause : Nat) : Sw :=
  let s := (s.inc L.linkCntDowns p).updPort p (fun x => { x with cause := cause })
  let s := if cause = 9 then s else s.portFault p 0x48
  let s := s.updPort p (fun x => { x.quiet with st := .negotiating })
  let s := s.cutArriving p
  let s := match s.leavingAt p with
    | some k => (s.loseRes k.hdr).leftPort k false
    | none => s
  s.reroute p

/-- The PHY types that a port's base page advertises (R491): those of its width, medium and enabled modes. -/
def PortSt.phys (x : PortSt) : List Phy :=
  ([2, 3].filter (fun m => bit x.modes (m - 1))).map (fun m => ⟨m, x.width, x.medium % 2 == 1⟩)

/-- A port enters Negotiating at width `w` and sends its base page, which always sets Next Page (R491, R523, R527). -/
def Sw.enterNeg (s : Sw) (p w : Nat) : Sw :=
  let s := s.guardUp p
  let s := (List.range (s.rd L.linkPortWidth p)).foldl (fun s i =>
    s.setLane (p + i) { (s.lane (p + i)) with
      below := none, locked := false, commas := 0, misses := 0, tagPort := 0, offset := 0, unlocked := none, inv := false
      asleep := false }) s
  let s := s.updPort p (fun x => { x.quiet with
    st := .negotiating, mode := 0, width := w, plain := false, partner := 0, negAt := s.now
    modes := s.rd L.linkPortModes p, medium := s.rd L.linkPortMedium p, dmac := s.rd L.linkEthDmac p })
  s.send (.basePage p true (s.port p).phys)

/-- A port fails with a cause: a contained fault names it (Table 12.8; DEDUCED, log 32). -/
def Sw.failPort (s : Sw) (p cause : Nat) : Sw :=
  let s := s.updPort p (fun x => { x with cause := cause })
  (s.portFault p 0x48).updPort p (fun x => { x.quiet with st := .failed, mode := 0, failAt := s.now })

/-- A port out of service (R519). -/
def Sw.outOfService (s : Sw) (p : Nat) : Sw :=
  (s.portFault p 0x4A).updPort p (fun x => { x.quiet with st := .failed, mode := 0, oos := true, failAt := s.now })

/-- The lower half of the port can carry it on (R517). -/
def Sw.canReduce (s : Sw) (p : Nat) : Bool :=
  let x := s.port p
  decide (1 < x.width) && (List.range (x.width / 2)).all (fun i => decide (s.floorOf x.mode ≤ (s.lane (p + i)).fom)) &&
  s.rd L.linkPortModes p % 8 != 0

/-- The port renegotiates at half its width; the lanes it leaves are powered off (R517, R518). -/
def Sw.reduce (s : Sw) (p : Nat) : Sw :=
  let w := (s.port p).width / 2
  let s := s.portFault p 0x49
  let s := (List.range w).foldl (fun s i => s.setLane (p + w + i) {}) s
  (s.updPort p (fun x => { x with reduced := true })).enterNeg p w

/-- A lane fails its floor (R517). -/
def Sw.floorFail (s : Sw) (p : Nat) : Sw :=
  let red := s.canReduce p
  let x := s.port p
  let s := if x.st = .up then s.goDown p 8 else s.updPort p (fun x => { x with cause := 8 })
  if red then s.reduce p else s.outOfService p

/-- A port that went down for retry or lock loss with a lane below floor renegotiates at the reduced width (R524). -/
def Sw.downAndBack (s : Sw) (p cause : Nat) : Sw :=
  let red := !(s.lanesBelow p).isEmpty && s.canReduce p && (cause == 5 || cause == 6)
  let s := s.goDown p cause
  if red then s.reduce p else s.enterNeg p (s.port p).width

/-- Alignment begins: the lanes of a native port send idle codewords, commas and lane tags from now on (R494, R500). -/
def Sw.beginAlign (s : Sw) (p : Nat) : Sw := (s.updPort p (fun x => { x with st := .aligning })).linesBegin p

/-- A port enters Up (R508): sequence numbers and running totals start at 0, and a CREDIT with all the cells set aside is
due. -/
def Sw.enterUp (s : Sw) (p : Nat) : Sw :=
  let s := (s.linesTo p).updPort p (fun x => { x.quiet with
    st := .up, locked := true, pfc := x.plain && x.mode != 1, quietAt := s.now })
  (List.range 8).foldl (fun s c =>
    let x := { (s.credit p c) with res := s.reserveOf p c, tx := 0, rxLast := 0 }
    let s := s.setCredit p c { x with total := (x.res - x.resUsed + x.shFree) % 65536 }
    s.askStep p c true) s

/-- What takes a port down other than R517 and is due by now comes before a lane's failure of its floor, and before electrical
idle (R524): 1 ms without lock (R502), and a replay at the limit of resends (R506). A command behind another is a later event,
as are Disable and Retrain (DEDUCED, log 150). -/
def Sw.downDue (s : Sw) (p : Nat) : Option Nat :=
  let x := s.port p
  let ns := s.rd L.linkRetryNs
  let lim := s.rd L.linkRetryMax
  let old : Bool := match x.kept with | k :: _ => decide (deadline k.since (if ns = 0 then 1000 else ns) ≤ s.now) | [] => false
  if x.st ≠ .up ∨ x.mode ≠ 1 then none
  else if (s.portLanes p).any (fun n => match (s.lane n).unlocked with | some t => decide (deadline t 1000000 ≤ s.now) | none => false) then
    some 6
  else if old ∧ lim ≠ 0 ∧ lim ≤ x.resends then some 5
  else none

/-! ### Negotiation (R491 to R494) -/

/-- The partner is a Hokuell partner (R492). -/
def Sw.hokuell (s : Sw) (g : PartnerPages) : Bool :=
  g.nextPage && g.oui.toNat == fld (s.rd L.linkAnOui) 0 24 && fld g.cap.toNat 29 3 == 1

/-- The capability word of a port (Table 12.2). -/
def Sw.capWord (s : Sw) (p : Nat) : Nat :=
  1 * 2 ^ 29 + b2n (bit (s.port p).modes 0) * 2 ^ 28 + 7 * 2 ^ 25 + p * 2 ^ 16 + s.rd L.fabSelfEp

/-- The mode both sides settle on (R493), the faster PHY type first; 0 where none is common. -/
def Sw.settleMode (s : Sw) (p : Nat) (g : PartnerPages) : Nat :=
  let both := (s.port p).phys.filter (fun y => g.phys.contains y)
  if s.hokuell g && bit g.cap.toNat 28 && bit (s.port p).modes 0 then 1
  else match both with
  | y :: _ => y.mode
  | [] => 0

/-- Negotiation is complete (R493, R494): every other next page of the partner has been answered with a null message page (R492). A
link die without its SerDes clock trains no lane, so that its ports fail (20
R759, Table 12.7). -/
def Sw.negotiated (s : Sw) (p : Nat) (g : PartnerPages) : Sw :=
  let m := s.settleMode p g
  let h := s.hokuell g
  let s := if g.nextPage then s.send (.nextPages p (s.rd L.linkAnOui) (s.capWord p)) else s
  let s := if g.nextPage then forN g.others s (fun _ s => s.send (.nullPage p)) else s
  let s := s.updPort p (fun x => { x with plain := !h, partner := if h then g.cap.toNat else 0 })
  if m = 0 then s.failPort p 1
  else if s.pins.noClk.contains (p / 64) then s.failPort p 2
  else s.updPort p (fun x => { x with st := .training, mode := m, trainAt := s.now })

/-! ### Alignment (R500 to R502) -/

/-- A lane tag is valid (R500). -/
def tagOk (t : Nat) : Bool := fld t 16 16 == 0xFFFF - fld t 0 16 && fld t 0 4 == 5

/-- A lane meets, or misses, a comma where one is due (R501). A receiver whose direction is in electrical idle locks on
one (R521). -/
def LaneSt.comma (x : LaneSt) (now : Nat) (tag : Option Nat) : LaneSt :=
  match tag.filter tagOk with
  | some t =>
    let y := { x with misses := 0, commas := if x.asleep then 3 else min 3 (x.commas + 1), asleep := false
                      tagPort := fld t 7 9, offset := fld t 4 3 }
    if y.commas = 3 then { y with locked := true, unlocked := none } else y
  | none =>
    if !x.locked then { x with commas := 0 }
    else if x.misses = 0 then { x with misses := 1 }
    else { x with locked := false, misses := 0, commas := 0, unlocked := some now }

/-- The port is aligned, or fails by a wrong tag (R501). -/
def Sw.alignTest (s : Sw) (p : Nat) : Sw :=
  let ls := (s.portLanes p).map s.lane
  let want := fld (s.port p).partner 16 9
  if ls.any (fun l => l.locked && l.tagPort != want) then s.failPort p 3
  else if ls.all LaneSt.locked ∧ (ls.map LaneSt.offset).Nodup then s.enterUp p
  else s

/-! ### Link-level retry (R503 to R507) -/

/-- An acknowledgement frees the codewords up to `aseq` (R506). -/
def Sw.acked (s : Sw) (p aseq : Nat) : Sw :=
  s.updPort p (fun x =>
    let rest := x.kept.filter (fun k => later 65536 aseq k.lseq)
    { x with kept := rest, resends := if rest.length < x.kept.length then 0 else x.resends })

/-- Everything kept is sent again; after the limit the port goes down (R506). -/
def Sw.resend (s : Sw) (p : Nat) : Sw :=
  let x := s.port p
  let lim := s.rd L.linkRetryMax
  if x.kept.isEmpty then s
  else if lim ≠ 0 ∧ lim ≤ x.resends then s.downAndBack p 5
  else
    let s := x.kept.foldl (fun s k => (s.send (.resend p k.lseq)).putLoad p k.lseq k.load) (s.inc L.linkCntRetries p)
    s.updPort p (fun y => { y with resends := y.resends + 1, kept := y.kept.map (fun k => { k with since := s.now }), quietAt := s.now })

/-! #### Received codewords (R488, R495 to R497) -/

/-- The kind of a block from the five levels of its kind symbol: none where its halves disagree, or where it is neither that of
a short codeword nor that of a block of a long one. -/
def blockKind (l : List Pam) : Option Nat :=
  let v := pamNat l
  let k := v % 32
  if l.length = 5 ∧ v / 32 = 31 - k ∧ (k = 1 ∨ 16 ≤ k) then some k else none

/-- A codeword of a lane is a short one: it has one block. -/
def cwShort (c : Codeword) : Bool := c.kinds.length == 1

/-- No block of the codeword is lost: one of kind 0b0_0001, or blocks 0 to 15 of a long codeword in order. `inv`: the lane
brings its signal inverted, which the receiver undoes (R488). -/
def cwWhole (inv : Bool) (c : Codeword) : Bool :=
  c.kinds.map (fun l => blockKind (if inv then l.map Pam.flip else l)) == (cwKinds (!cwShort c)).map some

/-- The symbols in error are no more than its code corrects: two of RS(34,30), eight of RS(544,528). -/
def cwCorrectable (c : Codeword) : Bool := decide (c.errs ≤ if cwShort c then 2 else 8)

/-- Fields of a message (Tables 12.3 and 12.4). -/
def cwField (c : Codeword) (lo len : Nat) : Nat := fld c.msg.toNat lo len
def cwLseq (c : Codeword) : Nat := if cwShort c then cwField c 272 16 else cwField c 144 16
def cwAseq (c : Codeword) : Nat := if cwShort c then cwField c 256 16 else cwField c 128 16
def cwNak (c : Codeword) : Bool := (if cwShort c then cwField c 291 1 else cwField c 127 1) == 1
def cwEidle (c : Codeword) : Bool := (if cwShort c then cwField c 289 1 else cwField c 126 1) == 1
def cwIdle (c : Codeword) : Bool := cwShort c && cwField c 290 1 == 1
def cwPkt (c : Codeword) : Word256 := BitVec.ofNat 256 (cwField c 0 256)

/-- The valid flits of a long codeword in order: whether each begins a data packet, and its 64 bytes. -/
def cwFlits (c : Codeword) : List (Bool × Bytes) :=
  if cwShort c then []
  else ((List.range 10).filter (fun i => cwField c (116 + i) 1 == 1)).map (fun i => (cwField c (106 + i) 1 == 1, leBytes 64 (cwField c (160 + 512 * i) 512)))

/-- The header at the start of a packet's bytes. -/
def firstWord (bs : Bytes) : Word256 := BitVec.ofNat 256 (leNat (slice bs 0 32))

/-- The check of every packet that a codeword opens holds (02 R54). -/
def cwChecked (c : Codeword) : Bool :=
  if cwShort c then cwIdle c || checkOk (cwPkt c) else (cwFlits c).all (fun f => !f.1 || checkOk (firstWord f.2))

/-- The codeword goes on with a packet that an earlier one opened; it opens one itself. -/
def cwContinues (c : Codeword) : Bool := match cwFlits c with | f :: _ => !f.1 | [] => false
def cwOpens (c : Codeword) : Bool := (cwFlits c).any Prod.fst

/-! #### Delivery -/

/-- A codeword is discarded under R505: where it holds part of the data packet whose first flits have been delivered, that packet
ends as though with poison; the replay delivers it whole again (R507, 03 R136; DEDUCED, log 119). -/
def Sw.discardCw (s : Sw) (p : Nat) (c : Codeword) : Sw :=
  let x := s.port p
  let s := if 0 < x.rxLeft ∧ !x.rxCut ∧ !x.rxOther ∧ cwContinues c then (s.updPort p (fun y => { y with rxCut := true })).cutArriving p
    else s
  s.updPort p (fun y => { y with rxOther := y.rxOther || cwOpens c })

/-- The receiver asks for a replay: its next block says `nak`, and codewords are discarded until the expected one comes, those
stashed first (R505); an idle transmitter leaves electrical idle for it (R521). -/
def Sw.askReplay (s : Sw) (p : Nat) : Sw :=
  let s := (s.port p).stash.foldl (fun s c => s.discardCw p c.1) s
  let s := s.updPort p (fun x => { x with nakDue := true, skip := true, stash := []
                                          exitAt := if x.eidleTx && x.exitAt.isNone then some s.now else x.exitAt })
  if (s.port p).eidleTx then s else s.putIdle p false

/-- The packet whose flits arrive is complete: its payload and end word follow its header. -/
def Sw.rxWholePkt (s : Sw) (p : Lane) : Sw :=
  let x := s.port p
  let n := 64 * hPlen (firstWord x.rxBuf)
  if 0 < x.rxLeft then s
  else s.rxEnd (.port p) (slice x.rxBuf 32 n) (BitVec.ofNat 64 (leNat (slice x.rxBuf (32 + n) 8)))

/-- A flit arrives (R498): one that begins a packet brings its header; another goes on with the packet under way, whose header
comes anew where a discarded codeword had cut it; one behind no packet is dropped. -/
def Sw.rxFlit (s : Sw) (p : Lane) (f : Bool × Bytes) : Except Nat Sw :=
  let x := s.port p
  if f.1 then
    let w := firstWord f.2
    if pCtl w = 1 then (s.updPort p (fun y => { y with rxLeft := 0, rxCut := false })).rxWord (.port p) w
    else ((s.updPort p (fun y => { y with rxBuf := f.2, rxLeft := hPlen w, rxCut := false })).rxHeader (.port p) w).map
      (fun s => s.rxWholePkt p)
  else if x.rxLeft = 0 then .ok s
  else
    let s := s.updPort p (fun y => { y with rxBuf := y.rxBuf ++ f.2, rxLeft := y.rxLeft - 1, rxCut := false })
    (if x.rxCut then s.rxHeader (.port p) (firstWord x.rxBuf) else .ok s).map (fun s => s.rxWholePkt p)

/-- Flits arrive in order. -/
def Sw.rxFlits (s : Sw) (p : Lane) : List (Bool × Bytes) → Except Nat Sw
  | [] => .ok s
  | f :: l => match s.rxFlit p f with
    | .ok s => s.rxFlits p l
    | .error r => .error r

/-- What a codeword carries reaches the core. -/
def Sw.deliverBody (s : Sw) (p : Lane) (c : Codeword) : Except Nat Sw :=
  if cwIdle c then .ok s else if cwShort c then s.rxWord (.port p) (cwPkt c) else s.rxFlits p (cwFlits c)

/-- The expected codeword is delivered, and those stashed that follow it (R502, R505). One with a packet whose check fails is
discarded, so that the link replays it (02 R54). -/
def Sw.deliverCw : Nat → Sw → Lane → Codeword → Except Nat Sw
  | 0, s, _, _ => .ok s
  | n + 1, s, p, c =>
    let x := s.port p
    if !cwChecked c then .ok ((s.discardCw p c).askReplay p)
    else
    let s := s.updPort p (fun x => { x with rxNext := (x.rxNext + 1) % 65536, skip := false, rxOther := false
                                            ackFrom := if x.eidleTx && x.ackFrom.isNone then some s.now else x.ackFrom })
    match s.deliverBody p c with
    | .error r => .error r
    | .ok s =>
      if (s.port p).st ≠ .up then .ok s
      else match x.stash.find? (fun d => cwLseq d.1 == (x.rxNext + 1) % 65536) with
      | none => .ok s
      | some d => Sw.deliverCw n (s.updPort p (fun y => { y with stash := eraseOne d y.stash })) p d.1

/-- The partner says that it enters electrical idle: the receiver of every lane freezes (R520). -/
def Sw.rxIdle (s : Sw) (p : Nat) : Sw :=
  (s.portLanes p).foldl (fun s n => s.setLane n { (s.lane n) with asleep := true }) (s.updPort p (fun x => { x with eidleRx := true }))

/-- A received codeword (R495 to R497, R502 to R507, R520): one that came on no lane of the port that is locked and driven is
discarded (R501); one that lost a block, or that its code does not correct, makes the partner replay. -/
def Sw.codeword (s : Sw) (p : Lane) (c : Codeword) : Except Nat Sw :=
  let l := s.lane c.lane
  if !(s.portLanes p).contains c.lane.val ∨ !l.locked ∨ l.asleep then .ok s
  else if !cwWhole l.inv c then .ok ((s.discardCw p c).askReplay p)
  else if !cwCorrectable c then .ok (((s.inc L.linkCntUncorr p).discardCw p c).askReplay p)
  else
    let s := s.inc L.linkCntCorr p c.errs
    let s := s.acked p (cwAseq c)
    let s := if cwEidle c then s.rxIdle p else s
    let s := if cwNak c then s.resend p else s
    let x := s.port p
    if x.st ≠ .up ∨ cwIdle c then .ok s
    else if cwLseq c = x.rxNext then Sw.deliverCw (x.stash.length + 1) s p c
    else if !later 65536 x.rxNext (cwLseq c) ∨ x.stash.any (fun d => cwLseq d.1 == cwLseq c) then .ok s
    else if x.skip then .ok (s.discardCw p c)
    else .ok (s.updPort p (fun y => { y with stash := y.stash ++ [(c, s.now)] }))

/-- When the skew allowance of the missing codeword ends: 60 ns after the first of those ahead of it came (R502, R505). -/
def PortSt.skewAt (x : PortSt) : Option Nat := ((x.stash.map Prod.snd).min?).map (fun t => deadline t 60)

/-! ### Electrical idle (R520 to R522) -/

/-- A packet, a CREDIT or a `nak` is ready to be sent. -/
def Sw.hasToSend (s : Sw) (p : Nat) : Bool :=
  let x := s.port p
  let o : Out := .port (Fin.ofNat 512 p)
  x.nakDue || s.creditDue p || s.fab.pkts.any (fun k => decide (k.out = o) && (k.stage == .queued || k.stage == .leaving)) ||
  s.fab.ctl.any (fun c => c.atEg && decide (c.out = o))

/-- Nothing stands in the way of electrical idle: no packet, CREDIT or `nak` to send, an empty replay buffer (R520). -/
def Sw.canIdle (s : Sw) (p : Nat) : Bool :=
  let x := s.port p
  x.st == .up && x.mode == 1 && !x.eidleTx && x.kept.isEmpty && !s.hasToSend p

/-- The temperature of a port's link die. -/
def Sw.linkTj (s : Sw) (p : Nat) : Int := s.hottest (64 + 4 * (p / 64)) 4

/-- The transmitter says `eidle` and stops driving. -/
def Sw.goIdle (s : Sw) (p : Nat) : Sw :=
  (s.putIdle p true).updPort p (fun x => { x with eidleTx := true, wantIdle := false, idleAt := s.now, idleTj := s.linkTj p, ackFrom := none })

/-- An exit retrains the port in the fine phase, and so takes up to 2 ms (R522, R528). -/
def Sw.exitTrains (s : Sw) (p : Nat) : Bool :=
  let x := s.port p
  let long := s.rd L.linkIdleMaxNs
  long == 0 || decide (x.idleAt + long < x.exitAt.getD s.now) || decide (100 < (s.linkTj p - x.idleTj).natAbs)

/-! ### Ethernet (R509 to R512) -/

/-- A frame's packet reaches the core: a control packet, or a data packet with payload and end word (02 R52). -/
def Sw.framePacket (s : Sw) (p : Lane) (bs : Bytes) : Except Nat Sw :=
  let w := firstWord bs
  match s.rxWord (.port p) w with
    | .error r => .error r
    | .ok s => .ok (if pCtl w = 1 then s
        else s.rxEnd (.port p) (slice bs 32 (64 * hPlen w)) (BitVec.ofNat 64 (leNat (slice bs (32 + 64 * hPlen w) 8))))

/-- A number whose bytes come most significant first. -/
def beNat (bs : Bytes) : Nat := leNat bs.reverse

/-- Where the EtherType of a frame stands: behind one tag of 802.1Q, if it has one (R510). -/
def etherAt (f : Bytes) : Nat := if beNat (slice f 12 2) = 0x8100 then 16 else 12
def etherType (f : Bytes) : Nat := beNat (slice f (etherAt f) 2)

/-- A frame with its FCS (log 136). -/
def withFcs (b : Bytes) (fcs : BitVec 32) : Bytes := b ++ leBytes 4 fcs.toNat

/-- The frame's FCS agrees. -/
def fcsOk (f : Bytes) : Bool := decide (18 ≤ f.length) && leNat (f.drop (f.length - 4)) == crc32 (f.take (f.length - 4))

/-- What stands between EtherType and FCS. -/
def frameBody (f : Bytes) : Bytes := slice f (etherAt f + 2) (f.length - 6 - etherAt f)

/-- A PFC frame (IEEE 802.1Q): MAC control, opcode 0x0101. -/
def isPfc (f : Bytes) : Bool := etherType f == 0x8808 && beNat (slice (frameBody f) 0 2) == 0x0101

/-- The time that a number of pause quanta of 512 bit times names, in ns. -/
def Sw.pauseNs (s : Sw) (p q : Nat) : Nat := cdiv (q * 51200) (s.lineRate p)

/-- A PFC frame pauses each class it names for its quanta, or resumes it by 0 (R512). -/
def Sw.pfcIn (s : Sw) (p classes : Nat) (quanta : List Nat) : Sw :=
  (List.range 8).foldl (fun w c =>
    let q := quanta.getD c 0
    if !bit classes c then w
    else w.updPort p (fun x => { x with
      pause := if q = 0 then AMap.del x.pause c else AMap.set x.pause c (deadline w.now (w.pauseNs p q)) })) s

/-- The FEC of an Ethernet mode, RS(544,514), corrects up to 15 symbols of a codeword (R490). -/
def fecOk (fec : List Nat) : Bool := fec.all (fun n => decide (n ≤ 15))

/-- What FEC did is counted: symbols corrected, and codewords that it could not correct. -/
def Sw.fecCount (s : Sw) (p : Nat) (fec : List Nat) : Sw :=
  (s.inc L.linkCntCorr p (sumBy (fun n => if n ≤ 15 then n else 0) fec)).inc L.linkCntUncorr p
    (fec.filter (fun n => decide (15 < n))).length

/-- A frame whose codewords FEC has counted arrives (R490, R510 to R512): one that fails its FCS or FEC is lost, and a packet of the
port already cut through is poisoned; one with the part's EtherType brings its packet, a PFC frame on a plain port pauses classes,
any other is counted. -/
def Sw.ethIn (s : Sw) (p : Lane) (fec : List Nat) (f : Bytes) : Except Nat Sw :=
  let s := s.fecCount p fec
  if !fecOk fec ∨ !fcsOk f then .ok (s.cutArriving p)
  else if etherType f = s.rd L.fabEthEthertype then
    if (s.port p).plain ∧ 4158 < f.length then .error 529 else s.framePacket p (frameBody f)
  else if (s.port p).plain ∧ isPfc f then
    .ok (s.pfcIn p (beNat (slice (frameBody f) 2 2) % 256) ((List.range 8).map (fun c => beNat (slice (frameBody f) (4 + 2 * c) 2))))
  else .ok (s.inc L.linkEthOther p)

end Sys2Proof.Machine
end

