-- ==== Sys2Proof/Machine/Links.lean ====
section
/-! DEFINITION. The commands of chapter 12: ports, negotiation, training, alignment, retry, electrical idle, Ethernet
framing and PFC. -/

namespace Sys2Proof.Machine

/-! ### Port commands (Table 12.7, R520) -/

/-- A write of 1 to `link.port.cmd`: only a Disabled, configured port is enabled. -/
def Sw.portEnable (s : Sw) (p : Nat) : Sw :=
  let x := s.port p
  if s.portCfg p ∧ x.st = .disabled then s.enterNeg p (if x.reduced then x.width else s.rd L.linkPortWidth p) else s

/-- A write of 2: a port that is Up goes down with cause Command; the port stops driving, and is back in service. -/
def Sw.portDisable (s : Sw) (p : Nat) : Sw :=
  if !s.portCfg p then s
  else
    let s := if s.portUp p then s.goDown p 9 else s
    (s.updPort p (fun x => { x.quiet with st := .disabled, mode := 0, oos := false })).restore (.port p)

/-- A write of 3: any port but a Disabled one starts again at its configured width. -/
def Sw.portRetrain (s : Sw) (p : Nat) : Sw :=
  if !s.portCfg p ∨ (s.port p).st = .disabled then s
  else
    let s := if s.portUp p then s.goDown p 9 else s
    ((s.updPort p (fun x => { x with reduced := false, oos := false })).restore (.port p)).enterNeg p (s.rd L.linkPortWidth p)

/-- Electrical idle is asked for, and entered where nothing stands in its way; where a packet is ready the entry is abandoned, and it
waits only for the replay buffer (R520). -/
def Sw.portEnterIdle (s : Sw) (p : Nat) : Sw :=
  let x := s.port p
  if x.st ≠ .up ∨ x.mode ≠ 1 ∨ x.eidleTx then s
  else if s.hasToSend p then s.updPort p (fun x => { x with wantIdle := false })
  else if s.canIdle p then s.goIdle p
  else s.updPort p (fun x => { x with wantIdle := true })

/-- PORT_ENABLE (R523). -/
def execPortEnable (port : Lane) (s : State) : Host.Outcome State Fault Refusal := s.written 0x3000 4 (s.ends (s.sw.portEnable port))

/-- PORT_DISABLE (R523). -/
def execPortDisable (port : Lane) (s : State) : Host.Outcome State Fault Refusal := s.written 0x3000 4 (s.ends (s.sw.portDisable port))

/-- PORT_RETRAIN (R523). -/
def execPortRetrain (port : Lane) (s : State) : Host.Outcome State Fault Refusal := s.written 0x3000 4 (s.ends (s.sw.portRetrain port))

/-- PORT_ENTER_IDLE (R520). -/
def execPortEnterIdle (port : Lane) (s : State) : Host.Outcome State Fault Refusal := s.written 0x3000 4 (s.ends (s.sw.portEnterIdle port))

/-! ### Negotiation and training (R491 to R494, R514 to R518) -/

/-- NEGOTIATION_COMPLETE (R493, R494). -/
def execNegotiationComplete (port : Lane) (pages : PartnerPages) (s : State) : Host.Outcome State Fault Refusal :=
  if (s.sw.port port).st ≠ .negotiating then .next s else s.ends (s.sw.negotiated port pages)

/-- A port goes down for what is due at this instant under R524, else `f` happens to it. -/
def Sw.downFirst (s : Sw) (p : Nat) (f : Sw → Sw) : Sw :=
  match s.downDue p with
  | some c => s.downAndBack p c
  | none => f s

/-- One port after an update of the figures of merit: training may end (R515), or a lane may fail its floor (R517). -/
def Sw.fomPort (s : Sw) (lanes : List Nat) (p : Nat) : Sw :=
  let x := s.port p
  if x.st = .training then
    if (s.portLanes p).all (fun n => lanes.contains n) ∧ s.lanesBelow p = [] then s.beginAlign p
    else s
  else if x.st = .up then
    let low := s.lanesBelow p
    let s := (s.portLanes p).foldl (fun s n =>
      let y := s.lane n
      s.setLane n { y with below := if low.contains n then y.below.or (some s.now) else none }) s
    let hold := s.rd L.linkFomHoldNs
    if low.any (fun n => match (s.lane n).below with | some t => decide (t + hold ≤ s.now) | none => false) then
      s.downFirst p (fun s => s.floorFail p)
    else s
  else s

/-- The configured ports, in ascending order. -/
def Sw.cfgPortList (s : Sw) : List Nat := (s.elems L.linkPortWidth).map Prod.fst

/-- The lane belongs to a port and is not one that a reduced port has powered off (R518, R526). -/
def Sw.lanePowered (s : Sw) (n : Nat) : Bool :=
  match s.portOfLane n with
  | some p => !((s.port p).reduced && decide (p + (s.port p).width ≤ n))
  | none => false

/-- Temper's step at a lane whose figure is now `f` (R516): a step that lowered the figure by more than 8 is undone; else the
next step is one up or one down, as a free value says, since no rule states the direction (log 120). Answers the lane and
the state past the draw. -/
def Sw.temperStep (s : Sw) (x : LaneSt) (f : Nat) : LaneSt × Sw :=
  if x.step ≠ 0 ∧ f + 8 < x.was then ({ x with eq := x.eq - x.step, step := 0, was := f }, s)
  else
    let r := s.draw
    let d : Int := if r.1 % 2 = 0 then 1 else -1
    ({ x with eq := x.eq + d, step := d, was := f }, r.2)

/-- A lane's new figure of merit; in Up, out of electrical idle, its equaliser moves by one step (R514, R516, R520). While its port
trains it finds out whether its signal comes inverted (R488). -/
def Sw.fomLane (s : Sw) (n : Nat) (f : Nat) (inv : Bool) : Sw :=
  let x := s.lane n
  let up := match s.portOfLane n with
    | some p => s.portUp p && !(s.port p).eidleRx
    | none => false
  let trains : Bool := match s.portOfLane n with
    | some p => (s.port p).st == .training
    | none => false
  let r := if up then s.temperStep x f else ({ x with step := 0, was := f }, s)
  r.2.setLane n { r.1 with fom := f, inv := if trains then inv else x.inv }

/-- When the next update of the figures of merit is: the next whole multiple of 10 µs at which there was none yet (R514). -/
def Sw.fomNext (s : Sw) : Nat := nextTick 10000 s.now s.fomAt

/-- TEMPER_FOM_UPDATE (R514 to R517): the next whole multiple of 10 µs, for every lane at once. -/
def execTemperFomUpdate (eyes : List LaneEye) (s : State) : Host.Outcome State Fault Refusal :=
  let w := { s.sw.reach s.sw.fomNext with fomAt := some s.sw.fomNext }
  let w := eyes.foldl (fun w e => if w.lanePowered e.lane then w.fomLane e.lane (fomOf e) e.inv else w) w
  s.ends (w.cfgPortList.foldl (fun w p => w.fomPort (eyes.map (fun e => e.lane.val)) p) w)

/-- TRAINING_TIMEOUT (R515): 300 ms for a native port; the timers of IEEE training are not the part's to state. -/
def execTrainingTimeout (port : Lane) (coarseDone : Bool) (s : State) : Host.Outcome State Fault Refusal :=
  let x := s.sw.port port
  if x.st ≠ .training then .next s
  else
    let w := if x.mode = 1 then s.sw.reach (deadline x.trainAt 300000000) else s.sw
    s.ends (if !coarseDone then w.failPort port 2
      else if w.lanesBelow port = [] then w.beginAlign port
      else w.floorFail port)

/-! ### Alignment (R494, R500 to R502) -/

/-- COMMA_RECEIVE (R500, R501): a comma with the tag behind it, or none where one was due. A lane whose direction is in electrical
idle locks on one, and is tested for none (R521, R522). -/
def execCommaReceive (lane : Lane) (tag : Option (BitVec 32)) (s : State) : Host.Outcome State Fault Refusal :=
  match s.sw.portOfLane lane with
  | none => .next s
  | some p =>
    let x := s.sw.port p
    if x.mode ≠ 1 ∨ (x.st ≠ .aligning ∧ x.st ≠ .up) ∨ p + x.width ≤ lane ∨ ((s.sw.lane lane).asleep ∧ tag.isNone) then .next s
    else
      let w := s.sw.linesTo p
      let w := w.setLane lane ((w.lane lane).comma w.now (tag.map BitVec.toNat))
      let w := w.updPort p (fun x => { x with eidleRx := (w.portLanes p).any (fun n => (w.lane n).asleep) })
      s.ends (if x.st = .aligning then w.alignTest p else w)

/-- PCS_ALIGNMENT_LOCK (R494, R523): in Ethernet mode bit 1 of a lane's polarity has to undo its inversion (R488). -/
def execPcsAlignmentLock (port : Lane) (s : State) : Host.Outcome State Fault Refusal :=
  let x := s.sw.port port
  if x.st ≠ .aligning ∨ x.mode = 1 ∨
      (s.sw.portLanes port).any (fun n => (s.sw.lane n).inv != bit (s.sw.rd L.linkLanePol n) 1) = true then .next s
  else s.ends (s.sw.enterUp port)

/-- LANE_UNLOCK_TIMEOUT (R502): 1 ms unlocked. -/
def execLaneUnlockTimeout (lane : Lane) (s : State) : Host.Outcome State Fault Refusal :=
  match s.sw.portOfLane lane, (s.sw.lane lane).unlocked with
  | some p, some t =>
    if !s.sw.portUp p then .next s else s.ends ((s.sw.reach (deadline t 1000000)).downAndBack p 6)
  | _, _ => .next s

/-- SIGNAL_LOSS (R523). -/
def execSignalLoss (port : Lane) (s : State) : Host.Outcome State Fault Refusal :=
  if !s.sw.portUp port then .next s else s.ends (s.sw.downAndBack port 7)

/-- PORT_UP_TIMEOUT (R523): `link.up_ns` since the last entry to Negotiating. -/
def execPortUpTimeout (port : Lane) (s : State) : Host.Outcome State Fault Refusal :=
  let x := s.sw.port port
  let ns := s.sw.rd L.linkUpNs
  if ns = 0 ∨ !(x.st = .negotiating ∨ x.st = .training ∨ x.st = .aligning) then .next s
  else s.ends ((s.sw.reach (deadline x.negAt ns)).failPort port 4)

/-- FAILED_PORT_RETRY (R523): 1 s in Failed, not out of service. -/
def execFailedPortRetry (port : Lane) (s : State) : Host.Outcome State Fault Refusal :=
  let x := s.sw.port port
  if x.st ≠ .failed ∨ x.oos then .next s
  else s.ends ((s.sw.reach (deadline x.failAt 1000000000)).enterNeg port x.width)

/-! ### Codewords (R495 to R507) -/

/-- CODEWORD_RECEIVE: a port that is not Up, or that runs an Ethernet mode, takes none. -/
def execCodewordReceive (port : Lane) (cw : Codeword) (s : State) : Host.Outcome State Fault Refusal :=
  if !s.sw.portUp port ∨ (s.sw.port port).mode ≠ 1 then .next s else s.endsOr (s.sw.codeword port cw)

/-- SKEW_ALLOWANCE_EXPIRE (R505). -/
def execSkewAllowanceExpire (port : Lane) (s : State) : Host.Outcome State Fault Refusal :=
  match (s.sw.port port).skewAt with
  | none => .next s
  | some t => s.ends ((s.sw.reach t).askReplay port)

/-- REPLAY_TIMEOUT (R506): the oldest kept codeword has been kept for `link.retry.ns`; 0 acts as 1,000 (R528). -/
def execReplayTimeout (port : Lane) (s : State) : Host.Outcome State Fault Refusal :=
  let w := s.sw
  let ns := w.rd L.linkRetryNs
  match (w.port port).kept with
  | [] => .next s
  | k :: _ =>
    if !w.portUp port then .next s
    else s.ends ((w.reach (deadline k.since (if ns = 0 then 1000 else ns))).resend port)

/-! ### Electrical idle (R520 to R522) -/

/-- EIDLE_AUTO_ENTRY (R520, 16 R645): idle was asked for and is now possible, or nothing but idle codewords has been sent
for `link.idle.ns`. -/
def execEidleAutoEntry (port : Lane) (s : State) : Host.Outcome State Fault Refusal :=
  let w := s.sw
  let x := w.port port
  let ns := w.rd L.linkIdleNs
  let asked := x.wantIdle || w.pwr.state == .parking || w.pwr.state == .parked
  if !w.canIdle port ∨ (!asked ∧ ns = 0) then .next s
  else s.ends ((if asked then w else w.reach (deadline x.quietAt ns)).downFirst port (fun w => w.goIdle port))

/-- EIDLE_ACK_WAIT_TIMEOUT (R521): a sequenced codeword has waited 500 ns for its acknowledgement. -/
def execEidleAckWaitTimeout (port : Lane) (s : State) : Host.Outcome State Fault Refusal :=
  let x := s.sw.port port
  match x.ackFrom with
  | none => .next s
  | some t =>
    if !x.eidleTx ∨ x.exitAt.isSome then .next s
    else s.ends ((s.sw.reach (deadline t 500)).downFirst port (fun w =>
      w.updPort port (fun x => { x with exitAt := some w.now })))

/-- The transmitter drives its lanes again: each has sent a training burst that ends in one comma and its lane tag, behind which its
block grid begins (R521, Table 12.6). -/
def Sw.leaveIdle (s : Sw) (p : Nat) : Sw :=
  let s := (s.updPort p (fun x => { x with eidleTx := false, exitAt := none, ackFrom := none, quietAt := s.now })).linesBegin p
  let s := (s.portLanes p).foldl (fun s n => s.commas p n 1) s
  if (s.port p).nakDue then s.putIdle p false else s

/-- EIDLE_EXIT_COMPLETE (Table 12.6, R522): at least 110 ns after the decision; how long a retraining exit takes, up to
2 ms, is not stated. -/
def execEidleExitComplete (port : Lane) (s : State) : Host.Outcome State Fault Refusal :=
  match (s.sw.port port).exitAt with
  | none => .next s
  | some t =>
    let w := s.sw.reach (t + (if s.sw.exitTrains port then 0 else 110))
    s.ends (w.downFirst port (fun w => w.leaveIdle port))

/-! ### Ethernet (R509 to R512) -/

/-- The port is Up in an Ethernet mode. -/
def Sw.ethUp (s : Sw) (p : Nat) : Bool := s.portUp p && (s.port p).mode != 1

/-- ETH_FRAME_RECEIVE (R490, R509 to R512): the bytes of a frame from its destination address on, its FCS, and how many symbols were
in error in each FEC codeword that it lay in. -/
def execEthFrameReceive (port : Lane) (fec : List Nat) (frame : Bytes) (fcs : BitVec 32) (s : State) :
    Host.Outcome State Fault Refusal :=
  if !s.sw.ethUp port then .next s else s.endsOr (s.sw.ethIn port fec (withFcs frame fcs))

/-- PFC_RECEIVE (R512): on a plain port each named class is paused for its quanta, or resumed by 0; elsewhere the frame is
counted and discarded (R510). -/
def execPfcReceive (port : Lane) (classes : BitVec 8) (quanta : List (BitVec 16)) (s : State) :
    Host.Outcome State Fault Refusal :=
  let w := s.sw
  if !w.ethUp port then .next s
  else if !(w.port port).plain then s.ends (w.inc L.linkEthOther port)
  else s.ends (w.pfcIn port classes.toNat (quanta.map BitVec.toNat))

/-- PFC_PAUSE_EXPIRE (R512). -/
def execPfcPauseExpire (port : Lane) (cls : Fin 8) (s : State) : Host.Outcome State Fault Refusal :=
  match (s.sw.port port).pause.get? cls with
  | none => .next s
  | some t => s.ends ((s.sw.reach t).updPort port (fun x => { x with pause := AMap.del x.pause cls }))

/-- PFC_REPEAT (R512): 20 µs after the last PFC of a class whose cells stay below `link.pfc.xon`, another; quanta 0 where they do
not; none while `link.pfc.xoff` is 0 (R528). -/
def execPfcRepeat (port : Lane) (cls : Fin 8) (s : State) : Host.Outcome State Fault Refusal :=
  match (s.sw.port port).pfcSent.get? cls with
  | none => .next s
  | some t =>
    let w := (s.sw.reach t).pfcCheck port cls
    if ((w.port port).pfcSent.get? cls).isNone ∨ w.rd L.linkPfcXoff = 0 then s.ends w
    else s.ends ((w.send (.pfc port cls 0xFFFF)).updPort port (fun x => { x with
      pfcSent := AMap.set x.pfcSent cls (deadline w.now 20000) }))

end Sys2Proof.Machine
end

