-- ==== Sys2Proof/Machine/Power.lean ====
section
/-! DEFINITION. The commands of chapter 16 that concern power: engine parking, Parked, the power manager, cooling. -/

namespace Sys2Proof.Machine

/-! ### Engine parking (R642, R643) -/

/-- When an idle unit parks: `pwr.park.idle_ns` after it became idle, at once where that is 0 or while its tenancy lends (R642,
R653, R659). -/
def Sw.parkTime (s : Sw) (u : ParkUnit) : Nat :=
  let p := s.pwr.idleAt.getD (unitNo u) s.pwr.idle0
  if s.unitLends u ∨ p.2 = 0 then p.1 else deadline p.1 p.2

/-- ENGINE_PARK: a unit that has been idle for its time parks; one that is not idle does not (R643). -/
def execEnginePark (unit : ParkUnit) (s : State) : Host.Outcome State Fault Refusal :=
  s.ends (if s.sw.mayPark unit then (s.sw.reach (s.sw.parkTime unit)).parkUnit unit else s.sw)

/-- The unit is awake and serves what waits for it. -/
def Sw.unitWoken (s : Sw) (u : ParkUnit) : Sw := s.updPwr (fun p => { p with waking := p.waking.filter (fun x => x != u) })

/-- ENGINE_WAKE_COMPLETE (Table 16.4). -/
def execEngineWakeComplete (unit : ParkUnit) (s : State) : Host.Outcome State Fault Refusal := s.ends (s.sw.unitWoken unit)

/-! ### The Parked state (R645 to R648) -/

/-- Steps 1 to 3 of an entry to Parked. -/
def Sw.startPark (s : Sw) : Sw :=
  let s := s.updPwr (fun p => { p with state := .parking, wantUp := false, parked := p.parked ++ p.waking, waking := [] })
  let s := allUnits.foldl Sw.parkUnit s
  let s := (s.cfgPortList.filter (fun p => (s.port p).mode == 1)).foldl Sw.portEnterIdle s
  if s.rd L.pwrParkEth ≠ 1 then s
  else (s.cfgPortList.filter (fun p => decide (2 ≤ (s.port p).mode))).foldl (fun s p =>
    (s.portDisable p).updPort p (fun x => { x with byPark := true })) s

/-- A write of 1 to `pwr.cmd` (R645, R647). -/
def Sw.wrPark (s : Sw) : WrRes :=
  match s.pwr.state with
  | .unparking => .ok (7, s)
  | .active => if s.coreQuenched then wrOk s.startPark else wrRange s
  | _ => wrOk s

/-- Native ports that still drive their transmit direction. -/
def Sw.drivers (s : Sw) : List Nat := s.cfgPortList.filter (fun p => s.portUp p && (s.port p).mode == 1 && !(s.port p).eidleTx)

/-- Class-T entries that the part keeps live while Parked (R646, R649): the servo's state and the address in use. -/
def liveT (i sub : Nat) : Bool := (i == 0xE000 && sub == 2) || (i == 0x1201 && sub == 3)

/-- A key of the Lexicon's store whose entry is of a class. -/
def keyPers (k : Nat) (c : Pers) : Bool :=
  match lexRow? (k / 16777216) (k / 65536 % 256) with
  | some r => r.pers == c
  | none => false

/-- Class-T entries take their defaults (Table 16.6). -/
def Sw.dropT (s : Sw) : Sw :=
  { s with lex := s.lex.filter (fun kv => !keyPers kv.1 .t || liveT (kv.1 / 16777216) (kv.1 / 65536 % 256)) }

/-- Exit from Parked begins: each native port leaves electrical idle (Table 16.5). -/
def Sw.startUnpark (s : Sw) : Sw :=
  let s := s.updPwr (fun p => { p with state := .unparking, wantUp := false })
  (s.cfgPortList.filter (fun p => (s.port p).eidleTx)).foldl (fun s p =>
    s.updPort p (fun x => { x with exitAt := x.exitAt.or (some s.now) })) s

/-- The part is Parked (R645 steps 4 and 5, Table 16.6). -/
def Sw.parkDone (s : Sw) : Sw :=
  let s := s.updPwr (fun p => { p with state := .parked, back := s.vset, lent := [] })
  let s := (List.range 4).foldl (fun s k => s.setVset k (cdiv s.pwr.cfgVmin 5 * 5)) s
  let s := { s.dropT with fab := { s.fab with flows := [], held := [] }, anv := { s.anv with closed := [] } }
  if s.pwr.wantUp then s.startUnpark else s

/-- PARK (R645). -/
def execPark (s : State) : Host.Outcome State Fault Refusal := s.written 0xB000 6 (s.endsWr s.sw.wrPark)

/-- PARK_ENTRY_COMPLETE (R645): every native port is in electrical idle in its transmit direction. The voltages hold while firmware
is replaced (14 R587); `sec.dbg.chal` is transient (15 R596). -/
def execParkEntryComplete (s : State) : Host.Outcome State Fault Refusal :=
  if s.sw.pwr.state = .parking ∧ s.sw.drivers = [] ∧ s.sec.busy ≠ some 3 then
    { s with sec := { s.sec with nonce := none } }.ends s.sw.parkDone
  else .next s

/-- A write of 2 to `pwr.cmd` (R647). -/
def Sw.wrUnpark (s : Sw) : Sw :=
  match s.pwr.state with
  | .parking => s.updPwr (fun p => { p with wantUp := true })
  | .parked => s.startUnpark
  | _ => s

/-- A write of `pwr.cmd`; values other than 1 and 2 are ignored (Table 16.9). -/
def Sw.wrPwrCmd (s : Sw) (v : Nat) : WrRes := if v = 1 then s.wrPark else if v = 2 then wrOk s.wrUnpark else wrOk s

/-- UNPARK (R647). -/
def execUnpark (s : State) : Host.Outcome State Fault Refusal := s.written 0xB000 6 (s.ends s.sw.wrUnpark)

/-- Shaper levels are full, deficits, tags and virtual times 0, no halving (Table 16.6, exit from Parked and resets). -/
def Sw.belFresh (s : Sw) : Sw := { s with bel := { ptr := s.bel.ptr, elig := s.bel.elig }, fab := { s.fab with halve := [] } }

/-- The part is Active again (Table 16.5 steps 3, 5 and 6). -/
def Sw.unparkDone (s : Sw) : Sw :=
  let back := s.pwr.back
  let s := s.updPwr (fun p => { p with state := .active, parked := [], waking := [], back := [] })
  let s := (List.range 4).foldl (fun s k => s.setVset k (s.clampMv (back.getD k 720))) s.belFresh
  (s.cfgPortList.filter (fun p => (s.port p).byPark)).foldl (fun s p =>
    (s.updPort p (fun x => { x with byPark := false })).portEnable p) s

/-- UNPARK_COMPLETE (R647): no port is still leaving electrical idle, and no firmware is being replaced (14 R587). -/
def execUnparkComplete (s : State) : Host.Outcome State Fault Refusal :=
  if s.sw.pwr.state = .unparking ∧ s.sec.busy ≠ some 3 ∧ !s.sw.cfgPortList.any (fun p => (s.sw.port p).exitAt.isSome) then s.ends s.sw.unparkDone
  else .next s

/-! ### The power manager (R650 to R655) -/

/-- POWER_SAMPLE (R650): a measurement every 10 µs. -/
def execPowerSample (mw : BitVec 32) (s : State) : Host.Outcome State Fault Refusal :=
  let n := nextTick 10000 s.sw.now s.sw.pwr.sampled
  s.ends ((s.sw.reach n).updPwr (fun p => { p with samples := p.samples ++ [mw.toNat], sampled := some n }))

/-- A sensor's warning threshold in 0.1 °C (Table 20.9); `pwr.tj_warn` 0 acts as 105 (R659). -/
def Sw.warnAt (s : Sw) (n : Nat) : Int :=
  let w : Int := if s.pwr.cfgWarn = 0 then 105 else s.pwr.cfgWarn
  if 96 ≤ n ∧ n < 114 then 10 * (w - 10) else 10 * w

/-- A junction sensor reads at or above its warning threshold (R655, 20 R762). -/
def Sw.hot (s : Sw) : Bool := s.pwr.temps.any (fun kv => decide (s.warnAt kv.1 ≤ kv.2))

/-- Set points move down, or up, within their limits (R651 step 2). -/
def Sw.moveVset (s : Sw) (up : Bool) : Sw :=
  (List.range 4).foldl (fun s k =>
    let r := s.mvSteps k
    let v := s.rd (L.pwrVset.at k)
    r.2.setVset k (r.2.clampMv (if up then v + r.1 else v - r.1))) s

/-- One cutback (R651, R652): the first step that is not exhausted. -/
def Sw.cutback (s : Sw) (mean : Nat) : Sw :=
  if !s.pwr.lent.isEmpty then s.lendDrop (fun _ => false)
  else if s.vset.any (fun v => decide (cdiv s.pwr.cfgVmin 5 * 5 < v)) then s.moveVset false
  else if !s.pwr.swageThrottle then s.updPwr (fun p => { p with swageThrottle := true })
  else if !s.pwr.hearthThrottle then s.updPwr (fun p => { p with hearthThrottle := true })
  else if s.pwr.unattain then s
  else (s.updPwr (fun p => { p with unattain := true })).fault 0x60 69 none (1000 * s.pwr.limit) mean

/-- Power is below the limit: the steps are undone in reverse (R651); withdrawn budget of tenancies that still lend is
credited again. -/
def Sw.relax (s : Sw) : Sw :=
  let s := s.updPwr (fun p => { p with unattain := false })
  if s.pwr.hearthThrottle then s.updPwr (fun p => { p with hearthThrottle := false })
  else if s.pwr.swageThrottle then s.updPwr (fun p => { p with swageThrottle := false })
  else
    let s := s.moveVset true
    let again := (List.range 256).filter (fun t => s.lending t && !s.pwr.lent.any (fun e => e.1 == t))
    again.foldl Sw.lendStart s

/-- The effective limit moves by 10 W (R655). -/
def Sw.heat (s : Sw) : Sw :=
  if s.hot then s.updPwr (fun p => { p with limit := p.limit - 10 })
  else s.updPwr (fun p => { p with limit := min p.cfgLimit (p.limit + 10) })

/-- Credit whose report has ended is withdrawn (R653). -/
def Sw.lendEnds (s : Sw) : Sw := s.lendDrop s.lending

/-- The next window starts: settings written take effect (R658), set points move into the new limits. -/
def Sw.nextWindow (s : Sw) : Sw :=
  let lim := s.rd L.pwrLimit
  let s := s.updPwr (fun p => { p with
    winAt := s.now, samples := [], limit := if p.limit = p.cfgLimit then lim else min p.limit lim
    cfgLimit := lim, cfgWin := s.rd L.pwrWinNs, cfgVmin := s.rd L.pwrVmin, cfgVmax := s.rd L.pwrVmax, cfgWarn := s.rd L.pwrTjWarn })
  if s.pwr.state = .active then (List.range 4).foldl (fun s k => s.setVset k (s.clampMv (s.rd (L.pwrVset.at k)))) s else s

/-- The mean of the window's samples. -/
def Sw.meanMw (s : Sw) : Nat := if s.pwr.samples.isEmpty then s.rd L.pwrPkgMw else sumBy id s.pwr.samples / s.pwr.samples.length

/-- The end of a window (R650 to R655): a cutback comes before the end of a report (R654); while M's firmware is replaced
voltages, budgets and the settings of the window are held (14 R587), and in Parked the rails stay at `pwr.vmin`. -/
def Sw.windowEnd (s : Sw) (frozen : Bool) : Sw :=
  let win := s.pwr.cfgWin
  let s := s.reach (deadline s.pwr.winAt (if win = 0 then 100000 else win))
  let m := s.meanMw
  let s := s.wr L.pwrPkgMw 0 m
  if frozen then s.updPwr (fun p => { p with winAt := s.now, samples := [] })
  else
    let s := if s.pwr.state ≠ .active then s
      else (if 1000 * s.pwr.limit < m then s.cutback m else if m < 1000 * s.pwr.limit then s.relax else s).heat
    s.lendEnds.nextWindow

/-- POWER_WINDOW_END (R650 to R655). -/
def execPowerWindowEnd (s : State) : Host.Outcome State Fault Refusal := s.ends (s.sw.windowEnd (s.sec.busy == some 3))

/-! ### Cooling (R655) -/

/-- A write of `pwr.cooling` while the core is quenched; otherwise the use is undefined (R660). -/
def Sw.wrCooling (s : Sw) (v : Nat) : WrRes :=
  if !s.coreQuenched then .error 660
  else if 1 < v then wrRange s
  else
    let s := s.wr L.pwrCooling 0 v
    wrOk (if v = 1 ∧ 900 < s.rd L.pwrLimit then s.wr L.pwrLimit 0 900 else s)

/-- COOLING_WRITE (R655). -/
def execCoolingWrite (value : BitVec 8) (s : State) : Host.Outcome State Fault Refusal :=
  s.written 0xB000 2 (s.endsWr (s.sw.wrCooling value.toNat))

end Sys2Proof.Machine
end

