-- ==== Sys2Proof/Machine/Hash.lean ====
section
/-! DEFINITION. SHA3-256 (FIPS 202), which 18 R693 and chapter 19 use. -/

namespace Sys2Proof.Machine

/-- A lane turned left by `n` bits. -/
def rotl (x n : Nat) : Nat := let k := n % 64; ((x <<< k) ||| (x >>> (64 - k))) % 2 ^ 64

/-- Rotation of lane x + 5 y: place t of a walk from (1, 0) that goes from (x, y) to (y, 2 x + 3 y) turns by the t-th triangular
number; lane 0 stands. -/
def rhoTurns : List Nat :=
  ((List.range 24).foldl (fun (a : (Nat × Nat) × List Nat) t =>
    ((a.1.2, (2 * a.1.1 + 3 * a.1.2) % 5), a.2.set (a.1.1 + 5 * a.1.2) ((t + 1) * (t + 2) / 2 % 64)))
    ((1, 0), List.replicate 25 0)).2

/-- One step of the shift register x^8 + x^6 + x^5 + x^4 + 1 that makes the round constants. -/
def iotaStep (r : Nat) : Nat := if r < 128 then 2 * r else Nat.xor (2 * r) 0x171

/-- The constants of `n` rounds from register `r` on: bit 2^j - 1 of a constant is the register's j-th output in that round. -/
def iotaConsts : Nat → Nat → List Nat
  | 0, _ => []
  | n + 1, r =>
    let p := (List.range 7).foldl (fun (a : Nat × Nat) j => (a.1 + a.2 % 2 * 2 ^ (2 ^ j - 1), iotaStep a.2)) (0, r)
    p.1 :: iotaConsts n p.2

/-- The 25 lanes by a function of x and y. -/
def lanesOf (f : Nat → Nat → Nat) : List Nat := (List.range 25).map (fun i => f (i % 5) (i / 5))

/-- One round on 25 lanes. -/
def keccakRound (a : List Nat) (rc : Nat) : List Nat :=
  let at' (x y : Nat) : Nat := a.getD (x % 5 + 5 * (y % 5)) 0
  let c := (List.range 5).map (fun x => (List.range 5).foldl (fun n y => Nat.xor n (at' x y)) 0)
  let d := (List.range 5).map (fun x => Nat.xor (c.getD ((x + 4) % 5) 0) (rotl (c.getD ((x + 1) % 5) 0) 1))
  let e := lanesOf (fun x y => rotl (Nat.xor (at' x y) (d.getD x 0)) (rhoTurns.getD (x + 5 * y) 0))
  -- lane (x, y) comes from (x + 3 y, x)
  let b := lanesOf (fun x y => e.getD ((x + 3 * y) % 5 + 5 * x) 0)
  let bt (x y : Nat) : Nat := b.getD (x % 5 + 5 * y) 0
  match lanesOf (fun x y => Nat.xor (bt x y) (Nat.land (2 ^ 64 - 1 - bt (x + 1) y) (bt (x + 2) y))) with
  | [] => []
  | l :: ls => Nat.xor l rc :: ls

/-- The permutation of 1,600 bits: 24 rounds. -/
def keccakF (a : List Nat) : List Nat := (iotaConsts 24 1).foldl keccakRound a

/-- The 17 lanes of a block of 136 bytes. -/
def blockLanes (bs : Bytes) : List Nat := (List.range 17).map (fun i => leNat (slice bs (8 * i) 8))

/-- Absorb `n` blocks. -/
def absorb : Nat → List Nat → Bytes → List Nat
  | 0, a, _ => a
  | n + 1, a, bs =>
    let l := blockLanes (bs.take 136)
    absorb n (keccakF ((List.range 25).map (fun i => Nat.xor (a.getD i 0) (l.getD i 0)))) (bs.drop 136)

/-- The message padded to whole blocks: domain bits 01 and pad10*1. -/
def sha3Pad (bs : Bytes) : Bytes :=
  let k := 136 - bs.length % 136
  bs ++ (if k = 1 then [0x86] else 0x06 :: zeros (k - 2) ++ [0x80])

/-- SHA3-256 of a byte string: 32 bytes. -/
def sha3 (bs : Bytes) : Bytes :=
  let p := sha3Pad bs
  ((absorb (p.length / 136) (List.replicate 25 0) p).take 4).flatMap (leBytes 8)

end Sys2Proof.Machine
end

