-- ==== Sys2Proof/Machine/Replay.lean ====
section
/-! DEFINITION. The commands of chapter 18: the determinism signature, Record, Compare, Feed, Stop and Dump. -/

namespace Sys2Proof.Machine

/-! ### The determinism signature (R693, R694) -/

/-- Every byte of an entry whose value the store holds. -/
def Sw.storedBytes (s : Sw) (r : Reg) (count : Nat) : Bytes := (List.range count).flatMap (fun i => leBytes r.width (s.rd r i))

/-- Every byte of entry `i`:`sub` of `det.list`. -/
def Sw.detEntry (s : Sw) (i sub : Nat) : Bytes :=
  match lexRow? i sub with
  | some r => s.storedBytes (r.reg.at (sub - r.reg.sub)) r.count
  | none => []

/-- The digest of `det.sig`. -/
def Sw.detDigest (s : Sw) : Bytes :=
  sha3 (leBytes 4 (s.rd L.idPart) ++ leBytes 2 s.ident.grade ++ leBytes 1 s.ident.stepping ++ leBytes 4 s.ident.fuseOpt ++
    detList.flatMap (fun e => s.detEntry e.1 e.2))

/-- A read of segment 0 of `det.sig` computes it. -/
def Sw.readDetSig (s : Sw) : Sw := s.wr L.detSig 0 (leNat s.detDigest)

/-- DET_SIG_READ (R693). -/
def execDetSigRead (s : State) : Host.Outcome State Fault Refusal := s.ends s.sw.readDetSig

/-! ### Starting (R696, R702, Table 18.6) -/

/-- The recorder is Off or Stopped. -/
def Sw.recIdle (s : Sw) : Bool := s.recd.st == 0 || s.recd.st == 4

/-- Record: counts start again, and the start record is written on F0 (R696). -/
def Sw.recArm (s : Sw) : Sw :=
  let s := (List.range 4).foldl (fun s d => (s.wr (L.recWp.at d) 0 0).wr (L.recLost.at d) 0 0) s
  let s := s.updRec (fun _ => { st := 1 })
  s.record 0 s.detDigest { kind := 7, port := 0 } []

/-- Digest records, where digests are compared. -/
def Sw.digests (s : Sw) (l : Bytes) : Bool := List.contains [3, 4, 5] (lKind l) && bit (s.rd L.recFlags) 3

/-- Records that Compare consumes: packets of the selected ports, host writes and digests (R703). -/
def Sw.compared (s : Sw) (l : Bytes) : Bool :=
  (lKind l == 0 && bit (s.rd L.recPorts) (lPort l)) || (lKind l == 1 && bit (s.rd L.recFlags) 1) || s.digests l

/-- How many records that satisfy `f` stand in the ring of die `d` from line `n` on. -/
def Sw.countRecs (s : Sw) (d : Nat) (f : Bytes → Bool) : Nat → Nat → Nat
  | 0, _ => 0
  | fuel + 1, n =>
    if s.rd (L.recWp.at d) ≤ n then 0
    else
      let l := s.ringLine d n
      b2n (f l) + Sw.countRecs s d f fuel (n + lSpan l)

/-- Those of the four rings. -/
def Sw.countAll (s : Sw) (f : Bytes → Bool) : Nat :=
  sumBy (fun d => let a := s.ringStart d; s.countRecs d f (s.rd (L.recWp.at d) - a) a) (List.range 4)

/-- The start record holds the digest of the present settings (R702). In a ring that has overwritten it, what stands in its place
is taken for it (DESIGN CHOICE, log 39). -/
def Sw.sigMatches (s : Sw) : Bool := ((s.ringLine 0 0).take 32) == s.detDigest

/-- A run of Compare or Feed starts with no divergence yet (DESIGN CHOICE, log 39). -/
def Sw.recFresh (s : Sw) (st : Nat) : Sw :=
  (s.wr L.recDiv 0 0).updRec (fun r => { r with st := st, cause := 0, diverged := false, cur := [], used := [], await := [], left := 0 })

/-- The signature differs: a divergence, and Stopped. -/
def Sw.sigStop (s : Sw) : Sw := ((s.recFresh 4).diverge 0 0 0 7 7).recStop 5

/-- Compare starts. -/
def Sw.compareStart (s : Sw) : Sw :=
  let s := s.ringMeets 0 0 0
  if !s.sigMatches then s.sigStop
  else
    let n := s.countAll s.compared
    ((s.recFresh 2).updRec (fun r => { r with left := n })).recLast

/-- The next record of each ring in Feed: die, line number, line. -/
def Sw.feedHeads (s : Sw) : List (Nat × Nat × Bytes) :=
  (List.range 4).filterMap (fun d =>
    let n := s.recd.cur.getD (1024 + d) (s.ringStart d)
    if s.rd (L.recWp.at d) ≤ n then none else some (d, n, s.ringLine d n))

/-- Feed starts; its offsets count from the first record (R704). -/
def Sw.feedStart (s : Sw) : Sw :=
  let s := s.ringMeets 0 0 0
  if !s.sigMatches then s.sigStop
  else
    let s := s.recFresh 3
    let t := (((s.feedHeads.map (fun h => lTime h.2.2)).min?).getD 0)
    let n := s.countAll s.digests
    (s.updRec (fun r => { r with feedAt := s.now, feedT0 := t, left := n })).recLast

/-! ### Dump (R705) -/

/-- Lines of the four rings, die by die and oldest first, by die and number. -/
def Sw.dumpLines (s : Sw) : List (Nat × Nat) :=
  (List.range 4).flatMap (fun d =>
    let a := s.ringStart d
    (List.range (s.rd (L.recWp.at d) - a)).map (fun i => (d, a + i)))

/-- The first `n` lines leave, each as a WRITE of its own to the next 64 bytes of the target; one that cannot be read is left
out, and its 64 bytes are not written (DESIGN CHOICE, log 123). -/
def Sw.dumpSend (s : Sw) (n : Nat) : Sw :=
  let gfa := s.recd.dumpTo
  ((s.dumpLines.take n).zipIdx).foldl (fun s li =>
    let s := s.ringMeets li.1.1 li.1.2 li.1.2
    if s.ringLost li.1.1 li.1.2 then s
    else s.sendData 0 (mkWrite (s.selfEp + 1) 0 Config.partEntropy (gfa + 64 * li.2) 64) (s.ringLine li.1.1 li.1.2) .both) s

/-- The target's tenancy is set in `rec.ten` and Active. -/
def Sw.dumpAllowed (s : Sw) : Bool :=
  let t := fld (s.rd L.recDump) 56 8
  bit (s.rd L.recTen) t && (s.tenSt t).st == .active

/-- Stop (Table 18.6); a Dump that is stopped has sent a number of lines that no rule states: a free value (log 39). -/
def Sw.recHalt (s : Sw) : Sw :=
  if s.recIdle then s
  else if s.recd.st = 5 then
    let r := s.draw
    (r.2.dumpSend (r.1 % (s.dumpLines.length + 1))).recStop 0
  else s.recStop 0

/-! ### `rec.cmd` -/

/-- A write of 1, 2, 3 and 5; an event that Table 18.6 does not list does nothing. -/
def Sw.wrRecord (s : Sw) : WrRes := if s.recIdle then wrOk s.recArm else wrRange s
def Sw.wrCompare (s : Sw) : WrRes := wrOk (if s.recd.st = 4 then s.compareStart else s)
def Sw.wrFeed (s : Sw) : WrRes := wrOk (if s.recd.st = 4 then s.feedStart else s)
def Sw.wrDump (s : Sw) : WrRes :=
  if !s.dumpAllowed then wrRange s
  else wrOk (if s.recd.st = 4 then s.updRec (fun r => { r with st := 5, cause := 0, dumpTo := s.rd L.recDump }) else s)

/-- A write of `rec.cmd` (Table 18.9). -/
def Sw.wrRecCmd (s : Sw) (v : Nat) : WrRes :=
  match v with
  | 1 => s.wrRecord
  | 2 => s.wrCompare
  | 3 => s.wrFeed
  | 4 => wrOk s.recHalt
  | 5 => s.wrDump
  | _ => wrOk s

/-- REC_RECORD (R696). -/
def execRecRecord (s : State) : Host.Outcome State Fault Refusal := s.written 0xD001 1 (s.endsWr s.sw.wrRecord)

/-- REC_COMPARE (R702). -/
def execRecCompare (s : State) : Host.Outcome State Fault Refusal := s.written 0xD001 1 (s.endsWr s.sw.wrCompare)

/-- REC_FEED (R702, R704). -/
def execRecFeed (s : State) : Host.Outcome State Fault Refusal := s.written 0xD001 1 (s.endsWr s.sw.wrFeed)

/-- REC_STOP (Table 18.6). -/
def execRecStop (s : State) : Host.Outcome State Fault Refusal := s.written 0xD001 1 (s.ends s.sw.recHalt)

/-- REC_DUMP (R705). -/
def execRecDump (s : State) : Host.Outcome State Fault Refusal := s.written 0xD001 1 (s.endsWr s.sw.wrDump)

/-- REC_DUMP_COMPLETE (R705, Table 18.6): the last line has left. -/
def execRecDumpComplete (s : State) : Host.Outcome State Fault Refusal :=
  if s.sw.recd.st ≠ 5 then .next s else s.ends ((s.sw.dumpSend s.sw.dumpLines.length).recStop 4)

end Sys2Proof.Machine
end

