-- ==== Sys2Proof/Machine/SecOps.lean ====
section
/-! DEFINITION. The root of trust (19): keys, measurements, derivation, image and program checks, and what the entries of
range 14 do. -/

namespace Sys2Proof.Machine

/-- Change the root of trust, and the switch. -/
def State.updSec (s : State) (f : Sec → Sec) : State := { s with sec := f s.sec }
def State.updSw (s : State) (f : Sw → Sw) : State := { s with sw := f s.sw }

/-! ### Keys (R718 to R720) -/

/-- An operator slot as loaded. -/
def Sec.key (s : Sec) (i : Nat) : KeySlot := s.keys.getD i {}

/-- An operator slot as now fused. -/
def Sec.fuse (s : Sec) (i : Nat) : KeySlot := s.fuses.getD i {}

/-- The slot's key is present and not revoked; a hash that fails its check word counts as revoked. -/
def KeySlot.usable (k : KeySlot) : Bool := k.fused && !k.revoked && k.good

/-- An operator key is fused: `oponly`, and not `factory` (R720, Table 19.6). -/
def Sec.opOnly (s : Sec) : Bool := (List.range 4).any (fun i => (s.key (i + 1)).fused)

/-- The hash of a key index, where the key is present and not revoked. -/
def Sec.keyHash (s : Sec) (i : Nat) : Option Nat :=
  if i = 0 then some Config.hokuellHash
  else if i ≤ 4 ∧ (s.key i).usable then some (s.key i).hash else none

/-- M gives cryptographic service: no error state, not retired (R716, R733). -/
def Sec.serves (s : Sec) : Bool := !s.err && !s.retired

/-! ### Measurements and keys (R729) -/

/-- Measurement `i`. -/
def Sec.m (s : Sec) (i : Nat) : Bytes := leBytes 32 (s.meas.getD i 0)

/-- Extend measurement `i` with a digest. -/
def Sec.extend (s : Sec) (i : Nat) (x : Bytes) : Sec := { s with meas := AMap.put s.meas i (leNat (sha3 (s.m i ++ x))) 0 }

/-- ASCII of "WV-DEVID" and "WV-ALIAS". -/
def txtDevid : Bytes := [0x57, 0x56, 0x2D, 0x44, 0x45, 0x56, 0x49, 0x44]
def txtAlias : Bytes := [0x57, 0x56, 0x2D, 0x41, 0x4C, 0x49, 0x41, 0x53]

/-- CDI0, CDI1 and the two key seeds. -/
def Sec.cdi0 (s : Sec) : Bytes := sha3 (leBytes 32 Config.uds ++ s.m 1)
def Sec.cdi1 (s : Sec) : Bytes := sha3 (s.cdi0 ++ s.m 2 ++ s.m 3 ++ [BitVec.ofNat 8 s.debug])
def Sec.devSeed (s : Sec) : Nat := leNat (sha3 (txtDevid ++ s.cdi0))
def Sec.aliasSeed (s : Sec) : Nat := leNat (sha3 (txtAlias ++ s.cdi1))

/-- The two public keys; 0 while no key is held. -/
def Sec.devPub (s : Sec) : Bytes := if s.derived then slice (Config.mldsaPub s.devSeed) 0 1312 else zeros 1312
def Sec.aliasPub (s : Sec) : Bytes := if s.derived then slice (Config.mldsaPub s.aliasSeed) 0 1312 else zeros 1312

/-- The keys are derived anew: every session ends (R732). -/
def Sec.rederive (s : Sec) : Sec := { s with sess := [], derived := s.serves }

/-! ### Images (R722, R723) -/

/-- Base of image slot `k` in the NOR, and its size. -/
def slotBase (k : Nat) : Nat := k * 0x2000000
def slotSize : Nat := 0x2000000

/-- NOR bytes; an unlisted byte is erased. -/
def Sec.norRd (s : Sec) (a n : Nat) : Bytes := (List.range n).map (fun i => AMap.getD s.nor (a + i) 0xFF)

/-- The header of a slot's image (Table 19.3), and its section entries (Table 19.4), as numbers. -/
def Sec.imgHeader (s : Sec) (k : Nat) : Nat := leNat (s.norRd (slotBase k) 64)
def iMagic (h : Nat) : Nat := fld h 0 32
def iHver (h : Nat) : Nat := fld h 32 16
def iNsec (h : Nat) : Nat := fld h 48 8
def iKey (h : Nat) : Nat := fld h 56 8
def iSvn (h : Nat) : Nat := fld h 64 16
def iLen (h : Nat) : Nat := fld h 96 32
def Sec.imgSecs (s : Sec) (k : Nat) : List Nat :=
  (List.range (iNsec (s.imgHeader k))).map (fun i => leNat (s.norRd (slotBase k + 64 + 64 * i) 64))
def eType (e : Nat) : Nat := fld e 0 8
def eOff (e : Nat) : Nat := fld e 32 32
def eLen (e : Nat) : Nat := fld e 64 32
def eDigest (e : Nat) : Nat := fld e 256 256

/-- Bytes of a section. -/
def Sec.secBytes (s : Sec) (k e : Nat) : Bytes := s.norRd (slotBase k + eOff e) (eLen e)

/-- The section of a type. -/
def Sec.secOf (s : Sec) (k t : Nat) : Option Nat := (s.imgSecs k).find? (fun e => eType e == t)

/-- Two sections share a byte. -/
def secMeet (a b : Nat) : Bool := decide (max (eOff a) (eOff b) < min (eOff a + eLen a) (eOff b + eLen b))

/-- Check 1: the form of the image. -/
def Sec.imgForm (s : Sec) (k : Nat) : Bool :=
  let h := s.imgHeader k
  if iMagic h ≠ 0x57564946 ∨ iHver h ≠ 1 ∨ iNsec h < 2 ∨ 8 < iNsec h ∨ slotSize < iLen h then false
  else
    let es := s.imgSecs k
    let count (t : Nat) : Nat := (es.filter (fun e => eType e == t)).length
    es.all (fun e => decide (8192 ≤ eOff e ∧ eOff e + eLen e ≤ iLen h)) &&
    (List.range es.length).all (fun i => (List.range i).all (fun j => !secMeet (es.getD i 0) (es.getD j 0))) &&
    count 1 == 1 && count 4 == 1 && decide (count 2 ≤ 1) && decide (count 3 ≤ 1)

/-- Check 7: the firmware signature. -/
def Sec.fwSigned (s : Sec) (k : Nat) : Bool :=
  match s.secOf k 1, s.secOf k 4 with
  | some f, some g =>
    let b := s.secBytes k g
    eLen g == 3732 && leNat (sha3 (b.take 1312)) == Config.hokuellHash &&
    Config.mldsaVerify (b.take 1312) (leBytes 32 (eDigest f)) (b.drop 1312)
  | _, _ => false

/-- The checks of R723 in order: 0, or the number of the first that fails. -/
def Sec.verify (s : Sec) (k : Nat) : Nat :=
  if !s.imgForm k then 1
  else
    let h := s.imgHeader k
    match (if iKey h = 0 ∧ s.opOnly then none else s.keyHash (iKey h)) with
    | none => 2
    | some kh =>
      let pub := s.norRd (slotBase k + 4096) 1312
      if leNat (sha3 pub) ≠ kh then 3
      else if iSvn h < s.svnMin then 4
      else if !Config.mldsaVerify pub (sha3 (s.norRd (slotBase k) 4096)) (s.norRd (slotBase k + 5408) 2420) then 5
      else if (s.imgSecs k).any (fun e => leNat (sha3 (s.secBytes k e)) != eDigest e) then 6
      else if !s.fwSigned k then 7 else 0

/-- A slot holds a valid image. -/
def Sec.valid (s : Sec) (k : Nat) : Bool := !s.err && s.verify k == 0

/-! ### Programs (R727, R728) -/

/-- A signed program image: header, key, signature, code. -/
def progLen (img : Bytes) : Nat := leNat ((img.drop 10).take 4)

/-- The program is well formed (R727). -/
def progForm (img : Bytes) : Bool :=
  leNat (img.take 4) == 0x57565047 && decide (1 ≤ progLen img ∧ progLen img ≤ 65536) && img.length == 3764 + progLen img &&
  decide (1 ≤ (byteAt img 8).toNat ∧ (byteAt img 8).toNat ≤ 63) && ((img.drop 14).take 18).all (fun b => b == 0)

/-- The record of a program image. -/
def progLib (img : Bytes) (keyidx : Nat) : Lib :=
  { number := leNat ((img.drop 4).take 2), version := leNat ((img.drop 6).take 2), keyidx := keyidx, code := img.drop 3764 }

/-- A write of `coll.lib.load`: none where it is refused (R728). -/
def State.wrLibLoad (s : State) (img : Bytes) : Option State :=
  if !progForm img ∨ s.sec.err then none
  else
    let k := (byteAt img 9).toNat
    let slot := (byteAt img 8).toNat
    let pub := (img.drop 32).take 1312
    let dig := sha3 (img.take 32 ++ img.drop 3764)
    match (if k = 0 then none else s.sec.keyHash k) with
    | none => none
    | some kh =>
      if leNat (sha3 pub) ≠ kh ∨ !Config.mldsaVerify pub dig ((img.drop 1344).take 2420) ∨ (s.sw.lib.get? slot).isSome then none
      else some ((s.updSec (fun x => x.extend 6 dig)).updSw (fun w => { w with lib := AMap.set w.lib slot (progLib img k) }))

/-- Programs of a library section: images in the format of R727 without key and signature checks of their own, each of them
header, key, signature, code (R724). -/
def progsOf (keyidx : Nat) : Nat → Bytes → AMap Lib
  | 0, _ => []
  | n + 1, b =>
    let len := 3764 + progLen b
    let img := b.take len
    if !progForm img then []
    else AMap.set (progsOf keyidx n (b.drop len)) (byteAt img 8).toNat (progLib img keyidx)

/-! ### Commands of range 14 -/

/-- What a command of range 14 answers: a status of Table 15.5, and the state. -/
abbrev SecRes := Nat × State

/-- The command runs inside a Crypto Officer session (R713, R715). -/
def Sec.inOfficer (s : Sec) (sid : Option Nat) : Bool := s.sess.any (fun x => some x.id == sid && x.open_ && x.officer)

/-- A write of `sec.key.cmd` that fuses a slot (R719). -/
def State.wrFuse (s : State) (slot hash : Nat) : SecRes :=
  if slot = 0 ∨ 4 < slot ∨ (s.sec.fuse slot).fused then (4, s)
  else (0, s.updSec (fun x => { x with
    fuses := AMap.put x.fuses slot { hash := hash, fused := true } {}, fusing := some (slot, s.sw.now) }))

/-- One that revokes a slot: never a key that signs a valid image in the NOR. -/
def State.wrRevoke (s : State) (slot : Nat) : SecRes :=
  if slot = 0 ∨ 4 < slot ∨ !(s.sec.fuse slot).fused ∨
     (List.range 2).any (fun k => iKey (s.sec.imgHeader k) == slot && s.sec.valid k) then (4, s)
  else (0, s.updSec (fun x => { x with fuses := AMap.put x.fuses slot { (x.fuse slot) with revoked := true } {} }))

/-- A write of 40 bytes of `sec.key.cmd` (Table 19.7). -/
def State.wrKeyCmd (s : State) (b : Bytes) : SecRes :=
  let slot := (byteAt b 1).toNat
  if (b.drop 2).take 6 != zeros 6 then (4, s)
  else match (byteAt b 0).toNat with
    | 1 => s.wrFuse slot (leNat (b.drop 8))
    | 2 => s.wrRevoke slot
    | _ => (4, s)

/-- A write of `sec.svn.cmd` (R721). -/
def State.wrSvnCmd (s : State) (v : Nat) : SecRes :=
  let n := s.sec.runSvn
  if v ≠ 1 then (4, s)
  else if n < s.sec.svnFuse ∨ !(List.range 2).all (fun k => decide (n ≤ iSvn (s.sec.imgHeader k)) && s.sec.valid k) then (4, s)
  else (0, s.updSec (fun x => { x with svnFuse := n }))

/-- A write of `sec.img.off`: a multiple of 4,096 within the slot (Table 19.7). -/
def State.wrImgOff (s : State) (v : Nat) : SecRes :=
  if v % 4096 ≠ 0 ∨ slotSize ≤ v then (4, s) else (0, s.updSw (fun w => w.wr L.secImgOff 0 v))

/-- A piece of 4,096 bytes at `sec.img.off` (R725). -/
def State.wrImgData (s : State) (b : Bytes) : SecRes :=
  let o := s.sw.rd L.secImgOff
  if s.sec.busy.isSome then (7, s)
  else if s.sec.err ∨ slotSize ≤ o then (4, s)
  else
    let put (m : List Host.Cell) : List Host.Cell :=
      (List.range 4096).foldl (fun m i => AMap.put m (slotBase 1 + o + i) (byteAt b i) 0xFF) m
    (0, (s.updSec (fun x => { x with nor := put x.nor })).updSw (fun w => w.wr L.secImgOff 0 (o + 4096)))

/-- A write of `sec.img.cmd` (R725): answered at once, busy until the command completes. -/
def State.wrImgCmd (s : State) (v : Nat) : SecRes :=
  if s.sec.busy.isSome then (7, s)
  else if v = 0 ∨ 3 < v ∨ s.sec.err then (4, s)
  else (0, s.updSec (fun x => { x with busy := some v }))

/-- Slot 1 is erased; slot 1 is copied to slot 0. -/
def norErase (m : List Host.Cell) (k : Nat) : List Host.Cell :=
  m.filter (fun c => decide (c.1 < slotBase k ∨ slotBase k + slotSize ≤ c.1))
def norCopy (m : List Host.Cell) : List Host.Cell :=
  ((m.filter (fun c => decide (slotBase 1 ≤ c.1 ∧ c.1 < slotBase 2))).map (fun c => (c.1 - slotSize, c.2))) ++ norErase m 0

/-- A verification is recorded in `sec.img.status`. -/
def Sec.judge (s : Sec) (k : Nat) : Sec := { s with imgSlot := k, imgFail := s.verify k }

/-- The lexicon section and the library of a slot are retained (R639, R725). -/
def State.retain (s : State) (k : Nat) : State :=
  let sec (t : Nat) : Bytes := match s.sec.secOf k t with | some e => s.sec.secBytes k e | none => []
  s.updSw (fun w => { w with
    boot := { w.boot with image := sec 2 }, libImage := progsOf (iKey (s.sec.imgHeader k)) 63 (sec 3) })

/-- Activation (R725): verify, replace M's firmware, derive the Alias key anew, retain, copy, verify. -/
def State.activateImage (s : State) : State :=
  let s := s.updSec (fun x => x.judge 1)
  if s.sec.imgFail ≠ 0 then s
  else
    let h := s.sec.imgHeader 1
    let fw := (s.sec.secOf 1 1).getD 0
    let s := s.updSw (fun w => w.bump incM)
    let s := s.updSec (fun x => ({ (x.extend 3 (leBytes 32 (eDigest fw))) with runSvn := iSvn h, runKey := iKey h }).rederive)
    let s := s.retain 1
    s.updSec (fun x => ({ x with nor := norCopy x.nor }).judge 0)

/-- The image command under way completes (R725). -/
def State.imgDone (s : State) : State :=
  let t := s.updSec (fun x => { x with busy := none })
  match s.sec.busy with
  | some 1 => t.updSec (fun x => { x with nor := norErase x.nor 1 })
  | some 2 => t.updSec (fun x => x.judge 1)
  | some 3 => t.activateImage
  | _ => t

/-- A reset or a loss of power in the midst of an image command (R725, R726). Whether an erase, or the copy of an activation, had begun
is a free value; begun, the slot that it overwrites holds no image (log 141). -/
def State.cutImage (s : State) : State :=
  let cut (k : Nat) : State :=
    let d := s.sw.draw
    { s with sw := d.2, sec := if d.1 % 2 = 1 then { s.sec with nor := norErase s.sec.nor k } else s.sec }
  match s.sec.busy with
  | some 1 => cut 1
  | some 3 => if s.sec.valid 1 then cut 0 else s
  | _ => s

/-- A write of `sec.zeroize` (R733). -/
def State.wrZeroize (s : State) (v : Nat) : SecRes :=
  match v with
  | 1 => (0, s.updSec (fun x => ({ x with nonce := none }).rederive))
  | 2 => (0, s.updSec (fun x => ({ x with nonce := none, retired := true }).rederive))
  | _ => (4, s)

/-! ### Debug unlock (R734, R735) -/

/-- A read of `sec.dbg.chal` by a requester: a fresh nonce, a free value, bound to it. -/
def State.challenge (s : State) (r : Requester) : Bytes × State :=
  let d := s.sw.draw
  let n := d.1 % 2 ^ 256
  (leBytes 32 n, { s with sw := d.2, sec := { s.sec with nonce := some (n, r) } })

/-- A response succeeds. -/
def State.dbgOk (s : State) (n : Nat) (b : Bytes) : Bool :=
  let lvl := (byteAt b 0).toNat
  let k := (byteAt b 1).toNat
  let pub := (b.drop 2).take 1312
  if lvl = 0 then true
  else if 2 < lvl ∨ (lvl = 2 ∧ (k ≠ 0 ∨ !s.sw.coreQuenched)) ∨ s.sec.err then false
  else match s.sec.keyHash k with
    | none => false
    | some kh => leNat (sha3 pub) == kh &&
        Config.mldsaVerify pub (sha3 (leBytes 32 n ++ [byteAt b 0] ++ sha3 s.sec.devPub)) (b.drop 1314)

/-- The response as it stands is tested; the nonce is discarded (R734). At three failures every response is refused. -/
def State.dbgTest (s : State) (b : Bytes) : SecRes :=
  match s.sec.nonce with
  | none => (6, s)
  | some (n, _) =>
    let t := s.updSec (fun x => { x with nonce := none })
    if 3 ≤ s.sec.dbgfail then (4, t)
    else if s.dbgOk n b then
      (0, t.updSec (fun x => ({ (x.extend 7 [byteAt b 0]) with debug := (byteAt b 0).toNat }).rederive))
    else (0, t.updSec (fun x => { x with dbgfail := x.dbgfail + 1 }))

/-- A requester holds the nonce. -/
def Sec.holds (s : Sec) (r : Requester) : Bool := match s.nonce with | some (_, q) => decide (q = r) | none => false

/-! ### SPDM (R731, R732) -/

/-- The answer to an SPDM request: its kind, and the values R729 to R731 say it carries. Signed answers end in a signature
by the Alias key over what stands before it. -/
def State.spdm (s : State) (q : SpdmReq) : State :=
  let x := s.sec
  let out (k : Nat) (b : Bytes) (t : State) : State := t.updSw (fun w => w.send (.spdm k b))
  let signed (b : Bytes) : Bytes := b ++ Config.mldsaSign x.aliasSeed b
  if !x.serves ∨ !x.derived then out 0x7F [] s
  else match q with
  | .getCertificate =>
    let c := x.aliasPub ++ x.m 1 ++ x.m 2 ++ x.m 3
    out 1 (x.devPub ++ c ++ Config.mldsaSign x.devSeed c) s
  | .challenge n =>
    let d := s.sw.draw
    out 2 (signed (leBytes 32 n.toNat ++ leBytes 32 d.1)) { s with sw := d.2 }
  | .getMeasurements i =>
    if i = 0 then out 3 [7] s
    else if i ≤ 7 then out 3 (signed (x.m i)) s
    else if i = 0xFF then out 3 (signed ((List.range 7).flatMap (fun k => x.m (k + 1)))) s
    else out 0x7F [] s
  | .keyExchange => out 0x7F [] s
  | .finish sid cert =>
    if x.sess.any (fun e => e.id == sid && !e.open_) then
      let off := match cert with
        | some c => (List.range 4).any (fun i => (x.key (i + 1)).usable && (x.key (i + 1)).hash == c.toNat)
        | none => false
      out 5 [] (s.updSec (fun y => { y with sess := y.sess.map (fun e => if e.id = sid then { e with open_ := true, officer := off } else e) }))
    else out 0x7F [] s
  | .endSession sid =>
    if x.sess.any (fun e => e.id == sid) then out 6 [] (s.updSec (fun y => { y with sess := y.sess.filter (fun e => e.id != sid) }))
    else out 0x7F [] s

/-- A key exchange opens one of at most four sessions. -/
def State.spdmKex (s : State) (via : SpdmVia) : State :=
  let x := s.sec
  if !x.serves ∨ !x.derived ∨ 4 ≤ x.sess.length then s.updSw (fun w => w.send (.spdm 0x7F []))
  else
    (s.updSec (fun y => { y with sess := y.sess ++ [{ id := y.nextSess, via := via }], nextSess := y.nextSess + 1 })).updSw
      (fun w => w.send (.spdm 4 (leBytes 2 x.nextSess ++ Config.mldsaSign x.aliasSeed (leBytes 2 x.nextSess))))

/-! ### Status words -/

/-- `sec.status` (Table 19.6). -/
def Sec.statusWord (s : Sec) : Nat :=
  let approved := !s.err && !s.retired && (List.range 4).any (fun i => (s.key (i + 1)).usable)
  s.dbgfail * 2 ^ 16 + (s.sess.filter (fun x => x.open_)).length * 2 ^ 12 + s.debug * 2 ^ 8 + b2n s.retired * 16 +
  b2n s.opOnly * 8 + b2n (!s.opOnly) * 4 + b2n s.err * 2 + b2n approved

/-- `sec.img.status` (R738). -/
def Sec.imgWord (s : Sec) : Nat := s.skipped * 65536 + b2n s.busy.isSome * 512 + s.imgSlot * 256 + s.imgFail

/-- `sec.key.state` (Table 19.7). -/
def Sec.keyState (s : Sec) : Nat :=
  sumBy (fun i => b2n (s.key (i + 1)).fused * 2 ^ i +
    b2n ((s.key (i + 1)).fused && ((s.key (i + 1)).revoked || !(s.key (i + 1)).good)) * 2 ^ (i + 4)) (List.range 4)

end Sys2Proof.Machine
end

