-- ==== Sys2Proof/Machine/LexVals.lean ====
section
/-! DEFINITION. What the entries of the Lexicon read: sizes, bytes, and the entries that show live state. -/

namespace Sys2Proof.Machine

/-! ### Sizes (R593, R598) -/

/-- Elements of a TABLE; 1 otherwise. -/
def LexRow.elems (r : LexRow) : Nat := if r.reg = L.lexDir then dirCount else r.count

/-- The size Z of an entry in bytes. -/
def LexRow.size (r : LexRow) : Nat := r.reg.width * r.elems

/-- The entry index:sub of a row. -/
def LexRow.entry (r : LexRow) (i sub : Nat) : Reg := { r.reg with index := i, sub := sub }

/-! ### Words that show live state -/

/-- State code of Table 12.9. -/
def PState.code : PState → Nat
  | .disabled => 0 | .negotiating => 1 | .training => 2 | .aligning => 3 | .up => 4 | .failed => 5

/-- The port is aligned: in native mode every lane is locked (12 R501). -/
def Sw.portAligned (s : Sw) (p : Nat) : Bool :=
  (s.port p).locked && ((s.port p).mode != 1 || (s.portLanes p).all (fun n => (s.lane n).locked))

/-- `link.port.status` (Table 12.9). -/
def Sw.linkWord (s : Sw) (p : Nat) : Nat :=
  let x := s.port p
  if !s.portCfg p then 0
  else x.cause * 2 ^ 24 + s.minFom p * 2 ^ 16 + b2n x.oos * 2 ^ 15 + b2n x.pfc * 2 ^ 14 + b2n (s.portAligned p) * 2 ^ 13 +
    b2n x.eidleRx * 2 ^ 12 + b2n x.eidleTx * 2 ^ 11 + b2n x.reduced * 2 ^ 10 + b2n x.plain * 2 ^ 9 + x.width * 32 + x.mode * 8 + x.st.code

/-- `ten.state` (Table 14.9). -/
def Sw.tenWord (s : Sw) (t : Nat) : Nat :=
  let x := s.tenSt t
  (match x.st with | .quenched => 0 | .active => 1 | .quenching => 2 | .clearing => 3) * 2 ^ 14 +
  b2n x.stopped * 2 ^ 13 + b2n x.rbfail * 2 ^ 12 + x.cause

/-- State code of a slot (Table 7.10). -/
def SlotSt.code : SlotSt → Nat
  | .idle => 0 | .gathering => 1 | .draining => 2 | .aborting => 3 | .closed => 4

/-- `anvil.ctx.state` (Table 7.10); 0 for a free context. -/
def Sw.ctxWord (s : Sw) (c : Nat) : Nat :=
  match s.anv.ctx.get? c with
  | none => 0
  | some x =>
    let a := x.slot0
    let b := x.slot1
    b.cseq * 2 ^ 96 + a.cseq * 2 ^ 64 + x.group * 2 ^ 52 + x.ten * 2 ^ 44 + b.cause * 2 ^ 32 + a.cause * 2 ^ 24 +
    b.st.code * 2 ^ 20 + a.st.code * 2 ^ 16 + b2n b.xhigh * 8 + b2n b.xlow * 4 + b2n a.xhigh * 2 + b2n a.xlow

/-- A slot by its number 2 c + n. -/
def Sw.slotNo (s : Sw) (e : Nat) : Slot :=
  match s.anv.ctx.get? (e / 2) with
  | none => {}
  | some x => if e % 2 = 0 then x.slot0 else x.slot1

/-- `coll.core.state` (10 Table 10.10). -/
def Sw.coreWord (s : Sw) (j : Nat) : Nat :=
  let c := s.core j
  let w := s.rd L.tenCore j
  b2n c.running * 2 ^ 31 + b2n c.halted * 2 ^ 30 + c.prog * 2 ^ 24 + (if bit w 31 then fld w 0 8 else 0) * 2 ^ 16 + c.evq.length

/-- `pwr.state` (Table 16.8). -/
def Sw.pwrWord (s : Sw) : Nat :=
  (s.pwr.parked.length + s.pwr.waking.length) * 65536 +
  (match s.pwr.state with | .active => 0 | .parking => 1 | .parked => 2 | .unparking => 3)

/-- Deep pages in use at a die: those granted (04 Table 4.5). -/
def Sw.deepUsed (s : Sw) (d : Nat) : Nat := (s.bil.granted.filter (fun g => handleDie g.1 == d && handlePool g.1 == 5)).length

/-- `dev.boot.status` (Table 16.2). -/
def Boot.word (b : Boot) : Nat :=
  b.stage * 2 ^ 28 + b.cause * 2 ^ 24 + b.hbmBad * 2 ^ 16 + b.slot * 256 + b2n b.warm * 2 + b2n b.ready

/-- Every unit of Table 16.4 that stands on a Forge die is parked. -/
def Sw.dieParked (s : Sw) (d : Nat) : Bool :=
  s.pwr.parked.contains (.anvil (Fin.ofNat 4 d)) &&
  (List.range 4).all (fun i => s.pwr.parked.contains (.swage (Fin.ofNat 16 (4 * d + i))) || !bit s.ident.swageMap (4 * d + i)) &&
  (List.range 16).all (fun i => s.pwr.parked.contains (.core (Fin.ofNat 64 (16 * d + i))))

/-- A packet of the fabric still has to cross from die `a` to die `b`. -/
def Sw.crossing (s : Sw) (a b : Nat) : Bool :=
  s.fab.pkts.any (fun k => k.inDie.val == a && k.egDie.val == b && decide (k.crossed < k.cells)) ||
  s.fab.ctl.any (fun c => c.inDie.val == a && c.egDie.val == b && !c.atEg)

/-- Both ends of a die-to-die link are in engine parking and no packet needs it (01 Table 1.9): between Forge dies, those of
both dies; a link, bridge or management die has no unit that parks, and counts as parked while the part is Parked and the fabric holds
no packet (DEDUCED, log 121). -/
def Sw.d2dParked (s : Sw) (j : Nat) : Bool :=
  if j < 6 then
    (List.range 4).all (fun a => (List.range 4).all (fun b => a == b || pairLink a b != j ||
      ((s.pwr.state == .parked || (s.dieParked a && s.dieParked b)) && !s.crossing a b)))
  else s.pwr.state == .parked && s.fab.pkts.isEmpty && s.fab.ctl.isEmpty

/-- `dev.d2d.status` (01 Table 1.9). -/
def Sw.d2dWord (s : Sw) (j : Nat) : Nat :=
  b2n (s.pins.d2dFatal.contains j) * 4 + b2n (s.d2dParked j) * 2 + b2n (s.pins.d2dUp.contains j)

/-- `coll.lib` (10 Table 10.10): the places of the fields in a record are not stated (log 40). -/
def Sw.libWord (s : Sw) (slot : Nat) : Nat :=
  match s.lib.get? slot with
  | none => 0
  | some p =>
    let hdr := leBytes 4 0x57565047 ++ leBytes 2 p.number ++ leBytes 2 p.version ++ leBytes 1 slot ++ leBytes 1 p.keyidx ++
      leBytes 4 p.code.length ++ zeros 18
    Config.libRecord p.number p.version p.keyidx (leNat ((sha3 (hdr ++ p.code)).take 16))

/-- Access and persistence codes, and type codes (Tables 15.1, 15.13). -/
def Access.code : Access → Nat
  | .ro => 0 | .rw => 1 | .wo => 2 | .rwq => 4
def Pers.code : Pers → Nat
  | .f => 0 | .n => 1 | .w => 2 | .v => 3 | .t => 4
def LexType.code : LexType → Nat
  | .bool => 0 | .u8 => 1 | .u16 => 2 | .u32 => 3 | .u64 => 4 | .i32 => 5 | .i64 => 6 | .f32 => 7 | .octets => 8 | .table => 9

/-- A directory descriptor (Table 15.13). -/
def descWord (i sub size count width ty acc pers : Nat) : Nat :=
  size * 2 ^ 96 + count * 2 ^ 64 + width * 2 ^ 56 + ty * 2 ^ 52 + acc * 2 ^ 48 + pers * 2 ^ 44 + sub * 2 ^ 16 + i

/-- The directory (R624): every entry in ascending index and subindex, subindex 0x00 first. -/
def lexDirWords : List Nat :=
  lexIndices.flatMap (fun i =>
    descWord i 0 1 1 0 1 0 0 ::
    (List.range (topSub i)).filterMap (fun k =>
      (lexRow? i (k + 1)).map (fun r =>
        let tab := decide (r.typ = .table)
        descWord i (k + 1) r.size (if tab then r.elems else 1) (if tab then r.reg.width else 0) r.typ.code r.acc.code r.pers.code)))

/-- Identity entries that the fuses hold (00 R9, 13 R555, 18 R708, 15 R627). -/
def Sw.idWord (s : Sw) (i sub : Nat) : Option Nat :=
  match i, sub with
  | 0x1000, 2 => some s.ident.grade
  | 0x1000, 3 => some s.ident.stepping
  | 0x1000, 4 => some s.ident.swageMap
  | 0x1000, 5 => some s.ident.hbmMap
  | 0x1000, 6 => some s.ident.vid
  | 0x1000, 7 => some s.ident.grade
  | 0x1000, 8 => some s.ident.fuseOpt
  | 0x1001, 1 => none
  | 0x1001, 2 => some dirCount
  | 0x1201, 1 => some s.ident.mgmtMac
  | 0x3004, 2 => some s.ident.smac
  | _, _ => none

/-- Entries of links, fabric, billets and Bellows. -/
def Sw.fabWord (s : Sw) (i sub el : Nat) : Option Nat :=
  match i, sub with
  | 0x2020, k => some (s.d2dWord (k - 1))
  | 0x3001, 1 => some (s.linkWord el)
  | 0x3001, 2 => some (s.port el).partner
  | 0x3002, 1 => some (if (s.portOfLane el).isSome then (s.lane el).fom else 0)
  | 0x5001, k => some (s.bilFree (k - 1) el)
  | 0x5002, k => some (s.store (k - 1) el).low
  | 0x500A, k => if 9 ≤ k then some (s.deepUsed (k - 9)) else none
  | 0x580F, k => if k ≤ 4 then some ((s.selfEp + 1) * 2 ^ 40 + s.telBase (k - 1)) else none
  | _, _ => none

/-- Entries of the compute units and of agreement. -/
def Sw.unitWord (s : Sw) (i sub el : Nat) : Option Nat :=
  match i, sub with
  | 0x6010, 1 => some (s.ctxWord el)
  | 0x6010, 2 => some ((s.slotNo el).word.getD 0)
  | 0x6010, 3 => some (s.slotNo el).astat
  | 0x6803, k => some (s.jobs.filter (fun j => j.stack == k - 1 && (j.st == .queued || j.st == .waiting))).length
  | 0x7001, k => some (s.swageWord (k - 1))
  | 0x7805, 1 => some (s.libWord el)
  | 0x7806, 1 => some (s.coreWord el)
  | 0x7807, k => if 0x0D ≤ k then some (s.anv.admq.filter (fun a => a.die == k - 0x0D)).length else none
  | 0x8000, 2 => some (s.agrWord el)
  | 0x8003, k => if k ≤ 4 then some (s.fab.held.filter (fun h => h.die == k - 1)).length else none
  | _, _ => none

/-- Entries of the bridge, tenancies, boot, power, faults, recorder and time. -/
def Sw.sysWord (s : Sw) (i sub el : Nat) : Option Nat :=
  match i, sub with
  | 0x1102, k => if k ≤ 4 then some (s.bportWord (k - 1)) else some ((s.bport (k - 5)).cap / 2 ^ 28)
  | 0x2000, 1 => some s.boot.word
  | 0x9001, 1 => some (s.tenWord el)
  | 0x9005, 1 => some s.hbmClearing
  | 0x9005, 2 => some s.cxlClearing
  | 0xA000, 1 => some (s.fltSum % 2 ^ 64)
  | 0xA000, 2 => some (s.fltSum / 2 ^ 64)
  | 0xA001, 1 => some (match s.flt.recs.get? el with | some r => r.word | none => 0)
  | 0xA001, 2 => some s.flt.recs.length
  | 0xA004, 1 => some (leNat s.fltSlice)
  | 0xB000, 7 => some s.pwrWord
  | 0xB001, k => if 5 ≤ k then some ((max 0 (s.hottest (16 * (k - 5)) 16)).toNat) else none
  | 0xB002, 2 => some (sumBy (fun e => e.2.1) s.pwr.lent)
  | 0xB002, 3 => some (b2n s.pwr.swageThrottle + 2 * b2n s.pwr.hearthThrottle + 4 * b2n s.pwr.unattain)
  | 0xD000, 2 => some (let e := detList.getD el (0, 0); e.1 * 256 + e.2)
  | 0xD001, 2 => some (s.recd.st + s.recd.cause * 256 + b2n s.recd.wrapped * 2048 + b2n s.recd.diverged * 4096)
  | 0xE000, 1 => some s.now
  | _, _ => none

/-- Entries of range 14. -/
def Sec.secWord (s : Sec) (i sub el : Nat) : Option Nat :=
  match i, sub with
  | 0xC000, 1 => some s.statusWord
  | 0xC000, 2 => some (s.meas.getD (el + 1) 0)
  | 0xC000, 3 => some (leNat s.devPub)
  | 0xC000, 4 => some (leNat s.aliasPub)
  | 0xC001, 1 => some (s.key (el + 1)).hash
  | 0xC001, 2 => some s.keyState
  | 0xC001, 4 => some s.svnMin
  | 0xC002, 4 => some s.imgWord
  | _, _ => none

/-- Blocks absent in the grade read 0 (R624, 08 R350). -/
def Sw.absent (s : Sw) (i sub : Nat) : Bool :=
  (decide (0x6801 ≤ i ∧ i ≤ 0x6805) && !bit s.ident.hbmMap ((sub - 1) % 6)) ||
  (decide (0x7001 ≤ i ∧ i ≤ 0x7004) && !bit s.ident.swageMap ((sub - 1) % 16))

/-- A per-port table at a lane that is not the first lane of a port (12 R526, 15 R625). -/
def Sw.offPort (s : Sw) (i sub el : Nat) : Bool :=
  !s.portCfg el && (decide (i = 0x3000 ∧ (sub = 2 ∨ sub = 3)) || i == 0x3001 || decide (i = 0x3004 ∧ sub = 3) || i == 0x3005 || i == 0xE002)

/-- The value of element `el` of entry `r`, as requester `by_` reads it. -/
def State.lexVal (s : State) (by_ : Requester) (r : Reg) (el : Nat) : Nat :=
  let w := s.sw
  let i := r.index
  let sub := r.sub
  if w.absent i sub ∨ w.offPort i sub el then 0
  else if i = 0x1001 ∧ sub = 1 then lexDirWords.getD el 0
  else if i = 0xC003 ∧ sub = 1 then (match s.sec.nonce with | some (n, q) => if q = by_ then n else 0 | none => 0)
  else
    let live := (w.idWord i sub).or ((w.fabWord i sub el).or ((w.unitWord i sub el).or ((w.sysWord i sub el).or (s.sec.secWord i sub el))))
    live.getD (w.rd r el)

/-- Bytes `o` to `o` + `n` - 1 of an entry. -/
def State.lexBytes (s : State) (by_ : Requester) (row : LexRow) (r : Reg) (o n : Nat) : Bytes :=
  let w := r.width
  let a := o / w
  let k := cdiv (o % w + n) w
  (((List.range k).flatMap (fun j => if a + j < row.elems then leBytes w (s.lexVal by_ r (a + j)) else [])).drop (o % w)).take n

end Sys2Proof.Machine
end

