-- ==== Sys2Proof/Machine/Tenancy.lean ====
section
/-! DEFINITION. The commands of chapter 14: tenancy commands, quench, re-bind, granule clears, block resets. -/

namespace Sys2Proof.Machine

/-- Activate (Table 14.4); in Parked it is refused (16 R646). -/
def Sw.wrActivate (s : Sw) (t : Nat) : WrRes :=
  if s.pwr.state = .parked then wrRange s
  else match s.activate t with
    | some s' => wrOk s'
    | none => wrRange s

/-- Quench of an Active tenancy; in every other state it does nothing (Table 14.4). -/
def Sw.wrQuench (s : Sw) (t cause : Nat) : Sw := if (s.tenSt t).st = .active then s.quench t cause false else s

/-- Acknowledge (Table 14.4). -/
def Sw.wrAcknowledge (s : Sw) (t : Nat) : Sw := s.setTen t { (s.tenSt t) with stopped := false }

/-- Quench-All: every Active tenancy (R571). -/
def Sw.wrQuenchAll (s : Sw) : Sw := (s.ten.map Prod.fst).foldl (fun s t => s.wrQuench t 4) s

/-- A write of `ten.cmd` (Table 14.9). -/
def Sw.wrTenCmd (s : Sw) (v : Nat) : WrRes :=
  let t := fld v 0 8
  match fld v 24 8 with
  | 1 => s.wrActivate t
  | 2 => wrOk (s.wrQuench t 1)
  | 3 => wrOk (s.wrAcknowledge t)
  | 4 => wrOk s.wrQuenchAll
  | _ => wrRange s

/-- A write of `ten.rebind` (R577, 16 R646): step 1, and the rest for when the old tenancy is Quenched. -/
def Sw.wrRebind (s : Sw) (v : Nat) : WrRes :=
  let o := fld v 0 8
  let n := fld v 8 8
  let act := bit v 16
  if s.rebind.isSome then .ok (7, s)
  else if act ∧ (((s.tenSt n).st = .active ∧ n ≠ o) ∨ (s.tenSt n).stopped ∨ s.pwr.state = .parked) then wrRange s
  else wrOk { (s.wrQuench o 2) with rebind := some ⟨o, n, act⟩ }

/-- TEN_ACTIVATE (R570). -/
def execTenActivate (ten : Ten) (s : State) : Host.Outcome State Fault Refusal :=
  s.written 0x9000 1 (s.endsWr (s.sw.wrActivate ten.toNat))

/-- TEN_QUENCH (R570, R572). -/
def execTenQuench (ten : Ten) (s : State) : Host.Outcome State Fault Refusal :=
  s.written 0x9000 1 (s.ends (s.sw.wrQuench ten.toNat 1))

/-- TEN_ACKNOWLEDGE (R570). -/
def execTenAcknowledge (ten : Ten) (s : State) : Host.Outcome State Fault Refusal :=
  s.written 0x9000 1 (s.ends (s.sw.wrAcknowledge ten.toNat))

/-- TEN_QUENCH_ALL (R571). -/
def execTenQuenchAll (s : State) : Host.Outcome State Fault Refusal := s.written 0x9000 1 (s.ends s.sw.wrQuenchAll)

/-- TEN_REBIND (R577). -/
def execTenRebind (value : BitVec 32) (s : State) : Host.Outcome State Fault Refusal :=
  s.written 0x9000 2 (s.endsWr (s.sw.wrRebind value.toNat))

/-- Step 3 has ended: work that packets admitted since the decision began ends too (R565, R572), and the clear begins (Table 14.4). -/
def Sw.startClear (s : Sw) (t : Nat) : Sw :=
  (s.endWork t).setTen t { (s.tenSt t) with st := .clearing, drained := true, drainAt := none, closing := [] }

/-- QUENCH_DRAIN_COMPLETE (R573): admission has closed at every die and no packet of the tenancy is held. -/
def execQuenchDrainComplete (ten : Ten) (s : State) : Host.Outcome State Fault Refusal :=
  let w := s.sw
  if (w.tenSt ten.toNat).st = .quenching ∧ w.drainDone ten.toNat then
    s.ends ((w.reach ((w.tenSt ten.toNat).closedAt w.now)).startClear ten.toNat)
  else .next s

/-- QUENCH_DRAIN_TIMEOUT (R573): `ten.drain_ns` after step 1, what is held is discarded. -/
def execQuenchDrainTimeout (ten : Ten) (s : State) : Host.Outcome State Fault Refusal :=
  let w := s.sw
  let x := w.tenSt ten.toNat
  match x.drainAt with
  | none => .next s
  | some t => if x.st = .quenching then s.ends (((w.reach t).drainDrop ten.toNat).startClear ten.toNat) else .next s

/-- QUENCH_CLEAR_COMPLETE (R574, Table 14.4): the tenancy is Quenched. -/
def execQuenchClearComplete (ten : Ten) (s : State) : Host.Outcome State Fault Refusal :=
  let w := s.sw
  if (w.tenSt ten.toNat).st = .clearing then s.ends (((w.tenClear ten.toNat).quenched ten.toNat).quenchEnds ten.toNat)
  else .next s

/-- REBIND_APPLY_COMPLETE (R577 steps 2 and 3, R578, R579). -/
def execRebindApplyComplete (s : State) : Host.Outcome State Fault Refusal := s.ends s.sw.rebindApply

/-- The clear of a granule is done (R579). -/
def Sw.clearDone (s : Sw) (g : Granule) : Sw :=
  { s with clr := AMap.del s.clr (match g with | .hbm n => n.val | .cxl p n => 1024 + 4096 * p.val + n.val) }

/-- GRANULE_CLEAR_COMPLETE (R579); clears pause in Parked (16 R645). -/
def execGranuleClearComplete (granule : Granule) (s : State) : Host.Outcome State Fault Refusal :=
  if s.sw.pwr.state = .parked then .next s else s.ends (s.sw.clearDone granule)

/-! ### Block resets (R583 to R586) -/

/-- The block a write of `ten.blk.cmd` names; none where it is refused. -/
def Sw.blockOf (s : Sw) (v : Nat) : Option Block :=
  let n := fld v 0 8
  match fld v 8 8 with
  | 1 => if n < 16 ∧ bit s.ident.swageMap n then some (.array (Fin.ofNat 16 n)) else none
  | 2 => if n < 64 then some (.core (Fin.ofNat 64 n)) else none
  | 3 => if n < 6 ∧ bit s.ident.hbmMap n ∧ s.coreQuenched then some (.stack (Fin.ofNat 6 n)) else none
  | _ => none

/-- Steps 1 and 2 of a block reset: no request is taken, those in flight are answered Target-Reset (R583; 08 Table 8.8,
09 R392). -/
def Sw.blockStop (s : Sw) (b : Block) : Sw :=
  let s := { s with blkRst := s.blkRst.filter (fun x => x != b) ++ [b] }
  match b with
  | .array a => s.swageReset a.val
  | .core c => s.haltCore c.val
  | .stack n => s.hearthReset n.val

/-- Element of `ten.blk.inc` of a block. -/
def blockInc : Block → Nat
  | .array a => incArray a.val
  | .core c => incCore c.val
  | .stack n => incStack n.val

/-- Steps 3 and 4: the block's state is cleared, its incarnation advances, it takes requests again (R583). -/
def Sw.blkDone (s : Sw) (b : Block) : Sw :=
  let s := (s.bump (blockInc b))
  let s := { s with blkRst := s.blkRst.filter (fun x => x != b) }
  match b with
  | .core c => { (s.setCore c.val {}) with anv := { s.anv with late := s.anv.late.filter (fun e => e.1 != c.val) } }
  | _ => s

/-- A write of `ten.blk.cmd` (R583). -/
def Sw.wrBlkCmd (s : Sw) (v : Nat) : WrRes :=
  match s.blockOf v with
  | none => wrRange s
  | some b => wrOk (s.blockStop b)

/-- BLOCK_RESET (R583, R584). -/
def execBlockReset (value : BitVec 16) (s : State) : Host.Outcome State Fault Refusal :=
  s.written 0x9006 1 (s.endsWr (s.sw.wrBlkCmd value.toNat))

/-- BLOCK_RESET_COMPLETE (R582, R583). -/
def execBlockResetComplete (block : Block) (s : State) : Host.Outcome State Fault Refusal :=
  if s.sw.blkRst.contains block then s.ends (s.sw.blkDone block) else .next s

end Sys2Proof.Machine
end

