-- ==== Sys2Proof/Machine/LexPut.lean ====
section
/-! DEFINITION. What a write of a Lexicon entry does (15 R600): the bits it keeps, the values its chapter refuses, the
entries whose write is a command or has an effect of its own. -/

namespace Sys2Proof.Machine

/-! ### Reserved bits (00 R15) -/

/-- A field cleared. -/
def clr (v lo len : Nat) : Nat := setFld v lo len 0

/-- An element as it is kept: bits that no field names read 0. -/
def keepBits (i sub v : Nat) : Nat :=
  match i, sub with
  | 0x1100, 3 => clr v 0 47
  | 0x1100, 4 => clr (clr (clr v 64 12) 20 28) 56 5
  | 0x1200, 2 => clr v 36 3
  | 0x1200, 3 => v % 2 ^ 36
  | 0x1201, 6 => clr v 36 59
  | 0x1202, 1 => v % 128
  | 0x3000, 2 => v % 8
  | 0x3002, 4 => v % 4
  | 0x3004, 3 => v % 2 ^ 48
  | 0x4000, 1 => clr v 0 5
  | 0x4010, 1 => clr v 9 5
  | 0x4012, 1 => v % 128
  | 0x4012, 2 => v % 128
  | 0x5007, 2 => v % 128
  | 0x6000, 1 => v % 16
  | 0x7801, 1 => clr v 32 31
  | 0x7802, 1 => clr v 48 15
  | 0x9002, 1 => clr v 10 6
  | 0x9003, _ => clr (clr v 24 5) 8 8
  | 0x9004, _ => setFld (fld v 0 10) 16 11 (fld v 16 11)
  | 0xD001, 6 => v % 16
  | 0xD001, 8 => clr v 0 6
  | i, sub => if 0x4020 ≤ i ∧ i < 0x4028 ∧ (sub = 3 ∨ sub = 4) then clr (clr v 48 16) 35 5 % 2 ^ 64 else v

/-! ### Several elements of one write (R600) -/

/-- Element after element; nothing takes effect where one of them is refused. -/
def eachWr (s : Sw) (us : List (Nat × Nat)) (f : Sw → Nat → Nat → WrRes) : WrRes :=
  us.foldl (fun r u =>
    match r with
    | .ok (0, x) => (match f x u.1 u.2 with
      | .ok (0, y) => .ok (0, y)
      | .ok (k, _) => .ok (k, s)
      | .error e => .error e)
    | _ => r) (.ok (0, s))

/-- A plain write. -/
def Sw.plain (s : Sw) (r : Reg) (us : List (Nat × Nat)) : WrRes :=
  wrOk (us.foldl (fun s u => s.wr r u.1 (keepBits r.index r.sub u.2)) s)

/-- A plain write that refuses values. -/
def Sw.ranged (s : Sw) (r : Reg) (us : List (Nat × Nat)) (p : Nat → Bool) : WrRes :=
  if us.all (fun u => p u.2) then s.plain r us else wrRange s

/-- A command written to a scalar entry. -/
def cmdWr (us : List (Nat × Nat)) (f : Nat → WrRes) : WrRes := f (us.headD (0, 0)).2

/-! ### Links (12 R486, R488) -/

/-- A write of `link.port.width`: the configuration that results has ports of a width of Table 12.1, aligned, none over
another (R485, R486); only Disabled ports change, and the lanes that such a port had start afresh (R526). -/
def Sw.wrWidths (s : Sw) (us : List (Nat × Nat)) : WrRes :=
  let s' := us.foldl (fun s u => s.wr L.linkPortWidth u.1 u.2) s
  let fits (p w : Nat) : Bool := w == 0 || ([1, 2, 4, 8].contains w && p % w == 0 &&
    (s'.elems L.linkPortWidth).all (fun e => e.1 == p || e.2 == 0 || decide (e.1 + e.2 ≤ p ∨ p + w ≤ e.1)))
  let changed := us.filter (fun u => u.2 != s.rd L.linkPortWidth u.1)
  if us.all (fun u => fits u.1 u.2) && changed.all (fun u => (s.port u.1).st == .disabled) then
    wrOk (changed.foldl (fun w u => (List.range (s.rd L.linkPortWidth u.1)).foldl (fun w i => w.setLane (u.1 + i) {})
      ((w.guardUp u.1).setPort u.1 {})) s')
  else wrRange s

/-- A write of `link.port.cmd` (Table 12.10). -/
def Sw.wrPortCmd (s : Sw) (p v : Nat) : Sw :=
  match v with
  | 1 => s.portEnable p
  | 2 => s.portDisable p
  | 3 => s.portRetrain p
  | 4 => s.portEnterIdle p
  | _ => s

/-- A write of `link.lane.pol`: refused unless the lane's port is Disabled. -/
def Sw.wrPol (s : Sw) (us : List (Nat × Nat)) : WrRes :=
  if us.all (fun u => match s.portOfLane u.1 with | some p => (s.port p).st == .disabled | none => true) then
    s.plain L.linkLanePol us
  else wrRange s

/-- A write of `brg.port.cmd` (Table 13.9). -/
def Sw.wrBrgCmd (s : Sw) (p v : Nat) : Sw :=
  match v with
  | 1 => s.bportEnable p
  | 2 => s.bportDisable p
  | 3 => s.bportRetrain p
  | 4 => s.bportRelease p
  | _ => s

/-! ### Tenancies (14 R561, R562) -/

/-- The resource that a binding word binds is enabled, present and installed (R561); a stack whose training failed is absent (16 R636). -/
def Sw.available (s : Sw) (r : Reg) (el : Nat) : Bool :=
  if r = L.tenSwage then bit s.ident.swageMap el
  else if r = L.tenHearth then s.stackOk (el / 16)
  else if r = L.tenHbm then decide ((el + 1) * gib ≤ s.hbmSize) && s.stackOk (s.hbmStack (el * gib)).1
  else if r = L.tenCxl then s.cxlInstalled el
  else true

/-- The rule that leaves the binding of a reserved granule undefined: none for one that may be bound (R591; 07 R304,
08 R353). -/
def Sw.reservedRule (s : Sw) (el : Nat) : Option Nat :=
  let d := s.hbmDie (el * gib)
  let g := el - d * (s.dieRegion / gib)
  if s.reservedGran d ≤ g then none else if g < 4 + s.rd (L.bilDeepGib.at d) then some 353 else some 304

/-- A write of a binding word (R561). -/
def Sw.wrBinding (s : Sw) (r : Reg) (el v : Nat) : WrRes :=
  let v := keepBits 0x9003 1 v
  let old := s.rd r el
  let changes := fld v 31 1 != fld old 31 1 || fld v 0 8 != fld old 0 8
  let live (w : Nat) : Bool := bit w 31 && (s.tenSt (fld w 0 8)).st != .quenched
  if changes && (live old || live v) then wrRange s
  else if bit v 31 && changes && !s.available r el then wrRange s
  else match (if r = L.tenHbm ∧ bit v 31 ∧ changes then s.reservedRule el else none) with
    | some n => .error n
    | none => wrOk (s.setBinding r el v false)

/-- A write of a context range (R562). -/
def Sw.wrTenCtx (s : Sw) (r : Reg) (el v : Nat) : WrRes :=
  if (s.tenSt el).st ≠ .quenched ∨ 1024 < fld v 0 10 + fld v 16 11 then wrRange s else s.plain r [(el, v)]

/-! ### Other chapters -/

/-- A write of `brg.win` (13 Table 13.3, R536). -/
def Sw.wrWin (s : Sw) (us : List (Nat × Nat)) : WrRes :=
  s.ranged L.brgWin us (fun v => decide (winClass v ≤ 5) && winGfa v % 2 ^ s.brg.winLog == 0)

/-- A write of `anvil.spill.gib` (07 R290, R304). -/
def Sw.wrSpillGib (s : Sw) (d v : Nat) : WrRes :=
  let s' := s.wr (L.anvilSpillGib.at d) 0 v
  if !s.coreQuenched then .error 304
  else if 16 < v then wrRange s
  else if !s'.reservedFree d then .error 304
  else wrOk s'

/-- An RWQ entry whose chapter lists its write while the switch core is not quenched as undefined under rule `n`. -/
def Sw.rwqOf (s : Sw) (n : Nat) (r : WrRes) : WrRes := if s.coreQuenched then r else .error n

/-- A write of `pwr.limit`, `pwr.vmin`, `pwr.vmax` and `pwr.tj_warn` (Table 16.9, R655). -/
def Sw.wrPwr (s : Sw) (r : Reg) (us : List (Nat × Nat)) : WrRes :=
  s.ranged r us (fun v =>
    match r.sub with
    | 1 => decide (700 ≤ v ∧ v ≤ (if s.rd L.pwrCooling = 1 then 900 else 1650))
    | 4 => decide (600 ≤ v ∧ v ≤ s.rd L.pwrVmax)
    | 5 => decide (s.rd L.pwrVmin ≤ v ∧ v ≤ 850)
    | _ => v == 0 || decide (60 ≤ v ∧ v ≤ 105))

/-! ### By range (Table 15.4) -/

/-- Every plain port compares its set-aside cells with `link.pfc.xoff` and `link.pfc.xon` at once (12 R512, R527). -/
def Sw.pfcAll (s : Sw) : Sw :=
  ((s.elems L.linkPortWidth).map Prod.fst).foldl (fun s p => (List.range 8).foldl (fun s c => s.pfcCheck p c) s) s

/-- Ranges 0 to 2. -/
def Sw.put0 (s : Sw) (r : Reg) (us : List (Nat × Nat)) : WrRes :=
  match r.index, r.sub with
  | 0x1100, 1 => s.rwqOf 558 (s.plain r us)
  | 0x1100, 2 => s.rwqOf 558 (s.ranged r us (fun v => decide (16 ≤ v ∧ v ≤ 40)))
  | 0x1100, 3 => s.wrWin us
  | 0x1101, 4 => wrOk (us.foldl (fun s u => s.wrBrgCmd u.1 u.2) s)
  | 0x1201, 2 => match s.plain r us with
    | .ok (0, s') => wrOk (s'.wr L.lexEthIp4Now 0 (s'.rd L.lexEthIp4))
    | x => x
  | 0x1201, 5 => s.ranged r us (fun v => decide (v ≤ 1))
  | 0x1202, 2 => s.ranged r us (fun v => decide (v ≤ 1))
  | 0x2000, 2 => cmdWr us (fun v => wrOk (if v = 1 then { s with boot := { s.boot with asked := true } } else s))
  | 0x2010, 5 => cmdWr us (fun v => wrOk (s.wrHsWindow v))
  | 0x3000, 1 => s.wrWidths us
  | 0x3000, 4 => wrOk (us.foldl (fun s u => s.wrPortCmd u.1 u.2) s)
  | 0x3002, 4 => s.wrPol us
  | 0x3004, 4 | 0x3004, 5 => (s.plain r us).map (fun x => (x.1, x.2.pfcAll))
  | _, _ => s.plain r us

/-- Ranges 3 and 4. A `mir.trunc` above 64 is taken as it is, and truncates nothing (03 R145; DESIGN CHOICE, log 145). -/
def Sw.put3 (s : Sw) (r : Reg) (us : List (Nat × Nat)) : WrRes :=
  match r.index, r.sub with
  | 0x4000, _ => s.rwq (s.plain r us)
  | 0x4012, 2 => s.rwqOf 147 (s.plain r us)
  | 0x4013, 2 => s.rwqOf 147 ((s.plain r us).map (fun x =>
      (x.1, us.foldl (fun w u => (List.range 8).foldl (fun w c => w.reserveSync u.1 c) w) x.2)))
  | 0x4014, 3 => s.rwqOf 147 (s.ranged r us (fun v => decide (v ≤ 33554432)))
  | 0x5000, k => s.wrPoolUnits (k - 1) us
  | 0x5003, 1 => s.wrQuotas .portMin 0 us
  | 0x5003, 2 => s.wrQuotas .portMax 0 us
  | 0x5004, k => s.wrQuotas .ten (k - 1) us
  | 0x5005, k => s.wrQuotas .ctx (k - 1) us
  | 0x5006, k => s.wrQuotas .core (k - 1) us
  | 0x5008, k => if k ≤ 4 then cmdWr us (s.wrDeepGib (k - 1)) else s.plain r us
  | _, _ => s.plain r us

/-- The Bellows parameter of an entry. -/
def belEntryOf (i sub : Nat) : Option BelEntry :=
  match i with
  | 0x5801 => some .tq
  | 0x5802 => some .qShape
  | 0x5803 => some .clsWeight
  | 0x5804 => some .tenCir
  | 0x5805 => some .tenPir
  | 0x5806 => some .polRate
  | 0x5807 => some .polCtl
  | 0x5808 => some .polPort
  | 0x5809 => some .polTen
  | 0x580B => if sub = 1 then some .guardCir else some .guardPir
  | _ => none

/-- Range 5. -/
def Sw.put5 (s : Sw) (r : Reg) (us : List (Nat × Nat)) : WrRes :=
  match belEntryOf r.index r.sub with
  | some e => eachWr s us (fun s el v => s.wrBel e (r.sub - 1) el v)
  | none =>
    match r.index, r.sub with
    | 0x5800, k => cmdWr us (fun v => wrOk (s.setMode (k - 1) v))
    | 0x580D, 1 => cmdWr us (fun v => wrOk (s.wrTelPeriod v))
    | 0x580D, _ => cmdWr us s.wrTelRing
    | _, _ => s.plain r us

/-- Ranges 6 to 10. -/
def Sw.put6 (s : Sw) (r : Reg) (us : List (Nat × Nat)) : WrRes :=
  match r.index, r.sub with
  | 0x6000, 1 => s.rwqOf 304 (s.plain r us)
  | 0x6000, 2 => s.rwqOf 304 (s.plain r us)
  | 0x6001, k => cmdWr us (s.wrSpillGib (k - 1))
  | 0x7800, 1 => s.rwq (s.plain r us)
  | 0x7800, 4 => cmdWr us (fun v => wrOk (s.wrCollAbort v))
  | 0x7803, _ => eachWr s us Sw.wrGroup
  | 0x8000, 1 => wrOk (us.foldl (fun s u => s.wrAgrBind u.1 u.2) s)
  | 0x8000, 3 => cmdWr us (fun v => match s.wrAgrForce v with | some s' => wrOk s' | none => wrRange s)
  | _, _ => s.plain r us

/-- Ranges 11 to 13 and 15. -/
def Sw.put11 (s : Sw) (r : Reg) (us : List (Nat × Nat)) : WrRes :=
  match r.index, r.sub with
  | 0x9000, 1 => cmdWr us s.wrTenCmd
  | 0x9000, 2 => cmdWr us s.wrRebind
  | 0x9000, 3 => s.ranged r us (fun v => decide (v ≤ 1500000))
  | 0x9003, _ => eachWr s us (fun s el v => s.wrBinding r el v)
  | 0x9004, _ => eachWr s us (fun s el v => s.wrTenCtx r el v)
  | 0x9006, 1 => cmdWr us s.wrBlkCmd
  | 0xA002, 1 => cmdWr us (fun v => wrOk (s.wrFltAck v))
  | 0xA002, 2 => cmdWr us (fun v => wrOk (s.wrFltClr v))
  | 0xB000, 2 => cmdWr us s.wrCooling
  | 0xB000, 6 => cmdWr us s.wrPwrCmd
  | 0xB000, k => if [1, 4, 5, 0x0A].contains k then s.wrPwr r us else s.plain r us
  | 0xD001, 1 => cmdWr us s.wrRecCmd
  | 0xD001, k => if (decide (3 ≤ k ∧ k ≤ 7)) && !s.recIdle then wrRange s else s.plain r us
  | _, _ => s.plain r us

/-- A write of the elements `us` of entry `r`; an octet string and a scalar are one element. -/
def Sw.put (s : Sw) (r : Reg) (us : List (Nat × Nat)) : WrRes :=
  if r.index < 0x4000 then s.put0 r us
  else if r.index < 0x5800 then s.put3 r us
  else if r.index < 0x6000 then s.put5 r us
  else if r.index < 0x9000 then s.put6 r us
  else s.put11 r us

/-- What a write answers: a status of Table 15.5 and the state, or the rule that leaves the use undefined. -/
abbrev LexRes := Except Nat (Nat × State)

/-- Range 14, and the program library (19, 10 R442): entries whose write is the root of trust's. -/
def State.putSec (s : State) (r : Reg) (v : Nat) : Option SecRes :=
  let bytes := leBytes r.width v
  match r.index, r.sub with
  | 0x7805, 2 =>
    some (match s.wrLibLoad (bytes.take (3764 + progLen bytes)) with | some t => (0, t) | none => (4, s))
  | 0xC001, 3 => some (s.wrKeyCmd bytes)
  | 0xC001, 5 => some (s.wrSvnCmd v)
  | 0xC002, 1 => some (s.wrImgOff v)
  | 0xC002, 2 => some (s.wrImgData bytes)
  | 0xC002, 3 => some (s.wrImgCmd v)
  | 0xC003, 2 => some (s.dbgTest bytes)
  | 0xC004, 2 => some (s.wrZeroize v)
  | _, _ => none

/-- A write of the elements `us` of entry `r`. -/
def State.put (s : State) (r : Reg) (us : List (Nat × Nat)) : LexRes :=
  match s.putSec r (us.headD (0, 0)).2 with
  | some x => .ok x
  | none =>
    match s.sw.put r us with
    | .ok x => .ok (x.1, { s with sw := x.2 })
    | .error n => .error n

end Sys2Proof.Machine
end

