-- ==== Sys2Proof/Machine/LexOps.lean ====
section
/-! DEFINITION. The lexicon engine (15 R597 to R609): who may do what, the checks of a request in the order of R607, reads
with their snapshots, writes with their staging. -/

namespace Sys2Proof.Machine

/-! ### Who may do what (R608, R609, R715) -/

/-- Transport number of R627. -/
def reqTransport : Requester → Nat
  | .inband _ _ => 1
  | .issio _ _ => 2
  | .i3c => 3
  | .mailbox _ => 4
  | .core _ => 5

/-- The range of an index (Table 15.4). -/
def lexRange (i : Nat) : Option Nat :=
  if i < 0x1000 then none
  else if i < 0x5000 then some (i / 4096 - 1)
  else if i < 0x5800 then some 4
  else if i < 0x6000 then some 5
  else if i < 0x6800 then some 6
  else if i < 0x7000 then some 7
  else if i < 0x7800 then some 8
  else if i < 0x8000 then some 9
  else some (i / 4096 + 2)

/-- The mask words that let a requester in (Tables 15.6, 15.7 and 15.12); none where every range is allowed. -/
def Sw.lexMasks (s : Sw) : Requester → Option (List Nat)
  | .inband src ten => some ((List.range 32).filterMap (fun e =>
      let w := s.rd L.lexInband e
      if bit w 63 ∧ fld w 55 8 = ten.toNat ∧ fld w 39 16 = src.toNat then some w else none))
  | .issio ip _ => some ((List.range 8).filterMap (fun e =>
      let w := s.rd L.lexIssioAllow e
      if bit w 95 ∧ fld w 96 32 = ip.toNat then some w else none))
  | .core _ => some [s.rd L.lexCoreMask]
  | .i3c => none
  | .mailbox _ => none

/-- The requester may read, or write, index `i`. -/
def Sw.lexAllows (s : Sw) (q : Requester) (i : Nat) (write : Bool) : Bool :=
  match s.lexMasks q with
  | none => true
  | some ws =>
    match lexRange i with
    | none => !ws.isEmpty
    | some r => ws.any (fun w => bit w (if write then 18 + r else r))

/-- A request as the engine takes it. -/
structure LexJob where
  q     : Requester
  /-- session that carries it (R618) -/
  sid   : Option Nat := none
  /-- applied with full authority: a record of Feed, a value of the image -/
  full  : Bool := false
  index : Nat
  sub   : Nat
  seg   : Nat
  op    : Nat
  len   : Nat
  value : Bytes
deriving DecidableEq, Repr

/-- Bytes of a write-only octet string as they stand. -/
def Sw.octOf (s : Sw) (key : Nat) : List Host.Cell := s.lexs.oct.getD key []

/-- Writes of range 14 (R715): a WO entry takes them inside a Crypto Officer session, and in two more cases. -/
def State.secAllows (s : State) (j : LexJob) (row : LexRow) : Bool :=
  if lexRange j.index ≠ some 14 ∨ row.acc ≠ .wo then true
  else if j.index = 0xC003 then s.sec.holds j.q
  else
    let code := if j.seg = 0 then byteAt j.value 0 else AMap.getD (s.sw.octOf (0xC001 * 256 + 3)) 0 0
    s.sec.inOfficer j.sid || (j.index == 0xC001 && j.sub == 3 && !s.sec.opOnly && decide (j.q = .i3c) && code.toNat == 1)

/-- Entries that M serves where bring-up has stopped (16 R634, R635). -/
def Sw.lexStopped (s : Sw) (q : Requester) (i sub : Nat) (write : Bool) : Bool :=
  s.boot.error &&
  !(if s.boot.cause = 1 then decide ((reqTransport q) = 2 ∨ (reqTransport q) = 3) && (!write || i == 0xC002)
    else decide ((reqTransport q) = 3) && !write && (i == 0x1000 || (i == 0x2000 && sub == 1)))

/-! ### Units (R598, R599) -/

/-- Bytes of a segment, or of a clause core's word (R623), and the capacity N of a request. -/
def reqGrain : Requester → Nat
  | .core _ => 4
  | _ => 8
def reqCap : Requester → Nat
  | .core _ => 4
  | .mailbox _ => 32
  | _ => 8

/-- An entry that a request names: its row, or subindex 0x00 of an index that holds entries (R592). -/
inductive LexEnt
  | top (n : Nat)
  | row (x : LexRow)
deriving DecidableEq, Repr

/-- The entry at an index and subindex. -/
def lexEnt? (i sub : Nat) : Option LexEnt :=
  if sub = 0 then (if topSub i = 0 then none else some (.top (topSub i))) else (lexRow? i sub).map .row

/-- Size of an entry. -/
def LexEnt.size : LexEnt → Nat
  | .top _ => 1
  | .row x => x.size

/-- A write of `len` bytes from segment `seg` on is in form (R598). -/
def segWr (q : Requester) (z seg len : Nat) : Bool :=
  len == 0 || (decide (len ≤ (reqCap q) ∧ (reqGrain q) * seg + len ≤ z) && (len % (reqGrain q) == 0 || (reqGrain q) * seg + len == z))

/-! ### Reads (R601) -/

/-- Change what the engine keeps of its requesters. -/
def State.updLexs (s : State) (f : LexSt → LexSt) : State := s.updSw (fun w => { w with lexs := f w.lexs })

/-- The part of an entry that a snapshot holds, for byte `o`: its first byte and length; none for an entry whose reads are
consistent only within a segment. -/
def snapPart (x : LexRow) (o : Nat) : Option (Nat × Nat) :=
  if x.size ≤ 64 then some (0, x.size)
  else if x.typ = .table ∧ 8 < x.reg.width then some (o / x.reg.width * x.reg.width, x.reg.width) else none

/-- A read of the first segment of `det.sig`, or of `sec.dbg.chal`, makes its value (18 R693, 19 R734). -/
def State.freshRead (s : State) (q : Requester) (r : Reg) (o : Nat) : State :=
  if o ≠ 0 then s
  else if r = L.detSig then s.updSw Sw.readDetSig
  else if r = L.secDbgChal then (s.challenge q).2
  else s

/-- One segment of an entry, `n` bytes from byte `o`. -/
def State.readSeg (s : State) (q : Requester) (x : LexRow) (r : Reg) (o n : Nat) : Bytes × State :=
  let s := s.freshRead q r o
  let key := r.index * 256 + r.sub
  let other (l : LexSt) : LexSt := { l with snap := l.snap.filter (fun e => decide (e.1 ≠ q ∨ e.2.1 = key)) }
  let drop (lo : Nat) (l : LexSt) : LexSt := { l with snap := l.snap.filter (fun e => decide (e.1 ≠ q ∨ (e.2.1 = key ∧ e.2.2.1 ≠ lo))) }
  match snapPart x o with
  | none => (s.lexBytes q x r o n, s.updLexs other)
  | some (lo, len) =>
    let live := s.lexBytes q x r lo len
    match (if o = lo then none else s.sw.lexs.snap.find? (fun e => decide (e.1 = q ∧ e.2.1 = key ∧ e.2.2.1 = lo))) with
    | some e => (slice e.2.2.2 (o - lo) n, s)
    | none =>
      (slice live (o - lo) n, if o = lo then s.updLexs (fun l => { drop lo l with snap := (drop lo l).snap ++ [(q, key, lo, live)] })
        else s.updLexs other)

/-- A read of up to `k` segments from byte `o` on (R598). -/
def State.readSegs (q : Requester) (x : LexRow) (r : Reg) : Nat → Nat → State → Bytes × State
  | 0, _, s => ([], s)
  | k + 1, o, s =>
    if x.size ≤ o then ([], s)
    else
      let a := s.readSeg q x r o (min (reqGrain q) (x.size - o))
      let b := State.readSegs q x r k (o + (reqGrain q)) a.2
      (a.1 ++ b.1, b.2)

/-! ### Writes (R599, R600) -/

/-- What a requester has staged of an element. -/
def Sw.stagedOf (s : Sw) (q : Requester) (key el : Nat) : List Host.Cell :=
  match s.lexs.stage.find? (fun e => decide (e.1 = q ∧ e.2.1 = key ∧ e.2.2.1 = el)) with
  | some e => e.2.2.2
  | none => []

/-- Bytes laid over a table of bytes. -/
def cellsOver (m : List Host.Cell) (o : Nat) (bs : Bytes) : List Host.Cell := bs.zipIdx.foldl (fun m b => AMap.set m (o + b.2) b.1) m

/-- A value with staged and written bytes in it. -/
def valueOver (v w : Nat) (m : List Host.Cell) : Nat := leNat ((leBytes w v).zipIdx.map (fun b => AMap.getD m b.2 b.1))

/-- The elements that a write covers: each with the bytes it writes there, by offset in the element, and whether it covers
the last byte. -/
def coverOf (w o : Nat) (bs : Bytes) : List (Nat × List Host.Cell × Bool) :=
  (List.range (cdiv (o % w + bs.length) w)).map (fun i =>
    let el := o / w + i
    let lo := max o (el * w)
    let hi := min (o + bs.length) (el * w + w)
    (el, cellsOver [] (lo - el * w) ((bs.drop (lo - o)).take (hi - lo)), decide (hi = el * w + w)))

/-- A write of a table or scalar: of a TABLE element wider than a segment, bytes are staged until the last one arrives (R599; for a
clause core wider than its word, DEDUCED, log 137); refused, it has no effect and the staging copy is discarded (R600). Where an
element takes effect, nothing that anyone has staged of it before counts any more (R599). -/
def State.writeElems (s : State) (q : Requester) (x : LexRow) (r : Reg) (o : Nat) (bs : Bytes) : LexRes :=
  let key := r.index * 256 + r.sub
  let w := r.width
  let parts := coverOf w o bs
  let cur (el : Nat) : Nat := if x.acc = .wo then 0 else s.sw.rd r el
  let drop (l : LexSt) : LexSt := { l with stage := l.stage.filter (fun e => decide (e.1 ≠ q)) }
  let wide := x.typ == .table && decide ((reqGrain q) < w)
  let us := (parts.filter (fun p => p.2.2 || !wide)).map (fun p =>
    (p.1, valueOver (valueOver (cur p.1) w (s.sw.stagedOf q key p.1)) w p.2.1))
  let staged := parts.filter (fun p => wide && !p.2.2)
  let keep (t : State) : State :=
    let t := t.updLexs (fun l => { l with stage := l.stage.filter (fun e => !(e.2.1 == key && us.any (fun u => u.1 == e.2.2.1))) })
    match staged.getLast? with
    | some p => t.updLexs (fun l => { drop l with stage := (drop l).stage ++
        [(q, key, p.1, p.2.1.foldl (fun m c => AMap.set m c.1 c.2) (s.sw.stagedOf q key p.1))] })
    | none => t
  if us.isEmpty then .ok (0, keep s)
  else match s.put r us with
    | .ok (0, t) => .ok (0, keep t)
    | .ok (n, _) => .ok (n, s.updLexs drop)
    | .error n => .error n

/-- The byte whose write performs a write-only octet string: its last, or for `coll.lib.load` the last that the program's
header tells (DEDUCED). -/
def octEnd (r : Reg) (m : List Host.Cell) : Nat :=
  if r = L.collLibLoad then min r.width (3764 + (AMap.getD m 10 0).toNat + 256 * (AMap.getD m 11 0).toNat +
    65536 * (AMap.getD m 12 0).toNat + 16777216 * (AMap.getD m 13 0).toNat)
  else r.width

/-- A write of an octet string: bytes of a read-write one take effect at once, those of a write-only one stand until the last
is written (R734; for the others DEDUCED). A refusal discards the requester's staging copy (R600). -/
def State.writeOct (s : State) (q : Requester) (x : LexRow) (r : Reg) (o : Nat) (bs : Bytes) : LexRes :=
  let key := r.index * 256 + r.sub
  let drop (t : State) : State := t.updLexs (fun l => { l with stage := l.stage.filter (fun e => decide (e.1 ≠ q)) })
  if x.acc ≠ .wo then match s.put r [(0, valueOver (s.sw.rd r) r.width (cellsOver [] o bs))] with
    | .ok (0, u) => .ok (0, u)
    | .ok (n, u) => .ok (n, drop u)
    | .error n => .error n
  else
    let m := cellsOver (s.sw.octOf key) o bs
    let t := s.updLexs (fun l => { l with oct := AMap.set l.oct key m })
    let last := octEnd r m
    if o < last ∧ last ≤ o + bs.length then
      match (t.updLexs (fun l => { l with oct := AMap.set l.oct key (if r = L.secDbgResp then m else []) })).put r
        [(0, valueOver 0 r.width m)] with
      | .ok (0, u) => .ok (0, u)
      | .ok (n, u) => .ok (n, drop (if r = L.secDbgResp then u else s))
      | .error n => .error n
    else .ok (0, t)

/-! ### Service (R602 to R607) -/

/-- What the engine answers: a status of Table 15.5, the bytes of R606, and the state after it; or the rule that leaves the
use undefined. -/
abbrev LexAns := Except Nat (Nat × Bytes × State)

/-- Busy: writes that have no effect now (14 R587, 16 R639), and writes of the image load under way (19 R725). -/
def State.lexBusy (s : State) (j : LexJob) : Bool :=
  j.op == 1 && ((s.busyFor j.index j.sub && !s.sw.boot.error) ||
    (j.index == 0xC002 && (j.sub == 2 || j.sub == 3) && s.sec.busy.isSome))

/-- Debug level that range 17 asks for (R607, R735). -/
def lexLocked (s : Sec) (j : LexJob) : Bool := lexRange j.index == some 17 && decide (s.debug < j.op + 1)

/-- The status of a request before its value is looked at, in the order of R607; 0 where nothing stands in its way. -/
def State.lexCheck (s : State) (j : LexJob) : Nat :=
  let write := j.op == 1
  let denied := !j.full && (!s.sw.lexAllows j.q j.index write || s.sw.lexStopped j.q j.index j.sub write)
  if s.lexBusy j then 7
  else if 2 ≤ j.op then 9
  else if denied then 6
  else match lexEnt? j.index j.sub with
    | none => if lexLocked s.sec j then 8 else 1
    | some e =>
      if write && !j.full && (match e with | .top _ => false | .row x => !s.secAllows j x) then 6
      else if lexLocked s.sec j then 8
      else
        let acc := match e with | .top _ => Access.ro | .row x => x.acc
        if write ∧ acc = .ro then 2
        else if !write ∧ acc = .wo then 3
        else if cdiv e.size (reqGrain j.q) ≤ j.seg ∨ (write ∧ !segWr j.q e.size j.seg j.len) then 5
        else 0

/-- A read that passes. -/
def State.lexReadNow (s : State) (j : LexJob) : Bytes × State :=
  match lexEnt? j.index j.sub with
  | some (.top n) => ([BitVec.ofNat 8 n], s.updLexs (fun l => { l with snap := l.snap.filter (fun e => decide (e.1 ≠ j.q)) }))
  | some (.row x) => State.readSegs j.q x (x.entry j.index j.sub) ((reqCap j.q) / (reqGrain j.q)) ((reqGrain j.q) * j.seg) s
  | none => ([], s)

/-- The bytes of the written segments as they stand (R606): those that the entry has, and no more than a response carries. -/
def State.writtenBytes (s : State) (j : LexJob) : Bytes :=
  if j.op ≠ 1 then []
  else match lexEnt? j.index j.sub with
  | some (.row x) =>
    let o := (reqGrain j.q) * j.seg
    if x.acc = .wo then [] else s.lexBytes j.q x (x.entry j.index j.sub) o (min j.len (min (reqCap j.q) (x.size - o)))
  | some (.top n) => if j.seg = 0 ∧ 0 < j.len then [BitVec.ofNat 8 n] else []
  | none => []

/-- The record of a lexicon write: Table 15.11's layout, then the transport (18 R698); a mailbox request is recorded by
segment. -/
def Sw.recWrite (s : Sw) (j : LexJob) : Sw :=
  (List.range (cdiv j.len 8)).foldl (fun s i =>
    s.recLex (leBytes 2 j.index ++ leBytes 1 j.sub ++ leBytes 1 0 ++ leBytes 2 (j.seg + i) ++
      leBytes 1 (1 + 16 * min 8 (j.len - 8 * i)) ++ leBytes 1 0 ++ slice ((j.value.drop (8 * i)).take 8) 0 8 ++
      leBytes 1 (reqTransport j.q)) (reqTransport j.q)) s

/-- A write that passes. -/
def State.lexWriteNow (s : State) (j : LexJob) : LexRes :=
  if j.len = 0 then .ok (0, s)
  else match lexEnt? j.index j.sub with
    | some (.row x) =>
      let r := x.entry j.index j.sub
      let o := (reqGrain j.q) * j.seg
      let bs := slice j.value 0 j.len
      let rec_ := s.updSw (fun w => w.recWrite j)
      match (if x.typ = .octets then rec_.writeOct j.q x r o bs else rec_.writeElems j.q x r o bs) with
      | .ok (0, t) => .ok (0, t)
      | .ok (n, _) => if x.typ = .octets then s.writeOct j.q x r o bs else match s.writeElems j.q x r o bs with
        | .ok (_, t) => .ok (n, t)
        | e => e
      | e => e
    | _ => .ok (1, s)

/-- The engine counts what it answers (R627). -/
def State.lexCount (s : State) (q : Requester) (st : Nat) : State :=
  let k := (reqTransport q) - 1
  s.updSw (fun w => match st with
    | 6 => w.inc (L.lexDenied.at k)
    | 7 => w.inc (L.lexBusy.at k)
    | 9 => w.inc (L.lexMalformed.at k)
    | _ => w)

/-- The storage of the entry a request names holds an uncorrectable word (Table 15.5). -/
def State.lexBad (s : State) (j : LexJob) : Bool := s.sw.lexs.bad.contains (j.index * 256 + j.sub)

/-- One request is served (R602, R604). A write that is refused returns the bytes unchanged (R606). -/
def State.lexServe (s : State) (j : LexJob) : LexAns :=
  match s.lexCheck j with
  | 0 =>
    if j.op = 0 then
      if s.lexBad j then .ok (10, [], s) else let a := s.lexReadNow j; .ok (0, a.1, a.2)
    else match s.lexWriteNow j with
      | .ok (0, t) => if s.lexBad j then .ok (10, [], s) else .ok (0, t.writtenBytes j, t)
      | .ok (n, t) => .ok (n, t.writtenBytes j, t.lexCount j.q n)
      | .error n => .error n
  | n => .ok (n, s.writtenBytes j, s.lexCount j.q n)

end Sys2Proof.Machine
end

