-- ==== Sys2Proof/Machine/Boot.lean ====
section
/-! DEFINITION. Bring-up and resets (16): cold and warm reset, the values of the image, READY, memory ports that return. -/

namespace Sys2Proof.Machine

/-! ### The image's lexicon values (19 R724, 16 R639) -/

/-- A request record (Table 15.11); one whose `len` is above 8 is malformed. -/
def recJob (q : Requester) (sid : Option Nat) (b : Bytes) : LexJob :=
  let c := (byteAt b 6).toNat
  { q := q, sid := sid, index := leNat (b.take 2), sub := (byteAt b 2).toNat, seg := leNat ((b.drop 4).take 2)
    op := if 8 < c / 16 then 2 else c % 16, len := c / 16, value := (b.drop 8).take 8 }

/-- The response record to a request record. -/
def recAns (b : Bytes) (st : Nat) (bytes : Bytes) : Bytes :=
  b.take 6 ++ [BitVec.ofNat 8 ((byteAt b 6).toNat % 16 + 16 * bytes.length), BitVec.ofNat 8 st] ++ slice bytes 0 8

/-- The records of a section, each applied with the transport taken as I3C. -/
def imgJobs (b : Bytes) : List LexJob := (List.range (b.length / 16)).map (fun i => recJob .i3c none ((b.drop (16 * i)).take 16))

/-- Port commands, which step 8 performs (DEDUCED from R631). -/
def portCmdJob (j : LexJob) : Bool := (j.index == 0x3000 || j.index == 0x1101) && j.sub == 4

/-- A write of a class-N entry. -/
def classN (j : LexJob) : Bool := match lexRow? j.index j.sub with | some r => r.pers == .n | none => false

/-- The retained section is applied in order; a refused record is skipped and counted. -/
def State.applyImage (s : State) (p : LexJob → Bool) : Except Nat State :=
  ((imgJobs s.sw.boot.image).filter p).foldl (fun r j =>
    match r with
    | .ok t => (match t.lexServe j with
      | .ok (0, _, u) => .ok u
      | .ok (_, _, u) => .ok (u.updSec (fun x => { x with skipped := x.skipped + 1 }))
      | .error n => .error n)
    | e => e) (.ok s)

/-! ### Steps that both resets run -/

/-- The clock domains a part of a grade has, numbered in the order of Table 1.6: a WV9616 has no H4 and H5 (00 R7, 01 R41). -/
def domains (grade : Nat) : List Nat :=
  (List.range 60).filter (fun i => grade != 0x9616 || !List.contains [40, 41, 42, 43, 48, 49] i)

/-- The offsets that the crossings achieved are shown. -/
def Sw.showAlign (s : Sw) (which : Nat → Bool) (l : List Nat) : Sw :=
  ((domains s.ident.grade).filter which).foldl (fun s i => s.wr L.detAlign i (l.getD i 0)) s

/-- Every die-to-die link has completed its alignment (01 Table 1.9). -/
def Sw.linksAligned (s : Sw) : Sw := { s with pins := { s.pins with d2dUp := List.range 18 } }

/-- Step 2: the offset each crossing achieved is shown; one outside 7 to 9 stops the bring-up (R635, 18 R690). -/
def alignOk (grade : Nat) (l : List Nat) : Bool := (domains grade).all (fun i => [7, 8, 9].contains (l.getD i 0))

/-- Bring-up stops (R634, R635). -/
def State.bootStop (s : State) (stage cause : Nat) : State :=
  s.updSw (fun w => { w with boot := { w.boot with stage := stage, cause := cause, ready := false, error := true } })

/-- Step 6: stacks with a half that fails training go out of service (R636). -/
def Sw.trainHbm (s : Sw) (fail : BitVec 6) : Sw :=
  let bad := (List.range 6).filter (fun n => bit fail.toNat n && s.stackOk n)
  let s := { s with boot := { s.boot with hbmBad := s.boot.hbmBad + sumBy (fun n => 2 ^ n) bad
                                          cause := if bad.isEmpty then s.boot.cause else 3 } }
  bad.foldl (fun s n => s.fault 0x42 (40 + n) none (detL 3 n 0 0 0) 0) s

/-- Step 8 begins: the image's port commands. -/
def State.linkStep (s : State) : Except Nat State :=
  match s.applyImage portCmdJob with
  | .error n => .error n
  | .ok t => .ok (t.updSw (fun w => { w with boot := { w.boot with
      stage := 7, ready := false, linkAt := some w.now, linkNs := w.rd L.devBootLinkNs
      enable := w.cfgPortList.filter (fun p => (w.port p).st != .disabled) } }))

/-! ### Cold reset (R631 to R637, 19 R716 to R726) -/

/-- What stands when a cold reset begins (Table 16.6): fuses, NOR and fused identity; the board's clocks are
within their limits (Table 20.6). -/
def State.coldBase (s : State) (f : BootFacts) : State :=
  let s := s.cutImage
  { pending := s.pending
    sec := { fuses := s.sec.fuses, svnFuse := s.sec.svnFuse, retired := s.sec.retired, nor := s.sec.nor, derived := false
             keys := if f.fuseOk then s.sec.fuses else [], svnMin := if f.fuseOk then s.sec.svnFuse else 0 }
    sw := { free := s.sw.free, ident := s.sw.ident, tx := s.sw.tx, now := f.ms.toNat * 1000000
            pins := { mgtPhyRst := true, d2dUp := [], hsAt := (List.range 4).map (fun d => (d, f.ms.toNat * 1000000)) }
            brg := { ports := (List.range 4).map (fun p => (p, { unclear := true })) }
            boot := { stage := 0, ready := false, ms := f.ms.toNat } } }

/-- Extension of measurement 2 (Table 19.5). -/
def State.fuseDigest (s : State) (keyidx : Nat) : Bytes :=
  sha3 (leBytes 4 s.sw.ident.fuseOpt ++ (List.range 4).flatMap (fun i => leBytes 32 (s.sec.key (i + 1)).hash) ++
    leBytes 1 s.sec.keyState ++ leBytes 2 s.sec.svnMin ++ leBytes 1 keyidx)

/-- Steps 3 and 4: slot 0, or slot 1 where it fails, which is reported (R634, 17 R666); none where neither verifies. -/
def State.pickImage (s : State) : Option Nat × State :=
  let a := s.updSec (fun x => x.judge 0)
  if a.sec.imgFail = 0 then (some 0, a)
  else
    let b := a.updSec (fun x => x.judge 1)
    if b.sec.imgFail = 0 then (some 1, b.updSw (fun w => w.fault 0x70 71 none 0 0)) else (none, b)

/-- Slot `k` is in use: its sections are measured, retained, its library loaded (R724, R729). -/
def State.useImage (s : State) (k : Nat) : State :=
  let h := s.sec.imgHeader k
  let dig (t : Nat) : Option Bytes := (s.sec.secOf k t).map (fun e => leBytes 32 (eDigest e))
  let ext (i : Nat) (d : Option Bytes) (x : Sec) : Sec := match d with | some d => x.extend i d | none => x
  let s := s.updSec (fun x => ext 5 (dig 3) (ext 4 (dig 2) (ext 3 (dig 1) (x.extend 2 (s.fuseDigest (iKey h))))))
  let s := (s.updSec (fun x => ({ x with runSvn := iSvn h, runKey := iKey h }).rederive)).retain k
  s.updSw (fun w => { w with lib := w.libImage, boot := { w.boot with slot := k } })

/-- Every granule begins to clear (R579, Table 16.1 step 7). -/
def Sw.clearAll (s : Sw) : Sw := { s with clr := (List.range (s.hbmSize / gib)).map (fun g => (g, [])) }

/-- The whole bring-up as far as step 8. -/
def State.coldStart (s : State) (f : BootFacts) : Except Nat State :=
  let s := s.coldBase f
  if !f.fuseOk then .ok (s.bootStop 0 2)
  else
    let s := s.updSec (fun x => x.extend 1 (leBytes 32 Config.romDigest))
    let s := s.updSw (fun w => w.showAlign (fun _ => true) f.align)
    if !alignOk s.sw.ident.grade f.align then .ok (s.bootStop 1 4)
    else
    let s := s.updSw Sw.linksAligned
    if !f.katOk then .ok ((s.updSec (fun x => { x with err := true })).bootStop 4 1)
    else
      match s.pickImage with
      | (none, t) => .ok ((t.updSec (fun x => x.rederive)).bootStop 4 1)
      | (some k, t) =>
        match (t.useImage k).applyImage (fun j => !portCmdJob j) with
        | .error n => .error n
        | .ok u =>
          (u.updSw (fun w => ({ w with ten := [], rebind := none, bel := {}, brg := { w.brg with winLog := w.rd L.brgWinLog2 } }.trainHbm
            f.hbmFail).clearAll)).linkStep

/-! ### Warm reset (R639 to R641) -/

/-- What a warm reset keeps of the Lexicon's store (Table 16.6): class W, the set points, and the offsets of M's own
domains in `det.align`. -/
def warmKeeps (k : Nat) : Bool :=
  let i := k / 16777216
  let sub := k / 65536 % 256
  keyPers k .w || (i == 0xB001 && decide (sub ≤ 4)) || (i == 0xD000 && sub == 3 && decide (54 ≤ k % 65536 ∧ k % 65536 ≤ 58))

/-- A bridge port through a warm reset (R640): the host port stays in L0, a memory port that drives its link retrains. -/
def BPortSt.retrain (b : BPortSt) (now : Nat) : BPortSt :=
  if b.st = .disabled then b else { b with st := .training, cap := 0, width := 0, rate := 0, cxl := false, flit := false, enAt := now }

/-- Records lose what their handling waited for; conditions that a warm reset ends are gone (R670, Table 17.5). -/
def Flt.warm (x : Flt) (close : Nat) : Flt :=
  { x with
    due := []
    recs := x.recs.map (fun kv => if kv.2.waits.isEmpty then kv else (kv.1, { kv.2 with waits := [], closeAt := max kv.2.closeAt close }))
    held := x.held.filter (fun h => match h.1 with | .port _ => false | .link _ => false | _ => true) }

/-- The dies under reset lose their state; M keeps its own (R638, R639, Table 16.6). The free rings are built anew, each of their lines
written (04 R155). -/
def Sw.warmBase (s : Sw) (ms : Nat) : Sw :=
  let s := if s.recd.st = 0 ∨ s.recd.st = 4 then s else s.recStop 3
  let s := s.brg.reads.foldl Sw.readTimeout s
  let mem := (List.range 4).filter s.memRole
  let inc (i : Nat) : Nat := s.incOf i
  let s := ((List.range 4).map incForge ++ (List.range 16).map incArray ++ (List.range 64).map incCore ++
    (List.range 6).map incStack).foldl Sw.bump s
  let now := s.now + ms * 1000000
  let back := (mem.filter (fun p => (s.bport p).st == .ready)).map (fun p => (p, (s.bport p).cap, none))
  let s := mem.foldl (fun s p => s.updBport p (fun b => b.retrain now)) s
  let s := s.clr.foldl (fun s kv =>
    if kv.1 < 1024 then s.clearHbm kv.1 else s.clearCxl ((kv.1 - 1024) / 4096) ((kv.1 - 1024) % 4096)) s
  let s := (List.range 4).foldl (fun s d => s.zeroHbm (s.telBase d) (s.telBase d + 256 * mib)) s
  { s with
    now := now
    hbmBad := s.hbmBad.filter (fun l => decide (32 * 2 ^ 20 ≤ 64 * l % s.dieRegion))
    lex := s.lex.filter (fun kv => warmKeeps kv.1)
    fab := {}, cred := [], bil := {}, bel := {}, ports := [], lanes := [], ten := [], rebind := none, blkRst := []
    flt := s.flt.warm (deadline now (s.rd L.fltMergeNs))
    boot := { image := s.boot.image, slot := s.boot.slot, hbmBad := s.boot.hbmBad, ready := false, warm := false, ms := ms
              stage := 1, returns := back }
    pwr := { s.pwr with state := .active, wantUp := false, parked := [], waking := [], lent := [], back := [], temps := []
                        swageThrottle := false, hearthThrottle := false, unattain := false }
    pins := { s.pins with d2dFatal := [], d2dUp := [], hsWin := [], hsAt := (List.range 4).map (fun d => (d, now)) }
    brg := { s.brg with cxl := [], reads := [], revs := [], revWait := [], acks := [], aer := [] }
    cores := [], anv := {}, agr := [], jobs := [], ops := [], lib := s.libImage, scrub := []
    lostJobs := s.jobs.map (fun j => ({ j with core := none }, inc (incStack j.stack)))
    lostOps := s.ops.map (fun x => ({ x with core := none, held := [] }, inc (incArray x.array)))
    lexs := { s.lexs with oct := [] } }

/-- M's part (19 R728, R729, R732, R735). -/
def Sec.warm (s : Sec) : Sec :=
  { s with meas := AMap.del s.meas 6, debug := 0, dbgfail := 0, nonce := none, sess := [], imgSlot := 0, imgFail := 0, skipped := 0
           derived := s.serves }

/-- Granules whose binding words go, by the image values that a warm reset restores, from bound to unbound or from one tenancy to
another begin to clear (14 R579); `old` is the part before the reset. -/
def Sw.clearUnbound (s old : Sw) : Sw :=
  let s := (old.elems L.tenHbm).foldl (fun s e => if clears e.2 (s.rd L.tenHbm e.1) then s.clearHbm e.1 else s) s
  (old.elems L.tenCxl).foldl (fun s e => if clears e.2 (s.rd L.tenCxl e.1) then s.clearCxl (e.1 / 4096) (e.1 % 4096) else s) s

/-- Steps 2, 5, 6, 7 and 8: levels are full under the image's bursts (05 R187). -/
def State.warmStart (s : State) (f : BootFacts) : Except Nat State :=
  let old := s.sw
  let s := { s with sec := s.sec.warm, sw := s.sw.warmBase f.ms.toNat }
  let s := s.updSw (fun w => w.showAlign (fun i => decide (i < 54 ∨ 58 < i)) f.align)
  let mark (t : State) : State := t.updSw (fun w => { w with boot := { w.boot with warm := true } })
  if !alignOk s.sw.ident.grade f.align then .ok ((mark s).bootStop 1 4)
  else
    let s := s.updSw Sw.linksAligned
    match s.applyImage (fun j => classN j) with
    | .error n => .error n
    | .ok t =>
      match (t.updSw (fun w => ({ w with bel := {} }.clearUnbound old).trainHbm f.hbmFail)).linkStep with
      | .error n => .error n
      | .ok u => .ok (mark u)

/-- What a warm reset that a lexicon request starts meets is the hardware's: free values. -/
def Sw.freeFacts (s : Sw) : BootFacts × Sw :=
  let a := forN 60 (([] : List Nat), s) (fun _ x => let d := x.2.draw; (x.1 ++ [7 + d.1 % 3], d.2))
  let b := a.2.draw
  let c := b.2.draw
  ({ fuseOk := true, align := a.1, katOk := true, hbmFail := BitVec.ofNat 6 b.1, ms := BitVec.ofNat 32 c.1 }, c.2)

/-! ### Ends of commands -/

/-- A command ends whose state may have a warm reset asked for by a lexicon write. -/
def State.finish (s : State) : Host.Outcome State Fault Refusal :=
  if s.sw.boot.asked then
    let a := s.sw.freeFacts
    match (({ s with sw := { a.2 with boot := { a.2.boot with asked := false } } }).warmStart a.1) with
    | .ok t => t.ends t.sw
    | .error n => .fault (.undefinedUse n)
  else s.ends s.sw

/-- The end of a reset. -/
def endReset (r : Except Nat State) : Host.Outcome State Fault Refusal :=
  match r with
  | .ok t => t.ends t.sw
  | .error n => .fault (.undefinedUse n)

/-- The part is not held in reset by a rail or by THERM_CRIT_N (20 R753, R764). -/
def Sw.mayStart (s : Sw) : Bool := !s.pins.railLow && s.pins.thermCritN

/-- COLD_RESET (R631): RESET_N rises. While a rail is low or THERM_CRIT_N is driven, no bring-up begins. -/
def execColdReset (facts : BootFacts) (s : State) : Host.Outcome State Fault Refusal :=
  if s.sw.mayStart then endReset (s.coldStart facts)
  else .next (s.updSw (fun w => { w with pins := { w.pins with resetN := true } }))

/-- WARM_RESET (R639, R641). -/
def execWarmReset (facts : BootFacts) (s : State) : Host.Outcome State Fault Refusal :=
  s.written 0x2000 2 (endReset (s.warmStart facts))

/-- BOOT_LINK_TIMEOUT (R632): `dev.boot.link_ns` after step 8 began. -/
def execBootLinkTimeout (s : State) : Host.Outcome State Fault Refusal :=
  match s.sw.boot.linkAt with
  | none => .next s
  | some t => s.ends (s.sw.reach (deadline t s.sw.boot.linkNs)).bootReady

/-- MEM_PORT_RETURN_TIMEOUT (R640): not Ready 1 s after step 8 of the warm reset. -/
def execMemPortReturnTimeout (port : BPort) (s : State) : Host.Outcome State Fault Refusal :=
  match s.sw.boot.returns.find? (fun r => r.1 == port.val) with
  | none => .next s
  | some r =>
    match r.2.2 with
    | none => .next s
    | some t =>
      let w := s.sw.reach t
      s.ends ({ w with boot := { w.boot with returns := w.boot.returns.filter (fun x => x.1 != port.val) } }.memDown port 1)

end Sys2Proof.Machine
end

