-- ==== Sys2Proof/Machine/Hearth.lean ====
section
/-! DEFINITION. The commands of chapter 08: Hearth jobs, recipe steps, copies, line accesses and the patrol. -/

namespace Sys2Proof.Machine

/-! ### Jobs (R324 to R333) -/

/-- A recipe uses its own output (R353): a byte a STORE writes is also read or written by another step, or through
another stream. -/
def jobAliases (j : Job) : Bool :=
  let stores := ((j.recipe.filter (fun i => iOp i == 2)).map iS).eraseDups
  let ranges (n : Nat) : List (Nat × Nat) :=
    let e := streamEntry j.pblk n
    streamRanges (stDesc e) (stBase e) (jCount j.desc) 0 (jCount j.desc)
  let meet (a b : Nat × Nat) : Bool := decide (a.1 < b.1 + b.2 ∧ b.1 < a.1 + a.2)
  jKind j.desc == 0 && decide (0 < jCount j.desc) && stores.any (fun n =>
    let d := stDesc (streamEntry j.pblk n)
    (dScaled d && !dCols d && decide (64 < dBlock d ∧ 64 < jCount j.desc)) ||
    (namedStreams j.recipe).any (fun m => m != n && (ranges n).any (fun a => (ranges m).any (meet a))))

/-- HEARTH_JOB_SUBMIT (R324, R328): a descriptor joins its stack's queue, or is answered Busy or Denied. The stack that
holds its parameter block answers (R330, 02 R83; log 28). -/
def execHearthJobSubmit (hdr : Word256) (payload : Bytes) (s : State) : Host.Outcome State Fault Refusal :=
  let w := s.sw.takeIn hdr payload
  let d := leNat (payload.take 64)
  let st := (w.hbmStack (jPblk d)).1
  let k := w.hbmDie (jPblk d)
  let inc := w.incOf (incStack st)
  if pKind hdr ≠ 0 ∨ hOff hdr ≠ w.rd L.hearthJobWin then .next s
  else if hPlen hdr ≠ 1 ∨ hTail hdr ≠ 0 then s.ends (w.answer k hdr stDenied inc [] .both)
  else if w.blkRst.contains (.stack (Fin.ofNat 6 st)) then s.ends (w.answer k hdr stTargetReset inc [] .both)
  else if w.parkedNow then s.ends (w.answer k hdr stBusy inc [] .both)
  else match w.jobSubmit (hTen hdr) (pClass hdr) d none with
    | none => s.ends ((w.inc (L.hearthJobBusy.at st)).answer k hdr stBusy inc [] .both)
    | some w => s.ends (w.answer k hdr stOk inc [] .both)

/-- HEARTH_JOB_START (R329, R333). -/
def execHearthJobStart (stack : Stack) (s : State) : Host.Outcome State Fault Refusal :=
  s.ends (s.sw.jobStart stack)

/-- A recipe engine of the stack that is bound to a tenancy is awake (R329, 16 R642). -/
def Sw.engineAwake (s : Sw) (n t : Nat) : Bool :=
  (List.range 16).any (fun i => boundTo (s.rd L.tenHearth (16 * n + i)) t && s.unitAwake (.hearth (Fin.ofNat 96 (16 * n + i))))

/-- RECIPE_STEP (R335, R339, R343): step `step` of a running recipe job, on an engine that is awake; a step runs once. -/
def execRecipeStep (stack : Stack) (job step : Nat) (s : State) : Host.Outcome State Fault Refusal :=
  match s.sw.job? stack job with
  | none => .next s
  | some j =>
    if j.st ≠ .running ∨ jKind j.desc ≠ 0 ∨ jobUnits j ≤ step ∨ j.done.contains step ∨ !s.sw.engineAwake stack j.ten then .next s
    else if jobAliases j then .fault (.undefinedUse 353)
    else s.ends (s.sw.recipeStep j step)

/-- COPY_LINE (R345). -/
def execCopyLine (stack : Stack) (job line : Nat) (s : State) : Host.Outcome State Fault Refusal :=
  match s.sw.job? stack job with
  | none => .next s
  | some j =>
    if j.st ≠ .running ∨ jKind j.desc = 0 ∨ jobUnits j ≤ line ∨ j.done.contains line then .next s
    else s.ends (s.sw.copyLine j line)

/-- HEARTH_JOB_COMPLETE (R331 to R333): the last step or line is applied or skipped; jobs that waited are released. -/
def execHearthJobComplete (stack : Stack) (job : Nat) (s : State) : Host.Outcome State Fault Refusal :=
  match s.sw.job? stack job with
  | none => .next s
  | some j =>
    if j.st ≠ .running ∨ j.done.length < jobUnits j then .next s
    else s.ends ((s.sw.jobDone j (if j.nfail = 0 then 0 else 3) .both).jobRelease)

/-! ### Lines (R313 to R323) -/

/-- LINE_PORT_ACCESS (R313 to R316, R319 to R322): one access to a line whose stored codeword has suffered `errs`. While the
stack is in reset the access only gets Target-Reset (R349). -/
def execLinePortAccess (offset : BitVec 40) (access : LineAccess) (errs : LineErr) (s : State) :
    Host.Outcome State Fault Refusal :=
  let off := offset.toNat
  let st := (s.sw.hbmStack off).1
  if s.sw.hbmSize ≤ off ∨ !s.sw.stackOk st then .fault .absentLine
  else if s.sw.blkRst.contains (.stack (Fin.ofNat 6 st)) then .next s
  else s.ends (s.sw.linePort off access errs rdPacket)

/-- The line port that serves an offset, 16 to a stack, two channels to a port (R309, R318). -/
def Sw.portOfLine (s : Sw) (off : Nat) : Nat := let c := s.hbmStack off; 16 * c.1 + c.2 / 2

/-- A granule that lies in stack `n` clears. -/
def Sw.clearsStack (s : Sw) (n : Nat) : Bool := s.clr.any (fun kv => decide (kv.1 < 1024) && (s.hbmStack (kv.1 * gib)).1 == n)

/-- The patrol pass in which a line port reads (R318, R351): the one under way until its time is over, then the next, with
the `hbm.scrub.s` of that instant; none while that is 0 (R352). -/
def Sw.patrolPass (s : Sw) (u : Nat) : Option (Nat × Nat) :=
  let fresh (t : Nat) : Option (Nat × Nat) := let v := s.rd L.hbmScrubS; if v = 0 then none else some (t, v)
  match s.scrub.get? u with
  | none => fresh s.now
  | some p => if s.now < p.1 + p.2 * 10 ^ 9 then some p else fresh (max s.now (p.1 + p.2 * 10 ^ 9))

/-- PATROL_READ (R318): none outside a patrol pass, while the part is Parked (16 R645), or while a granule of the stack clears,
whose writes take its place (14 R580). -/
def execPatrolRead (offset : BitVec 40) (errs : LineErr) (s : State) : Host.Outcome State Fault Refusal :=
  let off := offset.toNat
  let st := (s.sw.hbmStack off).1
  if s.sw.hbmSize ≤ off ∨ !s.sw.stackOk st then .fault .absentLine
  else if s.sw.parkedNow ∨ s.sw.blkRst.contains (.stack (Fin.ofNat 6 st)) ∨ s.sw.clearsStack st then .next s
  else
    let u := s.sw.portOfLine off
    match s.sw.patrolPass u with
    | none => s.ends { s.sw with scrub := AMap.del s.sw.scrub u }
    | some p => s.ends ({ s.sw with scrub := AMap.set s.sw.scrub u p }.linePort off .read errs rdPatrol)

end Sys2Proof.Machine
end

