-- ==== Sys2Proof/Machine/Lexicon.lean ====
section
/-! DEFINITION. The commands of chapter 15: the four transports, the engine's service, ARP and ICMP. A request from the mailbox or
I3C waits for LEX_READ or LEX_WRITE, or until one in-band, by Issio or of a clause core comes, which is served as it arrives, after
all that wait (log 41). -/

namespace Sys2Proof.Machine

/-! ### The queue (R603) -/

/-- The queue has no room for `n` more. -/
def Sw.lexFull (s : Sw) (n : Nat) : Bool := decide (256 < s.lexs.order.length + n)

/-- Place of a requester among those whose requests arrive at one instant (R602). -/
def reqRank : Requester → Nat
  | .i3c => 0
  | .issio _ _ => 1
  | .mailbox slot => 2 + slot.val
  | .core j => 66 + j.val
  | .inband src _ => 130 + src.toNat

/-- How many of the last requests that wait came at this very instant. -/
def Sw.lexFresh (s : Sw) : Nat := if s.lexs.at_ = s.now then min s.lexs.fresh s.lexs.order.length else 0

/-- Requests that are served before one of `q` that comes now: all that wait but those of this instant that rank behind it (R602). -/
def Sw.lexBefore (s : Sw) (q : Requester) : Nat :=
  let n := s.lexs.order.length - s.lexFresh
  n + ((s.lexs.order.drop n).filter (fun x => decide (reqRank x ≤ reqRank q))).length

/-- A request joins the queue. -/
def Sw.lexJoin (s : Sw) (q : Requester) : Sw :=
  let k := s.lexBefore q
  { s with lexs := { s.lexs with
    order := s.lexs.order.take k ++ q :: s.lexs.order.drop k, at_ := s.now, fresh := s.lexFresh + 1 } }

/-! ### Answers -/

/-- The job of a request operand. -/
def jobOf (r : LexReq) (op : Nat) : LexJob :=
  { q := r.by_, index := r.index.toNat, sub := r.sub.toNat, seg := r.seg.toNat
    op := if r.op.toNat = op then op else 2, len := r.len, value := r.value }

/-- A mailbox line with its answer (R615). -/
def mboxDone (line st : Nat) (bytes : Bytes) : Nat :=
  setFld (setFld (setFld (setFld line 64 8 2) 56 8 st) 48 6 bytes.length) 256 256 (leNat (slice bytes 0 32))

/-- The LEX_REQ that a request stands for, as its answer copies it (R612). -/
def reqWord (src : EpId) (ten : Ten) (r : LexReq) : Word256 :=
  mkPkt [(24, 16, src.toNat), (56, 8, ten.toNat), (64, 16, r.index.toNat), (80, 8, r.sub.toNat), (88, 4, r.op.toNat),
    (92, 16, r.tag.toNat), (108, 16, r.seg.toNat)]

/-- The record that a request stands for. -/
def reqRecord (r : LexReq) : Bytes :=
  leBytes 2 r.index.toNat ++ leBytes 1 r.sub.toNat ++ [0] ++ leBytes 2 r.seg.toNat ++ leBytes 1 (r.op.toNat + 16 * r.len) ++ [0] ++
  slice r.value 0 8

/-- The answer of a request that is served as it comes goes back by its transport. -/
def Sw.lexAnswer (s : Sw) (r : LexReq) (st : Nat) (bytes : Bytes) : Sw :=
  match r.by_ with
  | .inband src ten => s.sendCtl 0 (mkLexResp (reqWord src ten r) s.selfEp (s.incOf incM) st bytes.length (leNat (bytes.take 8))) .both
  | .issio ip port => s.send (.udp ip.toNat port.toNat (recAns (reqRecord r) st (bytes.take 8)))
  | _ => s

/-- The request with which a requester waits; the operation code of a malformed one is 2. -/
def Sw.lexWaits (s : Sw) : Requester → Option LexJob
  | .mailbox slot =>
    let v := s.mbox.getD slot.val 0
    if fld v 64 8 = 1 then
      some { q := .mailbox slot, index := fld v 0 16, sub := fld v 16 8, seg := fld v 24 16, op := min 2 (fld v 40 4)
             len := fld v 48 6, value := leBytes 32 (fld v 256 256) }
    else none
  | .i3c => s.i3c.req.head?.map (fun b => { recJob .i3c none b with op := min 2 (recJob .i3c none b).op })
  | _ => none

/-- The answer to a request that waited; I3C shows it once no later request waits (R615, R621). -/
def Sw.lexReply (s : Sw) (q : Requester) (st : Nat) (bytes : Bytes) : Sw :=
  match q with
  | .i3c =>
    let rest := s.i3c.req.drop 1
    { s with i3c := { s.i3c with
      req := rest
      resp := if s.i3c.over_ then s.i3c.resp
        else if rest.isEmpty then some (recAns (s.i3c.req.headD []) st (bytes.take 8)) else none } }
  | .mailbox slot => { s with mbox := AMap.put s.mbox slot.val (mboxDone (s.mbox.getD slot.val 0) st bytes) 0 }
  | _ => s

/-- The oldest request that waits is served and answered (R602). -/
def State.lexFirst (s : State) : Except Nat State :=
  match s.sw.lexs.order with
  | [] => .ok s
  | q :: rest =>
    let s := s.updLexs (fun l => { l with order := rest })
    match s.sw.lexWaits q with
    | none => .ok s
    | some j => (s.lexServe j).map (fun a => a.2.2.updSw (fun w => w.lexReply q a.1 a.2.1))

/-- The first `n` that wait are served, in order: those ahead of a request that comes now (R602). -/
def State.lexAhead : Nat → State → Except Nat State
  | 0, s => .ok s
  | n + 1, s => match s.lexFirst with
    | .ok t => State.lexAhead n t
    | .error r => .error r

/-- A request that comes now is served after all that wait. -/
def State.lexTurn (s : State) (j : LexJob) : LexAns :=
  match State.lexAhead (s.sw.lexBefore j.q) s with
  | .ok t => t.lexServe j
  | .error n => .error n

/-- A request is served and answered: of the mailbox and I3C the oldest that waits, where the command names it. -/
def State.lexDo (s : State) (r : LexReq) (op : Nat) : Host.Outcome State Fault Refusal :=
  if s.sw.held then .next s
  else if reqTransport r.by_ = 3 ∨ reqTransport r.by_ = 4 then
    if s.sw.lexs.order.head? = some r.by_ ∧ (s.sw.lexWaits r.by_).any (fun j => j.op == op || j.op == 2) = true then
      match s.lexFirst with
      | .ok t => t.finish
      | .error n => .fault (.undefinedUse n)
    else .next s
  else match s.lexTurn (jobOf r op) with
    | .ok (st, bytes, t) => (t.updSw (fun w => w.lexAnswer r st bytes)).finish
    | .error n => .fault (.undefinedUse n)

/-- LEX_READ (R598, R601, R606). -/
def execLexRead (req : LexReq) (s : State) : Host.Outcome State Fault Refusal := s.lexDo req 0

/-- LEX_WRITE (R598 to R600, R606). -/
def execLexWrite (req : LexReq) (s : State) : Host.Outcome State Fault Refusal := s.lexDo req 1

/-! ### In-band (R611, R612) -/

/-- The LEX_REQ is admitted. -/
def Sw.inbandAdmits (s : Sw) (i : Ingress) (w : Word256) : Bool :=
  (s.lexMasks (.inband (BitVec.ofNat 16 (pSrc w)) (BitVec.ofNat 8 (cTen w)))).any (fun l => !l.isEmpty) &&
  (match i with
   | .port p => s.role p != 1 || (s.rdf L.tenEp (pSrc w) 9 1 == 1 && s.rdf L.tenEp (pSrc w) 0 9 == p.val)
   | .bridge _ => true)

/-- LEX_REQ_RECEIVE. The status is the first of R607 that applies. -/
def execLexReqReceive (src : Ingress) (pkt : Word256) (s : State) : Host.Outcome State Fault Refusal :=
  let s := s.updSw (fun w => w.takeCtl pkt)
  if pKind pkt ≠ 6 ∨ s.sw.held then .next s
  else
    let d := ingDie src
    let answer (t : State) (st : Nat) (bytes : Bytes) : State := t.updSw (fun w =>
      w.sendCtl d (mkLexResp pkt w.selfEp (w.incOf incM) st bytes.length (leNat (bytes.take 8))) .both)
    let q : Requester := .inband (BitVec.ofNat 16 (pSrc pkt)) (BitVec.ofNat 8 (cTen pkt))
    let j : LexJob := { q := q, index := xIndex pkt, sub := xSub pkt, seg := xSeg pkt, op := xOp pkt, len := xLen pkt
                        value := leBytes 8 (hf pkt 144 64) }
    if s.sw.lexFull 1 ∨ s.lexBusy j then (answer (s.lexCount q 7) 7 (s.writtenBytes j)).finish
    else if 2 ≤ xOp pkt then (answer (s.lexCount q 9) 9 []).finish
    else if !s.sw.inbandAdmits src pkt then
      (answer ((s.lexCount q 6).updSw (fun w => w.fault 0x58 68 (some (cTen pkt)) (detCtl pkt (ingPort src) 0) 0)) 6
        (s.writtenBytes j)).finish
    else match s.lexTurn j with
      | .ok (st, bytes, t) => (answer t st bytes).finish
      | .error n => .fault (.undefinedUse n)

/-! ### Mailbox (R613 to R615) -/

/-- The line as a request puts it: Pending, its reserved bits 0 (Table 15.9). -/
def mboxPending (v : Nat) : Nat := fld v 0 44 + fld v 48 6 * 2 ^ 48 + 2 ^ 64 + fld v 256 256 * 2 ^ 256

/-- MAILBOX_WRITE (R613, R615). -/
def execMailboxWrite (src : Ingress) (hdr : Word256) (payload : Bytes) (s : State) : Host.Outcome State Fault Refusal :=
  let w := s.sw.takeIn hdr payload
  let d := ingDie src
  let slot := hOff hdr / 64
  let line := w.mbox.getD slot 0
  let answer (w : Sw) (st : Nat) : Sw := w.answer d hdr st (w.incOf incM) [] .both
  if pKind hdr ≠ 0 ∨ 4096 ≤ hOff hdr ∨ w.held then .next { s with sw := w }
  else if !w.mboxAdmits (pSrc hdr) (ingFrom src) then s.ends (answer (w.inc (L.lexDenied.at 3)) stDenied)
  else if hPlen hdr ≠ 1 ∨ hTail hdr ≠ 0 ∨ hOff hdr % 64 ≠ 0 then s.ends (answer (w.inc (L.lexMalformed.at 3)) stDenied)
  else if fld line 64 8 = 1 then s.ends (answer (w.inc (L.lexMalformed.at 3)) stBusy)
  else
    let new := mboxPending (leNat (slice payload 0 64))
    if w.lexFull 1 then
      let bytes := match ({ w with mbox := AMap.put w.mbox slot new 0 }).lexWaits (.mailbox (Fin.ofNat 64 slot)) with
        | some j => s.writtenBytes j
        | none => []
      s.ends (answer ({ w with mbox := AMap.put w.mbox slot (mboxDone new 7 bytes) 0 }.inc (L.lexBusy.at 3)) stOk)
    else s.ends (answer ({ w with mbox := AMap.put w.mbox slot new 0 }.lexJoin (.mailbox (Fin.ofNat 64 slot))) stOk)

/-! ### Issio (R616 to R619) -/

/-- A response datagram: flags, status of the whole, records. -/
def issioAns (dseq nrec flags dstat : Nat) (recs : Bytes) : Bytes :=
  leBytes 2 0x1550 ++ [1, BitVec.ofNat 8 flags] ++ leBytes 4 dseq ++ leBytes 2 nrec ++ [BitVec.ofNat 8 dstat] ++ zeros 5 ++ recs

/-- The cached response of a source to a `dseq`. -/
def Sw.issioCached (s : Sw) (ip port dseq : Nat) : Option Bytes :=
  match s.lexs.cache.find? (fun e => e.1 == ip && e.2.1 == port) with
  | some e => (e.2.2.find? (fun r => r.1 == dseq)).map Prod.snd
  | none => none

/-- A source is the most recently active of eight; a response to it is one of its last sixteen. -/
def Sw.issioKeep (s : Sw) (ip port : Nat) (new : List (Nat × Bytes)) : Sw :=
  let old := match s.lexs.cache.find? (fun e => e.1 == ip && e.2.1 == port) with | some e => e.2.2 | none => []
  { s with lexs := { s.lexs with cache :=
      ((ip, port, (new ++ old).take 16) :: s.lexs.cache.filter (fun e => !(e.1 == ip && e.2.1 == port))).take 8 } }

/-- The records of a datagram, one after another, behind all requests that wait. -/
def State.issioRecs (s : State) (q : Requester) (sid : Option Nat) (b : Bytes) (n : Nat) : Except Nat (Bytes × State) :=
  (List.range n).foldl (fun (r : Except Nat (Bytes × State)) i =>
    match r with
    | .ok (out, t) =>
      let x := (b.drop (16 * i)).take 16
      (match t.lexServe (recJob q sid x) with
       | .ok (st, bytes, u) => .ok (out ++ recAns x st (bytes.take 8), u)
       | .error e => .error e)
    | e => e) ((State.lexAhead (if n = 0 then 0 else s.sw.lexBefore q) s).map (fun t => (([] : Bytes), t)))

/-- The session that a datagram arrives in exists (R618). -/
def Sec.inSession (s : Sec) (sid : Option Nat) : Bool := s.sess.any (fun x => some x.id == sid && x.open_)

/-- ISSIO_DATAGRAM. The records of a source that matches no valid entry of `lex.issio.allow` come to Denied as each is served (R618),
or to what R607 reports before that. -/
def execIssioDatagram (ip : BitVec 32) (port : BitVec 16) (dstPort : BitVec 16) (secured : Option Nat) (datagram : Bytes)
    (s : State) : Host.Outcome State Fault Refusal :=
  let q : Requester := .issio ip port
  let h := leNat (datagram.take 16)
  let n := fld h 64 16
  let dseq := fld h 32 32
  let body := datagram.drop 16
  let reply (t : State) (dstat : Nat) (recs : Bytes) : State := t.updSw (fun w =>
    (w.send (.udp ip.toNat port.toNat (issioAns dseq n 1 dstat recs))).issioKeep ip.toNat port.toNat
      [(dseq, issioAns dseq n 3 dstat recs)])
  let busy : Bytes := (List.range n).flatMap (fun i =>
    let x := (body.drop (16 * i)).take 16
    recAns x 7 (s.writtenBytes (recJob q secured x)))
  if s.sw.held ∨ (s.sw.boot.error ∧ s.sw.boot.cause ≠ 1) ∨ s.sw.rd L.lexEthIp4Now = 0 ∨ s.sw.rd L.lexIssioPort = 0 ∨
     dstPort.toNat ≠ s.sw.rd L.lexIssioPort then .next s
  else if datagram.length < 16 ∨ fld h 0 16 ≠ 0x1550 ∨ fld h 16 8 ≠ 1 ∨ 64 < n ∨ datagram.length ≠ 16 + 16 * n then
    (s.lexCount q 9).finish
  else if s.sw.rd L.lexIssioSecure = 1 ∧ !s.sec.inSession secured then (s.lexCount q 6).finish
  else match s.sw.issioCached ip.toNat port.toNat dseq with
    | some b => (s.updSw (fun w => (w.send (.udp ip.toNat port.toNat b)).issioKeep ip.toNat port.toNat [])).finish
    | none =>
      if s.sw.lexFull n then (reply (s.updSw (fun w => w.inc (L.lexBusy.at 1) 0 n)) 7 busy).finish
      else match s.issioRecs q secured body n with
        | .ok (recs, t) => (reply t 0 recs).finish
        | .error e => .fault (.undefinedUse e)

/-! ### I3C (R620, R621) -/

/-- Change the I3C target. -/
def State.updI3c (s : State) (f : I3c → I3c) : State := s.updSw (fun w => { w with i3c := f w.i3c })

/-- The target answers on the bus. -/
def Sw.i3cOn (s : Sw) : Bool := !s.held

/-- I3C_PRIVATE_WRITE (R621): one request of 16 bytes to the dynamic address. -/
def execI3cPrivateWrite (bytes : Bytes) (s : State) : Host.Outcome State Fault Refusal :=
  if !s.sw.i3cOn ∨ s.sw.i3c.addr.isNone then .next s
  else if bytes.length ≠ 16 then (s.lexCount .i3c 9).finish
  else if s.sw.lexFull 1 then ((s.lexCount .i3c 7).updI3c (fun x => { x with
    resp := some (recAns bytes 7 (s.writtenBytes (recJob .i3c none bytes))), over_ := true })).finish
  else ((s.updI3c (fun x => { x with req := x.req ++ [bytes], resp := none, over_ := false })).updSw (fun w => w.lexJoin .i3c)).finish

/-- I3C_PRIVATE_READ (R621): the response to the last request; without one the address is NACKed. -/
def execI3cPrivateRead (s : State) : Host.Outcome State Fault Refusal :=
  match s.sw.i3c.resp with
  | some b => if !s.sw.i3cOn ∨ s.sw.i3c.addr.isNone then .next s else s.ends (s.sw.send (.i3c b))
  | none => .next s

/-- Bytes of the identity that ENTDAA and the GET commands carry. -/
def i3cId : Bytes := leBytes 6 Config.i3cPid ++ leBytes 1 Config.i3cBcr ++ leBytes 1 Config.i3cDcr

/-- ENTDAA (R620): a target without a dynamic address sends its identity and takes one. -/
def execEntdaa (address : BitVec 7) (s : State) : Host.Outcome State Fault Refusal :=
  if !s.sw.i3cOn ∨ s.sw.i3c.addr.isSome then .next s
  else (((s.updSw (fun w => w.send (.i3c i3cId)))).updI3c (fun x => { x with addr := some address.toNat })).finish

/-- SETDASA (R620) at the static address; with `lex.i3c.sa` 0 there is none (Table 15.17). -/
def execSetdasa (staticAddress address : BitVec 7) (s : State) : Host.Outcome State Fault Refusal :=
  let sa := s.sw.rd L.lexI3cSa
  if !s.sw.i3cOn ∨ s.sw.i3c.addr.isSome ∨ sa = 0 ∨ staticAddress.toNat ≠ sa then .next s
  else (s.updI3c (fun x => { x with addr := some address.toNat })).finish

/-- RSTDAA (R620). -/
def execRstdaa (s : State) : Host.Outcome State Fault Refusal :=
  if !s.sw.i3cOn then .next s else (s.updI3c (fun x => { x with addr := none })).finish

/-- A GET command is answered at the dynamic address. -/
def State.i3cGet (s : State) (b : Bytes) : Host.Outcome State Fault Refusal :=
  if !s.sw.i3cOn ∨ s.sw.i3c.addr.isNone then .next s else s.ends (s.sw.send (.i3c b))

/-- GETPID (R620). -/
def execGetpid (s : State) : Host.Outcome State Fault Refusal := s.i3cGet (leBytes 6 Config.i3cPid)

/-- GETBCR (R620). -/
def execGetbcr (s : State) : Host.Outcome State Fault Refusal := s.i3cGet (leBytes 1 Config.i3cBcr)

/-- GETDCR (R620). -/
def execGetdcr (s : State) : Host.Outcome State Fault Refusal := s.i3cGet (leBytes 1 Config.i3cDcr)

/-- ENEC (R620, R622): in-band interrupts are enabled. -/
def execEnec (s : State) : Host.Outcome State Fault Refusal :=
  if !s.sw.i3cOn then .next s else (s.updI3c (fun x => { x with ibi := true })).finish

/-- DISEC (R620, R622). -/
def execDisec (s : State) : Host.Outcome State Fault Refusal :=
  if !s.sw.i3cOn then .next s else (s.updI3c (fun x => { x with ibi := false })).finish

/-! ### ARP, ICMP (R616) -/

/-- An address is the part's. -/
def Sw.myIp (s : Sw) (a : BitVec 32) : Bool := !s.held && s.rd L.lexEthIp4Now != 0 && s.rd L.lexEthIp4Now == a.toNat

/-- ARP_REQUEST. -/
def execArpRequest (target : BitVec 32) (s : State) : Host.Outcome State Fault Refusal :=
  if s.sw.myIp target then s.ends (s.sw.send (.arp target.toNat)) else .next s

/-- ICMP_ECHO. -/
def execIcmpEcho (dst : BitVec 32) (payload : Bytes) (s : State) : Host.Outcome State Fault Refusal :=
  if s.sw.myIp dst then s.ends (s.sw.send (.icmp dst.toNat payload)) else .next s

end Sys2Proof.Machine
end

