-- ==== Sys2Proof/Machine/Rv32.lean ====
section
/-! DEFINITION. The RV32IMC instruction set of the clause cores (10 R441): instructions, their 32-bit and 16-bit encodings,
and one step of a core on its local memory. The encodings and the arithmetic are those of the RISC-V unprivileged
specification, which R441 names (PRESUMED, log 44). -/

namespace Sys2Proof.Machine

/-- Operations of OP and OP-IMM, and of the M extension. -/
inductive Alu
  | add | sub | sll | slt | sltu | xor | srl | sra | or | and
  | mul | mulh | mulhsu | mulhu | div | divu | rem | remu
deriving DecidableEq, Repr

/-- A base instruction; immediates are 32-bit two's complement. `clause` is one of major opcode 0b000_1011 (R445). -/
inductive Rv
  | lui (rd imm : Nat)
  | auipc (rd imm : Nat)
  | jal (rd off : Nat)
  | jalr (rd rs1 off : Nat)
  | branch (f3 rs1 rs2 off : Nat)
  | load (f3 rd rs1 off : Nat)
  | store (f3 rs1 rs2 off : Nat)
  | opImm (op : Alu) (rd rs1 imm : Nat)
  | op (op : Alu) (rd rs1 rs2 : Nat)
  | fence
  | ebreak
  | clause (f3 f7 rd rs1 rs2 : Nat)
deriving DecidableEq, Repr

/-! ### Arithmetic -/

/-- A register value as a signed number. -/
def sx32 (a : Nat) : Int := (BitVec.ofNat 32 a).toInt

/-- A signed number as a register value. -/
def ux32 (a : Int) : Nat := (BitVec.ofInt 32 a).toNat

/-- An `n`-bit field as a 32-bit two's complement number. -/
def sext32 (n v : Nat) : Nat := ux32 (if v % 2 ^ n < 2 ^ (n - 1) then (v % 2 ^ n : Nat) else ((v % 2 ^ n : Nat) : Int) - 2 ^ n)

/-- The result of an operation; division by 0 and the signed overflow as the M extension has them. -/
def Alu.eval (f : Alu) (a b : Nat) : Nat :=
  match f with
  | .add => (a + b) % 2 ^ 32
  | .sub => (a + 2 ^ 32 - b % 2 ^ 32) % 2 ^ 32
  | .sll => a * 2 ^ (b % 32) % 2 ^ 32
  | .slt => b2n (decide (sx32 a < sx32 b))
  | .sltu => b2n (decide (a < b))
  | .xor => Nat.xor a b
  | .srl => a / 2 ^ (b % 32)
  | .sra => ux32 (sx32 a / 2 ^ (b % 32))
  | .or => Nat.lor a b
  | .and => Nat.land a b
  | .mul => a * b % 2 ^ 32
  | .mulh => ux32 (sx32 a * sx32 b / 2 ^ 32)
  | .mulhsu => ux32 (sx32 a * (b : Int) / 2 ^ 32)
  | .mulhu => a * b / 2 ^ 32
  | .div => if b = 0 then 2 ^ 32 - 1 else ux32 (Int.tdiv (sx32 a) (sx32 b))
  | .divu => if b = 0 then 2 ^ 32 - 1 else a / b
  | .rem => if b = 0 then a else ux32 (Int.tmod (sx32 a) (sx32 b))
  | .remu => if b = 0 then a else a % b

/-- The condition of a branch. -/
def taken (f3 a b : Nat) : Bool :=
  match f3 with
  | 0 => a == b
  | 1 => a != b
  | 4 => decide (sx32 a < sx32 b)
  | 5 => decide (sx32 b ≤ sx32 a)
  | 6 => decide (a < b)
  | _ => decide (b ≤ a)

/-! ### 32-bit encodings -/

/-- OP-IMM. -/
def decodeOpImm (w : Nat) : Option Rv :=
  let rd := fld w 7 5
  let rs1 := fld w 15 5
  let imm := sext32 12 (fld w 20 12)
  let sh := fld w 20 5
  match fld w 12 3, fld w 25 7 with
  | 0, _ => some (.opImm .add rd rs1 imm)
  | 2, _ => some (.opImm .slt rd rs1 imm)
  | 3, _ => some (.opImm .sltu rd rs1 imm)
  | 4, _ => some (.opImm .xor rd rs1 imm)
  | 6, _ => some (.opImm .or rd rs1 imm)
  | 7, _ => some (.opImm .and rd rs1 imm)
  | 1, 0 => some (.opImm .sll rd rs1 sh)
  | 5, 0 => some (.opImm .srl rd rs1 sh)
  | 5, 32 => some (.opImm .sra rd rs1 sh)
  | _, _ => none

/-- The operation of OP, by funct7 and funct3. -/
def aluOf (f7 f3 : Nat) : Option Alu :=
  match f7, f3 with
  | 0, 0 => some .add
  | 32, 0 => some .sub
  | 0, 1 => some .sll
  | 0, 2 => some .slt
  | 0, 3 => some .sltu
  | 0, 4 => some .xor
  | 0, 5 => some .srl
  | 32, 5 => some .sra
  | 0, 6 => some .or
  | 0, 7 => some .and
  | 1, 0 => some .mul
  | 1, 1 => some .mulh
  | 1, 2 => some .mulhsu
  | 1, 3 => some .mulhu
  | 1, 4 => some .div
  | 1, 5 => some .divu
  | 1, 6 => some .rem
  | 1, 7 => some .remu
  | _, _ => none

/-- A 32-bit word; none is an illegal instruction. ECALL, FENCE.I and CSR instructions are none: no environment, and no
extension beyond I, M and C, is there (PRESUMED, log 44). -/
def decode32 (w : Nat) : Option Rv :=
  let rd := fld w 7 5
  let f3 := fld w 12 3
  let rs1 := fld w 15 5
  let rs2 := fld w 20 5
  match fld w 0 7 with
  | 0x37 => some (.lui rd (fld w 12 20 * 4096))
  | 0x17 => some (.auipc rd (fld w 12 20 * 4096))
  | 0x6F => some (.jal rd (sext32 21 (fld w 31 1 * 2 ^ 20 + fld w 12 8 * 2 ^ 12 + fld w 20 1 * 2 ^ 11 + fld w 21 10 * 2)))
  | 0x67 => if f3 = 0 then some (.jalr rd rs1 (sext32 12 (fld w 20 12))) else none
  | 0x63 => if f3 = 2 ∨ f3 = 3 then none
    else some (.branch f3 rs1 rs2 (sext32 13 (fld w 31 1 * 2 ^ 12 + fld w 7 1 * 2 ^ 11 + fld w 25 6 * 2 ^ 5 + fld w 8 4 * 2)))
  | 0x03 => if f3 = 3 ∨ 5 < f3 then none else some (.load f3 rd rs1 (sext32 12 (fld w 20 12)))
  | 0x23 => if 2 < f3 then none else some (.store f3 rs1 rs2 (sext32 12 (fld w 25 7 * 32 + fld w 7 5)))
  | 0x13 => decodeOpImm w
  | 0x33 => (aluOf (fld w 25 7) f3).map (fun f => .op f rd rs1 rs2)
  | 0x0F => if f3 = 0 then some .fence else none
  | 0x73 => if w = 0x00100073 then some .ebreak else none
  | 0x0B => some (.clause f3 (fld w 25 7) rd rs1 rs2)
  | _ => none

/-! ### 16-bit encodings -/

/-- Quadrant 0. -/
def decodeC0 (h : Nat) : Option Rv :=
  let r1 := 8 + fld h 7 3
  let r2 := 8 + fld h 2 3
  let lw := fld h 10 3 * 8 + fld h 6 1 * 4 + fld h 5 1 * 64
  match fld h 13 3 with
  | 0 =>
    let imm := fld h 11 2 * 16 + fld h 7 4 * 64 + fld h 6 1 * 4 + fld h 5 1 * 8
    if imm = 0 then none else some (.opImm .add r2 2 imm)
  | 2 => some (.load 2 r2 r1 lw)
  | 6 => some (.store 2 r1 r2 lw)
  | _ => none

/-- The jump offset of C.J and C.JAL, and the branch offset of C.BEQZ and C.BNEZ. -/
def cjOff (h : Nat) : Nat :=
  sext32 12 (fld h 12 1 * 2 ^ 11 + fld h 11 1 * 2 ^ 4 + fld h 9 2 * 2 ^ 8 + fld h 8 1 * 2 ^ 10 + fld h 7 1 * 2 ^ 6 + fld h 6 1 * 2 ^ 7 +
    fld h 3 3 * 2 + fld h 2 1 * 2 ^ 5)
def cbOff (h : Nat) : Nat :=
  sext32 9 (fld h 12 1 * 2 ^ 8 + fld h 10 2 * 2 ^ 3 + fld h 5 2 * 2 ^ 6 + fld h 3 2 * 2 + fld h 2 1 * 2 ^ 5)

/-- Quadrant 1. -/
def decodeC1 (h : Nat) : Option Rv :=
  let rd := fld h 7 5
  let r1 := 8 + fld h 7 3
  let r2 := 8 + fld h 2 3
  let imm := sext32 6 (fld h 12 1 * 32 + fld h 2 5)
  match fld h 13 3 with
  | 0 => some (.opImm .add rd rd imm)
  | 1 => some (.jal 1 (cjOff h))
  | 2 => some (.opImm .add rd 0 imm)
  | 3 =>
    if rd = 2 then
      let a := sext32 10 (fld h 12 1 * 512 + fld h 6 1 * 16 + fld h 5 1 * 64 + fld h 3 2 * 128 + fld h 2 1 * 32)
      if a = 0 then none else some (.opImm .add 2 2 a)
    else if imm = 0 then none else some (.lui rd (imm * 4096 % 2 ^ 32))
  | 4 =>
    match fld h 10 2, fld h 12 1, fld h 5 2 with
    | 0, 0, _ => some (.opImm .srl r1 r1 (fld h 2 5))
    | 1, 0, _ => some (.opImm .sra r1 r1 (fld h 2 5))
    | 2, _, _ => some (.opImm .and r1 r1 imm)
    | 3, 0, 0 => some (.op .sub r1 r1 r2)
    | 3, 0, 1 => some (.op .xor r1 r1 r2)
    | 3, 0, 2 => some (.op .or r1 r1 r2)
    | 3, 0, _ => some (.op .and r1 r1 r2)
    | _, _, _ => none
  | 5 => some (.jal 0 (cjOff h))
  | 6 => some (.branch 0 r1 0 (cbOff h))
  | _ => some (.branch 1 r1 0 (cbOff h))

/-- Quadrant 2. -/
def decodeC2 (h : Nat) : Option Rv :=
  let rd := fld h 7 5
  let rs2 := fld h 2 5
  match fld h 13 3, fld h 12 1 with
  | 0, 0 => some (.opImm .sll rd rd rs2)
  | 2, b => if rd = 0 then none else some (.load 2 rd 2 (b * 32 + fld h 4 3 * 4 + fld h 2 2 * 64))
  | 4, 0 =>
    if rs2 = 0 then (if rd = 0 then none else some (.jalr 0 rd 0))
    else some (.op .add rd 0 rs2)
  | 4, _ =>
    if rs2 = 0 then (if rd = 0 then some .ebreak else some (.jalr 1 rd 0))
    else some (.op .add rd rd rs2)
  | 6, _ => some (.store 2 2 rs2 (fld h 9 4 * 4 + fld h 7 2 * 64))
  | _, _ => none

/-- The instruction at the low end of a word, and its length in bytes. -/
def rvDecode (w : Nat) : Option Rv × Nat :=
  match w % 4 with
  | 0 => (decodeC0 (w % 65536), 2)
  | 1 => (decodeC1 (w % 65536), 2)
  | 2 => (decodeC2 (w % 65536), 2)
  | _ => (if w % 32 = 31 then none else decode32 w, 4)

/-! ### One step -/

/-- Bytes of local memory (R441). -/
def coreBytes : Nat := 65536

/-- An access of `n` bytes lies in local memory. -/
def inLocal (a n : Nat) : Bool := decide (a + n ≤ coreBytes)

/-- What a step comes to: the core goes on, halts (R446), or makes a clause extension. -/
inductive RvStep
  | go (c : Core)
  | halt
  | ext (f3 f7 rd rs1 rs2 : Nat)
deriving DecidableEq, Repr

/-- The core moves on by `n` bytes. -/
def Core.adv (c : Core) (n : Nat) : Core := { c with pc := (c.pc + n) % 2 ^ 32 }

/-- The word at the pc; none where its bytes do not lie in local memory, or the pc is odd. -/
def Core.fetch (c : Core) : Option Nat :=
  let lo := leNat (memRds c.mem c.pc 2)
  if !inLocal c.pc 2 ∨ c.pc % 2 ≠ 0 then none
  else if lo % 4 ≠ 3 then some lo
  else if inLocal c.pc 4 then some (leNat (memRds c.mem c.pc 4))
  else none

/-- Bytes of a load or store, by funct3. -/
def accBytes (f3 : Nat) : Nat := 2 ^ (f3 % 4)

/-- A loaded value, extended to 32 bits. -/
def loadExt (f3 v : Nat) : Nat := if f3 = 0 then sext32 8 v else if f3 = 1 then sext32 16 v else v

/-- A base instruction of `n` bytes. -/
def Core.run (c : Core) (n : Nat) : Rv → RvStep
  | .lui rd imm => .go ((c.setReg rd imm).adv n)
  | .auipc rd imm => .go ((c.setReg rd (c.pc + imm)).adv n)
  | .jal rd off => .go { c.setReg rd (c.pc + n) with pc := (c.pc + off) % 2 ^ 32 }
  | .jalr rd rs1 off => .go { c.setReg rd (c.pc + n) with pc := (c.reg rs1 + off) % 2 ^ 32 / 2 * 2 }
  | .branch f3 rs1 rs2 off => .go (if taken f3 (c.reg rs1) (c.reg rs2) then c.adv off else c.adv n)
  | .load f3 rd rs1 off =>
    let a := (c.reg rs1 + off) % 2 ^ 32
    if !inLocal a (accBytes f3) ∨ a % accBytes f3 ≠ 0 then .halt
    else .go ((c.setReg rd (loadExt f3 (leNat (memRds c.mem a (accBytes f3))))).adv n)
  | .store f3 rs1 rs2 off =>
    let a := (c.reg rs1 + off) % 2 ^ 32
    if !inLocal a (accBytes f3) ∨ a % accBytes f3 ≠ 0 then .halt
    else .go ({ c with mem := memWrs c.mem a (leBytes (accBytes f3) (c.reg rs2)) }.adv n)
  | .opImm f rd rs1 imm => .go ((c.setReg rd (f.eval (c.reg rs1) imm)).adv n)
  | .op f rd rs1 rs2 => .go ((c.setReg rd (f.eval (c.reg rs1) (c.reg rs2))).adv n)
  | .fence => .go (c.adv n)
  | .ebreak => .halt
  | .clause f3 f7 rd rs1 rs2 => .ext f3 f7 rd rs1 rs2

/-- The instruction at the pc. -/
def Core.step (c : Core) : RvStep :=
  match c.fetch with
  | none => .halt
  | some w =>
    match rvDecode w with
    | (none, _) => .halt
    | (some i, n) => c.run n i

end Sys2Proof.Machine
end

