-- ==== Sys2Proof/Machine/Swage.lean ====
section
/-! DEFINITION. The commands of chapter 09: Swage operations, their passes, streams and completion. -/

namespace Sys2Proof.Machine

/-- SWAGE_OP_SUBMIT (R360, R363): a descriptor joins its array's queue, or is answered Busy or Denied. The array answers
(02 R83; log 28). -/
def execSwageOpSubmit (hdr : Word256) (payload : Bytes) (s : State) : Host.Outcome State Fault Refusal :=
  let w := s.sw.takeIn hdr payload
  let d := leNat (payload.take 64)
  let a := wArray d
  let inc := w.arrInc a
  if pKind hdr ≠ 0 ∨ hOff hdr ≠ w.rd L.swageJobWin then .next s
  else if hPlen hdr ≠ 1 ∨ hTail hdr ≠ 0 then s.ends (w.answer (a / 4) hdr stDenied inc [] .both)
  else if w.blkRst.contains (.array (Fin.ofNat 16 a)) then s.ends (w.answer (a / 4) hdr stTargetReset inc [] .both)
  else match w.opSubmit (hTen hdr) (pClass hdr) d none with
    | none => s.ends ((w.inc (L.swageBusy.at a)).answer (a / 4) hdr stBusy inc [] .both)
    | some w => s.ends (w.answer (a / 4) hdr stOk inc [] .both)

/-- SWAGE_OP_VALIDATE (R364, R386 to R388): the operation at the head of the array's queue. A valid one that shares bytes
with an operation in flight is an undefined use (R401). A parked array wakes first (16 R642). -/
def execSwageOpValidate (array : ArrayId) (s : State) : Host.Outcome State Fault Refusal :=
  let w := s.sw
  match w.opHead array with
  | none => .next s
  | some x =>
    if !w.unitAwake (.swage array) then .next s
    else if wAfter x.desc && !w.opClear x then s.ends (w.updOp x.no (fun y => { y with st := .waiting }))
    else if !swFormat x.desc && !w.swDenied x && wM x.desc != 0 && wN x.desc != 0 && w.swUndefined x then
      .fault (.undefinedUse 401)
    else s.ends (w.opValidate x)

/-- SWAGE_LOAD_COMPLETE (R356, R386): the operation runs. A line behind a stopped link never arrives (01 R27). -/
def execSwageLoadComplete (array : ArrayId) (s : State) : Host.Outcome State Fault Refusal :=
  match s.sw.opIn array (fun st => st == .loading) with
  | none => .next s
  | some x => if s.sw.linesReach array (loadLines x) then s.ends (s.sw.opLoaded x) else .next s

/-- SWAGE_PASS_COMPLETE (R366 to R377). -/
def execSwagePassComplete (array : ArrayId) (s : State) : Host.Outcome State Fault Refusal :=
  s.ends (s.sw.passComplete array)

/-- SWAGE_DRAIN_COMPLETE (R384, R385). -/
def execSwageDrainComplete (array : ArrayId) (s : State) : Host.Outcome State Fault Refusal :=
  s.ends (s.sw.opDrained array)

/-- SWAGE_STREAM_WRITE (R378 to R380): a WRITE to the stream window of an array. -/
def execSwageStreamWrite (hdr : Word256) (payload : Bytes) (s : State) : Host.Outcome State Fault Refusal :=
  let r := s.sw.takeKeep hdr payload
  let w := r.2
  let base := w.rd L.swageStreamWin
  let o := hOff hdr - base
  let a := o / 2 ^ 32
  if pKind hdr ≠ 0 ∨ hOff hdr < base ∨ 16 ≤ a then .next s
  else if w.blkRst.contains (.array (Fin.ofNat 16 a)) then
    s.ends ((w.freeBil r.1.bil).answer (a / 4) hdr stTargetReset (w.arrInc a) [] .both)
  else s.ends (w.streamWrite (a / 4) a (o % 2 ^ 32) r.1)

/-- SWAGE_STREAM_TIMEOUT (R381). -/
def execSwageStreamTimeout (array : ArrayId) (s : State) : Host.Outcome State Fault Refusal :=
  match s.sw.opIn array (fun st => st == .running) with
  | none => .next s
  | some x => match x.due with
    | none => .next s
    | some t => s.ends ((s.sw.reach t).opTimeout x)

/-- SHADOW_LOAD_COMPLETE (R356). -/
def execShadowLoadComplete (array : ArrayId) (s : State) : Host.Outcome State Fault Refusal :=
  s.ends (s.sw.shadowLoaded array)

end Sys2Proof.Machine
end

