-- ==== Sys2Proof/Machine/Cores.lean ====
section
/-! DEFINITION. The clause cores' commands (10 R441 to R446, 15 R623): one base instruction, and each extension of
Table 10.6. -/

namespace Sys2Proof.Machine

/-! ### Running and halting -/

/-- Tenancy of a core's binding (R441). -/
def Sw.coreTen (s : Sw) (j : Nat) : Nat := fld (s.rd L.tenCore j) 0 8

/-- The core executes instructions: it runs, waits for nothing, and is awake (16 Table 16.4). -/
def Sw.coreReady (s : Sw) (j : CoreId) : Bool :=
  (s.core j).running && !(s.core j).halted && decide ((s.core j).wait = .run) && s.unitAwake (.core j)

/-- Every collective of a group that a core serves, one whose packets still wait for a context among them, ends with Program-Fault,
or with Failed where a block is committed; the abort takes the way of any other (R446, R429, R430). -/
def Sw.coreFails (s : Sw) (j : Nat) : Sw :=
  ((s.elems L.collGroup).filter (fun e => gValid e.2 && gProg e.2 != 0 && gCore e.2 == j)).foldl (fun s e =>
    let t := gTen e.2
    let qs := (s.anv.ctx.filter (fun kv => kv.2.ten == t && kv.2.group == e.1)).flatMap (fun kv =>
      ([kv.2.slot0, kv.2.slot1].filter (fun y => y.st == .gathering || y.st == .draining)).map Slot.cseq)
    let ws := (s.anv.admq.filter (fun a => !a.ctl && hTen a.pkt.hdr == t && kGroup a.pkt.hdr == e.1)).map (fun a => kCseq a.pkt.hdr)
    (qs ++ ws).eraseDups.foldl (fun s q =>
      if (s.liveSlots t e.1 q).isEmpty then s.abortColl t e.1 q 10 (mkColl s.svcEp s.svcEp t 0 2 10 0 q e.1 0)
      else ((s.liveSlots t e.1 q).foldl (fun s cy => s.slotAbort cy.1 q 10 false true .both) s).aborted t e.1 q) s) s

/-- The core halts: a contained fault names it and its pc (R446). -/
def Sw.coreHalts (s : Sw) (j : CoreId) : Sw :=
  let c := s.core j
  let s := s.setCore j { c with running := false, halted := true, wait := .run }
  ((s.fault 0x30 (12 + j / 16) (some (s.coreTen j)) (detC 0 0) (auxC 0xFFFF j c.pc)).coreFails j).admitScan

/-- An extension ends: `rd` takes its result and the core moves on. -/
def Sw.coreGoes (s : Sw) (j : CoreId) (rd v : Nat) : Sw := s.setCore j (((s.core j).setReg rd v).adv 4)

/-- The 64 KiB of local memory hold `n` bytes at `a`, or the core halts. -/
def Sw.withLocal (s : Sw) (j : CoreId) (a n : Nat) (f : Bytes → Except Nat Sw) : Except Nat Sw :=
  if inLocal a n then f (memRds (s.core j).mem a n) else .ok (s.coreHalts j)

/-! ### Events (R444) -/

/-- The next event goes to local address `a` and its kind to `rd`. -/
def Sw.takeEvent (s : Sw) (j : CoreId) (rd a : Nat) (e : Bytes) : Sw :=
  let c := s.core j
  let c := { c with evq := c.evq.drop 1, mem := memWrs c.mem a e }
  (((s.setCore j c).coreGoes j rd (byteAt e 6).toNat).evFlush).admitScan

/-- EVWAIT. -/
def Sw.opEvwait (s : Sw) (j : CoreId) (rd a : Nat) : Except Nat Sw :=
  s.withLocal j a 16 (fun _ =>
    match (s.core j).evq with
    | e :: _ => .ok (s.takeEvent j rd a e)
    | [] => .ok (s.setCore j { (s.core j).adv 4 with wait := .event a rd }))

/-- EVPOLL. -/
def Sw.opEvpoll (s : Sw) (j : CoreId) (rd a : Nat) : Except Nat Sw :=
  match (s.core j).evq with
  | [] => .ok (s.coreGoes j rd 0)
  | e :: _ => s.withLocal j a 16 (fun _ => .ok (s.takeEvent j rd a e))

/-! ### Packets -/

/-- The packet may leave: well formed, in the core's tenancy; of any other no rule states what `rd` shows (log 46). -/
def Sw.pktFits (s : Sw) (j : CoreId) (w : Word256) : Bool :=
  if pCtl w = 1 then !ctlMalformed w && cTen w == s.coreTen j else !hdrMalformed w && hTen w == s.coreTen j

/-- A result that no rule states. -/
def Sw.coreFree (s : Sw) (j : CoreId) (rd : Nat) : Sw := let r := s.draw; r.2.coreGoes j rd r.1

/-- PKTSEND: Busy where the billets of its cells, charged to the core, are not admitted (04 Table 4.2; DEDUCED, log 46). -/
def Sw.opPktsend (s : Sw) (j : CoreId) (rd a : Nat) : Except Nat Sw :=
  s.withLocal j a 32 (fun h =>
    let w : Word256 := BitVec.ofNat 256 (leNat h)
    let d := j.val / 16
    let t : Ten := BitVec.ofNat 8 (s.coreTen j)
    if !s.pktFits j w then .ok (s.coreFree j rd)
    else if pCtl w = 1 then .ok ((s.sendCtl d (sealPkt w) .both).coreGoes j rd 0)
    else s.withLocal j (a + 32) (64 * hPlen w) (fun pay =>
      match Sw.allocCells (cellsOf (hPlen w)) s d (.core j) (some t) with
      | .error false => .ok (s.coreGoes j rd 5)
      | _ => .ok ((s.sendData d w pay .both (.core j)).coreGoes j rd 0)))

/-! ### The Lexicon (R623) -/

/-- The request that names entry `a`, word `w`. -/
def coreJob (j : CoreId) (a w op len : Nat) (value : Bytes) : LexJob :=
  { q := .core j, index := fld a 8 16, sub := fld a 0 8, seg := w, op := op, len := len, value := value }

/-- LEXRD; the selected word becomes `b`. Refused, Busy where the queue is full among it (15 R603), it returns no bytes (R606) and no
rule states `rd` (log 102). -/
def State.opLexrd (s : State) (j : CoreId) (rd a b : Nat) : Except Nat State :=
  if s.sw.lexFull 1 then .ok ((s.lexCount (.core j) 7).updSw (fun w => (w.setCore j { w.core j with sel := b }).coreFree j rd)) else
  match s.lexTurn (coreJob j a b 0 4 []) with
  | .error n => .error n
  | .ok (st, bytes, t) =>
    .ok (t.updSw (fun w =>
      let w := w.setCore j { w.core j with sel := b }
      if st = 0 then w.coreGoes j rd (leNat (bytes.take 4)) else w.coreFree j rd))

/-- Bytes of word `w` that an entry has. -/
def wordLen (a w : Nat) : Nat :=
  match lexEnt? (fld a 8 16) (fld a 0 8) with
  | some e => if 4 * w < e.size then min 4 (e.size - 4 * w) else 4
  | none => 4

/-- LEXWR; a full queue answers Busy (15 R603). -/
def State.opLexwr (s : State) (j : CoreId) (rd a b : Nat) : Except Nat State :=
  if s.sw.lexFull 1 then .ok ((s.lexCount (.core j) 7).updSw (fun x => x.coreGoes j rd 7)) else
  let w := (s.sw.core j).sel
  let n := wordLen a w
  match s.lexTurn (coreJob j a w 1 n (leBytes n b)) with
  | .error r => .error r
  | .ok (st, _, t) => .ok (t.updSw (fun x => x.coreGoes j rd st))

/-! ### Billets (04 R162 to R164, R178) -/

/-- BALLOC: where no billet is admissible the core waits for one. -/
def Sw.opBalloc (s : Sw) (j : CoreId) (rd n : Nat) : Except Nat Sw :=
  let t : Option Ten := some (BitVec.ofNat 8 (s.coreTen j))
  match s.allocate (j.val / 16) (.core j) t n with
  | .got h s' => .ok (s'.coreGoes j rd h)
  | .null => .ok (s.coreGoes j rd nullHandle)
  | .wait | .pending =>
    let s := s.setCore j { (s.core j).adv 4 with wait := .billet rd }
    .ok (s.addWait (j.val / 16) (.core j) t n (.balloc rd))

/-- BALLOCN: the null handle where no billet is admissible; a request that finds a rebuild or a refill pending waits for it (04 R154,
R155). -/
def Sw.opBallocn (s : Sw) (j : CoreId) (rd n : Nat) : Except Nat Sw :=
  let t : Option Ten := some (BitVec.ofNat 8 (s.coreTen j))
  match s.allocate (j.val / 16) (.core j) t n with
  | .got h s' => .ok (s'.coreGoes j rd h)
  | .null => .ok (s.coreGoes j rd nullHandle)
  | .wait => .ok (s.coreGoes j rd nullHandle)
  | .pending => .ok ((s.setCore j { (s.core j).adv 4 with wait := .billet rd }).addWait (j.val / 16) (.core j) t n (.ballocn rd))

/-- The handle is granted to the core. -/
def Sw.holdsBillet (s : Sw) (j : CoreId) (h : Nat) : Bool :=
  match s.bil.granted.get? h with | some g => decide (g.owner = .core j) | none => false

/-- BFREE; of a handle not granted to the core the use is undefined (R178). -/
def Sw.opBfree (s : Sw) (j : CoreId) (h : Nat) : Except Nat Sw :=
  if s.holdsBillet j h then
    let s := s.release h
    .ok (({ s with bil := { s.bil with freed := insertNat h s.bil.freed } } : Sw).bilRetry.coreGoes j 0 0)
  else .error 178

/-! ### MOVE -/

/-- Reader 6 of 17 Table 17.4. -/
def rdOther : Nat := 6

/-- Bytes of HBM read from any offset; none where a line is uncorrectable. -/
def Sw.readRange (s : Sw) (a n reader : Nat) : Option Bytes × Sw :=
  let lo := a / 64 * 64
  let r := s.readLines lo (cdiv (a + n - lo) 64) reader
  (r.1.map (fun b => (b.drop (a - lo)).take n), r.2)

/-- A range of the switch's HBM lies in the core's tenancy (14 R565). -/
def Sw.coreRange (s : Sw) (j : CoreId) (a n : Nat) : Bool :=
  decide (a + n ≤ s.hbmSize) && s.check3 (s.selfEp + 1) a n (s.coreTen j) && s.stackOk (s.hbmStack a).1 &&
  s.stackOk (s.hbmStack (a + n - 1)).1

/-- The handle names a billet of the core's tenancy (Table 10.6). -/
def Sw.coreBillet (s : Sw) (j : CoreId) (h : Nat) : Bool :=
  match s.bil.granted.get? h with
  | some g => decide (g.owner = .core j) || decide (g.ten = some (BitVec.ofNat 8 (s.coreTen j)))
  | none => false

/-- A billet's bytes, keyed as `Bil.data` has them. A billet that a core has freed is an undefined use (R178); of one that is not of
the core's tenancy, and of bytes past its end, no rule states a result: nothing is copied, and `rd` is free (DESIGN CHOICE, log 131). -/
def Sw.bilCopy (s : Sw) (j : CoreId) (rd h o a n : Nat) (toLocal : Bool) : Except Nat Sw :=
  if s.bil.freed.contains h then .error 178
  else if !s.coreBillet j h ∨ bilSize (handlePool h) < o + n then .ok (s.coreFree j rd)
  else
    let c := s.core j
    if toLocal then .ok ((s.setCore j { c with mem := memWrs c.mem a (memRds s.bil.data (65536 * h + o) n) }).coreGoes j rd 0)
    else .ok ({ s with bil := { s.bil with data := memWrs s.bil.data (65536 * h + o) (memRds c.mem a n) } }.coreGoes j rd 0)

/-- The same with HBM: 4 where a line is uncorrectable, or its stack in reset (DESIGN CHOICE, log 131). -/
def Sw.hbmCopy (s : Sw) (j : CoreId) (rd o a n : Nat) (toLocal : Bool) : Except Nat Sw :=
  if !s.coreRange j o n then .ok (s.coreFree j rd)
  else if toLocal then
    let r := s.readRange o n rdOther
    match r.1 with
    | none => .ok (r.2.coreGoes j rd 4)
    | some bs => .ok ((r.2.setCore j { (r.2.core j) with mem := memWrs (r.2.core j).mem a bs }).coreGoes j rd 0)
  else
    let r := s.writeLines o (memRds (s.core j).mem a n) rdOther
    .ok (r.2.coreGoes j rd (if r.1 then 0 else 4))

/-- MOVE, under the record at local address `a`. -/
def Sw.opMove (s : Sw) (j : CoreId) (rd a : Nat) : Except Nat Sw :=
  s.withLocal j a 16 (fun b =>
    let f (k : Nat) : Nat := Config.moveField k (leNat b)
    let toLocal := f 0 % 2 == 1
    let n := f 5
    s.withLocal j (f 2) n (fun _ =>
      if f 1 % 2 = 1 then s.bilCopy j rd (f 3) (f 4) (f 2) n toLocal else s.hbmCopy j rd (f 3) (f 2) n toLocal))

/-! ### Jobs, aborts, gather, time -/

/-- The descriptor of a core's job: one that an update list of a group that the core serves holds has its `cgfa` ignored (R437). -/
def Sw.listJob (s : Sw) (j : CoreId) (d : Bytes) : Nat × Sw :=
  let gs := ((s.elems L.collGroup).filter (fun e => gValid e.2 && gProg e.2 != 0 && gCore e.2 == j && decide (0 < gUcount e.2))).map Prod.fst
  let r := gs.foldl (fun (a : List Bytes × Sw) g => let u := a.2.readList g; (a.1 ++ u.1, u.2)) ([], s)
  (if r.1.any (fun e => e.take 64 == d) then setFld (leNat d) 128 64 1 else leNat d, r.2)

/-- HJOB and SJOB: class 0, completion posted with index `b` (08 R328, 09 R363). A job for a block in reset ends at once with
Target-Reset (08 R349, 14 R583). -/
def Sw.opHjob (s : Sw) (j : CoreId) (rd a b : Nat) : Except Nat Sw :=
  s.withLocal j a 64 (fun d =>
    let r := s.listJob j d
    match r.2.jobSubmit (s.coreTen j) 0 r.1 (some (j.val, b)) with
    | some t =>
      let n := (s.hbmStack (jPblk (leNat d))).1
      .ok ((if s.blkRst.contains (.stack (Fin.ofNat 6 n)) then t.hearthReset n else t).coreGoes j rd 0)
    | none => .ok (s.coreGoes j rd 5))
def Sw.opSjob (s : Sw) (j : CoreId) (rd a b : Nat) : Except Nat Sw :=
  s.withLocal j a 64 (fun d =>
    match s.opSubmit (s.coreTen j) 0 (leNat d) (some (j.val, b)) with
    | some t =>
      let a := wArray (leNat d)
      .ok ((if s.blkRst.contains (.array (Fin.ofNat 16 a)) then t.swageReset a else t).coreGoes j rd 0)
    | none => .ok (s.coreGoes j rd 5))

/-- The group is of the core's tenancy (R441). -/
def Sw.coreGroup (s : Sw) (j : CoreId) (g : Nat) : Bool := gValid (s.group g) && gTen (s.group g) == s.coreTen j

/-- CABORT: placed as a COLL ABORT of a member is (R430, R770). -/
def Sw.opCabort (s : Sw) (j : CoreId) (a b : Nat) : Except Nat Sw :=
  let t := s.coreTen j
  let g := fld a 0 12
  let st := fld a 16 8
  let s' := if s.coreGroup j g then s.abortColl t g b st (mkColl s.svcEp s.svcEp t 0 2 st 0 b g 0)
    else s.inc (L.collDenied.at s.anvilLow)
  .ok (s'.coreGoes j 0 0)

/-- One block of the own claim, read at its `pbase` position, goes to the top, or is committed there (R438 step 3). An
uncorrectable line aborts the slot, as one read back from a spill does. -/
def Sw.gatherBlock (s : Sw) (t g q : Nat) (e : Bytes) (b : Nat) : Sw :=
  let d := s.blockDie b
  match s.liveSlot d t g q with
  | none => s
  | some c =>
    let y := s.slot c q
    let op := (y.word.getD 0) % 2 ^ 128
    let r := s.readRange (uPbase e + (b - uFirst e) * fullBlock 7 op) (packedBytes (resDesc 7 op) 1 (elemsOf 7 op b)) rdAnvil
    match r.1 with
    | none => r.2.abortHere c q 5
    | some bs =>
      let w := s.group g
      if gTop w then (if (s.coll t g q).gathered.contains b then r.2 else r.2.commit c q b bs true)
      else ((parts bs).foldl (fun s p =>
        s.sendBlock d c 5 t g q (y.digest.getD 0) 2 (blockGfa t (gParent w) b p.1) 0 p.2) r.2)

/-- GATHER: once for a collective. -/
def Sw.opGather (s : Sw) (j : CoreId) (a b : Nat) : Except Nat Sw :=
  let t := s.coreTen j
  let g := fld a 0 12
  if !s.coreGroup j g ∨ (s.liveSlots t g b).isEmpty ∨ (s.coll t g b).gather then .ok (s.coreGoes j 0 0)
  else
    let s' := s.updColl t g b (fun x => { x with gather := true })
    let u := s'.readList g
    let s' := u.1.foldl (fun s e =>
      (List.range (uLast e + 1 - uFirst e)).foldl (fun s i => s.gatherBlock t g b e (uFirst e + i)) s) u.2
    .ok (s'.admitScan.coreGoes j 0 0)

/-- TIME; of an `rs1` other than 1 bits [31:0]. -/
def Sw.opTime (s : Sw) (j : CoreId) (rd a : Nat) : Except Nat Sw :=
  .ok (s.coreGoes j rd (if a = 1 then s.now / 2 ^ 32 else s.now))

/-! ### Execution -/

/-- The extensions by funct3 and funct7; none is an illegal instruction (R445). -/
def State.clauseOp (s : State) (j : CoreId) (f3 f7 rd a b : Nat) : Option (Except Nat State) :=
  let on (r : Except Nat Sw) : Option (Except Nat State) := some (r.map (fun w => { s with sw := w }))
  match f3, f7 with
  | 0, 0 => on (s.sw.opEvwait j rd a)
  | 0, 1 => on (s.sw.opEvpoll j rd a)
  | 1, 0 => on (s.sw.opPktsend j rd a)
  | 2, 0 => some (s.opLexrd j rd a b)
  | 2, 1 => some (s.opLexwr j rd a b)
  | 3, 0 => on (s.sw.opBalloc j rd a)
  | 3, 1 => on (s.sw.opBallocn j rd a)
  | 3, 2 => on (s.sw.opBfree j a)
  | 4, 0 => on (s.sw.opMove j rd a)
  | 5, 0 => on (s.sw.opHjob j rd a b)
  | 5, 1 => on (s.sw.opSjob j rd a b)
  | 6, 0 => on (s.sw.opCabort j a b)
  | 6, 1 => on (s.sw.opGather j a b)
  | 7, 0 => on (s.sw.opTime j rd a)
  | _, _ => none

/-- The end of an instruction. -/
def State.coreEnds (r : Except Nat State) : Host.Outcome State Fault Refusal :=
  match r with
  | .ok t => t.finish
  | .error n => .fault (.undefinedUse n)

/-- A core that executes makes an extension; any other does nothing. -/
def State.coreDoes (s : State) (j : CoreId) (r : Except Nat State) : Host.Outcome State Fault Refusal :=
  if s.sw.coreReady j then State.coreEnds r else .next s

/-- The same for an extension that changes only the switch. -/
def State.coreDoesSw (s : State) (j : CoreId) (r : Except Nat Sw) : Host.Outcome State Fault Refusal :=
  if s.sw.coreReady j then s.endsOr r else .next s

/-- Value of a register of a core. -/
def State.xreg (s : State) (j : CoreId) (r : BitVec 5) : Nat := (s.sw.core j).reg r.toNat

/-- RV32IMC_INSTRUCTION (R441, R446): the instruction at the core's pc; a clause extension there acts as its own command
does (log 47). -/
def execRv32imcInstruction (core : CoreId) (s : State) : Host.Outcome State Fault Refusal :=
  if !s.sw.coreReady core then .next s
  else
    match (s.sw.core core).step with
    | .go c => s.ends (s.sw.setCore core c)
    | .halt => s.ends (s.sw.coreHalts core)
    | .ext f3 f7 rd rs1 rs2 =>
      match s.clauseOp core f3 f7 rd ((s.sw.core core).reg rs1) ((s.sw.core core).reg rs2) with
      | some r => State.coreEnds r
      | none => s.ends (s.sw.coreHalts core)

/-- The extensions of Table 10.6, each as its own command. -/
def execEvwait (core : CoreId) (rd rs1 : BitVec 5) (s : State) : Host.Outcome State Fault Refusal :=
  s.coreDoesSw core (s.sw.opEvwait core rd.toNat (s.xreg core rs1))
/-- EVPOLL. -/
def execEvpoll (core : CoreId) (rd rs1 : BitVec 5) (s : State) : Host.Outcome State Fault Refusal :=
  s.coreDoesSw core (s.sw.opEvpoll core rd.toNat (s.xreg core rs1))
/-- PKTSEND. -/
def execPktsend (core : CoreId) (rd rs1 : BitVec 5) (s : State) : Host.Outcome State Fault Refusal :=
  s.coreDoesSw core (s.sw.opPktsend core rd.toNat (s.xreg core rs1))
/-- LEXRD. -/
def execLexrd (core : CoreId) (rd rs1 rs2 : BitVec 5) (s : State) : Host.Outcome State Fault Refusal :=
  s.coreDoes core (s.opLexrd core rd.toNat (s.xreg core rs1) (s.xreg core rs2))
/-- LEXWR. -/
def execLexwr (core : CoreId) (rd rs1 rs2 : BitVec 5) (s : State) : Host.Outcome State Fault Refusal :=
  s.coreDoes core (s.opLexwr core rd.toNat (s.xreg core rs1) (s.xreg core rs2))
/-- BALLOC. -/
def execBalloc (core : CoreId) (rd rs1 : BitVec 5) (s : State) : Host.Outcome State Fault Refusal :=
  s.coreDoesSw core (s.sw.opBalloc core rd.toNat (s.xreg core rs1))
/-- BALLOCN. -/
def execBallocn (core : CoreId) (rd rs1 : BitVec 5) (s : State) : Host.Outcome State Fault Refusal :=
  s.coreDoesSw core (s.sw.opBallocn core rd.toNat (s.xreg core rs1))
/-- BFREE. -/
def execBfree (core : CoreId) (rs1 : BitVec 5) (s : State) : Host.Outcome State Fault Refusal :=
  s.coreDoesSw core (s.sw.opBfree core (s.xreg core rs1))
/-- MOVE. -/
def execMove (core : CoreId) (rd rs1 : BitVec 5) (s : State) : Host.Outcome State Fault Refusal :=
  s.coreDoesSw core (s.sw.opMove core rd.toNat (s.xreg core rs1))
/-- HJOB. -/
def execHjob (core : CoreId) (rd rs1 rs2 : BitVec 5) (s : State) : Host.Outcome State Fault Refusal :=
  s.coreDoesSw core (s.sw.opHjob core rd.toNat (s.xreg core rs1) (s.xreg core rs2))
/-- SJOB. -/
def execSjob (core : CoreId) (rd rs1 rs2 : BitVec 5) (s : State) : Host.Outcome State Fault Refusal :=
  s.coreDoesSw core (s.sw.opSjob core rd.toNat (s.xreg core rs1) (s.xreg core rs2))
/-- CABORT. -/
def execCabort (core : CoreId) (rs1 rs2 : BitVec 5) (s : State) : Host.Outcome State Fault Refusal :=
  s.coreDoesSw core (s.sw.opCabort core (s.xreg core rs1) (s.xreg core rs2))
/-- GATHER. -/
def execGather (core : CoreId) (rs1 rs2 : BitVec 5) (s : State) : Host.Outcome State Fault Refusal :=
  s.coreDoesSw core (s.sw.opGather core (s.xreg core rs1) (s.xreg core rs2))
/-- TIME. -/
def execTime (core : CoreId) (rd rs1 : BitVec 5) (s : State) : Host.Outcome State Fault Refusal :=
  s.coreDoesSw core (s.sw.opTime core rd.toNat (s.xreg core rs1))

end Sys2Proof.Machine
end

