-- ==== Sys2Proof/Machine/FaultCmds.lean ====
section
/-! DEFINITION. The commands of chapter 17: a fault as its source raises it, the closing of records, clearing. -/

namespace Sys2Proof.Machine

/-- The codes of Table 17.2 with the sources that raise them, first and last. -/
def faultSources : List (List Nat × Nat × Nat) :=
  [([0x01, 0x02], 46, 63), ([0x03, 0x04], 0, 7), ([0x03, 0x04], 16, 31), ([0x10, 0x11, 0x12, 0x13, 0x14, 0x15], 0, 3),
   ([0x20, 0x21, 0x22, 0x23, 0x24], 4, 7), ([0x28, 0x29, 0x2A, 0x2B, 0x2C, 0x2D], 8, 11), ([0x30], 12, 15),
   ([0x38, 0x39, 0x3A], 16, 31), ([0x40, 0x41, 0x42], 40, 45), ([0x48, 0x49, 0x4A], 32, 39), ([0x50, 0x51], 64, 64),
   ([0x52, 0x53, 0x54], 64, 67), ([0x58], 68, 68), ([0x60, 0x61], 69, 69), ([0x68], 70, 70), ([0x70], 71, 71)]

/-- A fault that the part can raise (R664): its source raises that code, and the slice that Port-Out-Of-Service or Thermal-Trip
condemns is a port of the source, or a Forge die. -/
def faultKnown (f : FaultInfo) : Bool :=
  faultSources.any (fun e => e.1.contains f.code && decide (e.2.1 ≤ f.source ∧ f.source ≤ e.2.2)) &&
  (f.code != 0x4A || detNum f / 64 == f.source - 32) && (f.code != 0x61 || decide (detNum f < 4))

/-! ### Uncorrectable SRAM words (R665) -/

/-- The handle of the billet that lies at byte `o` of a die's pools, one pool after another from pool 0 on (DESIGN CHOICE,
log 124). -/
def Sw.billetAt (s : Sw) (d o : Nat) : Option Nat :=
  (List.range 5).findSome? (fun p =>
    let base := sumBy (fun q => 65536 * s.rd (L.bilPoolUnits.at d) q) (List.range p)
    if base ≤ o ∧ o < base + 65536 * s.rd (L.bilPoolUnits.at d) p then some (mkHandle d p ((o - base) / bilSize p)) else none)

/-- A live slot of a context aborts with Uncorrectable (07 Table 7.6). -/
def Sw.slotLost (s : Sw) (c i : Nat) : Sw :=
  if (s.slot c i).st = .gathering ∨ (s.slot c i).st = .draining then (s.abortHere c i 5).admitScan else s

/-- A slot holds a value or a contribution in billet `h`. -/
def Slot.holds (y : Slot) (h : Nat) : Bool :=
  (y.blocks.flatMap (fun b => b.stored.flatMap Stored.bil ++ b.items.flatMap Item.bil) ++ y.beyond.flatMap Stored.bil).contains h

/-- A word of a billet is uncorrectable: what lies in it fails, a packet under 02 R73, a held value under 07 R295. A packet that
waits at the service ID, or in an admission queue, is discarded whole. -/
def Sw.billetLost (s : Sw) (h : Nat) : Sw :=
  let has (p : Stored) : Bool := p.bil.contains h
  let s := (s.fab.pkts.filter (fun k => (k.inBil ++ k.egBil).contains h)).foldl (fun s k => s.failPkt k.id) s
  let gone := s.fab.svcIn.filter has ++ (s.anv.admq.filter (fun e => has e.pkt)).map (fun e => e.pkt)
  let s := { s with
    fab := { s.fab with svcIn := s.fab.svcIn.filter (fun p => !has p) }
    anv := { s.anv with admq := s.anv.admq.filter (fun e => !has e.pkt) } }
  let s := s.freeBil (gone.flatMap Stored.bil)
  (s.anv.ctx.flatMap (fun kv => [0, 1].filterMap (fun i => if (kv.2.slot i).holds h then some (kv.1, i) else none))).foldl
    (fun s ci => s.slotLost ci.1 ci.2) s

/-- Bytes of one frame of an operation (R365). -/
def frameBytes (d : Nat) : Nat := 256 * 32 * (if wAcc' d = 0 then 8 else 4)

/-- The word at byte `o` of frame `fr` holds an element of the tile in that frame. -/
def SwOp.inFrame (x : SwOp) (o : Nat) : Bool :=
  let d := x.desc
  let g := if wAcc' d = 0 then 8 else 4
  decide (x.fr * frameBytes d ≤ o ∧ o < (x.fr + 1) * frameBytes d) &&
  (List.range (32 / g)).any (fun i =>
    let e := o % frameBytes d / 32 * (32 / g) + i
    decide (e / 32 < tileRows d (x.tile / slicesV d) ∧ e % 32 < sliceCols d (x.tile % slicesV d)))

/-- The stationary tile whose elements or scales lie at byte `r` of the stationary region: the tiles one after another, those of
slice 0 first, then their scales. -/
def statAt (d r : Nat) : Option (Nat × Nat) :=
  let q := passesQ d
  let n := q * slicesV d
  let tile := 16384 * fmtBits (dFmt (wWdesc d)) / 8
  let scale := if dScaled (wWdesc d) then 16384 / dBlock (wWdesc d) else 0
  let k := if r < n * tile then r / tile else n + (r - n * tile) / max 1 scale
  if k < n then some (k % q, k / q)
  else if dScaled (wWdesc d) ∧ k < 2 * n then some ((k - n) % q, (k - n) / q)
  else none

/-- A word at byte `o` of an array's scratchpad is uncorrectable (09 R359, R389). The frames lie first, then the stationary region,
then the staging region (DESIGN CHOICE, log 124). A word of a frame fails the tile in it, which may be draining; a word of the
stationary region the tiles whose sets are still to be loaded from it; a staged word the tiles whose passes still read it. -/
def Sw.scratchLost (s : Sw) (a o : Nat) : Sw :=
  (s.ops.filter (fun x => x.array == a && (x.st == .loading || x.st == .running || x.st == .draining))).foldl (fun s x =>
    let d := x.desc
    let st := 2 * frameBytes d
    let sg := scratch d - (if wSrc d then 256 * wK d * fmtBits (dFmt (wAdesc d)) / 8 else 0)
    if o < st then
      if x.st ≠ .loading ∧ x.inFrame o then s.updOp x.no (fun y => { y with bad := true }) else s
    else if x.st = .draining then s
    else if o < sg then
      match statAt d (o - st) with
      | some t => s.updOp x.no (fun y => { y with badW := y.badW ++ [t] })
      | none => s
    else if o < scratch d then s.updOp x.no (fun y => { y with badSt := y.badSt ++ [(o - sg) / 32] })
    else s) s

/-- A word at byte `o` of die `d`'s SRAM is uncorrectable, in the memory of its owner: the billets, the context store with 16 KiB a
context (07 R254), or a scratchpad; each is numbered from 0 (DESIGN CHOICE, log 124). -/
def Sw.sramLost (s : Sw) (source o : Nat) : Sw :=
  if source < 4 then match s.billetAt source o with | some h => s.billetLost h | none => s
  else if source < 8 then
    let c := 1024 * (source - 4) + o / 16384
    if o < 1024 * 16384 then (s.slotLost c 0).slotLost c 1 else s
  else if 16 ≤ source ∧ source < 32 then s.scratchLost (source - 16) o
  else s

/-- FAULT_RAISE (R661, R664, R669 to R673, R678): a source of Table 17.1 raises a fault of Table 17.2; there are no others. An
uncorrectable SRAM word fails what its reader would have made of it (R665). -/
def execFaultRaise (fault : FaultInfo) (s : State) : Host.Outcome State Fault Refusal :=
  if !faultKnown fault then .next s
  else
    let w := { s.sw with flt := { s.sw.flt with due := s.sw.flt.due ++ [fault] } }
    s.ends (if fault.code = 4 then w.sramLost fault.source (fld fault.detail.toNat 0 40) else w)

/-- FAULT_RECORD_CLOSE (R670): `flt.merge_ns` after the handling ended; the record stays, and takes no more merges. -/
def execFaultRecordClose (record : Fin 512) (s : State) : Host.Outcome State Fault Refusal :=
  match s.sw.flt.recs.get? record with
  | none => .next s
  | some r =>
    if !r.open_ ∨ !r.waits.isEmpty then .next s
    else s.ends ((s.sw.reach r.closeAt).updFlt (fun x => { x with recs := AMap.set x.recs record { r with open_ := false } }))

/-- FLT_ACK (R675): clears one record. -/
def execFltAck (value : BitVec 16) (s : State) : Host.Outcome State Fault Refusal :=
  s.written 0xA002 1 (s.ends (s.sw.wrFltAck value.toNat))

/-- FLT_CLR (R675): clears the records of a source, or all of them and `ovf`. -/
def execFltClr (value : BitVec 8) (s : State) : Host.Outcome State Fault Refusal :=
  s.written 0xA002 2 (s.ends (s.sw.wrFltClr value.toNat))

end Sys2Proof.Machine
end

