-- ==== Sys2Proof/Machine/Feed.lean ====
section
/-! DEFINITION. The release of records in Feed (18 R704). -/

namespace Sys2Proof.Machine

/-- The payload lines of a record. -/
def Sw.linePay (s : Sw) (d n : Nat) (l : Bytes) : Bytes := (List.range (lLines l)).flatMap (fun i => s.ringLine d (n + 1 + i))

/-- The end word of a recorded packet. -/
def lineEnd (l : Bytes) : BitVec 64 := BitVec.ofNat 64 (fld (lineMeta l) 128 32 * 2 ^ 32 + fld (lineMeta l) 120 8)

/-- A recorded packet enters at its port; the packet arriving there, whose rest is ignored, is left as it is. -/
def Sw.inject (s : Sw) (l pay : Bytes) : Except Nat Sw :=
  let p := lPort l
  let i : Ingress := .port (Fin.ofNat 512 p)
  let w : Word256 := BitVec.ofNat 256 (leNat (l.take 32))
  if pCtl w = 1 then .ok (s.ctlIn i w)
  else
    match s.headerIn i w with
    | .error r => .error r
    | .ok t =>
      let u := t.endIn i pay (lineEnd l)
      .ok (match s.fab.arriving.get? p with
        | some x => { u with fab := { u.fab with
            arriving := AMap.set u.fab.arriving p x, rxHdr := AMap.set u.fab.rxHdr p (s.fab.rxHdr.getD p 0) } }
        | none => u)

/-- The effect of one record; none where it waits for posted credit (13 R541). -/
def State.replay (s : State) (d n : Nat) (l : Bytes) : Except Nat (Option State) :=
  let w := s.sw
  match lKind l with
  | 0 => (w.inject l (w.linePay d n l)).map (fun x => some { s with sw := x })
  | 1 =>
    let bytes := (w.linePay d n l).take (leNat ((l.drop 16).take 16))
    (w.hostWrite (leNat (l.take 16)) (bytes.map some)).map (fun r => r.map (fun x => { s with sw := x }))
  | _ => (s.lexServe { recJob .i3c none (l.take 16) with full := true }).map (fun a => some a.2.2)

/-- Feed passes a record; after the last it stops with cause Done. -/
def Sw.fedPast (s : Sw) (d n : Nat) (l : Bytes) : Sw :=
  (s.updRec (fun r => { r with cur := AMap.set r.cur (1024 + d) (n + lSpan l) })).recLast

/-- Feed stops at a packet kept without its payload, or at a record whose payload cannot be read (DESIGN CHOICE, log
123): `rec.div` takes cause 3, while no rule states the cause that `rec.state` then shows, a free value (log 43). -/
def Sw.fedStop (s : Sw) (d : Nat) (l : Bytes) : Sw :=
  let r := (s.diverge (lRno l) (lPort l) d 0 3).draw
  r.2.recStop (r.1 % 8)

/-- A payload line of a record cannot be read. -/
def Sw.payLost (s : Sw) (d n : Nat) (l : Bytes) : Bool := lFull l && (List.range (lLines l)).any (fun i => s.ringLost d (n + 1 + i))

/-- FEED_RELEASE (R704): the next record, no earlier than its time. -/
def execFeedRelease (s : State) : Host.Outcome State Fault Refusal :=
  if s.sw.recd.st ≠ 3 then .next s
  else
    match s.sw.fedNext with
    | none => s.ends s.sw.recLast
    | some (d, n, l) =>
      let w := s.sw.reach (s.sw.recd.feedAt + cdiv ((lTime l - s.sw.recd.feedT0) * s.sw.rd L.recPace) 16)
      let w := w.ringMeets d (w.recd.cur.getD (1024 + d) (w.ringStart d)) (n + lSpan l - 1)
      if (lKind l = 0 ∧ !lFull l) ∨ w.payLost d n l then s.ends (w.fedStop d l)
      else
        match ({ s with sw := w } : State).replay d n l with
        | .error r => .fault (.undefinedUse r)
        | .ok none => .next s
        | .ok (some t) => { t with sw := t.sw.fedPast d n l }.finish

end Sys2Proof.Machine
end

