-- ==== Sys2Proof/Machine/Pins.lean ====
section
/-! DEFINITION. The commands of chapter 20, and those on the management pins: rails, temperatures, time sources, JTAG, reset
pins, clocks, DHCP. -/

namespace Sys2Proof.Machine

/-! ### Held in reset (20 R753, R757, R764) -/

/-- A set of pins. -/
def Sw.updPins (s : Sw) (f : Pins → Pins) : Sw := { s with pins := f s.pins }

/-- The part stops as under RESET_N low (R753): no lane and bridge port driven, READY low, HBM not kept; fuses, the NOR and
the board's signals stand. -/
def State.stopAll (s : State) : State :=
  let s := s.cutImage
  { pending := s.pending
    sec := { fuses := s.sec.fuses, svnFuse := s.sec.svnFuse, retired := s.sec.retired, nor := s.sec.nor, derived := false }
    sw := { free := s.sw.free, ident := s.sw.ident, tx := s.sw.tx, now := s.sw.now
            pins := { resetN := s.sw.pins.resetN, thermCritN := s.sw.pins.thermCritN, railLow := s.sw.pins.railLow
                      noClk := s.sw.pins.noClk, mgtPhyRst := true, d2dUp := [] }
            pwr := { temps := s.sw.pwr.temps, sensedAt := s.sw.pwr.sensedAt }
            brg := { ports := (List.range 4).map (fun p => (p, { unclear := true })) }
            boot := { stage := 0, ready := false } } }

/-- THERM_CRIT_N is released once RESET_N is low and every sensor reads below 100 °C (R764). -/
def Sw.critEnds (s : Sw) : Sw :=
  if !s.pins.resetN ∧ s.pwr.temps.all (fun kv => decide (kv.2 < 1000)) then s.updPins (fun x => { x with thermCritN := true }) else s

/-- RESET_N_FALL (R676, R757). -/
def execResetNFall (s : State) : Host.Outcome State Fault Refusal :=
  let t := s.updSw (fun w => w.updPins (fun x => { x with resetN := false }))
  .next (t.stopAll.updSw Sw.critEnds)

/-- A slot that is being fused is left with a hash and a check word that disagree (R753, 19 R718). -/
def Sec.cutFuse (x : Sec) (now : Nat) : Sec :=
  match x.fusing with
  | some (k, t) => if t = now then { x with fuses := AMap.put x.fuses k { (x.fuse k) with good := false } {} } else x
  | none => x

/-- RAIL_LOSS (R753). -/
def execRailLoss (s : State) : Host.Outcome State Fault Refusal :=
  .next ((s.updSw (fun w => w.updPins (fun x => { x with railLow := true }))).updSec (fun x => x.cutFuse s.sw.now)).stopAll

/-- RAIL_RESTORE_TIMEOUT (R753): a cold reset begins, provided RESET_N is high and THERM_CRIT_N is not driven. -/
def execRailRestoreTimeout (facts : BootFacts) (s : State) : Host.Outcome State Fault Refusal :=
  if !s.sw.pins.railLow then .next s
  else
    let t := s.updSw (fun w => w.updPins (fun x => { x with railLow := false }))
    if t.sw.pins.resetN ∧ t.sw.mayStart then endReset (t.coldStart facts) else .next t

/-! ### Temperatures (R761 to R764) -/

/-- The sensor stands on a die or stack that is present. -/
def Sw.sensed (s : Sw) : Sensor → Bool
  | .stack n _ => bit s.ident.hbmMap n
  | _ => true

/-- Critical threshold of a sensor, in 0.1 °C (Table 20.9). -/
def critAt (n : Nat) : Int := if 96 ≤ n ∧ n < 114 then 1050 else 1200

/-- Readings of the sensors. -/
def Sw.sense (s : Sw) (l : List (Sensor × Int)) : Sw :=
  s.updPwr (fun p => { p with temps := (l.filter (fun e => s.sensed e.1)).foldl (fun m e => AMap.put m (sensorNo e.1) e.2 0) p.temps })

/-- Forge dies trip at 110 °C, a fatal fault each; a die whose sensors all read below it is restored (R763, Table 17.5). -/
def Sw.trips (s : Sw) : Sw :=
  (List.range 4).foldl (fun s k =>
    let on := s.flt.held.any (fun h => decide (h.1 = .forge k))
    if 1100 ≤ s.hottest (16 * k) 16 then (if on then s else s.fault 0x61 69 none (detL 2 k 0 0 0) 0)
    else if on then s.restore (.forge k) else s) s

/-- A sensor has reached its critical threshold (R764). -/
def State.critical (s : State) : State :=
  (s.updSw (fun w => w.updPins (fun x => { x with thermCritN := false }))).stopAll

/-- SENSOR_SAMPLE (R761 to R764): every 10 µs. While the part is held in reset the comparators alone read the sensors. A junction
outside 0 to 105 °C, an undefined use of 01 R51, is sampled as any other (DESIGN CHOICE, log 69). -/
def execSensorSample (readings : List (Sensor × Int)) (s : State) : Host.Outcome State Fault Refusal :=
  let n := nextTick 10000 s.sw.now s.sw.pwr.sensedAt
  let w := ((s.sw.reach n).updPwr (fun p => { p with sensedAt := some n })).sense readings
  if w.pwr.temps.any (fun kv => decide (critAt kv.1 ≤ kv.2)) then
    .next (if w.pins.thermCritN then { s with sw := w }.critical else { s with sw := w })
  else if w.held then .next { s with sw := w.critEnds }
  else
    let w := w.updPins (fun x => { x with thermWarnN := !w.hot })
    s.ends w.trips

/-- THERM_CRITICAL (R764): the sensor reads at its threshold or above. -/
def execThermCritical (sensor : Sensor) (s : State) : Host.Outcome State Fault Refusal :=
  if !s.sw.sensed sensor ∨ !s.sw.pins.thermCritN then .next s
  else
    let n := sensorNo sensor
    .next (s.updSw (fun w => w.sense [(sensor, max (critAt n) (w.pwr.temps.getD n 0))])).critical

/-! ### Time sources (R760, 15 Table 15.17) -/

/-- The servo's state after a source has come, or gone; `heard`: a source is being heard. Time-Holdover is raised when
state 2 ends (17 R666). -/
def Sw.servo (s : Sw) (heard : Bool) : Sw :=
  let st := s.rd L.telPtpState
  if s.pins.ppsLock ∨ s.pins.ptpLock then s.wr L.telPtpState 0 2
  else if st = 2 then (s.wr L.telPtpState 0 3).fault 0x68 70 none (s.rd L.telPtpOffset) 0
  else if st = 0 ∧ heard then s.wr L.telPtpState 0 1 else s

/-- Successive edges that lie 1 s ± 1 µs apart, counted with the one that comes at `now`; one that comes after 2 s finds the lock
lost. -/
def Pins.edge (x : Pins) (now : Nat) : Pins :=
  let run := match x.ppsLast with
    | some t => if 999999000 ≤ now - t ∧ now - t ≤ 1000001000 then min 3 (x.ppsRun + 1) else 1
    | none => 1
  { x with ppsLast := some now, ppsRun := run, ppsLock := (x.ppsLock && decide (now < deadline (x.ppsLast.getD now) 2000000000)) || run == 3 }

/-- PPS_IN_EDGE (R760): a pulse from 1 µs to 500 ms wide is valid. -/
def execPpsInEdge (width : Nat) (s : State) : Host.Outcome State Fault Refusal :=
  if s.sw.held ∨ width < 1000 ∨ 500000000 < width then .next s
  else s.ends ((s.sw.updPins (fun x => x.edge s.sw.now)).servo true)

/-- PPS_LOSS_TIMEOUT (R760): 2 s without an edge. -/
def execPpsLossTimeout (s : State) : Host.Outcome State Fault Refusal :=
  match s.sw.pins.ppsLast with
  | none => .next s
  | some t =>
    let w := (s.sw.reach (deadline t 2000000000)).updPins (fun x => { x with ppsLast := none, ppsRun := 0, ppsLock := false })
    s.ends (w.servo false)

/-- PPS_OUT_SECOND (R760): the next whole second of the timebase. -/
def execPpsOutSecond (s : State) : Host.Outcome State Fault Refusal :=
  if s.sw.held then .next s
  else
    let t := max (cdiv s.sw.now 1000000000 * 1000000000) (s.sw.pins.ppsOut + 1000000000)
    s.ends (((s.sw.reach t).updPins (fun x => { x with ppsOut := t })).send (.pps t))

/-- PTP_MESSAGE_RECEIVE (R760): the servo's offset, and whether it holds lock. -/
def execPtpMessageReceive (offset : Int) (locked : Bool) (s : State) : Host.Outcome State Fault Refusal :=
  if s.sw.held then .next s
  else s.ends (((s.sw.updPins (fun x => { x with ptpLock := locked })).wr L.telPtpOffset 0 (BitVec.ofInt 64 offset).toNat).servo true)

/-- PTP_SOURCE_LOSS (R760). -/
def execPtpSourceLoss (s : State) : Host.Outcome State Fault Refusal :=
  if s.sw.held then .next s else s.ends ((s.sw.updPins (fun x => { x with ptpLock := false })).servo false)

/-! ### Pins (R757, R759) -/

/-- The instruction as the part reads it, numbered in `Pins.jtag`: 0 BYPASS, 256 + code a boundary-scan instruction, 512 +
code any other. -/
def State.jtagRead (s : State) : JtagInstr → Nat
  | .bypass => 0
  | .boundaryScan c => if s.sw.pins.resetN then 0 else 256 + c.toNat
  | .other c => if s.sec.debug = 2 then 512 + c.toNat else 0

/-- JTAG_INSTRUCTION (R757). -/
def execJtagInstruction (instr : JtagInstr) (s : State) : Host.Outcome State Fault Refusal :=
  .next (s.updSw (fun w => w.updPins (fun x => { x with jtag := s.jtagRead instr })))

/-- MEM_PERST_RELEASE (R757): 1 ms after the port was enabled. -/
def execMemPerstRelease (port : BPort) (s : State) : Host.Outcome State Fault Refusal :=
  let b := s.sw.bport port
  if !s.sw.memRole port ∨ b.st = .disabled ∨ b.st = .down then .next s
  else s.ends ((s.sw.reach (deadline b.enAt 1000000)).updPins (fun x => { x with memUp := insertNat port.val x.memUp }))

/-- MGT_PHY_RESET_RELEASE (R757): only where bring-up has come to its step 3. -/
def execMgtPhyResetRelease (s : State) : Host.Outcome State Fault Refusal :=
  if s.sw.held ∨ (s.sw.boot.error ∧ s.sw.boot.stage < 3) then .next s else s.ends (s.sw.updPins (fun x => { x with mgtPhyRst := false }))

/-- A port whose lanes have no clock fails with cause Training (R759, Table 12.7; DEDUCED, log 42). -/
def Sw.clockFail (s : Sw) (p : Nat) : Sw :=
  match (s.port p).st with
  | .disabled => s
  | .failed => s
  | .up => (s.goDown p 2).updPort p (fun x => { x with st := .failed, mode := 0, failAt := s.now })
  | _ => s.failPort p 2

/-- REFCLK_LOSS (R759). -/
def execRefclkLoss (die : LinkDie) (s : State) : Host.Outcome State Fault Refusal :=
  let w := s.sw.updPins (fun x => { x with noClk := insertNat die.val x.noClk })
  if w.held then .next { s with sw := w }
  else s.ends ((w.cfgPortList.filter (fun p => p / 64 == die.val)).foldl Sw.clockFail w)

/-- DHCP_REPLY (15 R616): taken where no address is set. -/
def execDhcpReply (address : BitVec 32) (s : State) : Host.Outcome State Fault Refusal :=
  if s.sw.held ∨ s.sw.rd L.lexEthIp4 ≠ 0 then .next s else s.ends (s.sw.wr L.lexEthIp4Now 0 address.toNat)

end Sys2Proof.Machine
end

