-- ==== Sys2Proof/Machine/Security.lean ====
section
/-! DEFINITION. The commands of chapter 19, and LIB_LOAD: fuses, image load, debug unlock, zeroise, SPDM. -/

namespace Sys2Proof.Machine

/-- A command of range 14 that is a write of `0xC000 + k`:`sub`: Busy has no effect (14 R587); outside a Crypto Officer
session it is Denied, and counted (R715). In recovery M serves the image load alone, and nothing where bring-up stopped before its
step 4 (16 R634, R635). -/
def State.officer (s : State) (k sub : Nat) (ok : Bool) (f : State → SecRes) : Host.Outcome State Fault Refusal :=
  if s.busyFor (0xC000 + k) sub && !s.sw.boot.error then .next s
  else if s.sw.held || (s.sw.boot.error && !(k == 2 && s.sw.boot.cause == 1)) then .next s
  else if ok then (f s).2.finish
  else (s.lexCount (.issio 0 0) 6).finish

/-- KEY_FUSE (R719): while no operator key is fused also from I3C, without a session (R715). -/
def execKeyFuse (session : Option Nat) (slot : BitVec 8) (hash : BitVec 256) (s : State) : Host.Outcome State Fault Refusal :=
  s.officer 1 3 (s.sec.inOfficer session || (session.isNone && !s.sec.opOnly)) (fun s => s.wrFuse slot.toNat hash.toNat)

/-- KEY_REVOKE (R719). -/
def execKeyRevoke (session : Option Nat) (slot : BitVec 8) (s : State) : Host.Outcome State Fault Refusal :=
  s.officer 1 3 (s.sec.inOfficer session) (fun s => s.wrRevoke slot.toNat)

/-- SVN_ADVANCE (R721). -/
def execSvnAdvance (session : Option Nat) (s : State) : Host.Outcome State Fault Refusal :=
  s.officer 1 5 (s.sec.inOfficer session) (fun s => s.wrSvnCmd 1)

/-- IMG_ERASE (R725). -/
def execImgErase (session : Option Nat) (s : State) : Host.Outcome State Fault Refusal :=
  s.officer 2 3 (s.sec.inOfficer session) (fun s => s.wrImgCmd 1)

/-- IMG_DATA_WRITE (R725). -/
def execImgDataWrite (session : Option Nat) (bytes : Bytes) (s : State) : Host.Outcome State Fault Refusal :=
  s.officer 2 2 (s.sec.inOfficer session) (fun s => s.wrImgData bytes)

/-- IMG_VERIFY (R725). -/
def execImgVerify (session : Option Nat) (s : State) : Host.Outcome State Fault Refusal :=
  s.officer 2 3 (s.sec.inOfficer session) (fun s => s.wrImgCmd 2)

/-- IMG_ACTIVATE (R725, 14 R587). -/
def execImgActivate (session : Option Nat) (s : State) : Host.Outcome State Fault Refusal :=
  s.officer 2 3 (s.sec.inOfficer session) (fun s => s.wrImgCmd 3)

/-- IMG_COMMAND_COMPLETE (R725). -/
def execImgCommandComplete (s : State) : Host.Outcome State Fault Refusal := s.imgDone.finish

/-- DBG_CHALLENGE (R734): a requester that may read range 14 reads `sec.dbg.chal`. -/
def execDbgChallenge (by_ : Requester) (s : State) : Host.Outcome State Fault Refusal :=
  if s.sw.held then .next s
  else if s.sw.lexAllows by_ 0xC003 false ∧ !s.sw.lexStopped by_ 0xC003 1 false then (s.challenge by_).2.finish
  else (s.lexCount by_ 6).finish

/-- DBG_RESPONSE (R715, R734, R735): one that may write range 14 and holds the nonce. -/
def execDbgResponse (by_ : Requester) (bytes : Bytes) (s : State) : Host.Outcome State Fault Refusal :=
  if s.busyFor 0xC003 2 then .next s
  else if s.sw.lexAllows by_ 0xC003 true ∧ s.sec.holds by_ then (s.dbgTest bytes).2.finish
  else (s.lexCount by_ 6).finish

/-- ZEROIZE (R733). -/
def execZeroize (session : Option Nat) (s : State) : Host.Outcome State Fault Refusal :=
  s.officer 4 2 (s.sec.inOfficer session) (fun s => s.wrZeroize 1)

/-- RETIRE (R733). -/
def execRetire (session : Option Nat) (s : State) : Host.Outcome State Fault Refusal :=
  s.officer 4 2 (s.sec.inOfficer session) (fun s => s.wrZeroize 2)

/-- M is an SPDM responder: not in reset, nor where bring-up stopped before its step 4 (16 R635). -/
def Sw.spdmUp (s : Sw) : Bool := !s.held && !(s.boot.error && s.boot.cause != 1)

/-- An SPDM request reaches M (R731): over I3C, or at UDP port `sec.spdm.port` unless that is 0 (R739). -/
def State.spdmHeard (s : State) : SpdmVia → Bool
  | .i3c => s.sw.spdmUp && s.sw.i3c.addr.isSome
  | .udp port => s.sw.spdmUp && s.sw.rd L.lexEthIp4Now != 0 && s.sw.rd L.secSpdmPort != 0 && s.sw.rd L.secSpdmPort == port.toNat

/-- SPDM_REQUEST (R731). -/
def execSpdmRequest (via : SpdmVia) (req : SpdmReq) (s : State) : Host.Outcome State Fault Refusal :=
  if !s.spdmHeard via then .next s
  else match req with
  | .keyExchange => (s.spdmKex via).finish
  | _ => (s.spdm req).finish

/-- LIB_LOAD (R728, 10 R442). -/
def execLibLoad (image : Bytes) (s : State) : Host.Outcome State Fault Refusal :=
  s.written 0x7805 2 (match s.wrLibLoad image with
    | some t => t.finish
    | none => .next s)

end Sys2Proof.Machine
end

