-- ==== Sys2Proof/Machine/Dispatch.lean ====
section
/-! DEFINITION. One arm per command: its meaning. -/

namespace Sys2Proof.Machine

/-- What a command does to everything but the queue. -/
def exec (i : Instr) (s : State) : Host.Outcome State Fault Refusal :=
  match i with
  | .rateMonitorWindow die rate mv => Sys2Proof.Machine.execRateMonitorWindow die rate mv s
  | .hsWindowWrite value => Sys2Proof.Machine.execHsWindowWrite value s
  | .d2dWordCorrected link => Sys2Proof.Machine.execD2dWordCorrected link s
  | .d2dLinkStop link => Sys2Proof.Machine.execD2dLinkStop link s
  | .dataHeaderReceive src hdr => Sys2Proof.Machine.execDataHeaderReceive src hdr s
  | .controlPacketReceive src pkt => Sys2Proof.Machine.execControlPacketReceive src pkt s
  | .dataEndWordReceive src payload endWord => Sys2Proof.Machine.execDataEndWordReceive src payload endWord s
  | .creditReceive port pkt => Sys2Proof.Machine.execCreditReceive port pkt s
  | .crossbarCellSlot die => Sys2Proof.Machine.execCrossbarCellSlot die s
  | .depthReportRefresh die => Sys2Proof.Machine.execDepthReportRefresh die s
  | .sprayHalvingExpire die port cls => Sys2Proof.Machine.execSprayHalvingExpire die port cls s
  | .holeTimerExpire src dst cls entropy => Sys2Proof.Machine.execHoleTimerExpire src dst cls entropy s
  | .egressSelect port => Sys2Proof.Machine.execEgressSelect port s
  | .egressPacketComplete port => Sys2Proof.Machine.execEgressPacketComplete port s
  | .signalHoldExpire pkt => Sys2Proof.Machine.execSignalHoldExpire pkt s
  | .billetAllocate die owner ten bytes => Sys2Proof.Machine.execBilletAllocate die owner ten bytes s
  | .billetFree die owner handle => Sys2Proof.Machine.execBilletFree die owner handle s
  | .freeRingRefill die pool badLines => Sys2Proof.Machine.execFreeRingRefill die pool badLines s
  | .freeRingWriteback die pool => Sys2Proof.Machine.execFreeRingWriteback die pool s
  | .poolUnitsWrite die units => Sys2Proof.Machine.execPoolUnitsWrite die units s
  | .deepGibWrite die gib => Sys2Proof.Machine.execDeepGibWrite die gib s
  | .billetRebuildComplete die => Sys2Proof.Machine.execBilletRebuildComplete die s
  | .quotaWrite table die el value => Sys2Proof.Machine.execQuotaWrite table die el value s
  | .billetStarvationTimeout die req => Sys2Proof.Machine.execBilletStarvationTimeout die req s
  | .belModeWrite die value => Sys2Proof.Machine.execBelModeWrite die value s
  | .bellowsParamWrite entry die el value => Sys2Proof.Machine.execBellowsParamWrite entry die el value s
  | .telRingMibWrite mib => Sys2Proof.Machine.execTelRingMibWrite mib s
  | .telPeriodWrite ns => Sys2Proof.Machine.execTelPeriodWrite ns s
  | .telemetrySweep die => Sys2Proof.Machine.execTelemetrySweep die s
  | .collDescriptorReceive hdr payload => Sys2Proof.Machine.execCollDescriptorReceive hdr payload s
  | .anvilContribution hdr payload => Sys2Proof.Machine.execAnvilContribution hdr payload s
  | .anvilRootFormed ctx slot block => Sys2Proof.Machine.execAnvilRootFormed ctx slot block s
  | .withdrawReceive pkt => Sys2Proof.Machine.execWithdrawReceive pkt s
  | .collAbortReceive pkt => Sys2Proof.Machine.execCollAbortReceive pkt s
  | .collCommitReceive pkt => Sys2Proof.Machine.execCollCommitReceive pkt s
  | .resultReceive hdr payload => Sys2Proof.Machine.execResultReceive hdr payload s
  | .collCompleteReceive pkt => Sys2Proof.Machine.execCollCompleteReceive pkt s
  | .collectiveFinish ten group cseq => Sys2Proof.Machine.execCollectiveFinish ten group cseq s
  | .collAbortWrite value => Sys2Proof.Machine.execCollAbortWrite value s
  | .crossDieAbort ten group cseq => Sys2Proof.Machine.execCrossDieAbort ten group cseq s
  | .anvilLingerExpire ctx => Sys2Proof.Machine.execAnvilLingerExpire ctx s
  | .anvilSpillTimeout ctx slot node => Sys2Proof.Machine.execAnvilSpillTimeout ctx slot node s
  | .spillReadbackComplete ctx slot node code => Sys2Proof.Machine.execSpillReadbackComplete ctx slot node code s
  | .contextStarvationTimeout die entry => Sys2Proof.Machine.execContextStarvationTimeout die entry s
  | .collectiveStallTimeout ctx slot => Sys2Proof.Machine.execCollectiveStallTimeout ctx slot s
  | .resultStagingTimeout ctx slot block => Sys2Proof.Machine.execResultStagingTimeout ctx slot block s
  | .updateBlockReceive hdr payload => Sys2Proof.Machine.execUpdateBlockReceive hdr payload s
  | .groupEntryWrite group value => Sys2Proof.Machine.execGroupEntryWrite group value s
  | .libLoad image => Sys2Proof.Machine.execLibLoad image s
  | .rv32imcInstruction core => Sys2Proof.Machine.execRv32imcInstruction core s
  | .evwait core rd rs1 => Sys2Proof.Machine.execEvwait core rd rs1 s
  | .evpoll core rd rs1 => Sys2Proof.Machine.execEvpoll core rd rs1 s
  | .pktsend core rd rs1 => Sys2Proof.Machine.execPktsend core rd rs1 s
  | .lexrd core rd rs1 rs2 => Sys2Proof.Machine.execLexrd core rd rs1 rs2 s
  | .lexwr core rd rs1 rs2 => Sys2Proof.Machine.execLexwr core rd rs1 rs2 s
  | .balloc core rd rs1 => Sys2Proof.Machine.execBalloc core rd rs1 s
  | .ballocn core rd rs1 => Sys2Proof.Machine.execBallocn core rd rs1 s
  | .bfree core rs1 => Sys2Proof.Machine.execBfree core rs1 s
  | .move core rd rs1 => Sys2Proof.Machine.execMove core rd rs1 s
  | .hjob core rd rs1 rs2 => Sys2Proof.Machine.execHjob core rd rs1 rs2 s
  | .sjob core rd rs1 rs2 => Sys2Proof.Machine.execSjob core rd rs1 rs2 s
  | .cabort core rs1 rs2 => Sys2Proof.Machine.execCabort core rs1 rs2 s
  | .gather core rs1 rs2 => Sys2Proof.Machine.execGather core rs1 rs2 s
  | .time core rd rs1 => Sys2Proof.Machine.execTime core rd rs1 s
  | .hearthJobSubmit hdr payload => Sys2Proof.Machine.execHearthJobSubmit hdr payload s
  | .hearthJobStart stack => Sys2Proof.Machine.execHearthJobStart stack s
  | .recipeStep stack job step => Sys2Proof.Machine.execRecipeStep stack job step s
  | .hearthJobComplete stack job => Sys2Proof.Machine.execHearthJobComplete stack job s
  | .copyLine stack job line => Sys2Proof.Machine.execCopyLine stack job line s
  | .linePortAccess offset access code => Sys2Proof.Machine.execLinePortAccess offset access code s
  | .patrolRead offset code => Sys2Proof.Machine.execPatrolRead offset code s
  | .swageOpSubmit hdr payload => Sys2Proof.Machine.execSwageOpSubmit hdr payload s
  | .swageOpValidate array => Sys2Proof.Machine.execSwageOpValidate array s
  | .swageLoadComplete array => Sys2Proof.Machine.execSwageLoadComplete array s
  | .swagePassComplete array => Sys2Proof.Machine.execSwagePassComplete array s
  | .swageDrainComplete array => Sys2Proof.Machine.execSwageDrainComplete array s
  | .swageStreamWrite hdr payload => Sys2Proof.Machine.execSwageStreamWrite hdr payload s
  | .swageStreamTimeout array => Sys2Proof.Machine.execSwageStreamTimeout array s
  | .agreeArrive pkt => Sys2Proof.Machine.execAgreeArrive pkt s
  | .agreeRelease pkt => Sys2Proof.Machine.execAgreeRelease pkt s
  | .agrForce value => Sys2Proof.Machine.execAgrForce value s
  | .agrBindWrite counter value => Sys2Proof.Machine.execAgrBindWrite counter value s
  | .lendReportStart counter => Sys2Proof.Machine.execLendReportStart counter s
  | .portEnable port => Sys2Proof.Machine.execPortEnable port s
  | .portDisable port => Sys2Proof.Machine.execPortDisable port s
  | .portRetrain port => Sys2Proof.Machine.execPortRetrain port s
  | .portEnterIdle port => Sys2Proof.Machine.execPortEnterIdle port s
  | .negotiationComplete port pages => Sys2Proof.Machine.execNegotiationComplete port pages s
  | .temperFomUpdate eyes => Sys2Proof.Machine.execTemperFomUpdate eyes s
  | .trainingTimeout port coarseDone => Sys2Proof.Machine.execTrainingTimeout port coarseDone s
  | .commaReceive lane tag => Sys2Proof.Machine.execCommaReceive lane tag s
  | .codewordReceive port cw => Sys2Proof.Machine.execCodewordReceive port cw s
  | .replayTimeout port => Sys2Proof.Machine.execReplayTimeout port s
  | .laneUnlockTimeout lane => Sys2Proof.Machine.execLaneUnlockTimeout lane s
  | .signalLoss port => Sys2Proof.Machine.execSignalLoss port s
  | .portUpTimeout port => Sys2Proof.Machine.execPortUpTimeout port s
  | .failedPortRetry port => Sys2Proof.Machine.execFailedPortRetry port s
  | .eidleAutoEntry port => Sys2Proof.Machine.execEidleAutoEntry port s
  | .eidleAckWaitTimeout port => Sys2Proof.Machine.execEidleAckWaitTimeout port s
  | .eidleExitComplete port => Sys2Proof.Machine.execEidleExitComplete port s
  | .ethFrameReceive port fec frame fcs => Sys2Proof.Machine.execEthFrameReceive port fec frame fcs s
  | .pfcReceive port classes quanta => Sys2Proof.Machine.execPfcReceive port classes quanta s
  | .pfcPauseExpire port cls => Sys2Proof.Machine.execPfcPauseExpire port cls s
  | .pfcRepeat port cls => Sys2Proof.Machine.execPfcRepeat port cls s
  | .hostWrite offset bytes => Sys2Proof.Machine.execHostWrite offset bytes s
  | .hostRead offset bytes => Sys2Proof.Machine.execHostRead offset bytes s
  | .hostReadResp hdr payload => Sys2Proof.Machine.execHostReadResp hdr payload s
  | .hostReadTimeout tag => Sys2Proof.Machine.execHostReadTimeout tag s
  | .reverseWindowRequest hdr payload => Sys2Proof.Machine.execReverseWindowRequest hdr payload s
  | .hostCompletionReceive id status payload => Sys2Proof.Machine.execHostCompletionReceive id status payload s
  | .reverseReadTimeout id => Sys2Proof.Machine.execReverseReadTimeout id s
  | .msiWrite hdr => Sys2Proof.Machine.execMsiWrite hdr s
  | .memPortEnumerate port supported capacity => Sys2Proof.Machine.execMemPortEnumerate port supported capacity s
  | .cxlAccess port address op => Sys2Proof.Machine.execCxlAccess port address op s
  | .cxlResponse port line poison => Sys2Proof.Machine.execCxlResponse port line poison s
  | .memDeviceTimeout port => Sys2Proof.Machine.execMemDeviceTimeout port s
  | .deviceEventRecord port uncorrectable address => Sys2Proof.Machine.execDeviceEventRecord port uncorrectable address s
  | .hostLinkLoss cause => Sys2Proof.Machine.execHostLinkLoss cause s
  | .functionLevelReset => Sys2Proof.Machine.execFunctionLevelReset s
  | .perstNFall => Sys2Proof.Machine.execPerstNFall s
  | .memDeviceDown port cause => Sys2Proof.Machine.execMemDeviceDown port cause s
  | .brgPortEnable port => Sys2Proof.Machine.execBrgPortEnable port s
  | .brgPortDisable port => Sys2Proof.Machine.execBrgPortDisable port s
  | .brgPortRetrain port => Sys2Proof.Machine.execBrgPortRetrain port s
  | .brgPortRelease port => Sys2Proof.Machine.execBrgPortRelease port s
  | .tenActivate ten => Sys2Proof.Machine.execTenActivate ten s
  | .tenQuench ten => Sys2Proof.Machine.execTenQuench ten s
  | .tenAcknowledge ten => Sys2Proof.Machine.execTenAcknowledge ten s
  | .tenQuenchAll => Sys2Proof.Machine.execTenQuenchAll s
  | .tenRebind value => Sys2Proof.Machine.execTenRebind value s
  | .quenchDrainComplete ten => Sys2Proof.Machine.execQuenchDrainComplete ten s
  | .quenchDrainTimeout ten => Sys2Proof.Machine.execQuenchDrainTimeout ten s
  | .quenchClearComplete ten => Sys2Proof.Machine.execQuenchClearComplete ten s
  | .rebindApplyComplete => Sys2Proof.Machine.execRebindApplyComplete s
  | .granuleClearComplete granule => Sys2Proof.Machine.execGranuleClearComplete granule s
  | .blockReset value => Sys2Proof.Machine.execBlockReset value s
  | .blockResetComplete block => Sys2Proof.Machine.execBlockResetComplete block s
  | .lexReqReceive src pkt => Sys2Proof.Machine.execLexReqReceive src pkt s
  | .mailboxWrite src hdr payload => Sys2Proof.Machine.execMailboxWrite src hdr payload s
  | .issioDatagram ip port dstPort secured datagram => Sys2Proof.Machine.execIssioDatagram ip port dstPort secured datagram s
  | .i3cPrivateWrite bytes => Sys2Proof.Machine.execI3cPrivateWrite bytes s
  | .i3cPrivateRead => Sys2Proof.Machine.execI3cPrivateRead s
  | .entdaa address => Sys2Proof.Machine.execEntdaa address s
  | .setdasa staticAddress address => Sys2Proof.Machine.execSetdasa staticAddress address s
  | .rstdaa => Sys2Proof.Machine.execRstdaa s
  | .getpid => Sys2Proof.Machine.execGetpid s
  | .getbcr => Sys2Proof.Machine.execGetbcr s
  | .getdcr => Sys2Proof.Machine.execGetdcr s
  | .enec => Sys2Proof.Machine.execEnec s
  | .disec => Sys2Proof.Machine.execDisec s
  | .lexRead req => Sys2Proof.Machine.execLexRead req s
  | .lexWrite req => Sys2Proof.Machine.execLexWrite req s
  | .arpRequest target => Sys2Proof.Machine.execArpRequest target s
  | .icmpEcho dst payload => Sys2Proof.Machine.execIcmpEcho dst payload s
  | .coldReset facts => Sys2Proof.Machine.execColdReset facts s
  | .bootLinkTimeout => Sys2Proof.Machine.execBootLinkTimeout s
  | .warmReset facts => Sys2Proof.Machine.execWarmReset facts s
  | .memPortReturnTimeout port => Sys2Proof.Machine.execMemPortReturnTimeout port s
  | .enginePark unit => Sys2Proof.Machine.execEnginePark unit s
  | .engineWakeComplete unit => Sys2Proof.Machine.execEngineWakeComplete unit s
  | .park => Sys2Proof.Machine.execPark s
  | .parkEntryComplete => Sys2Proof.Machine.execParkEntryComplete s
  | .unpark => Sys2Proof.Machine.execUnpark s
  | .unparkComplete => Sys2Proof.Machine.execUnparkComplete s
  | .powerSample mw => Sys2Proof.Machine.execPowerSample mw s
  | .powerWindowEnd => Sys2Proof.Machine.execPowerWindowEnd s
  | .coolingWrite value => Sys2Proof.Machine.execCoolingWrite value s
  | .faultRaise fault => Sys2Proof.Machine.execFaultRaise fault s
  | .faultRecordClose record => Sys2Proof.Machine.execFaultRecordClose record s
  | .fltAck value => Sys2Proof.Machine.execFltAck value s
  | .fltClr value => Sys2Proof.Machine.execFltClr value s
  | .recRecord => Sys2Proof.Machine.execRecRecord s
  | .recCompare => Sys2Proof.Machine.execRecCompare s
  | .recFeed => Sys2Proof.Machine.execRecFeed s
  | .recStop => Sys2Proof.Machine.execRecStop s
  | .recDump => Sys2Proof.Machine.execRecDump s
  | .feedRelease => Sys2Proof.Machine.execFeedRelease s
  | .recDumpComplete => Sys2Proof.Machine.execRecDumpComplete s
  | .detSigRead => Sys2Proof.Machine.execDetSigRead s
  | .keyFuse session slot hash => Sys2Proof.Machine.execKeyFuse session slot hash s
  | .keyRevoke session slot => Sys2Proof.Machine.execKeyRevoke session slot s
  | .svnAdvance session => Sys2Proof.Machine.execSvnAdvance session s
  | .imgErase session => Sys2Proof.Machine.execImgErase session s
  | .imgDataWrite session bytes => Sys2Proof.Machine.execImgDataWrite session bytes s
  | .imgVerify session => Sys2Proof.Machine.execImgVerify session s
  | .imgActivate session => Sys2Proof.Machine.execImgActivate session s
  | .imgCommandComplete => Sys2Proof.Machine.execImgCommandComplete s
  | .dbgChallenge by_ => Sys2Proof.Machine.execDbgChallenge by_ s
  | .dbgResponse by_ bytes => Sys2Proof.Machine.execDbgResponse by_ bytes s
  | .zeroize session => Sys2Proof.Machine.execZeroize session s
  | .retire session => Sys2Proof.Machine.execRetire session s
  | .spdmRequest via req => Sys2Proof.Machine.execSpdmRequest via req s
  | .railLoss => Sys2Proof.Machine.execRailLoss s
  | .railRestoreTimeout facts => Sys2Proof.Machine.execRailRestoreTimeout facts s
  | .sensorSample readings => Sys2Proof.Machine.execSensorSample readings s
  | .thermCritical sensor => Sys2Proof.Machine.execThermCritical sensor s
  | .ppsInEdge width => Sys2Proof.Machine.execPpsInEdge width s
  | .ppsLossTimeout => Sys2Proof.Machine.execPpsLossTimeout s
  | .ppsOutSecond => Sys2Proof.Machine.execPpsOutSecond s
  | .jtagInstruction instr => Sys2Proof.Machine.execJtagInstruction instr s
  | .memPerstRelease port => Sys2Proof.Machine.execMemPerstRelease port s
  | .mgtPhyResetRelease => Sys2Proof.Machine.execMgtPhyResetRelease s
  | .skewAllowanceExpire port => Sys2Proof.Machine.execSkewAllowanceExpire port s
  | .pcsAlignmentLock port => Sys2Proof.Machine.execPcsAlignmentLock port s
  | .hostLinkUp => Sys2Proof.Machine.execHostLinkUp s
  | .hostConfigWrite address value => Sys2Proof.Machine.execHostConfigWrite address value s
  | .msixTableWrite offset value => Sys2Proof.Machine.execMsixTableWrite offset value s
  | .ptpMessageReceive offset locked => Sys2Proof.Machine.execPtpMessageReceive offset locked s
  | .ptpSourceLoss => Sys2Proof.Machine.execPtpSourceLoss s
  | .dhcpReply address => Sys2Proof.Machine.execDhcpReply address s
  | .resetNFall => Sys2Proof.Machine.execResetNFall s
  | .refclkLoss die => Sys2Proof.Machine.execRefclkLoss die s
  | .shadowLoadComplete array => Sys2Proof.Machine.execShadowLoadComplete array s

end Sys2Proof.Machine
end

