-- ==== Sys2Proof/Safety.lean ====
section
/-! DEFINITION. The terms in which claims speak of the machine: how a command completes, when the switch is at rest, what
the root of trust never gives back. -/

namespace Sys2Proof.Machine

/-! ### Completion -/

/-- `c` completes at `s`: its own effect makes `w` of the switch, and the end that every command has follows (`Sw.settle`:
the collector takes the faults raised, parked units that have work start to wake, a bring-up whose ports are done asserts
READY, the schedulers note what became eligible). The queue and the root of trust stay as they are. -/
def Does (c : Instr) (s : State) (w : Sw) : Prop := exec c s = .next { s with sw := w.settle }

/-- The same for a command whose own effect makes `t` of the whole state. -/
def DoesAll (c : Instr) (s t : State) : Prop := exec c s = .next { t with sw := t.sw.settle }

/-- No fault is due, no record's time is over, the summary word has not changed since the last command, no bring-up waits for its
ports, no linger time of 0 has started and no lost RESULT is to be told: between the commands of a part that is READY. -/
def Sw.rests (w : Sw) : Bool :=
  w.flt.due.isEmpty && !w.flt.recs.any (fun kv => kv.2.due w.now) && w.fltSum == w.flt.seen && w.boot.linkAt.isNone &&
  (w.anv.ctx.filter (fun kv => kv.2.linger == some 0)).isEmpty && w.fab.lostRes.isEmpty

/-- No lexicon request has asked for a warm reset that is still to be performed. -/
def State.unasked (s : State) : Bool := !s.sw.boot.asked

/-! ### The root of trust (19) -/

/-- Every state of the root of trust that chapter 19 allows: a debug level of Table 19.10, the floor of the security version
no higher than its fuses, at most four sessions, a NOR without an entry that equals an erased byte. -/
def Sec.Inv (x : Sec) : Bool :=
  decide (x.debug ≤ 2) && decide (x.svnMin ≤ x.svnFuse) && decide (x.sess.length ≤ 4) && AMap.risingFrom 0 x.nor &&
  x.nor.all (fun c => c.2 != 0xFF)

/-- What fuses never give back (19 R719, R721, R733): a fused slot keeps its hash, a revoked slot stays revoked, the security
version does not fall, a retired part stays retired. -/
def Sec.Grows (x y : Sec) : Prop :=
  (∀ k, (x.fuse k).fused = true → (y.fuse k).fused = true ∧ (y.fuse k).hash = (x.fuse k).hash ∧
    ((x.fuse k).revoked = true → (y.fuse k).revoked = true)) ∧
  x.svnFuse ≤ y.svnFuse ∧ (x.retired = true → y.retired = true)

end Sys2Proof.Machine
end

