-- ==== Sys2Proof/Certificates/Slice0/Obligations.lean ====
section
/-! DEFINITION. The statements for the provers. `Does c s w` says that command `c` completes at `s` with its own effect `w` on
the switch, after which comes the end that every command has (17 R661, R673; 16 R632, R642). -/

open Sys2Proof Sys2Proof.Machine

/-! ### The queue, the tick, reset, the end of a command -/

/-- A step takes the command at the front of the queue and runs it on the rest of the state (the model's queue, log 1). -/
def Obligations.StepRunsTheFrontCommand : Prop :=
  ∀ (c : Instr) (cs : List Instr) (s : State), step { s with pending := c :: cs } = exec c { s with pending := cs }

/-- With no command waiting a step is one tick of the 250 MHz timebase, 4 ns (01 R38; the model's choice, log 1). -/
def Obligations.EmptyQueueIsOneTick : Prop :=
  ∀ s : State, s.pending = [] → step s = .next { s with sw := { s.sw with now := s.sw.now + 4 } }

/-- The state after reset: READY, no command waits, every tenancy is Quenched, every Lexicon element is at its default, every
byte of HBM reads 0, no fault record is valid and FAULT_N is high, debug is locked. -/
def Obligations.ResetLeaves : Prop :=
  State.reset.pending = [] ∧ State.reset.sw.boot.ready = true ∧ State.reset.sw.boot.stage = 9 ∧
  State.reset.sw.pwr.state = .active ∧ (∀ t, (State.reset.sw.tenSt t).st = .quenched) ∧
  (∀ (r : Reg) (el : Nat), State.reset.sw.rd r el = r.dflt.at el) ∧ (∀ a, memRd State.reset.sw.hbm a = 0) ∧
  State.reset.sw.fltSum = 0 ∧ State.reset.sw.faultN = true ∧ State.reset.sec.debug = 0

/-- Where no fault is due, no record's time is over, no bring-up waits, no linger time of 0 has started and no RESULT was lost, the
end of a command only lets parked units that have work start to wake, the units parked or waking being the same before and after, begins the idle
periods of units that have become idle, and brings the schedulers up to date; where nothing is queued and no deficit is kept the
schedulers too stay as they are. -/
def Obligations.EndOfACommandOnlyWakes : Prop :=
  ∀ w : Sw, w.rests = true →
    ∃ pk wk ia, w.settle = ({ w with pwr := { w.pwr with parked := pk, waking := wk, busy := w.busyUnits, idleAt := ia } } : Sw).eligSync ∧
      (w.pwr.parked = [] → w.busyUnits = w.pwr.busy → w.settle = w.eligSync) ∧
      (∀ u, (u ∈ pk ∨ u ∈ wk) ↔ (u ∈ w.pwr.parked ∨ u ∈ w.pwr.waking)) ∧
      (∀ u, u ∈ w.pwr.busy → u ∉ w.busyUnits → ia.get? (unitNo u) = some (w.now, w.rd L.pwrParkIdleNs)) ∧
      (∀ u, u ∉ w.pwr.busy ∨ u ∈ w.busyUnits → ia.get? (unitNo u) = w.pwr.idleAt.get? (unitNo u)) ∧
      w.settle = { w with pwr := { w.pwr with parked := pk, waking := wk, busy := w.busyUnits, idleAt := ia }, bel := w.settle.bel } ∧
      (w.belPorts = [] → w.bel.defi = [] → w.settle.bel = w.bel)

/-- No command touches the queue of those that wait behind it. -/
def Obligations.NoCommandTouchesTheQueue : Prop :=
  ∀ (c : Instr) (s t : State), exec c s = .next t → t.pending = s.pending

/-- A write of a Lexicon element reads back cut to the element's width, and leaves every element with another key as it was. -/
def Obligations.ElementsKeepTheirValues : Prop :=
  ∀ (s : Sw) (r q : Reg) (el k v : Nat),
    (s.wr r el v).rd r el = v % 256 ^ r.width ∧ (q.key k ≠ r.key el → (s.wr r el v).rd q k = s.rd q k) ∧
    s.wr r el v = { s with lex := (s.wr r el v).lex }

/-! ### The root of trust (19) -/

/-- The root of trust after reset is in a state that chapter 19 allows. -/
def Obligations.RootOfTrustHoldsAtReset : Prop := State.reset.sec.Inv = true

/-- Every step keeps the root of trust in a state that chapter 19 allows: debug level at most 2, the floor of the security
version no higher than its fuses, at most four SPDM sessions, the NOR in its canonical form. -/
def Obligations.RootOfTrustIsKept : Prop :=
  ∀ s t : State, s.sec.Inv = true → step s = .next t → t.sec.Inv = true

/-- No step gives a fuse back: resets, rail losses and every command leave a fused slot its hash, a revoked slot revoked, the
fused security version no lower, a retired part retired. -/
def Obligations.FusesNeverGoBack : Prop := ∀ s t : State, step s = .next t → s.sec.Grows t.sec

/-! ### 01: rate monitors and die-to-die links -/

/-- The end of the window that runs writes the monitor's count and mean voltage, and the next window begins there with the
length now set; a stopped monitor ends no window. A write of `dev.core.hs_window` is held between 1,000 ns and 1,000,000 ns, 0
stopping the monitors when their windows end; a stopped monitor starts at once with what is written. -/
def Obligations.RateMonitors : Prop :=
  ∀ s : State,
    (∀ (d : Die) (rate : BitVec 32) (mv : BitVec 16),
      (s.sw.hsWin d = 0 → exec (.rateMonitorWindow d rate mv) s = .next s) ∧
      (s.sw.hsWin d ≠ 0 → 600 ≤ mv.toNat → mv.toNat ≤ 850 →
        ∃ w, Does (.rateMonitorWindow d rate mv) s w ∧ w.rd (L.devCoreHsRate.at d) = rate.toNat ∧
          w.rd (L.devCoreVddMv.at d) = mv.toNat ∧ w.hsWin d = s.sw.rd L.devCoreHsWindow ∧
          w.hsAt d = s.sw.hsAt d + s.sw.hsWin d ∧ w.now = max s.sw.now (s.sw.hsAt d + s.sw.hsWin d) ∧
          (∀ k : Die, k ≠ d → w.hsWin k = s.sw.hsWin k ∧ w.hsAt k = s.sw.hsAt k) ∧
          w = { s.sw with
            now := w.now, lex := w.lex, pins := { s.sw.pins with hsWin := w.pins.hsWin, hsAt := w.pins.hsAt } })) ∧
    (∀ v : BitVec 32, s.busyFor 0x2010 5 = false →
      ∃ w, Does (.hsWindowWrite v) s w ∧
        w.rd L.devCoreHsWindow = (if v.toNat = 0 then 0 else max 1000 (min 1000000 v.toNat)) ∧
        (∀ d : Die, s.sw.hsWin d ≠ 0 → w.hsWin d = s.sw.hsWin d ∧ w.hsAt d = s.sw.hsAt d) ∧
        (∀ d : Die, s.sw.hsWin d = 0 → w.hsWin d = w.rd L.devCoreHsWindow ∧ w.hsAt d = s.sw.now) ∧
        w = { s.sw with lex := w.lex, pins := { s.sw.pins with hsWin := w.pins.hsWin, hsAt := w.pins.hsAt } })

/-- A corrected word is counted and raises a corrected fault of its link; an uncorrectable one stops the link, which takes it
out of the links that are up, and raises a fatal fault. Of a link that is stopped both do nothing. -/
def Obligations.DieToDieLinks : Prop :=
  ∀ (s : State) (j : LinkId),
    (s.sw.pins.d2dFatal.contains j.val = true →
      exec (.d2dWordCorrected j) s = .next s ∧ exec (.d2dLinkStop j) s = .next s) ∧
    (s.sw.pins.d2dFatal.contains j.val = false →
      Does (.d2dWordCorrected j) s ((s.sw.inc (L.devD2dCorrected.at j)).fault 0x01 (46 + j) none (detL 1 j 0 0 0) 0) ∧
      ∃ w, Does (.d2dLinkStop j) s w ∧ j.val ∈ w.pins.d2dFatal ∧ j.val ∉ w.pins.d2dUp ∧
        w.flt.due.getLast? = some ⟨0x02, 46 + j, none, BitVec.ofNat 64 (detL 1 j 0 0 0), 0⟩)

/-! ### 02, 03: packets in -/

/-- A packet's first word comes in at a port or from the bridge: as a control packet where its `ctl` is 1, as a data header, with
no undefined use, where it is 0. Then an end word, and CREDIT, which is the control packet of kind 0; another packet is none. -/
def Obligations.PacketsComeIn : Prop :=
  ∀ (s : State) (src : Ingress),
    (∀ h : Word256, pCtl h = 1 →
      Does (.controlPacketReceive src h) s (s.sw.rxCtl src h) ∧ Does (.dataHeaderReceive src h) s (s.sw.rxCtl src h)) ∧
    (∀ (h : Word256) (w : Sw), pCtl h ≠ 1 → s.sw.rxHeader src h = .ok w →
      Does (.dataHeaderReceive src h) s w ∧ Does (.controlPacketReceive src h) s w) ∧
    (∀ (pay : Bytes) (e : BitVec 64), Does (.dataEndWordReceive src pay e) s (s.sw.rxEnd src pay e)) ∧
    (∀ (p : Lane) (h : Word256),
      (pCtl h = 1 → pKind h = 0 → Does (.creditReceive p h) s (s.sw.rxCtl (.port p) h)) ∧
      (pCtl h ≠ 1 ∨ pKind h ≠ 0 → exec (.creditReceive p h) s = .next s))

/-- A checked CREDIT adds, for each class, the difference of its running total from the last one, modulo 2^16; the credit of
every other port stays, and nothing else changes but the counters of received traffic. -/
def Obligations.CreditAddsTheDifference : Prop :=
  ∀ (s : State) (p : Lane) (pkt : Word256), s.sw.ingressOpen (.port p) = true → checkOk pkt = true → pCtl pkt = 1 →
    pKind pkt = 0 → ctlMalformed pkt = false →
    ∃ w, Does (.creditReceive p pkt) s w ∧
      (∀ c : Fin 8, w.credit p c = { s.sw.credit p c with
        tx := (s.sw.credit p c).tx + (hf pkt (64 + 16 * c) 16 + 65536 - (s.sw.credit p c).rxLast) % 65536
        rxLast := hf pkt (64 + 16 * c) 16 }) ∧
      (∀ (q : Lane) (c : Fin 8), q ≠ p → w.credit q c = s.sw.credit q c) ∧
      w = { s.sw with cred := w.cred, lex := w.lex }

/-- A packet whose check fails goes no further and only counts as received traffic; a data packet that was arriving at its
ingress is cut by a new header. Where the ingress is not open nothing comes in. -/
def Obligations.FailedCheckIsDiscarded : Prop :=
  ∀ (s : State) (src : Ingress) (pkt : Word256),
    (s.sw.ingressOpen src = false → Does (.controlPacketReceive src pkt) s s.sw ∧ Does (.dataHeaderReceive src pkt) s s.sw) ∧
    (s.sw.ingressOpen src = true → checkOk pkt = false →
      (pCtl pkt = 1 → Does (.controlPacketReceive src pkt) s (s.sw.countRx (ingPort src) 32)) ∧
      (pCtl pkt ≠ 1 →
        Does (.dataHeaderReceive src pkt) s ((s.sw.cutArriving (ingKey src)).countRx (ingPort src) (dataBytes (hPlen pkt)))))

/-- A data packet from the bridge that passes its checks and is bound for the switch's own block takes the billets of its cells
and joins the fabric on its die, its end word still to come; where they are not to be had it joins without them and waits. Of a
class that is ruled, or while its die is in guard mode, no meter colours it, and no mirror session selects it by pattern. -/
def Obligations.BridgePacketJoinsTheFabric : Prop :=
  ∀ (s : State) (d : Die) (h : Word256) (v : Sw) (got : Grants),
    v = s.sw.beginRx (512 + d) h → s.sw.ingressOpen (.bridge d) = true → s.sw.fab.arriving.get? (512 + d) = none →
    checkOk h = true → pCtl h ≠ 1 → hdrMalformed h = false → hOff h + 64 * hPlen h ≤ 2 ^ 40 → s.sw.own (hDst h) = true →
    (∀ k, k < 8 → s.sw.rd (L.mirKind.atIdx k) ≠ 4) → (s.sw.ruled (pClass h) = true ∨ s.sw.guarding d = true) →
    v.checks d none (pSrc h) (hDst h) (hOff h) (touched h) (pKind h) (hTen h) true = .ok →
    got = Sw.allocCells (cellsOf (hPlen h)) v d (.bridge d) (some (BitVec.ofNat 8 (hTen h))) →
    ∃ w k, Does (.dataHeaderReceive (.bridge d) h) s w ∧ k ∈ w.fab.pkts ∧ k.id = s.sw.fab.nextId + 1 ∧ k.hdr = h ∧
      k.src = .bridge d ∧ k.inDie = d ∧ k.out = v.ownOut d (hDst h % 32) h ∧ k.stage = .voq ∧ k.fin = none ∧
      w.fab.arriving.get? (512 + d) = some (s.sw.fab.nextId + 1) ∧
      (∀ (hs : List Nat) (u : Sw), got = .ok (hs, u) → k.inBil = hs ∧ k.wait = false) ∧
      (∀ pend : Bool, got = .error pend → k.inBil = [] ∧ k.wait = true ∧ ∃ r ∈ w.bil.waits, r.who = .cells k.id)

/-! ### 03, 05: through the switch and out -/

/-- Every cell slot, egress selection and end of a packet completes, whatever the state. A cell slot moves a lone control packet
to its link or to its egress, one cell of a lone data packet, and nothing where nothing waits (03 R106 to R109). Where a packet
that is leaving is whole its end word goes out, intact or poisoned, and its cells are free; else nothing leaves (02 R71, R75, 03
R125). The hole timer declares the hole before the nearest packet held, which then is delivered, and raises its fault (03 R131,
R133). A held SIGNAL whose time ends leaves Short, its fault raised (11 R472, R475). -/
def Obligations.CrossbarAndEgress : Prop :=
  ∀ s : State,
    (∀ d : Die,
      (∃ w, Does (.crossbarCellSlot d) s w) ∧
      (s.sw.fab.pkts = [] → s.sw.fab.xm = [] →
        (s.sw.fab.ctl = [] → Does (.crossbarCellSlot d) s s.sw) ∧
        (∀ c : CPkt, s.sw.fab.ctl = [c] → c.atEg = false → c.at_ = d →
          (c.inDie ≠ c.egDie → c.link = false → s.sw.pairStopped c.inDie c.egDie = false →
            ∃ w, Does (.crossbarCellSlot d) s w ∧ w.fab.ctl = [{ c with link := true }]) ∧
          (∀ p : Lane, c.inDie = c.egDie ∨ c.link = true → c.out = .port p → pKind c.pkt ≠ 2 ∨ s.sw.role p ≠ 1 →
            ∃ w, Does (.crossbarCellSlot d) s w ∧ w.fab.ctl = [{ c with atEg := true, ord := s.sw.fab.nextOrd + 1 }]))) ∧
      (∀ (k : DPkt) (p : Lane), s.sw.fab.pkts = [k] → s.sw.fab.xm = [] → s.sw.fab.ctl = [] → s.sw.bil.waits = [] →
        k.inDie = d → k.egDie = d → k.out = .port p → k.wait = false → k.fan = none → 0 < k.moved → k.moved < k.here →
        k.moved + 1 < k.cells →
        ∃ w q, Does (.crossbarCellSlot d) s w ∧ w.fab.pkts = [q] ∧
          q = { k with moved := k.moved + 1, inBil := k.inBil.drop 1, egBil := k.egBil ++ k.inBil.take 1
                       inRes := q.inRes, inSh := q.inSh })) ∧
    (∀ p : Lane,
      (∃ w, Does (.egressSelect p) s w) ∧ (∃ w, Does (.egressPacketComplete p) s w) ∧
      (s.sw.leavingAt p = none → Does (.egressPacketComplete p) s s.sw) ∧
      (∀ k : DPkt, s.sw.leavingAt p = some k →
        (k.fin = none ∨ k.moved < k.cells → Does (.egressPacketComplete p) s s.sw) ∧
        (∀ good : Bool, k.fin = some good → k.cells ≤ k.moved → k.staged = none → pKind k.hdr ≠ 6 →
          s.sw.flow (hFlow k.hdr) = none → s.sw.bil.waits = [] →
          ∃ w, Does (.egressPacketComplete p) s w ∧
            .data p k.hdr (slice k.pay 0 (64 * hPlen k.hdr)) (mkEnd k.hdr (slice k.pay 0 (64 * hPlen k.hdr)) good) ∈ w.tx ∧
            (∀ q ∈ w.fab.pkts, q.id ≠ k.id) ∧
            (good = false → w.rd (L.fabRxPoisonMade.at k.egDie) =
              (s.sw.rd (L.fabRxPoisonMade.at k.egDie) + 1) % 256 ^ L.fabRxPoisonMade.width)))) ∧
    (∀ (src dst : EpId) (cls : Fin 8) (ent : BitVec 8) (f : Flow) (t key : Nat), key = flowKey src.toNat dst.toNat cls ent.toNat →
      s.sw.flow key = some f → f.timer = some t →
      (∃ w, Does (.holeTimerExpire src dst cls ent) s w) ∧
      (∀ (k : DPkt) (p : Lane), f.overflow = false → f.current = none → k ∈ s.sw.heldPkts key → s.sw.pkt? k.id = some k →
        k.out = .port p → pKind k.hdr ≠ 3 →
        (∀ q ∈ s.sw.heldPkts key, q ≠ k → (hSeq k.hdr + 2 ^ 32 - f.expected) % 2 ^ 32 < (hSeq q.hdr + 2 ^ 32 - f.expected) % 2 ^ 32) →
        ∃ w, Does (.holeTimerExpire src dst cls ent) s w ∧ w.now = max s.sw.now t ∧
          w.flow key = some { f with expected := hSeq k.hdr, timer := none, current := some k.id } ∧
          (∃ q ∈ w.fab.pkts, q.id = k.id ∧ q.stage = .queued) ∧
          w.rd (L.fwdReseqHoles.at f.die) = (s.sw.rd (L.fwdReseqHoles.at f.die) + 1) % 256 ^ L.fwdReseqHoles.width ∧
          w.flt.due = s.sw.flt.due ++ [⟨0x11, f.die, some (BitVec.ofNat 8 f.ten),
            BitVec.ofNat 64 (detP (pSrc k.hdr) (hDst k.hdr) (hEntropy k.hdr) (pClass k.hdr) p 0),
            BitVec.ofNat 64 (f.expected * 2 ^ 32 + (hSeq k.hdr + 2 ^ 32 - f.expected) % 2 ^ 32)⟩])) ∧
    (∀ (pkt : Word256) (h : Held), s.sw.fab.held.find? (fun h => decide (h.pkt = pkt)) = some h →
      ∃ (w : Sw) (c : CPkt), Does (.signalHoldExpire pkt) s w ∧ w.now = max s.sw.now h.deadline ∧
        w.fab.held = eraseOne h s.sw.fab.held ∧ w.fab.ctl = s.sw.fab.ctl ++ [c] ∧ c.pkt = sealPkt (hset pkt 75 1 1) ∧
        c.out = h.out ∧ c.atEg = true ∧
        w.rd (L.agrSigShort.at h.die) = (s.sw.rd (L.agrSigShort.at h.die) + 1) % 256 ^ L.agrSigShort.width ∧
        w.flt.due = s.sw.flt.due ++ [⟨0x2D, 8 + h.die, some (BitVec.ofNat 8 (cTen pkt)),
          BitVec.ofNat 64 (detP (pSrc pkt) (cDst pkt) (sFent pkt) (sFclass pkt) 0 0),
          BitVec.ofNat 64 (sAcount pkt * 2 ^ 32 + s.sw.deliveredOf (sFlow pkt))⟩])

/-- A refresh makes the die's copies equal to the depths of the ports on other dies, and leaves the copies of the other dies;
the end of a halving restores the weight and nothing else. -/
def Obligations.DepthReportsAndHalvings : Prop :=
  ∀ (s : State) (d : Die),
    (∃ w, Does (.depthReportRefresh d) s w ∧
      (∀ (p : Lane) (c : Fin 8), laneDie p ≠ d → w.fab.depth.getD (4096 * d + 8 * p + c) 0 = s.sw.depthOf p c) ∧
      (∀ k, k / 4096 ≠ d.val → w.fab.depth.get? k = s.sw.fab.depth.get? k) ∧
      w = { s.sw with fab := { s.sw.fab with depth := w.fab.depth } }) ∧
    (∀ (p : Lane) (c : Fin 8) (t : Nat), s.sw.fab.halve.get? (4096 * d.val + 8 * p.val + c.val) = some t →
      ∃ w, Does (.sprayHalvingExpire d p c) s w ∧ w.fab.halve.get? (4096 * d.val + 8 * p.val + c.val) = none ∧
        (∀ k, k ≠ 4096 * d.val + 8 * p.val + c.val → w.fab.halve.get? k = s.sw.fab.halve.get? k) ∧
        w = { s.sw with now := max s.sw.now t, fab := { s.sw.fab with halve := w.fab.halve } })

/-- At a packet boundary a due CREDIT leaves first, with the present totals; with none due, a packet of class 7 that waits. A
native port sends it in one short codeword on one of its lanes, with the number after the last and what the receiver accepted,
beside commas that are due; an Ethernet port in one frame. -/
def Obligations.EgressOrder : Prop :=
  ∀ (s : State) (p : Lane) (x : PortSt) (sent : Word256 → Sw → Prop), x = s.sw.port p → s.sw.portUp p = true →
    s.sw.linkRuns p = true → s.sw.leavingAt p = none → x.exitAt = none → x.eidleTx = false → s.sw.role p ≠ 3 →
    s.sw.linkRoom p 1 40 = true → (x.mode = 1 → 0 < x.width) →
    (sent = fun pkt w =>
      (x.mode ≠ 1 → w.tx = .frame p (s.sw.txInv p) (s.sw.ethFrame p (pClass pkt) (wordBytes pkt)) :: .ctl p pkt :: s.sw.tx) ∧
      (x.mode = 1 → ∃ n scr l, p.val ≤ n ∧ n < p.val + x.width ∧ w.tx = l ++ .ctl p pkt :: s.sw.tx ∧
        l.filter (fun t => match t with | .comma _ _ _ _ => false | _ => true) =
          [.codeword p n (shortMsg x.nakDue false false x.lseq x.aseq pkt.toNat)
            (wireBlocks (bit (s.sw.rd L.linkLanePol n) 0) false (shortMsg x.nakDue false false x.lseq x.aseq pkt.toNat) scr)])) →
    (s.sw.creditDue p = true →
      ∃ w, Does (.egressSelect p) s w ∧ sent (mkCredit (s.sw.totals p)) w ∧
        (w.port p).sentTot = s.sw.totals p ∧ w.fab = s.sw.fab) ∧
    (∀ c : CPkt, s.sw.creditDue p = false → s.sw.paused p 7 = false → s.sw.ctlHead p 7 = some c →
      ∃ w, Does (.egressSelect p) s w ∧ sent c.pkt w ∧
        w.fab = { s.sw.fab with ctl := s.sw.fab.ctl.filter (fun e => e.id != c.id) })

/-! ### 04: billets -/

/-- A request of 0 bytes or of more than 65,536 is answered at once with the null handle and charges nothing; one that a pool
serves takes its billet; one that none serves waits. A context whose request would wait spills what it holds first; another owner
spills nothing. -/
def Obligations.BilletRequests : Prop :=
  ∀ (s : State) (d : Die) (o : Owner) (t : Option Ten) (n : Nat),
    (n = 0 ∨ 65536 < n → exec (.billetAllocate d o t n) s = .next s) ∧
    (∀ h w, (s.sw.spillsFor o n).allocate d o t n = .got h w → Does (.billetAllocate d o t n) s w) ∧
    (0 < n → n ≤ 65536 → (∀ h w, (s.sw.spillsFor o n).allocate d o t n ≠ .got h w) →
      Does (.billetAllocate d o t n) s ((s.sw.spillsFor o n).addWait d o t n .owner)) ∧
    ((∀ c, o ≠ .ctx c) → s.sw.spillsFor o n = s.sw)

/-- A request that takes a billet in the owner's reserve: the first handle of the home pool's cache, granted to the owner and
charged with the size of the billet, not of the request; the free count of the pool falls by one. A context's reserve is that of
its own die. -/
def Obligations.ReserveServesFirst : Prop :=
  ∀ (s : State) (d : Die) (o : Owner) (t : Option Ten) (n i k : Nat) (l : List (Nat × Nat)), 0 < n → n ≤ 65536 →
    s.sw.bil.rebuild.contains d.val = false → (∀ c : CtxId, o = .ctx c → c.val / 1024 = d.val) →
    (s.sw.ownerQuota d o).home = poolFor n → 0 < s.sw.ownerUnused d o →
    (s.sw.store d (poolFor n)).cache = (i, k) :: l → 0 < k →
    ∃ w, Does (.billetAllocate d o t n) s w ∧
      w.bil.granted.get? (mkHandle d (poolFor n) i) = some ⟨o, t, bilSize (poolFor n)⟩ ∧
      w.bilFree d (poolFor n) + 1 = s.sw.bilFree d (poolFor n) ∧ w = { s.sw with bil := w.bil } ∧
      w.bil.waits = s.sw.bil.waits

/-- An owner gives its billet back, whatever die the command names: it is granted to nobody, every other grant stands, and what
waits is tried again. The pool it came from has one free billet more, its cache being written back first where it is full; where
the ring cannot be written the handle waits beside it. A handle of another owner, or of none, is an undefined use. -/
def Obligations.BilletsAreFreedByTheirOwner : Prop :=
  ∀ (s : State) (d : Die) (o : Owner) (h : BitVec 32) (e p n : Nat), e = handleDie h.toNat → p = handlePool h.toNat →
    n = runLen (s.sw.store e p).cache →
    (∀ g : Grant, s.sw.bil.granted.get? h.toNat = some g →
      (g.owner = o →
        ∃ w : Sw, Does (.billetFree d o h) s w.bilRetry ∧ w.bil.granted.get? h.toNat = none ∧
          (n < 512 ∨ n < 768 ∧ s.sw.ringReset e p (s.sw.store e p).head = false → w.bilFree e p = s.sw.bilFree e p + 1) ∧
          (512 ≤ n → s.sw.ringReset e p (s.sw.store e p).head = true →
            w.bilFree e p = s.sw.bilFree e p ∧ (w.store e p).late = (s.sw.store e p).late ++ [h.toNat]) ∧
          (∀ k, k ≠ h.toNat → w.bil.granted.get? k = s.sw.bil.granted.get? k) ∧ w.bil.waits = s.sw.bil.waits ∧
          w = { s.sw with bil := w.bil, hbmBad := w.hbmBad }) ∧
      (g.owner ≠ o → exec (.billetFree d o h) s = .fault (.undefinedUse 178))) ∧
    (s.sw.bil.granted.get? h.toNat = none → exec (.billetFree d o h) s = .fault (.undefinedUse 178))

/-- A cache below 128 handles takes 256 from its ring, or what the ring has; the handles of bad lines are lost and
counted, those of each such line, at most 16, in a contained fault of its own. One above 448 gives 256 back, and none is lost. Outside those limits, and while the stack that holds
the ring is in reset, nothing moves. -/
def Obligations.RingsAndCaches : Prop :=
  ∀ (s : State) (d : Die) (p : Fin 6) (r : Bool) (bad : List (Fin 16)),
    r = s.sw.lineReset (s.sw.ringLineOf d p (s.sw.store d p).head) →
    (128 ≤ runLen (s.sw.store d p).cache → exec (.freeRingRefill d p bad) s = .next s) ∧
    (runLen (s.sw.store d p).cache < 128 →
      (r = true → Does (.freeRingRefill d p bad) s s.sw.bilRetry) ∧
      (r = false → ∃ (w : Sw) (lost : Nat), Does (.freeRingRefill d p bad) s w.bilRetry ∧
        runLen (w.store d p).cache + lost = runLen (s.sw.store d p).cache + min 256 (runLen (s.sw.store d p).ring) ∧
        w.bilFree d p + lost = s.sw.bilFree d p ∧
        (lost ≠ 0 → w.rd (L.bilLost.at d) = (s.sw.rd (L.bilLost.at d) + lost) % 256 ^ L.bilLost.width) ∧
        (∃ fs : List FaultInfo, w.flt.due = s.sw.flt.due ++ fs ∧
          sumBy (fun f => f.aux.toNat) (fs.filter (fun f => f.code == 0x14)) = lost ∧
          ∀ f ∈ fs, f.code = 0x14 → f = ⟨0x14, d, none, BitVec.ofNat 64 p, f.aux⟩ ∧ f.aux.toNat ≤ 16) ∧
        (bad = [] → (∀ i, i < 16 → s.sw.lineBad (s.sw.ringLineOf d p ((s.sw.store d p).head + 16 * i) / 64) = false) →
          lost = 0 ∧ w = { s.sw with bil := { s.sw.bil with stores := w.bil.stores } }))) ∧
    (runLen (s.sw.store d p).cache ≤ 448 → exec (.freeRingWriteback d p) s = .next s) ∧
    (448 < runLen (s.sw.store d p).cache →
      (r = true → Does (.freeRingWriteback d p) s s.sw) ∧
      (r = false → ∃ w, Does (.freeRingWriteback d p) s w ∧
        runLen (w.store d p).cache + 256 = runLen (s.sw.store d p).cache ∧
        w.bilFree d p = s.sw.bilFree d p ∧
        w = { s.sw with bil := { s.sw.bil with stores := w.bil.stores }, hbmBad := w.hbmBad }))

/-- Pool sizes are written while the core is quenched: a sum above 768 units is refused and nothing
changes, one that fits is stored and the die's rings are rebuilt, requests waiting until the rebuild ends; written otherwise,
the use is undefined. -/
def Obligations.PoolSizes : Prop :=
  ∀ (s : State) (d : Die) (us : List (Fin 5 × BitVec 16)) (w : Sw), s.busyFor 0x5000 (1 + d) = false →
    w = us.foldl (fun x u => x.wr (L.bilPoolUnits.at d) u.1.val u.2.toNat) s.sw →
    (s.sw.coreQuenched = false → exec (.poolUnitsWrite d us) s = .fault (.undefinedUse 630)) ∧
    (s.sw.coreQuenched = true → 768 < sumBy (fun p => w.rd (L.bilPoolUnits.at d) p) (List.range 5) →
      Does (.poolUnitsWrite d us) s s.sw) ∧
    (s.sw.coreQuenched = true → sumBy (fun p => w.rd (L.bilPoolUnits.at d) p) (List.range 5) ≤ 768 →
      Does (.poolUnitsWrite d us) s (w.startRebuild d) ∧ d.val ∈ (w.startRebuild d).bil.rebuild ∧
        ∀ p : Fin 6, (w.startRebuild d).bilFree d p = w.bilCount d p)

/-- The deep buffer is set where it fits and its granules are free, and its rings are rebuilt; at the end of a rebuild requests
are served again; a quota whose minima fit is stored, a larger reserve of a port being offered at once, and what waits is tried
again; a request that has waited `bil.wait_ns` and has not been reported raises one contained fault, is marked as reported, and
keeps waiting. -/
def Obligations.DeepBufferQuotasStarvation : Prop :=
  ∀ (s : State) (d : Die),
    (∀ g : BitVec 8, s.busyFor 0x5008 (1 + d) = false → s.sw.coreQuenched = true → g.toNat ≤ 16 →
      sumBy (fun k => (s.sw.wr (L.bilDeepGib.at d) 0 g.toNat).rd (L.bilDeepGib.at k)) (List.range 4) ≤ 64 →
      (s.sw.wr (L.bilDeepGib.at d) 0 g.toNat).reservedFree d = true →
      Does (.deepGibWrite d g) s ((s.sw.wr (L.bilDeepGib.at d) 0 g.toNat).startRebuild d)) ∧
    (s.sw.bil.rebuild.contains d.val = true →
      Does (.billetRebuildComplete d) s
        ({ s.sw with bil := { s.sw.bil with rebuild := s.sw.bil.rebuild.filter (fun k => k != d.val) } }).bilRetry) ∧
    (∀ (t : QuotaTable) (el : Nat) (v : BitVec 64) (w : Sw), s.busyFor (quotaReg t d el).1.index 1 = false →
      el < quotaCount t → (t = .portMin ∨ t = .portMax ∨ fld v.toNat 61 3 < 5) →
      w = s.sw.wr (quotaReg t d el).1 el (quotaMask t v.toNat) →
      (∀ p, p < 5 → w.minima (quotaReg t d el).2 p ≤ w.bilCount (quotaReg t d el).2 p) →
      Does (.quotaWrite t d el v) s (if t = .portMin then w.reserveSync (el / 8) (el % 8) else w).bilRetry) ∧
    (∀ (n : Nat) (r : BilReq), (s.sw.bil.waits.filter (fun r => r.die == d.val))[n]? = some r → s.sw.rd L.bilWaitNs ≠ 0 →
      r.warned = false →
      ∃ w, Does (.billetStarvationTimeout d n) s w ∧ w.now = max s.sw.now (deadline r.since (s.sw.rd L.bilWaitNs)) ∧
        w.flt.due = s.sw.flt.due ++ [⟨0x15, d, r.ten.map (fun t => BitVec.ofNat 8 t.toNat),
          BitVec.ofNat 64 (poolFor r.bytes), BitVec.ofNat 64 (ownerCode r.owner)⟩] ∧
        w.bil.waits = s.sw.bil.waits.map (fun x => if x = r then { x with warned := true } else x) ∧
        w = { s.sw with now := w.now, flt := { s.sw.flt with due := w.flt.due }, bil := { s.sw.bil with waits := w.bil.waits } })

/-! ### 05: Bellows -/

/-- Guard mode, the telemetry period and ring: what a write leaves in the entry; a new ring is all zero and its write pointers are
0. A Bellows parameter within its table that is no undefined use is stored; the uses of R217 stop. -/
def Obligations.BellowsWrites : Prop :=
  ∀ s : State,
    (∀ (d : Die) (v : BitVec 8), s.busyFor 0x5800 (1 + d) = false →
      ∃ w, Does (.belModeWrite d v) s w ∧ w.rd (L.belMode.at d) = v.toNat ∧
        w = { s.sw with lex := w.lex, bel := { s.sw.bel with
          mTc := w.bel.mTc, mTe := w.bel.mTe, gTc := w.bel.gTc, gTp := w.bel.gTp } }) ∧
    (∀ v : BitVec 32, s.busyFor 0x580D 1 = false →
      ∃ w, Does (.telPeriodWrite v) s w ∧ w.rd L.belTelPeriodNs = (if v.toNat = 0 then 0 else max 500 v.toNat) ∧
        w = { s.sw with lex := w.lex }) ∧
    (∀ v : BitVec 16, s.busyFor 0x580D 2 = false → s.sw.coreQuenched = true → v.toNat ≤ 256 →
      ∃ w, Does (.telRingMibWrite v) s w ∧ w.rd L.belTelRingMib = v.toNat ∧
        (∀ d : Die, w.rd (L.belTelWp.at d) = 0 ∧
          ∀ a, s.sw.telBase d ≤ a → a < s.sw.telBase d + v.toNat * mib → memRd w.hbm a = 0) ∧
        (∀ a, (∀ d : Die, a < s.sw.telBase d ∨ s.sw.telBase d + v.toNat * mib ≤ a) → memRd w.hbm a = memRd s.sw.hbm a) ∧
        w = { s.sw with lex := w.lex, hbm := w.hbm, hbmBad := w.hbmBad }) ∧
    (∀ (e : BelEntry) (d : Die) (el : Nat) (v : BitVec 64),
      s.busyFor (belReg e d).1.index (belReg e d).1.sub = false → el < (belReg e d).2 →
      (s.sw.belBad e el v.toNat = true → exec (.bellowsParamWrite e d el v) s = .fault (.undefinedUse 217)) ∧
      (s.sw.belBad e el v.toNat = false →
        ∃ w, Does (.bellowsParamWrite e d el v) s w ∧
          w.rd (belReg e d).1 el = (if e = .tq then v.toNat % 8 else v.toNat) % 256 ^ (belReg e d).1.width ∧
          w = { s.sw with lex := w.lex, bel := w.bel }))

/-- A sweep is made at the next whole multiple of the period at which the die has not swept. It counts the selected queues beyond
1,024 as skipped, and its write pointer moves by one for each record. Where the ring's lines are good and their stack runs, record
`i` of the queues taken in order stands at the pointer plus `i`, around the ring, and nothing else of HBM changes. -/
def Obligations.TelemetrySweeps : Prop :=
  ∀ (s : State) (d : Die) (t n p : Nat) (qs : List Nat), t = s.sw.rd L.belTelPeriodNs → n = s.sw.rd L.belTelRingMib * 65536 →
    p = s.sw.rd (L.belTelWp.at d) → qs = s.sw.telQueues d → t ≠ 0 → n ≠ 0 → s.sw.pwr.state ≠ .parked →
    ∃ w m, Does (.telemetrySweep d) s w ∧ w.now = m ∧ w.bel.swept.get? d = some m ∧
      m % t = 0 ∧ s.sw.now ≤ m ∧ (∀ l, s.sw.bel.swept.get? d = some l → l < m) ∧
      (∀ k, k % t = 0 → s.sw.now ≤ k → (∀ l, s.sw.bel.swept.get? d = some l → l < k) → m ≤ k) ∧
      w.rd (L.belTelWp.at d) % 256 ^ L.belTelWp.width = (p + min 1024 qs.length) % 256 ^ L.belTelWp.width ∧
      w.rd (L.belTelSkipped.at d) % 256 ^ L.belTelSkipped.width =
        (s.sw.rd (L.belTelSkipped.at d) + (qs.length - 1024)) % 256 ^ L.belTelSkipped.width ∧
      ((∀ a, s.sw.telBase d ≤ a → a < s.sw.telBase d + 16 * n → s.sw.lineReset a = false ∧ s.sw.lineBad (a / 64) = false) →
        p + 1024 ≤ 256 ^ L.belTelWp.width →
        (∀ i q k, i < 1024 → qs[i]? = some q → k < 16 →
          memRd w.hbm (s.sw.telBase d + 16 * ((p + i) % n) + k) =
            (leBytes 16 ((s.sw.reach m).telRecord (128 * d + q / 56) (q % 56 / 8) (q % 8))).getD k 0) ∧
        (∀ a, (∀ i, i < min 1024 qs.length → a / 16 ≠ (s.sw.telBase d + 16 * ((p + i) % n)) / 16) →
          memRd w.hbm a = memRd s.sw.hbm a) ∧
        w = { s.sw with
          now := m, lex := w.lex, hbm := w.hbm, hbmBad := w.hbmBad, clr := w.clr
          bel := { s.sw.bel with swept := w.bel.swept } })

/-! ### 07, 10: collectives -/

/-- Packets of a collective come in at the service ID: a descriptor, a block of a member, a gathered block, each with the billets
it occupied there; WITHDRAW and COLL ABORT of a member that are not stale. After each the admission queues are scanned. A packet
that is bound elsewhere, does not wait there, or finds its group's machinery waiting for its core (10 R444) is not taken. -/
def Obligations.CollectivePacketsComeIn : Prop :=
  ∀ (s : State) (h : Word256) (pay : Bytes) (k : Stored × Sw), k = s.sw.takeKeep h pay →
    (hDst h = s.sw.svcEp → s.sw.svcHas h pay = true → s.sw.collWaits (kGroup h) = false →
      (kLevel h = 1 → pKind h = 4 ∨ pKind h = 5 → Does (.collDescriptorReceive h pay) s (k.2.rxDescriptor k.1).admitScan) ∧
      (kLevel h = 0 → pKind h = 4 ∨ pKind h = 5 → Does (.anvilContribution h pay) s (k.2.rxContrib k.1).admitScan) ∧
      (kLevel h = 2 → pKind h = 5 → Does (.anvilContribution h pay) s (k.2.rxGathered k.1).admitScan)) ∧
    (hDst h ≠ s.sw.svcEp ∨ s.sw.svcHas h pay = false ∨ s.sw.collWaits (kGroup h) = true →
      exec (.anvilContribution h pay) s = .next s ∧ exec (.collDescriptorReceive h pay) s = .next s) ∧
    (pKind h = 5 → s.sw.collWaits (wGroup h) = true → exec (.withdrawReceive h) s = .next s) ∧
    (∀ u : Sw, pKind h = 5 → s.sw.collWaits (wGroup h) = false → (s.sw.takeCtl h).collDenied (wGroup h) (cTen h) (pSrc h) none = false →
      (s.sw.takeCtl h).collStaleFor (wGroup h) (wCseq h) = false →
      u = (s.sw.takeCtl h).abortAll (cTen h) (wGroup h) (wCseq h) 4 h →
      Does (.withdrawReceive h) s
        (if (u.collSlots (cTen h) (wGroup h) (wCseq h)).any (fun cy => cy.2.st == .aborting)
         then u.aborted (cTen h) (wGroup h) (wCseq h) else u).admitScan) ∧
    (pKind h = 4 → oOp h = 2 → s.sw.collWaits (oGroup h) = false →
      (s.sw.takeCtl h).collDenied (oGroup h) (cTen h) (pSrc h) none = false →
      Does (.collAbortReceive h) s ((s.sw.takeCtl h).abortColl (cTen h) (oGroup h) (oCseq h) (oStatus h) h))

/-- Packets from the parent that are not stale come in: COMMIT goes on to the child switches, RESULT to the members whose claims
cover the block, COMPLETE ends the collective here, and a block of UPDATE is written or goes on; one of RESULT or UPDATE whose
digest differs aborts its slot. One that does not come from the group's parent is counted as denied, one that is stale as stale,
and nothing else happens. A packet that does not wait at the service ID, or whose group's machinery waits for its core (10 R444), is
not taken. -/
def Obligations.ParentPacketsComeIn : Prop :=
  ∀ (s : State) (h : Word256) (pay : Bytes) (v u : Sw) (d : Nat), v = s.sw.takeCtl h → u = s.sw.takeIn h pay →
    d = u.blockDie (bNum h) →
    (pKind h = 4 → oOp h = 1 ∨ oOp h = 3 →
      ∀ c : Instr, c = (if oOp h = 1 then .collCommitReceive h else .collCompleteReceive h) →
      (s.sw.collWaits (oGroup h) = true → exec c s = .next s) ∧ (s.sw.collWaits (oGroup h) = false →
      (v.fromParent (oGroup h) (cTen h) (pSrc h) = false → Does c s (v.inc (L.collDenied.at v.anvilLow))) ∧
      (v.fromParent (oGroup h) (cTen h) (pSrc h) = true → v.collStaleFor (oGroup h) (oCseq h) = true →
        Does c s (v.inc (L.collStale.at v.anvilLow))) ∧
      (v.fromParent (oGroup h) (cTen h) (pSrc h) = true → v.collStaleFor (oGroup h) (oCseq h) = false →
        Does c s (if oOp h = 1 then
            ((v.groupMembers (v.group (oGroup h))).filter Member.child).foldl
              (fun w m => w.sendColl w.anvilLow m.id (cTen h) (oGroup h) (oCseq h) 1 0 0 .both (oDigest h)) v
          else v.rxComplete (cTen h) (oGroup h) (oCseq h) (oStatus h) (oLevel h) (oDigest h))))) ∧
    (pKind h = 6 → kLevel h = 0 ∨ kLevel h = 2 →
      ∀ c : Instr, c = (if kLevel h = 0 then .resultReceive h pay else .updateBlockReceive h pay) →
      (s.sw.svcHas h pay = false ∨ s.sw.collWaits (kGroup h) = true → exec c s = .next s) ∧
      (s.sw.svcHas h pay = true → s.sw.collWaits (kGroup h) = false →
      (u.fromParent (kGroup h) (hTen h) (pSrc h) = false → Does c s (u.inc (L.collDenied.at d))) ∧
      (u.fromParent (kGroup h) (hTen h) (pSrc h) = true → u.collStaleFor (kGroup h) (kCseq h) = true →
        Does c s (u.inc (L.collStale.at d))) ∧
      (u.fromParent (kGroup h) (hTen h) (pSrc h) = true → u.collStaleFor (kGroup h) (kCseq h) = false →
        (u.liveSlot d (hTen h) (kGroup h) (kCseq h) = none → Does c s u) ∧
        (∀ x, u.liveSlot d (hTen h) (kGroup h) (kCseq h) = some x →
          (u.digestDiffers x (kCseq h) h = true → Does c s (u.abortHere x (kCseq h) 1).admitScan) ∧
          (u.digestDiffers x (kCseq h) h = false →
            Does c s (if kLevel h = 0 then u.sendResults x (kCseq h) (bNum h) [(bPart h, pay.take (validLen h))]
              else u.updateBlock x (kCseq h) (bNum h) [(bPart h, pay.take (validLen h))]))))))

/-- A descriptor or block packet that is denied, or stale for its group, returns its billets and is counted; of a denied one only
an endpoint is told. The admission queues are scanned after it, which changes nothing where they are empty. -/
def Obligations.DeniedAndStalePackets : Prop :=
  ∀ (s : State) (h : Word256) (pay : Bytes) (k : Stored × Sw) (u : Sw) (d : Nat), k = s.sw.takeKeep h pay →
    u = k.2.freeBil k.1.bil → d = (if kLevel h = 1 then k.2.anvilLow else k.2.blockDie (bNum h)) →
    hDst h = s.sw.svcEp → s.sw.svcHas h pay = true → s.sw.collWaits (kGroup h) = false →
    (pKind h = 4 ∨ pKind h = 5 →
      ∀ c : Instr, kLevel h = 1 ∧ c = .collDescriptorReceive h pay ∨
        kLevel h = 0 ∧ c = .anvilContribution h pay →
      (k.2.collDenied (kGroup h) (hTen h) (pSrc h) (some (pClass h)) = true →
        Does c s (u.collDeny d (pSrc h) (hTen h) (kGroup h) (kCseq h) (kDigest h)).admitScan) ∧
      (k.2.collDenied (kGroup h) (hTen h) (pSrc h) (some (pClass h)) = false →
        k.2.collStaleFor (kGroup h) (kCseq h) = true → Does c s (u.inc (L.collStale.at d)).admitScan)) ∧
    (∀ src t g q dig, u.epKind src ≠ 1 → u.collDeny d src t g q dig = u.inc (L.collDenied.at d)) ∧
    (∀ r : Reg, u.anv.admq = [] → (u.inc r).admitScan = u.inc r)

/-- How a collective goes on and ends: a formed root is handed on by an engine that is awake and by no other, and where none is
formed nothing moves; the top finishes a collective that may finish, and none else; software aborts, but a write that names no group
of its tenancy is only counted as denied, and one that is stale as stale; an abort on one die reaches the live slots of the others,
and is carried on, unless the group's machinery waits for its core (10 R444). -/
def Obligations.CollectivesEnd : Prop :=
  ∀ s : State,
    (∀ (c : CtxId) (i : Fin 2) (b : Nat),
      (s.sw.unitAwake (.anvil (Fin.ofNat 4 (c.val / 1024))) = true →
        Does (.anvilRootFormed c i b) s (s.sw.rootFormed c i b) ∧
        (s.sw.rootOf c i b = none → Does (.anvilRootFormed c i b) s s.sw)) ∧
      (s.sw.unitAwake (.anvil (Fin.ofNat 4 (c.val / 1024))) = false → exec (.anvilRootFormed c i b) s = .next s)) ∧
    (∀ (t : Ten) (g : Fin 4096) (q : BitVec 32),
      (s.sw.mayFinish t.toNat g q.toNat = true →
        Does (.collectiveFinish t g q) s
          (s.sw.collEnd t.toNat g q.toNat 0 (s.sw.finishLevel t.toNat g q.toNat) .both).admitScan) ∧
      (s.sw.mayFinish t.toNat g q.toNat = false → exec (.collectiveFinish t g q) s = .next s)) ∧
    (∀ (v : BitVec 64) (t g : Nat), s.busyFor 0x7800 4 = false → t = fld v.toNat 44 8 → g = fld v.toNat 32 12 →
      Does (.collAbortWrite v) s (s.sw.wrCollAbort v.toNat) ∧
      (gValid (s.sw.group g) = false ∨ gTen (s.sw.group g) ≠ t →
        Does (.collAbortWrite v) s (s.sw.inc (L.collDenied.at s.sw.anvilLow))) ∧
      (gValid (s.sw.group g) = true → gTen (s.sw.group g) = t → s.sw.collStaleFor g (fld v.toNat 0 32) = true →
        Does (.collAbortWrite v) s (s.sw.inc (L.collStale.at s.sw.anvilLow)))) ∧
    (∀ (t : Ten) (g : Fin 4096) (q : BitVec 32),
      (s.sw.collWaits g = true → exec (.crossDieAbort t g q) s = .next s) ∧
      (s.sw.collWaits g = false → (s.sw.collSlots t.toNat g q.toNat).any (fun cy => cy.2.st == .aborting) = true →
      Does (.crossDieAbort t g q) s
        (((s.sw.liveSlots t.toNat g q.toNat).foldl (fun w cy =>
          w.slotAbort cy.1 q.toNat (s.sw.lowestCause t.toNat g q.toNat) false true .both) s.sw).aborted t.toNat g q.toNat).admitScan))

/-- The timers of the collective machinery. The end of a context's linger time: it returns to the free supply, and with it the
`cseq` it closed reaches the group entry (stated for a context with one closed slot whose group had none). A held value whose time
ends is spilled: its bytes stand in the lowest free slot of the spill area, its billets return, and it is counted; where the area
is full it stays. The read-back of a spilled value that is due, its lines good, brings its values back; where they are bad its slot
aborts; one that is not due does nothing. The
waits of the collective machinery. A packet that waits at an admission queue for `coll.admit_ns` is counted and raises one
contained fault, and keeps waiting; a slot that has gathered for `coll.stall_ns` raises one contained fault that names the first
of its missing members and how many are missing, and goes on gathering; a committed block that still waits when its time ends
moves to the spill area: where nothing of it waits, or the area is full, only time moves. -/
def Obligations.CollectiveTimers : Prop :=
  ∀ s : State,
    (∀ (c : CtxId) (x : Ctx) (t : Nat), s.sw.anv.ctx.get? c = some x → x.linger = some t →
      ∃ w : Sw, Does (.anvilLingerExpire c) s w.admitScan ∧ w.anv.ctx.get? c = none ∧ w.now = max s.sw.now t ∧
        (∀ k, k ≠ c.val → w.anv.ctx.get? k = s.sw.anv.ctx.get? k) ∧
        (x.slot0.st = .closed → x.slot1.st ≠ .closed → s.sw.anv.closed.contains x.group = false →
          w.rd L.collClosed x.group = x.slot0.cseq % 2 ^ 32 ∧ x.group ∈ w.anv.closed) ∧
        w = { s.sw with now := w.now, lex := w.lex, anv := { s.sw.anv with ctx := w.anv.ctx, closed := w.anv.closed } }) ∧
    (∀ (c : CtxId) (i : Fin 2) (n : NodeId) (it : Item) (t : Nat) (u : Sw), s.sw.nodeAt c i n = some it → it.due = some t →
      u = (s.sw.reach t).updItem c i n (fun x => { x with due := none }) →
      (u.spillSlot (c.val / 1024) = none → Does (.anvilSpillTimeout c i n) s u.admitScan) ∧
      (∀ (a word : Nat) (vs : List Nat) (bs : Bytes), u.spillSlot (c.val / 1024) = some a → (u.slot c i).word = some word →
        it.vals = some vs → bs = vs.flatMap (fun v => leBytes (spillWidth (word % 2 ^ 128)) (spillEnc (word % 2 ^ 128) v)) →
        (u.linesReset a (cdiv bs.length 64) = true → Does (.anvilSpillTimeout c i n) s (u.abortHere c i 5).admitScan) ∧
        (u.linesReset a (cdiv bs.length 64) = false →
          ∃ w : Sw, Does (.anvilSpillTimeout c i n) s ((w.releaseAll it.bil).bilRetry).admitScan ∧
            w.nodeAt c i n = some { it with vals := none, spill := some a, due := none, bil := [] } ∧
            (∀ k, k < bs.length → memRd w.hbm (a + k) = bs.getD k 0) ∧ w.now = max s.sw.now t ∧
            w.rd (L.anvilSpills.at (c.val / 1024)) =
              (s.sw.rd (L.anvilSpills.at (c.val / 1024)) + 1) % 256 ^ L.anvilSpills.width))) ∧
    (∀ (c : CtxId) (i : Fin 2) (n : NodeId) (errs : LineErr), s.sw.readsBack c i n = false →
      exec (.spillReadbackComplete c i n errs) s = .next s) ∧
    (∀ (c : CtxId) (i : Fin 2) (n : NodeId) (errs : LineErr) (it : Item) (a word op len : Nat) (f : Option Bytes × Sw),
      s.sw.readsBack c i n = true → s.sw.nodeAt c i n = some it → (s.sw.slot c i).word = some word → it.spill = some a → op = word % 2 ^ 128 →
      len = elemsOf (dColl word) op n.block * spillWidth op → f = s.sw.lineFetch a rdAnvil errs →
      (f.1 = none → Does (.spillReadbackComplete c i n errs) s (f.2.abortHere c i 5).admitScan) ∧
      (∀ (l bs : Bytes) (v : Sw), f.1 = some l →
        (f.2.readLines a (cdiv len 64) rdAnvil = (none, v) →
          Does (.spillReadbackComplete c i n errs) s (v.abortHere c i 5).admitScan) ∧
        (f.2.readLines a (cdiv len 64) rdAnvil = (some bs, v) →
          ∃ w : Sw, Does (.spillReadbackComplete c i n errs) s (w.formAt c i n.block) ∧
            w.nodeAt c i n = some { it with
              vals := some ((List.range (elemsOf (dColl word) op n.block)).map (fun j =>
                spillDec op (leNat (slice bs (j * spillWidth op) (spillWidth op)))))
              spill := none, since := s.sw.now }))) ∧
    (∀ (d : Die) (n : Nat) (e : Adm) (t g q u : Nat), (s.sw.anv.admq.filter (fun e => e.die == d.val))[n]? = some e →
      e.due = some t → u = (if e.ctl then cTen e.pkt.hdr else hTen e.pkt.hdr) →
      g = (if e.ctl then (if pKind e.pkt.hdr = 5 then wGroup e.pkt.hdr else oGroup e.pkt.hdr) else kGroup e.pkt.hdr) →
      q = (if e.ctl then (if pKind e.pkt.hdr = 5 then wCseq e.pkt.hdr else oCseq e.pkt.hdr) else kCseq e.pkt.hdr) →
      ∃ w, Does (.contextStarvationTimeout d n) s w ∧ w.now = max s.sw.now t ∧
        w.rd (L.collStarved.at d) = (s.sw.rd (L.collStarved.at d) + 1) % 256 ^ L.collStarved.width ∧
        w.flt.due = s.sw.flt.due ++ [⟨0x28, 8 + d, some (BitVec.ofNat 8 u), BitVec.ofNat 64 (detC g q),
          BitVec.ofNat 64 (auxC 0xFFFF 0 0)⟩] ∧
        w.anv.admq = s.sw.anv.admq.map (fun x => if x = e then { x with due := none } else x)) ∧
    (∀ (c : CtxId) (i : Fin 2) (x : Ctx) (t : Nat), s.sw.anv.ctx.get? c = some x → (s.sw.slot c i).stallAt = some t →
      ((s.sw.slot c i).st ≠ .gathering → exec (.collectiveStallTimeout c i) s = .next s) ∧
      ((s.sw.slot c i).st = .gathering →
        ∀ ms : List Member, ms = (s.sw.groupMembers (s.sw.group x.group)).filter (s.sw.missing c (s.sw.slot c i)) →
        ∃ w, Does (.collectiveStallTimeout c i) s w ∧ w.now = max s.sw.now t ∧
          w.flt.due = s.sw.flt.due ++ [⟨0x29, 8 + c.val / 1024, some (BitVec.ofNat 8 x.ten),
            BitVec.ofNat 64 (detC x.group (s.sw.slot c i).cseq),
            BitVec.ofNat 64 (auxC (((ms.head?).map Member.id).getD 0xFFFF) 0 ms.length)⟩] ∧
          w.slot c i = { s.sw.slot c i with stallAt := none })) ∧
    (∀ (c : CtxId) (i : Fin 2) (b t : Nat) (x : Ctx) (q : Nat) (u : Sw) (l : List DPkt), s.sw.anv.ctx.get? c = some x →
      q = (x.slot i).cseq → (s.sw.coll x.ten x.group q).commitAt.find? (fun e => e.1 == b) = some (b, t) → t ≠ 0 →
      (s.sw.coll x.ten x.group q).staged.any (fun z => z.block == b) = false → u = s.sw.reach t →
      l = u.blockResults (c.val / 1024) x.ten x.group q b (x.slot i) →
      (l = [] ∨ u.spillSlot (c.val / 1024) = none → Does (.resultStagingTimeout c i b) s u) ∧
      (∀ a, l ≠ [] → u.spillSlot (c.val / 1024) = some a →
        (u.linesReset a 1024 = true → Does (.resultStagingTimeout c i b) s (u.abortHere c q 5).admitScan) ∧
        (u.linesReset a 1024 = false → Does (.resultStagingTimeout c i b) s
          ((Sw.stageParts 16 u a l).updColl x.ten x.group q (fun r => { r with staged := r.staged ++ [⟨c.val / 1024, b, a⟩] })))))

/-- A group entry is written while nothing of the group is under way: one that is not valid is stored and nothing else changes, nor
for a valid one that is not registered and names no program; one with class 7, or with more than six update entries, is refused; one
valid with a program, not registered, starts its core at address 0 with the group number in a0, unless the core is in reset. A write while a context or a packet
of the group is there, or a bound counter holds a round, is an undefined use. -/
def Obligations.GroupEntries : Prop :=
  ∀ (s : State) (g : Fin 4096) (v : BitVec 512) (w : Nat), w = groupMask v.toNat → s.busyFor 0x7803 1 = false →
    (s.sw.groupBusy g = true → exec (.groupEntryWrite g v) s = .fault (.undefinedUse 451)) ∧
    (s.sw.groupBusy g = false → s.sw.agrHolds g = true → exec (.groupEntryWrite g v) s = .fault (.undefinedUse 484)) ∧
    (s.sw.groupBusy g = false → s.sw.agrHolds g = false →
      (gClass w = 7 ∨ 6 < gUcount w → Does (.groupEntryWrite g v) s s.sw) ∧
      (gClass w ≠ 7 → gUcount w ≤ 6 → gValid w = false ∨ gReg w = false ∧ gProg w = 0 →
        Does (.groupEntryWrite g v) s (s.sw.wr L.collGroup g w)) ∧
      (∀ p : Lib, gClass w ≠ 7 → gUcount w ≤ 6 → gValid w = true → gReg w = false → gProg w ≠ 0 →
        (s.sw.core (gCore w)).running = false → boundTo (s.sw.rd L.tenCore (gCore w)) (gTen w) = true →
        s.sw.lib.get? (gProg w) = some p →
        (s.sw.blkRst.contains (.core (Fin.ofNat 64 (gCore w))) = true → Does (.groupEntryWrite g v) s (s.sw.wr L.collGroup g w)) ∧
        (s.sw.blkRst.contains (.core (Fin.ofNat 64 (gCore w))) = false →
        ∃ x, Does (.groupEntryWrite g v) s x ∧
          x.core (gCore w) = { regs := [(10, g.val)], pc := 0, mem := memWrs [] 0 (p.code.take 65536),
                               running := true, prog := gProg w } ∧
          x = { s.sw with lex := x.lex, cores := x.cores })))

/-! ### 10: clause cores -/

/-- A core that runs, waits for nothing and is awake executes the instruction at its pc: it goes on, or halts; a core that does not
execute is left as it is. One that comes to an instruction of zero bytes halts: a contained fault names it and its pc;
with no group entry in use the fault is all that follows. -/
def Obligations.ClauseCoresRun : Prop :=
  ∀ (s : State) (j : CoreId),
    (s.sw.coreReady j = false → exec (.rv32imcInstruction j) s = .next s) ∧
    (∀ c : Core, s.sw.coreReady j = true → (s.sw.core j).step = .go c → Does (.rv32imcInstruction j) s (s.sw.setCore j c)) ∧
    (s.sw.coreReady j = true → (s.sw.core j).step = .halt → Does (.rv32imcInstruction j) s (s.sw.coreHalts j)) ∧
    (s.sw.coreReady j = true → s.sw.elems L.collGroup = [] → s.sw.anv.admq = [] →
      (∀ a, memRd (s.sw.core j).mem a = 0) →
      ∃ w, Does (.rv32imcInstruction j) s w ∧ (w.core j).halted = true ∧ (w.core j).running = false ∧
        (w.core j).pc = (s.sw.core j).pc ∧
        w.flt.due = s.sw.flt.due ++ [⟨0x30, 12 + j.val / 16, some (BitVec.ofNat 8 (s.sw.coreTen j)),
          BitVec.ofNat 64 (detC 0 0), BitVec.ofNat 64 (auxC 0xFFFF j.val (s.sw.core j).pc)⟩] ∧
        w = { s.sw with cores := w.cores, flt := { s.sw.flt with due := w.flt.due } } ∧
        (∀ k : CoreId, k ≠ j → w.core k = s.sw.core k))

/-- Every clause extension that acts on the switch completes on a core that executes, whatever its operands, with the effect of
Table 10.6; but a BFREE only where the billet is granted to the core, and BFREE of any other, or a MOVE that names a billet which a
core has freed, is an undefined use. -/
def Obligations.ClauseExtensionsComplete : Prop :=
  ∀ (s : State) (j : CoreId) (rd a b : BitVec 5) (A B : Nat), s.sw.coreReady j = true → A = s.xreg j a → B = s.xreg j b →
    (∃ w, s.sw.opEvwait j rd.toNat A = .ok w ∧ Does (.evwait j rd a) s w) ∧
    (∃ w, s.sw.opEvpoll j rd.toNat A = .ok w ∧ Does (.evpoll j rd a) s w) ∧
    (∃ w, s.sw.opPktsend j rd.toNat A = .ok w ∧ Does (.pktsend j rd a) s w) ∧
    (∃ w, s.sw.opBalloc j rd.toNat A = .ok w ∧ Does (.balloc j rd a) s w) ∧
    (∃ w, s.sw.opBallocn j rd.toNat A = .ok w ∧ Does (.ballocn j rd a) s w) ∧
    (∃ w, s.sw.opHjob j rd.toNat A B = .ok w ∧ Does (.hjob j rd a b) s w) ∧
    (∃ w, s.sw.opSjob j rd.toNat A B = .ok w ∧ Does (.sjob j rd a b) s w) ∧
    (∃ w, s.sw.opCabort j A B = .ok w ∧ Does (.cabort j a b) s w) ∧
    (∃ w, s.sw.opGather j A B = .ok w ∧ Does (.gather j a b) s w) ∧
    (∃ w, s.sw.opTime j rd.toNat A = .ok w ∧ Does (.time j rd a) s w) ∧
    (∀ u : Sw, u = s.sw.release A → s.sw.holdsBillet j A = true → Does (.bfree j a) s
      ((({ u with bil := { u.bil with freed := insertNat A u.bil.freed } } : Sw).bilRetry).coreGoes j 0 0)) ∧
    (s.sw.holdsBillet j A = false → exec (.bfree j a) s = .fault (.undefinedUse 178)) ∧
    (∀ r : Nat, r = leNat (memRds (s.sw.core j).mem A 16) →
      ((Config.moveField 1 r % 2 = 1 → s.sw.bil.freed.contains (Config.moveField 3 r) = false) →
        ∃ w, s.sw.opMove j rd.toNat A = .ok w ∧ Does (.move j rd a) s w) ∧
      (A + 16 ≤ 65536 → Config.moveField 2 r + Config.moveField 5 r ≤ 65536 → Config.moveField 1 r % 2 = 1 →
        s.sw.bil.freed.contains (Config.moveField 3 r) = true → exec (.move j rd a) s = .fault (.undefinedUse 178)))

/-- Results of clause extensions. TIME gives the two halves of the timebase, and changes one register and the pc. EVWAIT and EVPOLL
take the oldest event to local memory and its kind to `rd`, after which what waited for room in the queue goes on; on an empty queue EVWAIT waits and EVPOLL gives 0. PKTSEND of a control
packet that fits sends it, sealed. BALLOC and BALLOCN of 0 or of more than 65,536 bytes give the null handle; one that a pool serves
gives its handle. HJOB, of a core that serves no group with update entries, and SJOB queue the descriptor with the next number and give 0, or give 5 on a full queue. CABORT for a group
of another tenancy is only counted. An operand outside local memory halts the core. Register x0 stays 0. -/
def Obligations.ClauseExtensionResults : Prop :=
  ∀ (s : State) (j : CoreId) (rd a b : BitVec 5) (A B t : Nat), s.sw.coreReady j = true → A = s.xreg j a → B = s.xreg j b →
    t = s.sw.coreTen j →
    (∃ w, Does (.time j rd a) s w ∧ w = s.sw.setCore j (w.core j) ∧ (w.core j).pc = ((s.sw.core j).pc + 4) % 2 ^ 32 ∧
      (w.core j).reg rd.toNat = (if rd = 0 then 0 else if A = 1 then s.sw.now / 2 ^ 32 % 2 ^ 32 else s.sw.now % 2 ^ 32) ∧
      (∀ r, r ≠ rd.toNat → (w.core j).reg r = (s.sw.core j).reg r)) ∧
    (A + 16 ≤ 65536 →
      (∀ (e : Bytes) (es : List Bytes), (s.sw.core j).evq = e :: es →
        ∃ w : Sw, Does (.evwait j rd a) s w.evFlush.admitScan ∧ Does (.evpoll j rd a) s w.evFlush.admitScan ∧ w = s.sw.setCore j (w.core j) ∧
          (w.core j).evq = es ∧ (w.core j).mem = memWrs (s.sw.core j).mem A e ∧
          (w.core j).reg rd.toNat = (if rd = 0 then 0 else (byteAt e 6).toNat) ∧
          (w.core j).pc = ((s.sw.core j).pc + 4) % 2 ^ 32) ∧
      ((s.sw.core j).evq = [] →
        Does (.evwait j rd a) s (s.sw.setCore j { (s.sw.core j).adv 4 with wait := .event A rd.toNat }))) ∧
    ((s.sw.core j).evq = [] → Does (.evpoll j rd a) s (s.sw.coreGoes j rd.toNat 0)) ∧
    (∀ w : Word256, A + 32 ≤ 65536 → w = BitVec.ofNat 256 (leNat (memRds (s.sw.core j).mem A 32)) → pCtl w = 1 →
      ctlMalformed w = false → cTen w = t →
      Does (.pktsend j rd a) s ((s.sw.sendCtl (j.val / 16) (sealPkt w) .both).coreGoes j rd.toNat 0)) ∧
    (A = 0 ∨ 65536 < A →
      Does (.balloc j rd a) s (s.sw.coreGoes j rd.toNat nullHandle) ∧
      Does (.ballocn j rd a) s (s.sw.coreGoes j rd.toNat nullHandle)) ∧
    (∀ h w, s.sw.allocate (j.val / 16) (.core j) (some (BitVec.ofNat 8 t)) A = .got h w →
      Does (.balloc j rd a) s (w.coreGoes j rd.toNat h) ∧ Does (.ballocn j rd a) s (w.coreGoes j rd.toNat h)) ∧
    (∀ d n : Nat, A + 64 ≤ 65536 → d = leNat (memRds (s.sw.core j).mem A 64) →
      (n = (s.sw.hbmStack (jPblk d)).1 → (∀ e ∈ s.sw.elems L.collGroup, gCore e.2 ≠ j.val ∨ gUcount e.2 = 0) →
        (256 ≤ s.sw.jobsQueued n → Does (.hjob j rd a b) s (s.sw.coreGoes j rd.toNat 5)) ∧
        (s.sw.jobsQueued n < 256 → s.sw.blkRst.contains (.stack (Fin.ofNat 6 n)) = false →
          Does (.hjob j rd a b) s (({ s.sw with
            jobs := s.sw.jobs ++ [{ no := s.sw.jobNo, stack := n, ten := t, desc := d, cls := 0, core := some (j.val, B) }]
            jobNo := s.sw.jobNo + 1 } : Sw).coreGoes j rd.toNat 0))) ∧
      (n = wArray d →
        (16 ≤ s.sw.opsQueued n → Does (.sjob j rd a b) s (s.sw.coreGoes j rd.toNat 5)) ∧
        (s.sw.opsQueued n < 16 → s.sw.blkRst.contains (.array (Fin.ofNat 16 n)) = false →
          Does (.sjob j rd a b) s (({ s.sw with
            ops := s.sw.ops ++ [{ no := s.sw.opNo, array := n, ten := t, desc := d, cls := 0, core := some (j.val, B) }]
            opNo := s.sw.opNo + 1 } : Sw).coreGoes j rd.toNat 0)))) ∧
    (s.sw.coreGroup j (fld A 0 12) = false →
      Does (.cabort j a b) s ((s.sw.inc (L.collDenied.at s.sw.anvilLow)).coreGoes j 0 0)) ∧
    (65536 < A + 16 → Does (.evwait j rd a) s (s.sw.coreHalts j) ∧ Does (.move j rd a) s (s.sw.coreHalts j)) ∧
    (65536 < A + 32 → Does (.pktsend j rd a) s (s.sw.coreHalts j)) ∧
    (65536 < A + 64 → Does (.hjob j rd a b) s (s.sw.coreHalts j) ∧ Does (.sjob j rd a b) s (s.sw.coreHalts j))

/-- LEXRD and LEXWR are served by the lexicon engine with the core as requester. LEXRD completes whatever it names: it gives bits
[31:0] of the bytes answered (a free value where it is refused, log 102) and selects its word. LEXWR writes the selected word and
gives the status; a write of `coll.stall_ns` that nothing refuses is stored and gives 0. A library image that is well formed and
names a usable key is loaded, and extends measurement 6, where its signature verifies and its slot is free; else nothing changes. -/
def Obligations.CoresAndTheLexicon : Prop :=
  ∀ s : State, s.unasked = true →
    (∀ (j : CoreId) (rd a b : BitVec 5) (A B : Nat) (x : LexJob), s.sw.coreReady j = true → s.sw.lexs.order = [] → A = s.xreg j a → B = s.xreg j b →
      x = coreJob j A (s.sw.core j).sel 1 (wordLen A (s.sw.core j).sel) (leBytes (wordLen A (s.sw.core j).sel) B) →
      (∃ (st : Nat) (bytes : Bytes) (t : State), s.lexServe (coreJob j A B 0 4 []) = .ok (st, bytes, t) ∧
        DoesAll (.lexrd j rd a b) s { t with sw :=
          if st = 0 then (t.sw.setCore j { t.sw.core j with sel := B }).coreGoes j rd.toNat (leNat (bytes.take 4))
          else (t.sw.setCore j { t.sw.core j with sel := B }).coreFree j rd.toNat }) ∧
      (∀ (st : Nat) (bytes : Bytes) (t : State), s.lexServe x = .ok (st, bytes, t) → t.unasked = true →
        DoesAll (.lexwr j rd a b) s { t with sw := t.sw.coreGoes j rd.toNat st }) ∧
      (A % 2 ^ 24 = 0x780003 → (s.sw.core j).sel = 0 → s.lexCheck x = 0 → s.lexBad x = false → s.sw.recd.st ≠ 1 →
        ∃ t, DoesAll (.lexwr j rd a b) s t ∧ t.sw.rd L.collStallNs = B % 2 ^ 32 ∧
          t.sw.core j = ((s.sw.core j).setReg rd.toNat 0).adv 4 ∧
          t = { s with sw := { s.sw with lex := t.sw.lex, lexs := t.sw.lexs, cores := t.sw.cores } })) ∧
    (∀ (image pub dig sig : Bytes) (k slot : Nat), s.busyFor 0x7805 2 = false → progForm image = true →
      s.sec.err = false → slot = (byteAt image 8).toNat → k = (byteAt image 9).toNat → pub = (image.drop 32).take 1312 →
      dig = sha3 (image.take 32 ++ image.drop 3764) → sig = (image.drop 1344).take 2420 → k ≠ 0 →
      s.sec.keyHash k = some (leNat (sha3 pub)) →
      exec (.libLoad image) s = .next (
        if Config.mldsaVerify pub dig sig = true ∧ s.sw.lib.get? slot = none then
          { s with sec := s.sec.extend 6 dig, sw := { s.sw with lib := AMap.set s.sw.lib slot (progLib image k) }.settle }
        else s))

/-! ### 08: Hearth -/

/-- A descriptor that is submitted: a WRITE of another length is Denied, a stack in reset answers Target-Reset, a switch that is
Parked answers Busy; a full queue answers Busy and is counted, a free place takes the job with the next number. -/
def Obligations.HearthJobsAreSubmitted : Prop :=
  ∀ (s : State) (h : Word256) (pay : Bytes) (u : Sw) (d n inc : Nat), u = s.sw.takeIn h pay → d = leNat (pay.take 64) →
    n = (u.hbmStack (jPblk d)).1 → inc = u.incOf (incStack n) → pKind h = 0 → hOff h = u.rd L.hearthJobWin →
    (hPlen h ≠ 1 ∨ hTail h ≠ 0 →
      Does (.hearthJobSubmit h pay) s (u.answer (u.hbmDie (jPblk d)) h stDenied inc [] .both)) ∧
    (hPlen h = 1 → hTail h = 0 → u.blkRst.contains (.stack (Fin.ofNat 6 n)) = true →
      Does (.hearthJobSubmit h pay) s (u.answer (u.hbmDie (jPblk d)) h stTargetReset inc [] .both)) ∧
    (hPlen h = 1 → hTail h = 0 → u.blkRst.contains (.stack (Fin.ofNat 6 n)) = false → u.parkedNow = true →
      Does (.hearthJobSubmit h pay) s (u.answer (u.hbmDie (jPblk d)) h stBusy inc [] .both)) ∧
    (hPlen h = 1 → hTail h = 0 → u.blkRst.contains (.stack (Fin.ofNat 6 n)) = false → u.parkedNow = false →
      (256 ≤ u.jobsQueued n → Does (.hearthJobSubmit h pay) s
        ((u.inc (L.hearthJobBusy.at n)).answer (u.hbmDie (jPblk d)) h stBusy inc [] .both)) ∧
      (u.jobsQueued n < 256 → Does (.hearthJobSubmit h pay) s
        (({ u with
            jobs := u.jobs ++ [{ no := u.jobNo, stack := n, ten := hTen h, desc := d, cls := pClass h, core := none }]
            jobNo := u.jobNo + 1 } : Sw).answer (u.hbmDie (jPblk d)) h stOk inc [] .both)))

/-- A job leaves its queue: with `after` 1 and an earlier job of its tenancy not Done it waits, otherwise it is validated. A
step or line of a running job runs once and then counts as done, a step on an engine that is awake, a line while the link to the
bridge die runs; a step of a recipe that uses its own output stops as an undefined use. When every step or line is applied or
skipped the job is Done, with Uncorrectable where one was skipped, and it leaves the part's jobs; it is not Done before. -/
def Obligations.HearthJobsRun : Prop :=
  ∀ (s : State) (n : Stack) (j : Job),
    (s.sw.jobs.find? (fun y => y.stack == n.val && y.st == .queued) = some j →
      (jAfter j.desc = true → s.sw.jobClear j = false →
        Does (.hearthJobStart n) s (s.sw.updJob j.no (fun j => { j with st := .waiting }))) ∧
      (jAfter j.desc = false ∨ s.sw.jobClear j = true →
        Does (.hearthJobStart n) s (s.sw.jobValidate j).jobRelease)) ∧
    (s.sw.job? n j.no = some j → j.st = .running →
      (∀ i, jKind j.desc = 0 → i < jobUnits j → i ∉ j.done → s.sw.engineAwake n j.ten = true → jobAliases j = false →
        Does (.recipeStep n j.no i) s (s.sw.recipeStep j i) ∧
        ∃ k, (s.sw.recipeStep j i).job? n j.no = some k ∧ k.st = .running ∧ k.done = j.done ++ [i]) ∧
      (∀ i, jKind j.desc = 0 → i < jobUnits j → i ∉ j.done → s.sw.engineAwake n j.ten = true → jobAliases j = true →
        exec (.recipeStep n j.no i) s = .fault (.undefinedUse 353)) ∧
      (∀ i, i ∈ j.done → exec (.recipeStep n j.no i) s = .next s) ∧
      (∀ i, jKind j.desc ≠ 0 → i < jobUnits j → i ∉ j.done → Does (.copyLine n j.no i) s (s.sw.copyLine j i) ∧
        (s.sw.pins.d2dFatal.contains (s.sw.copyLink j) = true → s.sw.copyLine j i = s.sw) ∧
        (s.sw.pins.d2dFatal.contains (s.sw.copyLink j) = false →
          ∃ k, (s.sw.copyLine j i).job? n j.no = some k ∧ k.st = .running ∧ k.done = j.done ++ [i])) ∧
      (jobUnits j ≤ j.done.length →
        Does (.hearthJobComplete n j.no) s (s.sw.jobDone j (if j.nfail = 0 then 0 else 3) .both).jobRelease ∧
        (jCgfa j.desc % 64 ≠ 0 → j.core = none → (∀ y ∈ s.sw.jobs, y.st ≠ .waiting) →
          (s.sw.jobDone j (if j.nfail = 0 then 0 else 3) .both).jobRelease.jobs = s.sw.jobs.filter (fun y => y.no != j.no))) ∧
      (j.done.length < jobUnits j → exec (.hearthJobComplete n j.no) s = .next s))

/-- A line of a copy from HBM to a CXL port that serves it, over a die-to-die link that runs: the 64 bytes of the port become
those of HBM, and no other byte of a port or of HBM changes. -/
def Obligations.CopyMovesOneLine : Prop :=
  ∀ (s : State) (n : Stack) (j : Job) (i h off : Nat) (pa : Nat × Nat),
    s.sw.job? n j.no = some j → j.st = .running → jKind j.desc = 1 → i < jobUnits j → i ∉ j.done →
    h = stBase (streamEntry j.pblk 0) + 64 * i → off = fld (streamEntry j.pblk 1) 0 40 + 64 * i →
    pa = cxlOf (fld (streamEntry j.pblk 1) 40 16 % 32) off →
    (s.sw.bport pa.1).st = .ready → pa.2 + 64 ≤ (s.sw.bport pa.1).cap → (pa.1 = 0 → s.sw.hostRole = false) →
    s.sw.hbmBad.contains (h / 64) = false → s.sw.lineReset h = false → s.sw.pins.d2dFatal.contains (s.sw.copyLink j) = false →
    ∃ w, Does (.copyLine n j.no i) s w ∧
      (∀ a, w.cxlByte pa.1 a =
        if pa.2 ≤ a ∧ a < pa.2 + 64 then memRd s.sw.hbm (h + (a - pa.2)) else s.sw.cxlByte pa.1 a) ∧
      (∀ q a, q ≠ pa.1 → a < 2 ^ 42 → pa.2 + 64 ≤ 2 ^ 42 → w.cxlByte q a = s.sw.cxlByte q a) ∧
      pa.1 * 2 ^ 36 + pa.2 / 64 ∉ w.cxlBad ∧
      w = { s.sw with cxl := w.cxl, cxlBad := w.cxlBad, clr := w.clr, jobs := w.jobs
                      brg := { s.sw.brg with unk := w.brg.unk } }

/-- A line port writes a whole line without a read, whatever errors its codeword has; it merges a part of one that reads clean;
where the decoder corrects a symbol the corrected line is written back (of a line of free ring handles or flow records the model
keeps the lists that fill it, log 126), counted, and a corrected fault raised; of a line that is
uncorrectable nothing is read or merged: that is counted and raises a contained fault, and the stored line stays as it was.
A patrol read in a pass that is under way does the same with its own reader; there is none while the switch is Parked or a granule
of the stack clears, nor with no pass under way and `hbm.scrub.s` 0. -/
def Obligations.LinePorts : Prop :=
  ∀ (s : State) (o : BitVec 40) (errs : LineErr) (st ch b u : Nat) (old : Bytes) (plain : Prop), st = (s.sw.hbmStack b).1 →
    ch = (s.sw.hbmStack b).2 → b = 64 * (o.toNat / 64) → (plain ↔ 544 * 2 ^ 20 ≤ b % s.sw.dieRegion) → old = s.sw.lineBytes b → u = s.sw.portOfLine o.toNat →
    o.toNat < s.sw.hbmSize → s.sw.stackOk (s.sw.hbmStack o.toNat).1 = true → s.sw.lineReset o.toNat = false →
    s.sw.lineReset b = false →
    (∀ bs : Bytes, bs.length = 64 →
      ∃ w, Does (.linePortAccess o (.write bs) errs) s w ∧
        (∀ a, memRd w.hbm a = if b ≤ a ∧ a < b + 64 then bs.getD (a - b) 0 else memRd s.sw.hbm a) ∧
        o.toNat / 64 ∉ w.hbmBad ∧ w = { s.sw with hbm := w.hbm, hbmBad := w.hbmBad, clr := w.clr }) ∧
    (∀ (k : Fin 64) (bs : Bytes), k.val + bs.length ≤ 64 → s.sw.lineBad (o.toNat / 64) = false → lineRead old errs = .clean old →
      ∃ w, Does (.linePortAccess o (.merge k bs) errs) s w ∧
        (∀ a, memRd w.hbm a = if b + k.val ≤ a ∧ a < b + k.val + bs.length then bs.getD (a - (b + k.val)) 0
          else if b ≤ a ∧ a < b + 64 then old.getD (a - b) 0 else memRd s.sw.hbm a) ∧
        w = { s.sw with hbm := w.hbm, hbmBad := w.hbmBad, clr := w.clr }) ∧
    (∀ bs : Bytes, s.sw.lineBad (o.toNat / 64) = false → lineRead old errs = .corrected bs →
      (∃ w, Does (.linePortAccess o .read errs) s w ∧
        (∀ a, a < b ∨ b + 64 ≤ a → memRd w.hbm a = memRd s.sw.hbm a) ∧ (plain → ∀ a, a < 64 → memRd w.hbm (b + a) = bs.getD a 0) ∧
        w.rd (L.hbmEccCorr.at st) = (s.sw.rd (L.hbmEccCorr.at st) + 1) % 256 ^ (L.hbmEccCorr.at st).width ∧
        w.flt.due = s.sw.flt.due ++ [⟨0x40, 40 + st, none, BitVec.ofNat 64 (detM 0 st ch b), BitVec.ofNat 64 rdPacket⟩] ∧
        w = { s.sw with hbm := w.hbm, hbmBad := w.hbmBad, clr := w.clr, lex := w.lex, flt := { s.sw.flt with due := w.flt.due } }) ∧
      (∀ p : Nat × Nat, s.sw.scrub.get? u = some p → s.sw.now < p.1 + p.2 * 10 ^ 9 → s.sw.parkedNow = false → s.sw.clearsStack st = false →
        ∃ w, Does (.patrolRead o errs) s w ∧ w.scrub.get? u = some p ∧
          (∀ a, a < b ∨ b + 64 ≤ a → memRd w.hbm a = memRd s.sw.hbm a) ∧ (plain → ∀ a, a < 64 → memRd w.hbm (b + a) = bs.getD a 0) ∧
          w.rd (L.hbmEccCorr.at st) = (s.sw.rd (L.hbmEccCorr.at st) + 1) % 256 ^ (L.hbmEccCorr.at st).width ∧
          w.flt.due = s.sw.flt.due ++ [⟨0x40, 40 + st, none, BitVec.ofNat 64 (detM 0 st ch b), BitVec.ofNat 64 rdPatrol⟩] ∧
          w = { s.sw with
            hbm := w.hbm, hbmBad := w.hbmBad, clr := w.clr, lex := w.lex, scrub := w.scrub
            flt := { s.sw.flt with due := w.flt.due } })) ∧
    (∀ acc : LineAccess, (∀ bs, acc ≠ .write bs) → s.sw.lineBad (o.toNat / 64) = true ∨ lineRead old errs = .bad →
      ∃ w, Does (.linePortAccess o acc errs) s w ∧ w.hbm = s.sw.hbm ∧ o.toNat / 64 ∈ w.hbmBad ∧
        w.rd (L.hbmEccUncorr.at st) = (s.sw.rd (L.hbmEccUncorr.at st) + 1) % 256 ^ (L.hbmEccUncorr.at st).width ∧
        w.flt.due = s.sw.flt.due ++ [⟨0x41, 40 + st, none, BitVec.ofNat 64 (detM 0 st ch b), BitVec.ofNat 64 rdPacket⟩] ∧
        w = { s.sw with hbmBad := w.hbmBad, clr := w.clr, lex := w.lex, flt := { s.sw.flt with due := w.flt.due } }) ∧
    (s.sw.parkedNow = true ∨ s.sw.clearsStack st = true → exec (.patrolRead o errs) s = .next s) ∧
    (s.sw.parkedNow = false → s.sw.clearsStack st = false → s.sw.scrub.get? u = none → s.sw.rd L.hbmScrubS = 0 → Does (.patrolRead o errs) s s.sw)

/-! ### 09: Swage -/

/-- A Swage descriptor that is submitted: a WRITE of another length is Denied, an array in reset answers Target-Reset; Busy and
counted where 16 wait at the array, otherwise queued with the next number. -/
def Obligations.SwageOperationsAreSubmitted : Prop :=
  ∀ (s : State) (h : Word256) (pay : Bytes) (u : Sw) (d a : Nat), u = s.sw.takeIn h pay → d = leNat (pay.take 64) →
    a = wArray d → pKind h = 0 → hOff h = u.rd L.swageJobWin →
    (hPlen h ≠ 1 ∨ hTail h ≠ 0 → Does (.swageOpSubmit h pay) s (u.answer (a / 4) h stDenied (u.arrInc a) [] .both)) ∧
    (hPlen h = 1 → hTail h = 0 → u.blkRst.contains (.array (Fin.ofNat 16 a)) = true →
      Does (.swageOpSubmit h pay) s (u.answer (a / 4) h stTargetReset (u.arrInc a) [] .both)) ∧
    (hPlen h = 1 → hTail h = 0 → u.blkRst.contains (.array (Fin.ofNat 16 a)) = false →
      (16 ≤ u.opsQueued a →
        Does (.swageOpSubmit h pay) s ((u.inc (L.swageBusy.at a)).answer (a / 4) h stBusy (u.arrInc a) [] .both)) ∧
      (u.opsQueued a < 16 → Does (.swageOpSubmit h pay) s
        (({ u with
            ops := u.ops ++ [{ no := u.opNo, array := a, ten := hTen h, desc := d, cls := pClass h, core := none }]
            opNo := u.opNo + 1 } : Sw).answer (a / 4) h stOk (u.arrInc a) [] .both)))

/-- An operation from the head of its array's queue to Done, its array awake: it waits where it asks to; one that is not valid is
Done with Format or Denied, one without output with OK; a valid one loads, one that shares bytes with another in flight stops as
an undefined use. Loaded, it runs with W in the stationary region and its first stationary tile in the active sets. A pass counts
once; it does not complete while a swap waits for the shadow load, while the tile waits for its frame, nor while rows of A are
missing. The last pass of the last tile makes it drain, or wait where another operation of the array drains. A shadow load that
completes lets a waiting swap take place. An operation that has drained leaves the part's operations. None of these acts over a
stopped link. -/
def Obligations.SwageOperationsRun : Prop :=
  ∀ (s : State) (a : ArrayId) (x : SwOp),
    (s.sw.opHead a = some x → s.sw.unitAwake (.swage a) = true →
      (wAfter x.desc = true → s.sw.opClear x = false →
        Does (.swageOpValidate a) s (s.sw.updOp x.no (fun y => { y with st := .waiting }))) ∧
      (wAfter x.desc = false ∨ s.sw.opClear x = true →
        ∀ y, y = { x with tstart := s.sw.now, ns := s.sw.rd L.swageStreamNs, tol := s.sw.rd L.swageChkTol } →
          (swFormat x.desc = true → Does (.swageOpValidate a) s (s.sw.opDone y 2 .both)) ∧
          (swFormat x.desc = false → s.sw.swDenied x = true → Does (.swageOpValidate a) s (s.sw.opDone y 1 .both)) ∧
          (swFormat x.desc = false → s.sw.swDenied x = false →
            (wM x.desc = 0 ∨ wN x.desc = 0 → Does (.swageOpValidate a) s (s.sw.opDone y 0 .both)) ∧
            (wM x.desc ≠ 0 → wN x.desc ≠ 0 → s.sw.swUndefined x = true →
              exec (.swageOpValidate a) s = .fault (.undefinedUse 401)) ∧
            (wM x.desc ≠ 0 → wN x.desc ≠ 0 → s.sw.swUndefined x = false →
              Does (.swageOpValidate a) s
                (s.sw.updOp x.no (fun _ => { y with st := .loading, shadow := some (0, 0) })))))) ∧
    (s.sw.opIn a (fun st => st == .loading) = some x →
      (s.sw.linesReach a (loadLines x) = false → exec (.swageLoadComplete a) s = .next s) ∧
      (s.sw.linesReach a (loadLines x) = true → Does (.swageLoadComplete a) s (s.sw.opLoaded x) ∧
        (s.sw.op? x.no = some x → passesQ x.desc ≠ 0 → x.active ≠ some x.needs → x.shadow = some x.needs →
          ∃ y, (s.sw.opLoaded x).op? x.no = some y ∧ y.st = .running ∧ y.wreg = s.sw.wRegion x.desc ∧
            y.active = some x.needs ∧ y.swap = false))) ∧
    (s.sw.opIn a (fun st => st == .running) = some x → s.sw.op? x.no = some x →
      (x.swap = true ∨ x.wait = true ∨ x.begun = false ∨ s.sw.linesReach a (passLines x) = false →
        Does (.swagePassComplete a) s s.sw) ∧
      (x.swap = false → x.wait = false → x.begun = true → s.sw.linesReach a (passLines x) = true →
        (x.pass + 1 < passesQ x.desc → ∃ y, Does (.swagePassComplete a) s ((s.sw.passAdd x).updOp x.no SwOp.turn) ∧
          ((s.sw.passAdd x).updOp x.no SwOp.turn).op? x.no = some y ∧ y.st = .running ∧ y.pass = x.pass + 1 ∧ y.tile = x.tile) ∧
        (passesQ x.desc ≤ x.pass + 1 → tilesU x.desc * slicesV x.desc ≤ x.tile + 1 →
          ∃ w y, Does (.swagePassComplete a) s w ∧ w.op? x.no = some y ∧ y.tile = x.tile ∧
            ((s.sw.opIn a (fun st => st == .draining)).isSome = false → y.st = .draining) ∧
            ((s.sw.opIn a (fun st => st == .draining)).isSome = true → y.st = .running ∧ y.wait = true))) ∧
      (x.shadow = none → Does (.shadowLoadComplete a) s s.sw) ∧
      (∀ t y, x.shadow = some t → y = { x with loaded := true, badSh := x.badSh || x.badW.contains t } →
        ∃ w, Does (.shadowLoadComplete a) s w ∧ (x.swap = false → w.op? x.no = some y) ∧ (x.swap = true → w.op? x.no = some y.turn) ∧
          (x.swap = true → t = x.needs → y.turn.active = some x.needs ∧ y.turn.swap = false))) ∧
    (s.sw.opIn a (fun st => st == .draining) = some x →
      ∀ ls, ls = (if wSpill x.desc then linesOf (wSbase x.desc, 8 * wM x.desc * wN x.desc) else []) →
      (s.sw.linesReach a ls = false → Does (.swageDrainComplete a) s s.sw) ∧
      (s.sw.linesReach a ls = true → ∀ r v, r = s.sw.lastDrain x .both → v = r.1.opDone r.2 r.2.status .both →
        ((∀ y, v.opIn a (fun st => st == .running) = some y → y.wait = false) → Does (.swageDrainComplete a) s v) ∧
        (wSpill x.desc = true → wCgfa x.desc % 64 ≠ 0 → x.held = [] → x.rest = [] → x.core = none → s.sw.op? x.no = some x →
          v.ops = s.sw.ops.filter (fun y => y.no != x.no))))

/-- A stream WRITE comes to its array with the billets that hold it. An array in reset frees them and answers Target-Reset; where
no operation loads or runs at the array the WRITE is counted as an orphan and answered Denied. The stream timeout stops the
operation with Incomplete and a contained fault that names the array and its row tile. -/
def Obligations.SwageStreams : Prop :=
  ∀ s : State,
    (∀ (h : Word256) (pay : Bytes) (a : Nat) (p : Stored) (u : Sw), (p, u) = s.sw.takeKeep h pay →
      a = (hOff h - u.rd L.swageStreamWin) / 2 ^ 32 → pKind h = 0 → u.rd L.swageStreamWin ≤ hOff h → a < 16 →
      (u.blkRst.contains (.array (Fin.ofNat 16 a)) = true →
        Does (.swageStreamWrite h pay) s ((u.freeBil p.bil).answer (a / 4) h stTargetReset (u.arrInc a) [] .both)) ∧
      (u.blkRst.contains (.array (Fin.ofNat 16 a)) = false →
        Does (.swageStreamWrite h pay) s (u.streamWrite (a / 4) a ((hOff h - u.rd L.swageStreamWin) % 2 ^ 32) p) ∧
        (u.opIn a (fun st => st == .loading || st == .running) = none → ∀ v, v = (u.freeBil p.bil).inc (L.swageOrphan.at a) →
          Does (.swageStreamWrite h pay) s (v.answer (a / 4) p.hdr stDenied (u.arrInc a) [] .both)))) ∧
    (∀ (a : ArrayId) (x : SwOp) (t : Nat), s.sw.opIn a (fun st => st == .running) = some x → x.due = some t →
      Does (.swageStreamTimeout a) s
        (((s.sw.reach t).fault 0x38 (16 + x.array) (some x.ten) (detC 0 (x.tile / slicesV x.desc))
          (auxC 0xFFFF x.array 0)).opDone x 7 .both))

/-! ### 11: agreement counters -/

/-- An AGREE that is denied is counted and raises a contained fault; it is not answered and changes no counter. -/
def Obligations.DeniedAgreements : Prop :=
  ∀ (s : State) (w : Word256) (u : Sw), u = s.sw.takeCtl w → pKind w = 3 → u.agrDenied w = true →
    (gOp w = 0 → Does (.agreeArrive w) s (u.agrDeny w)) ∧ (gOp w = 1 → Does (.agreeRelease w) s (u.agrDeny w)) ∧
    (u.agrDeny w).agr = s.sw.agr ∧ (u.agrDeny w).tx = s.sw.tx ∧ (u.agrDeny w).fab.ctl = s.sw.fab.ctl ∧
    (u.agrDeny w).rd (L.agrDenied.at (gCtr w / 512)) =
      (s.sw.rd (L.agrDenied.at (gCtr w / 512)) + 1) % 256 ^ (L.agrDenied.at (gCtr w / 512)).width

/-- The rows of Table 11.1 for an ARRIVE that is not denied: it marks its member and adds its count; the last one of a group
below the top goes up as one ARRIVE; the last one at the top, with none held for the next epoch, ends the round: the epoch
advances. A member already marked, an old epoch and one too far ahead are counted and change no counter; one that carries no
arrival, or comes for a round in Up, has no effect. -/
def Obligations.ArrivalsMakeRounds : Prop :=
  ∀ (s : State) (w : Word256) (u : Sw) (c : Nat) (x : Agr), u = s.sw.takeCtl w → pKind w = 3 → gOp w = 0 →
    u.agrDenied w = false → c = gCtr w → x = u.agrCtr c →
    (gCount w = 0 → gLevel w = 0 → Does (.agreeArrive w) s u) ∧
    (gCount w ≠ 0 ∨ gLevel w ≠ 0 →
      (gEpoch w = x.epoch → pSrc w ∈ x.cur.marked →
        Does (.agreeArrive w) s ((u.inc (L.agrDup.at (c / 512))).agrFault 0x2B w)) ∧
      (gEpoch w = x.epoch → pSrc w ∉ x.cur.marked → x.st = .up → Does (.agreeArrive w) s u) ∧
      (gEpoch w = x.epoch → pSrc w ∉ x.cur.marked → x.st ≠ .up →
        ((u.agrMembers c).all (fun m => (pSrc w :: x.cur.marked).contains m.id) = false →
          Does (.agreeArrive w) s (u.setAgr c { x with
            st := .gathering, cur := u.mark c x.cur (pSrc w) (gCount w), forced := x.forced || gLevel w == 1 })) ∧
        ((u.agrMembers c).all (fun m => (pSrc w :: x.cur.marked).contains m.id) = true →
          gTop (u.group (bGroup (u.agrBind c))) = false →
          ∀ y, y = { x with
              st := .gathering, cur := u.mark c x.cur (pSrc w) (gCount w), forced := x.forced || gLevel w == 1 } →
            Does (.agreeArrive w) s (((u.setAgr c y).sendAgree c (gParent (u.group (bGroup (u.agrBind c)))) 0 y.epoch y.cur.value
              (b2n y.forced) .both).setAgr c { y with st := .up })) ∧
        ((u.agrMembers c).all (fun m => (pSrc w :: x.cur.marked).contains m.id) = true →
          gTop (u.group (bGroup (u.agrBind c))) = true → x.nxt.marked = [] →
          ∃ v, Does (.agreeArrive w) s v ∧
            v.agrCtr c = { st := .waiting, epoch := (x.epoch + 1) % 65536, cur := x.nxt, nxt := {}, forced := x.nxt.forced,
                           lending := false } ∧
            (∀ k, k ≠ c → v.agrCtr k = s.sw.agrCtr k))) ∧
      (gEpoch w ≠ x.epoch → gEpoch w = (x.epoch + 1) % 65536 → pSrc w ∉ x.nxt.marked →
        Does (.agreeArrive w) s (u.setAgr c { x with
          nxt := { u.mark c x.nxt (pSrc w) (gCount w) with forced := x.nxt.forced || gLevel w == 1 } })) ∧
      (gEpoch w ≠ x.epoch → gEpoch w = (x.epoch + 1) % 65536 → pSrc w ∈ x.nxt.marked →
        Does (.agreeArrive w) s ((u.inc (L.agrDup.at (c / 512))).agrFault 0x2B w)) ∧
      (gEpoch w ≠ x.epoch → gEpoch w ≠ (x.epoch + 1) % 65536 →
        later 65536 ((x.epoch + 65535) % 65536) (gEpoch w) = false →
        Does (.agreeArrive w) s (u.inc (L.agrStale.at (c / 512)))) ∧
      (gEpoch w ≠ x.epoch → gEpoch w ≠ (x.epoch + 1) % 65536 →
        later 65536 ((x.epoch + 65535) % 65536) (gEpoch w) = true →
        Does (.agreeArrive w) s ((u.inc (L.agrAhead.at (c / 512))).agrFault 0x2C w)))

/-- A RELEASE that is not denied ends the round of a counter in Up whose epoch it names, with no arrival held for the next; of
another epoch, or outside Up, it is counted as stale. A force that names the epoch of a bound counter ends the round in Up and
at the top of the group, with no arrival held for the next; below the top it puts a counter that is not in Up there, forced.
Naming another epoch it has no effect. A write of a binding clears its counter and no other. A lending report starts once the
wait has run out. -/
def Obligations.ReleasesForcesBindings : Prop :=
  ∀ (s : State) (c : Fin 2048) (x : Agr), x = s.sw.agrCtr c →
    (∀ (w : Word256) (u : Sw), u = s.sw.takeCtl w → pKind w = 3 → gOp w = 1 → gCtr w = c.val → u.agrDenied w = false →
      (x.st = .up → gEpoch w = x.epoch → x.nxt.marked = [] →
        ∃ v, Does (.agreeRelease w) s v ∧ (v.agrCtr c).epoch = (x.epoch + 1) % 65536 ∧ (v.agrCtr c).st = .waiting) ∧
      (x.st ≠ .up ∨ gEpoch w ≠ x.epoch → Does (.agreeRelease w) s (u.inc (L.agrStale.at (c.val / 512))))) ∧
    (∀ v : BitVec 32, s.busyFor 0x8000 3 = false → fld v.toNat 0 11 = c.val →
      (bValid (s.sw.agrBind c) = false ∨ x.epoch ≠ fld v.toNat 16 16 → exec (.agrForce v) s = .next s) ∧
      (bValid (s.sw.agrBind c) = true → x.epoch = fld v.toNat 16 16 → x.st = .up → x.nxt.marked = [] →
        ∃ w, Does (.agrForce v) s w ∧ (w.agrCtr c).epoch = (x.epoch + 1) % 65536 ∧ (w.agrCtr c).st = .waiting) ∧
      (bValid (s.sw.agrBind c) = true → x.epoch = fld v.toNat 16 16 → x.st ≠ .up → x.nxt.marked = [] →
        ∃ w, Does (.agrForce v) s w ∧
          (gTop (s.sw.group (bGroup (s.sw.agrBind c))) = true →
            (w.agrCtr c).epoch = (x.epoch + 1) % 65536 ∧ (w.agrCtr c).st = .waiting) ∧
          (gTop (s.sw.group (bGroup (s.sw.agrBind c))) = false →
            (w.agrCtr c).epoch = x.epoch ∧ (w.agrCtr c).st = .up ∧ (w.agrCtr c).forced = true))) ∧
    (∀ v : BitVec 32, s.busyFor 0x8000 1 = false →
      ∃ w, Does (.agrBindWrite c v) s w ∧ w.agrCtr c = {} ∧ w.rd L.agrBind c = Nat.land v.toNat 0xCFF00FFF ∧
        (∀ k, k ≠ c.val → w.agrCtr k = s.sw.agrCtr k) ∧ w = { s.sw with lex := w.lex, agr := w.agr }) ∧
    (∀ t, x.cur.lendAt = some t → x.st ≠ .waiting → x.lending = false →
      ∀ w : Sw, w = (s.sw.reach t).setAgr c { x with lending := true } →
        (s.sec.busy ≠ some 3 → Does (.lendReportStart c) s (w.lendStart (bTen (s.sw.agrBind c)))) ∧
        (s.sec.busy = some 3 → Does (.lendReportStart c) s (w.lendPark (bTen (s.sw.agrBind c)))))

/-! ### 12: ports -/

/-- The port commands, by Table 12.7: Enable starts a Disabled port and no other, with the base page of its PHY
types; Disable stops driving and Retrain starts anew
at the configured width, each going down with cause Command where the port was Up. Enter-Idle acts on a native port that is Up: it
enters electrical idle with a codeword that says so, abandons the entry where something is ready to be sent, and else waits. -/
def Obligations.PortCommands : Prop :=
  ∀ (s : State) (p : Lane) (x : PortSt), x = s.sw.port p → s.busyFor 0x3000 4 = false →
    (s.sw.portCfg p = true → x.st = .disabled → x.reduced = false →
      ∃ w, Does (.portEnable p) s w ∧ (w.port p).st = .negotiating ∧ (w.port p).mode = 0 ∧
        (w.port p).width = s.sw.rd L.linkPortWidth p ∧ (w.port p).negAt = s.sw.now ∧
        w.tx = .basePage p true (w.port p).phys :: s.sw.tx ∧
        (∀ q, q ≠ p.val → w.port q = s.sw.port q) ∧
        w = { s.sw with
          ports := w.ports, lanes := w.lanes, tx := w.tx, bel := { s.sw.bel with gTc := w.bel.gTc, gTp := w.bel.gTp } }) ∧
    (s.sw.portCfg p = false ∨ x.st ≠ .disabled → Does (.portEnable p) s s.sw) ∧
    (s.sw.portCfg p = true → x.st ≠ .up →
      ∃ w, Does (.portDisable p) s w ∧ (w.port p).st = .disabled ∧ (w.port p).mode = 0 ∧ (w.port p).oos = false ∧
        (∀ q, q ≠ p.val → w.port q = s.sw.port q) ∧
        w = { s.sw with ports := w.ports, flt := { s.sw.flt with held := w.flt.held } }) ∧
    (s.sw.portCfg p = true → x.st = .up →
      Does (.portDisable p) s
        (((s.sw.goDown p 9).updPort p (fun y => { y.quiet with st := .disabled, mode := 0, oos := false })).restore (.port p))) ∧
    (s.sw.portCfg p = true → x.st ≠ .disabled → x.st ≠ .up →
      ∃ w, Does (.portRetrain p) s w ∧ (w.port p).st = .negotiating ∧ (w.port p).width = s.sw.rd L.linkPortWidth p ∧
        (w.port p).reduced = false ∧ (w.port p).oos = false ∧ (∀ q, q ≠ p.val → w.port q = s.sw.port q)) ∧
    (x.st = .up → x.mode = 1 → x.eidleTx = false →
      (s.sw.hasToSend p = true → Does (.portEnterIdle p) s (s.sw.updPort p (fun y => { y with wantIdle := false }))) ∧
      (s.sw.hasToSend p = false → x.kept ≠ [] → Does (.portEnterIdle p) s (s.sw.updPort p (fun y => { y with wantIdle := true }))) ∧
      (s.sw.hasToSend p = false → x.kept = [] →
        ∃ w, Does (.portEnterIdle p) s w ∧ (w.port p).eidleTx = true ∧ (w.port p).wantIdle = false ∧
          (x.width ≠ 0 → ∃ n b, Tx.codeword p n (shortMsg false true true 0 x.aseq 0) b ∈ w.tx) ∧
          (∀ q, q ≠ p.val → w.port q = s.sw.port q) ∧ w = { s.sw with ports := w.ports, lanes := w.lanes, tx := w.tx })) ∧
    (x.st ≠ .up ∨ x.mode ≠ 1 → Does (.portEnterIdle p) s s.sw)

/-- The way of a port from Negotiating to Up and its failures: the mode settled on, where its link die has its clock, or cause
No-Common; native training that runs out fails with cause Training, or aligns where every lane is at its floor, whose lanes begin to send
then; an Ethernet port is Up by PCS alignment, where the polarity set undoes each inversion; a comma at a lane of a port that is
Up; cause Timeout; the retry after 1 s; the figures of merit of a
Temper update, whose step at the equaliser of a lane in Up, one up or one down as a free value says (the model's, log 120), is
undone where it lowered the figure by more than 8; a port that is Up and loses its signal or a lane. -/
def Obligations.PortsTrain : Prop :=
  ∀ (s : State) (p : Lane) (x : PortSt), x = s.sw.port p →
    (∀ g : PartnerPages, x.st = .negotiating →
      (s.sw.settleMode p g = 0 →
        ∃ w f, Does (.negotiationComplete p g) s w ∧ (w.port p).st = .failed ∧ (w.port p).cause = 1 ∧
          w.flt.due = s.sw.flt.due ++ [f] ∧ f.code = 0x48 ∧ f.source = 32 + p.val / 64) ∧
      (s.sw.settleMode p g ≠ 0 → s.sw.pins.noClk.contains (p.val / 64) = false →
        ∃ w, Does (.negotiationComplete p g) s w ∧ (w.port p).st = .training ∧ (w.port p).mode = s.sw.settleMode p g ∧
          (w.port p).partner = (if s.sw.hokuell g then g.cap.toNat else 0) ∧ (w.port p).trainAt = s.sw.now ∧
          (∀ q, q ≠ p.val → w.port q = s.sw.port q) ∧ w = { s.sw with ports := w.ports, tx := w.tx } ∧
          w.tx = if g.nextPage then List.replicate g.others (.nullPage p) ++
            .nextPages p (s.sw.rd L.linkAnOui) (s.sw.capWord p) :: s.sw.tx else s.sw.tx)) ∧
    (x.st = .training → x.mode = 1 →
      (∃ w, Does (.trainingTimeout p false) s w ∧ (w.port p).st = .failed ∧ (w.port p).cause = 2 ∧
        w.now = max s.sw.now (deadline x.trainAt 300000000)) ∧
      (s.sw.lanesBelow p = [] →
        ∃ w, Does (.trainingTimeout p true) s w ∧ (w.port p).st = .aligning ∧
          (∀ i, i < x.width → (w.lane (p + i)).freeAt = lineBits * w.now ∧ (w.lane (p + i)).sent = 0 ∧ (w.lane (p + i)).scr = 0) ∧
          w = { s.sw with now := max s.sw.now (deadline x.trainAt 300000000), ports := w.ports, lanes := w.lanes })) ∧
    (x.st = .aligning → x.mode ≠ 1 →
      ((s.sw.portLanes p).any (fun n => (s.sw.lane n).inv != bit (s.sw.rd L.linkLanePol n) 1) = true →
        exec (.pcsAlignmentLock p) s = .next s) ∧
      ((s.sw.portLanes p).any (fun n => (s.sw.lane n).inv != bit (s.sw.rd L.linkLanePol n) 1) = false →
        ∃ w, Does (.pcsAlignmentLock p) s w ∧ (w.port p).st = .up ∧ (w.port p).locked = true)) ∧
    (∀ (l : Lane) (tag : Option (BitVec 32)), s.sw.portOfLane l = some p.val → x.mode = 1 → x.st = .up →
      p.val ≤ l.val → l.val < p.val + x.width → ((s.sw.lane l).asleep = false ∨ tag.isSome = true) →
      ∃ w, Does (.commaReceive l tag) s w ∧
        w.lane l = ((s.sw.linesTo p).lane l).comma s.sw.now (tag.map BitVec.toNat) ∧
        (w.port p).eidleRx = (s.sw.portLanes p).any (fun n => (w.lane n).asleep) ∧
        (∀ k, k < p.val ∨ p.val + x.width ≤ k → w.lane k = s.sw.lane k) ∧
        w = { s.sw with lanes := w.lanes, ports := w.ports, tx := w.tx }) ∧
    (s.sw.rd L.linkUpNs ≠ 0 → x.st = .negotiating ∨ x.st = .training ∨ x.st = .aligning →
      ∃ w, Does (.portUpTimeout p) s w ∧ (w.port p).st = .failed ∧ (w.port p).cause = 4 ∧
        w.now = max s.sw.now (deadline x.negAt (s.sw.rd L.linkUpNs))) ∧
    (x.st = .failed → x.oos = false →
      ∃ w, Does (.failedPortRetry p) s w ∧ (w.port p).st = .negotiating ∧ (w.port p).width = x.width ∧
        w.now = max s.sw.now (deadline x.failAt 1000000000)) ∧
    (∀ (eyes : List LaneEye) (u : Sw),
      u = eyes.foldl (fun w e => if w.lanePowered e.lane then w.fomLane e.lane (fomOf e) e.inv else w)
        { s.sw.reach s.sw.fomNext with fomAt := some s.sw.fomNext } →
      s.sw.now ≤ s.sw.fomNext ∧ s.sw.fomNext % 10000 = 0 ∧ s.sw.fomAt ≠ some s.sw.fomNext ∧
      Does (.temperFomUpdate eyes) s (u.cfgPortList.foldl (fun w q => w.fomPort (eyes.map (fun e => e.lane.val)) q) u) ∧
      (eyes.Pairwise (fun a b => a.lane ≠ b.lane) → ∀ e ∈ eyes, ∀ y, y = s.sw.lane e.lane → s.sw.lanePowered e.lane = true →
        (u.lane e.lane).fom = fomOf e ∧
        (∀ q, s.sw.portOfLane e.lane = some q →
          (u.lane e.lane).inv = if (s.sw.port q).st = .training then e.inv else y.inv) ∧
        (∀ q, s.sw.portOfLane e.lane = some q → s.sw.portUp q = true → (s.sw.port q).eidleRx = false →
          (u.lane e.lane).was = fomOf e ∧
          (if y.step ≠ 0 ∧ fomOf e + 8 < y.was then (u.lane e.lane).eq = y.eq - y.step ∧ (u.lane e.lane).step = 0
            else ((u.lane e.lane).eq = y.eq + 1 ∨ (u.lane e.lane).eq = y.eq - 1) ∧
              (u.lane e.lane).step = (u.lane e.lane).eq - y.eq)))) ∧
    (x.st = .up →
      Does (.signalLoss p) s (s.sw.downAndBack p 7) ∧
      (∀ (l : Lane) (t : Nat), s.sw.portOfLane l = some p.val → (s.sw.lane l).unlocked = some t →
        Does (.laneUnlockTimeout l) s ((s.sw.reach (deadline t 1000000)).downAndBack p 6)))

/-- Link-level retry and electrical idle of a native port that is Up. A codeword on no locked lane of the port, or on one that sleeps,
is discarded; one that lost a block, or that its code does not correct, asks for a replay by the next block, the latter counted.
One that is whole acknowledges what was kept up to its `aseq` and says whether the partner goes idle; the symbols corrected are
counted; one ahead of the expected waits; the expected one, where the check of its packet fails, asks for a replay; a control
packet in it is delivered. The timers: skew, replay of everything kept, the retry limit; entry to electrical idle, and its exit,
which ends in a comma and a lane tag on each lane. -/
def Obligations.RetryAndElectricalIdle : Prop :=
  ∀ (s : State) (p : Lane) (x : PortSt), x = s.sw.port p → x.st = .up → x.mode = 1 →
    (∀ (c : Codeword) (l : LaneSt), l = s.sw.lane c.lane →
      ((s.sw.portLanes p).contains c.lane.val = false ∨ l.locked = false ∨ l.asleep = true →
        Does (.codewordReceive p c) s s.sw) ∧
      ((s.sw.portLanes p).contains c.lane.val = true → l.locked = true → l.asleep = false →
        (∀ u, (cwWhole l.inv c = false ∧ u = s.sw) ∨
            (cwWhole l.inv c = true ∧ cwCorrectable c = false ∧ u = s.sw.inc L.linkCntUncorr p) →
          ∃ w, Does (.codewordReceive p c) s w ∧ w = (u.discardCw p c).askReplay p ∧ (w.port p).skip = true ∧
            (w.port p).stash = [] ∧
            (x.stash = [] → x.rxLeft = 0 → (w.port p).rxNext = x.rxNext ∧
              (x.eidleTx = true → (w.port p).nakDue = true ∧ (w.port p).exitAt.isSome = true) ∧
              (x.eidleTx = false → x.width ≠ 0 →
                ∃ n b, Tx.codeword p n (shortMsg true true false 0 x.aseq 0) b ∈ w.tx))) ∧
        (cwWhole l.inv c = true → cwCorrectable c = true → cwNak c = false →
          (cwIdle c = true ∨ cwLseq c ≠ x.rxNext ∧ x.skip = false →
            ∃ w, Does (.codewordReceive p c) s w ∧
              (w.port p).kept = x.kept.filter (fun k => later 65536 (cwAseq c) k.lseq) ∧ (w.port p).rxNext = x.rxNext ∧
              (w.port p).eidleRx = (x.eidleRx || cwEidle c) ∧
              (∀ n, n ∈ s.sw.portLanes p → (w.lane n).asleep = ((s.sw.lane n).asleep || cwEidle c)) ∧
              w.rd L.linkCntCorr p = (s.sw.rd L.linkCntCorr p + c.errs) % 256 ^ L.linkCntCorr.width ∧
              (cwIdle c = false → later 65536 x.rxNext (cwLseq c) = true →
                x.stash.any (fun d => cwLseq d.1 == cwLseq c) = false → (w.port p).stash = x.stash ++ [(c, s.sw.now)]) ∧
              w = { s.sw with lex := w.lex, ports := w.ports, lanes := w.lanes }) ∧
          (cwIdle c = false → cwLseq c = x.rxNext → cwChecked c = false →
            ∃ w, Does (.codewordReceive p c) s w ∧ (w.port p).skip = true ∧ (w.port p).stash = []) ∧
          (cwIdle c = false → cwShort c = true → cwEidle c = false → cwLseq c = x.rxNext → cwChecked c = true →
            pCtl (cwPkt c) = 1 → x.stash = [] →
            Does (.codewordReceive p c) s ((((s.sw.inc L.linkCntCorr p c.errs).acked p (cwAseq c)).updPort p (fun y => { y with
              rxNext := (y.rxNext + 1) % 65536, skip := false, rxOther := false
              ackFrom := if y.eidleTx && y.ackFrom.isNone then some s.sw.now else y.ackFrom })).rxCtl (.port p) (cwPkt c)))) ∧
        (∀ w, s.sw.codeword p c = .ok w → Does (.codewordReceive p c) s w))) ∧
    (∀ t, x.skewAt = some t → Does (.skewAllowanceExpire p) s ((s.sw.reach t).askReplay p)) ∧
    (∀ (k : Kept) (ks : List Kept), x.kept = k :: ks →
      (s.sw.rd L.linkRetryMax = 0 ∨ x.resends < s.sw.rd L.linkRetryMax →
        ∃ w, Does (.replayTimeout p) s w ∧ (w.port p).resends = x.resends + 1 ∧
          w.now = max s.sw.now (deadline k.since (if s.sw.rd L.linkRetryNs = 0 then 1000 else s.sw.rd L.linkRetryNs)) ∧
          (∃ l, w.tx = l ++ s.sw.tx ∧
            l.filter (fun t => match t with | .resend _ _ => true | _ => false) =
              (x.kept.map (fun k => Tx.resend p k.lseq)).reverse) ∧
          w = { s.sw with now := w.now, tx := w.tx, lex := w.lex, ports := w.ports, lanes := w.lanes }) ∧
      (s.sw.rd L.linkRetryMax ≠ 0 → s.sw.rd L.linkRetryMax ≤ x.resends →
        Does (.replayTimeout p) s ((s.sw.reach (deadline k.since
          (if s.sw.rd L.linkRetryNs = 0 then 1000 else s.sw.rd L.linkRetryNs))).downAndBack p 5))) ∧
    (s.sw.canIdle p = true → (∀ n, n ∈ s.sw.portLanes p → (s.sw.lane n).unlocked = none) →
      ∀ t, (x.wantIdle = true ∧ t = s.sw.now) ∨ (x.wantIdle = false ∧ s.sw.pwr.state = .active ∧ s.sw.rd L.linkIdleNs ≠ 0 ∧
          t = max s.sw.now (deadline x.quietAt (s.sw.rd L.linkIdleNs))) →
        ∃ w, Does (.eidleAutoEntry p) s w ∧ (w.port p).eidleTx = true ∧ (w.port p).wantIdle = false ∧
          (x.width ≠ 0 → ∃ n b, Tx.codeword p n (shortMsg false true true 0 x.aseq 0) b ∈ w.tx) ∧
          w = { s.sw with now := t, ports := w.ports, lanes := w.lanes, tx := w.tx }) ∧
    (∀ t, x.ackFrom = some t → x.eidleTx = true → x.exitAt = none →
      ((s.sw.reach (deadline t 500)).downDue p = none →
        ∃ w, Does (.eidleAckWaitTimeout p) s w ∧ (w.port p).exitAt = some (max s.sw.now (deadline t 500)) ∧
          w = { s.sw with now := max s.sw.now (deadline t 500), ports := w.ports }) ∧
      (∀ c, (s.sw.reach (deadline t 500)).downDue p = some c →
        Does (.eidleAckWaitTimeout p) s ((s.sw.reach (deadline t 500)).downAndBack p c))) ∧
    (∀ t u, x.exitAt = some t → u = s.sw.reach (t + if s.sw.exitTrains p then 0 else 110) → u.downDue p = none →
      ∃ w, Does (.eidleExitComplete p) s w ∧ (w.port p).eidleTx = false ∧ (w.port p).exitAt = none ∧
        (∀ n, n ∈ s.sw.portLanes p → Tx.comma p n (laneTag p (n - p)) 1 ∈ w.tx) ∧
        (x.nakDue = true → x.width ≠ 0 → ∃ n b, Tx.codeword p n (shortMsg true true false 0 x.aseq 0) b ∈ w.tx) ∧
        w = { u with ports := w.ports, lanes := w.lanes, tx := w.tx })

/-- An Ethernet port. Of the FEC codewords a frame lay in, the symbols corrected and the codewords that were not are counted. A frame
that fails its FEC or FCS is lost, and cuts the packet that arrives; one with the part's EtherType brings its packet, by its first
word a control packet, or a data packet with its payload and end word, and is an undefined use where it is too long on a plain
port; any other frame is counted, unless it is a PFC frame on a plain port. There PFC pauses a class for its quanta and 0 resumes
it; the part repeats its own PFC every 20 µs while the cells stay below `link.pfc.xon`, and ends it with quanta 0. -/
def Obligations.EthernetPorts : Prop :=
  ∀ (s : State) (p : Lane) (x : PortSt), x = s.sw.port p → x.st = .up → x.mode ≠ 1 →
    (∀ (fec : List Nat) (b : Bytes) (k : BitVec 32) (f : Bytes) (u : Sw), f = withFcs b k → u = s.sw.fecCount p fec →
      u.rd L.linkCntUncorr p = (s.sw.rd L.linkCntUncorr p + (fec.filter (fun n => decide (15 < n))).length) %
        256 ^ L.linkCntUncorr.width ∧
      (fecOk fec = false ∨ fcsOk f = false → Does (.ethFrameReceive p fec b k) s (u.cutArriving p)) ∧
      (fecOk fec = true → fcsOk f = true →
        (etherType f ≠ s.sw.rd L.fabEthEthertype →
          (x.plain = false ∨ isPfc f = false → Does (.ethFrameReceive p fec b k) s (u.inc L.linkEthOther p)) ∧
          (x.plain = true → isPfc f = true →
            Does (.ethFrameReceive p fec b k) s (u.pfcIn p (beNat (slice (frameBody f) 2 2) % 256)
              ((List.range 8).map (fun c => beNat (slice (frameBody f) (4 + 2 * c) 2)))))) ∧
        (etherType f = s.sw.rd L.fabEthEthertype → x.plain = true → 4158 < f.length →
          exec (.ethFrameReceive p fec b k) s = .fault (.undefinedUse 529)) ∧
        (∀ h : Word256, h = firstWord (frameBody f) → etherType f = s.sw.rd L.fabEthEthertype →
          (x.plain = false ∨ f.length ≤ 4158) →
          (pCtl h = 1 → Does (.ethFrameReceive p fec b k) s (u.rxCtl (.port p) h)) ∧
          (∀ w, pCtl h ≠ 1 → u.rxHeader (.port p) h = .ok w →
            Does (.ethFrameReceive p fec b k) s (w.rxEnd (.port p) (slice (frameBody f) 32 (64 * hPlen h))
              (BitVec.ofNat 64 (leNat (slice (frameBody f) (32 + 64 * hPlen h) 8)))))))) ∧
    (∀ (cs : BitVec 8) (qs : List (BitVec 16)),
      (x.plain = false → Does (.pfcReceive p cs qs) s (s.sw.inc L.linkEthOther p)) ∧
      (x.plain = true →
        ∃ w, Does (.pfcReceive p cs qs) s w ∧
          (∀ c, c < 8 → (w.port p).pause.get? c =
            if bit cs.toNat c = false then x.pause.get? c
            else if (qs.getD c 0).toNat = 0 then none
            else some (deadline s.sw.now (s.sw.pauseNs p (qs.getD c 0).toNat))) ∧
          (∀ q, q ≠ p.val → w.port q = s.sw.port q) ∧ w = { s.sw with ports := w.ports })) ∧
    (∀ (c : Fin 8) (t : Nat),
      (x.pause.get? c = some t →
        ∃ w, Does (.pfcPauseExpire p c) s w ∧ (w.port p).pause.get? c = none ∧
          w = { s.sw with now := max s.sw.now t, ports := w.ports }) ∧
      (x.pfcSent.get? c = some t →
        x.plain = true → s.sw.ruled c = false → s.sw.rd L.linkPfcXoff ≠ 0 →
        s.sw.unusedCredit p c < max (s.sw.rd L.linkPfcXoff) (s.sw.rd L.linkPfcXon) →
        ∃ w, Does (.pfcRepeat p c) s w ∧ w.tx = .pfc p c 0xFFFF :: s.sw.tx ∧
          (w.port p).pfcSent.get? c = some (deadline (max s.sw.now t) 20000) ∧
          w = { s.sw with now := max s.sw.now t, tx := w.tx, ports := w.ports }) ∧
      (x.pfcSent.get? c = some t → x.plain = true → s.sw.ruled c = false →
        max (s.sw.rd L.linkPfcXoff) (s.sw.rd L.linkPfcXon) ≤ s.sw.unusedCredit p c →
        ∃ w, Does (.pfcRepeat p c) s w ∧ w.tx = .pfc p c 0 :: s.sw.tx ∧ (w.port p).pfcSent.get? c = none ∧
          w = { s.sw with now := max s.sw.now t, tx := w.tx, ports := w.ports }))

/-! ### 13: the bridge -/

/-- The host's accesses while its link is up. A write or read outside every window is an undefined use; one through a window that
is not enabled is counted, or completes as unsupported. Through an enabled window of a ruled class a write of bytes without a gap
becomes one WRITE, where its flow holds credit, and a read of one piece one READ_REQ, where a tag is free. A READ_RESP without a
read is late; a read that times out completes with Completer Abort. Reverse windows and MSI-X are answered Denied to who may not
use them. What waits at a die whose link to the bridge is stopped gets no further. The configuration space and the MSI-X table. -/
def Obligations.HostAccesses : Prop :=
  ∀ s : State, s.sw.hostUp = true → s.sw.boot.ready = true →
    (∀ (o : Nat) (bs : List (Option Byte)),
      (64 * s.sw.winSize < o + bs.length → exec (.hostWrite o bs) s = .fault (.undefinedUse 558)) ∧
      (o + bs.length ≤ 64 * s.sw.winSize →
        (bs.all Option.isNone = true → Does (.hostWrite o bs) s s.sw) ∧
        (bs.all Option.isNone = false →
          winEn (s.sw.rd L.brgWin (o / s.sw.winSize)) = false ∨ winRo (s.sw.rd L.brgWin (o / s.sw.winSize)) = true →
          Does (.hostWrite o bs) s (s.sw.inc L.brgDenied)) ∧
        (∀ (e t : Nat) (d : Die) (cs : Bytes), e = s.sw.rd L.brgWin (o / s.sw.winSize) → t = s.sw.winTarget e (o % s.sw.winSize) →
          d = Fin.ofNat 4 (winDie e) → bs = cs.map some → cs ≠ [] → cs.length ≤ 4096 →
          fld t 0 40 + 64 * cdiv cs.length 64 ≤ 2 ^ 40 → winEn e = true → winRo e = false → s.sw.ruled (winClass e) = true →
          s.sw.hostCredit (winDie e) (fld t 40 16) (winClass e) (cellsOf (cdiv cs.length 64)) = true →
          ∃ w, s.sw.hostRun (o / s.sw.winSize) e (o % s.sw.winSize) cs = .ok w ∧ Does (.hostWrite o bs) s w) ∧
        (∀ w, s.sw.hostWrite o bs = .ok (some w) → Does (.hostWrite o bs) s w))) ∧
    (∀ o n : Nat,
      (64 * s.sw.winSize < o + n → exec (.hostRead o n) s = .fault (.undefinedUse 558)) ∧
      (o + n ≤ 64 * s.sw.winSize →
        (n = 0 → Does (.hostRead o n) s { s.sw with tx := .hostCpl 0 .ok [] :: s.sw.tx }) ∧
        (n ≠ 0 → winEn (s.sw.rd L.brgWin (o / s.sw.winSize)) = false →
          Does (.hostRead o n) s ({ s.sw with tx := .hostCpl 0 .unsupported [] :: s.sw.tx }.aerSet 0 20)) ∧
        (∀ (e t lo units g : Nat) (d : Die), e = s.sw.rd L.brgWin (o / s.sw.winSize) →
          t = s.sw.winTarget e (o % s.sw.winSize) → d = Fin.ofNat 4 (winDie e) → lo = t / 64 * 64 →
          units = (pad64 (t + n) - lo) / 64 → n ≠ 0 → units ≤ 64 → winEn e = true → s.sw.ruled (winClass e) = true →
          s.sw.brg.reads.length < 1024 → s.sw.freeTags 1 = [g] →
          ∀ (u : Sw) (r : Word256 × Sw), u = s.sw.updBrg (fun b => { b with
              reads := b.reads ++ [{ target := t, bytes := n
                                     parts := [{
                  tag := g, gfa := lo, units := units, inc := s.sw.targetInc (winDie e) lo []
                  dieInc := s.sw.incOf (incForge (winDie e)), due := s.sw.dueIn (s.sw.rd L.brgRdNs) }] }]
              nextTag := (b.nextTag + 1) % 1024, late := b.late.filter (fun x => !List.contains [g] x) }) →
            r = u.bridgeSeal (mkReadReq u.selfEp (winClass e) (winEnt e) lo (u.rd L.brgRetWin + 4096 * g) units g) →
            ∃ w, r.2.bridgeIn d r.1 [] = .ok w ∧ Does (.hostRead o n) s w) ∧
        (∀ w, s.sw.hostRead o n = .ok (some w) → Does (.hostRead o n) s w))) ∧
    (∀ (h : Word256) (pay : Bytes) (u : Sw), u = s.sw.takeIn h pay → pKind h = 2 → u.rd L.brgRetWin ≤ hOff h →
      hOff h < u.rd L.brgRetWin + 4096 * 1024 →
      (s.sw.svcCut h pay = true → exec (.hostReadResp h pay) s = .next s) ∧
      (s.sw.svcCut h pay = false → Does (.hostReadResp h pay) s (u.readResp (s.sw.takeKeep h pay).1.die h pay)) ∧
      (s.sw.svcCut h pay = false → u.brg.reads = [] → ∃ w, Does (.hostReadResp h pay) s w ∧
        w.rd L.brgLate = (u.rd L.brgLate + 1) % 256 ^ L.brgLate.width ∧ w.tx = u.tx ∧ w.brg.reads = [])) ∧
    (∀ (g : Fin 1024) (r : HostRd) (p : HostPart) (t : Nat), s.sw.brg.reads.find? (fun r => r.waiting.contains g.val) = some r →
      r.parts.find? (fun p => p.tag == g.val) = some p → p.due = some t →
      ∃ w, Does (.hostReadTimeout g) s w ∧ w.brg.reads = eraseOne r s.sw.brg.reads ∧ g.val ∈ w.brg.late ∧
        w.tx = .hostCpl ((r.parts.map HostPart.tag).headD 0) .abort [] :: s.sw.tx ∧
        w = { s.sw with now := max s.sw.now t, tx := w.tx, brg := { s.sw.brg with reads := w.brg.reads, late := w.brg.late } }) ∧
    (∀ (h : Word256) (pay : Bytes) (u : Sw) (k : Nat), u = s.sw.takeIn h pay → k = (s.sw.takeKeep h pay).1.die → pKind h ≤ 1 →
      u.rd L.brgRevWin ≤ hOff h → hOff h < u.rd L.brgRevWin + 64 * 2 ^ 32 →
      (s.sw.svcCut h pay = true → exec (.reverseWindowRequest h pay) s = .next s) ∧
      (s.sw.svcCut h pay = false → Does (.reverseWindowRequest h pay) s (u.revRequest k h pay) ∧
        (fld (u.revEntry (hOff h)).1 48 8 ≠ hTen h ∨ fld (u.revEntry (hOff h)).1 0 20 = 0 →
          Does (.reverseWindowRequest h pay) s (u.revAnswer k h stDenied [])))) ∧
    (∀ (i : Nat) (st : CplStatus) (bs : Bytes),
      Does (.hostCompletionReceive i st bs) s (s.sw.hostCompletion i st bs) ∧
      (s.sw.brg.revs = [] → Does (.hostCompletionReceive i st bs) s ((s.sw.inc L.brgLate).aerSet 0 16))) ∧
    (∀ (i t : Nat) (r : RevRd), s.sw.brg.revs.find? (fun r => r.parts.any (fun p => p.id == i)) = some r → r.due = some t →
      Does (.reverseReadTimeout i) s
        (((((s.sw.reach t).updBrg (fun b => { b with revs := eraseOne r b.revs })).aerSet 0 14).revAnswer r.die r.req
          stTargetReset []).revNext)) ∧
    (∀ (h : Word256) (pay : Bytes) (u : Sw) (o v k : Nat),
      pay = ((s.sw.fab.svcIn.find? (fun x => decide (x.hdr = h))).map Stored.pay).getD [] → u = s.sw.takeIn h pay →
      k = (s.sw.takeKeep h pay).1.die → s.sw.svcCut h pay = false → pKind h = 0 →
      u.rd L.brgMsiWin ≤ hOff h → o = hOff h - u.rd L.brgMsiWin → o < 4096 → v = o / 64 → u.hostUp = true →
      (o % 64 ≠ 0 ∨ v = 0 ∨ hPlen h ≠ 1 ∨ u.rd L.brgMsiTen v ≠ hTen h → Does (.msiWrite h) s (u.revAnswer k h stDenied [])) ∧
      (o % 64 = 0 → v ≠ 0 → hPlen h = 1 → u.rd L.brgMsiTen v = hTen h →
        Does (.msiWrite h) s ((u.msix v).revAnswer k h stOk []))) ∧
    (∀ (a : BitVec 12) (v : BitVec 32),
      (a.toNat / 4 * 4 = 0x10 ∨ a.toNat / 4 * 4 = 0x14 → s.sw.brg.reads ≠ [] →
        exec (.hostConfigWrite a v) s = .fault (.undefinedUse 558)) ∧
      (s.sw.brg.reads = [] → Does (.hostConfigWrite a v) s (s.sw.cfgWrite (a.toNat / 4 * 4) v.toNat)) ∧
      (∀ o : Nat, Does (.msixTableWrite o v) s (s.sw.msixWrite o v.toNat)))

/-- A loss of the host: no host read and no reverse request is outstanding after it, and its contained fault names the cause; a
hot reset, PERST_N and a function reset leave no MSI-X vector pending. The host link comes up from Training. -/
def Obligations.LossOfTheHost : Prop :=
  ∀ s : State,
    (s.sw.hostUp = true → ∀ (c : Instr) (k : Nat),
      c = .hostLinkLoss .linkDown ∧ k = 1 ∨ c = .hostLinkLoss .hotReset ∧ k = 2 ∨ c = .perstNFall ∧ k = 2 ∨
        c = .functionLevelReset ∧ k = 3 →
      ∃ w, Does c s w ∧ w.brg.reads = [] ∧ w.brg.revs = [] ∧ w.brg.revWait = [] ∧ (w.bport 0).cause = k ∧
        w.flt.due.getLast? = some ⟨0x50, 64, none, BitVec.ofNat 64 (detL 4 0 k 0 0), 0⟩ ∧
        (w.bport 0).st = (if k = 3 then .ready else .training) ∧ (k ≠ 1 → w.brg.pba = [] ∧ w.brg.msix = [] ∧ w.brg.cfg = [])) ∧
    (s.sw.hostUp = false → exec (.hostLinkLoss .linkDown) s = .next s ∧ exec .functionLevelReset s = .next s ∧
      exec .perstNFall s = .next s) ∧
    (s.sw.hostRole = true → (s.sw.bport 0).st = .training →
      ∃ w, Does .hostLinkUp s w ∧ w.hostUp = true ∧ w = { s.sw with free := w.free, brg := { s.sw.brg with ports := w.brg.ports } })

/-- CXL memory: enumeration fits the capacity to 256 MiB; an access waits for its lines; a poisoned read line is remembered; a
device is lost with a fatal fault; its event records raise their faults; and the four port commands. -/
def Obligations.MemoryPorts : Prop :=
  ∀ (s : State) (p : BPort), s.sw.memRole p = true →
    ((s.sw.bport p).st ≠ .disabled → (s.sw.bport p).st ≠ .ready → s.sw.awaited p = none → (s.sw.bport p).lost = false →
      (s.sw.bport p).unclear = false → ∀ cap : Nat,
      (∃ w, Does (.memPortEnumerate p true cap) s w ∧ (w.bport p).st = .ready ∧
        (w.bport p).cap = min (2 ^ 42) (cap / 2 ^ 28 * 2 ^ 28) ∧ w.cxl = s.sw.cxl) ∧
      (∃ w, Does (.memPortEnumerate p false cap) s w ∧ (w.bport p).st = .unsupported ∧ (w.bport p).cause = 6)) ∧
    (∀ (a : BitVec 42) (n : Nat) (bs : Bytes),
      (n ≠ 0 → s.sw.cxlJudge p a.toNat (64 * n) = none →
        Does (.cxlAccess p a (.read n)) s (s.sw.cxlStart p a.toNat n none none)) ∧
      (bs ≠ [] → s.sw.cxlJudge p a.toNat bs.length = none →
        Does (.cxlAccess p a (.write bs)) s (s.sw.cxlStart p a.toNat 0 (some bs) none))) ∧
    (∀ (line : Nat) (x : CxlAcc), s.sw.brg.cxl.find? (fun y => y.port == p.val && y.lines.contains line) = some x →
      x.wr = none → x.req = none →
      (∃ w, Does (.cxlResponse p line true) s w ∧ p.val * 2 ^ 36 + line ∈ w.cxlBad ∧ w.cxl = s.sw.cxl) ∧
      (∃ w, Does (.cxlResponse p line false) s w ∧ w = { s.sw with brg := { s.sw.brg with cxl := w.brg.cxl } })) ∧
    (∀ (x : CxlAcc) (t : Nat), s.sw.brg.cxl.find? (fun x => x.port == p.val) = some x → x.due = some t →
      Does (.memDeviceTimeout p) s ((s.sw.reach t).memDown p 4)) ∧
    (∀ a : BitVec 40,
      Does (.deviceEventRecord p true a) s (s.sw.fault 0x53 (64 + p) none (detM 2 p 0 a.toNat) 6) ∧
      Does (.deviceEventRecord p false a) s (s.sw.fault 0x52 (64 + p) none (detM 2 p 0 a.toNat) 6)) ∧
    ((s.sw.bport p).st = .ready → ∀ (c : DownCause) (k : Nat), k = (match c with | .linkDown => 1 | .timeout => 4 | .viral => 5) →
      ∃ w, Does (.memDeviceDown p c) s w ∧ (w.bport p).st = .down ∧ (w.bport p).cause = k ∧ (w.bport p).cap = 0 ∧
        w.flt.due.getLast? = some ⟨0x54, 64 + p, none, BitVec.ofNat 64 (detL 4 p k 0 0), 0⟩) ∧
    (s.busyFor 0x1101 4 = false →
      ((s.sw.bport p).st = .disabled →
        ∃ w, Does (.brgPortEnable p) s w ∧ (w.bport p).st = .training ∧ (w.bport p).enAt = s.sw.now ∧
          w = { s.sw with brg := { s.sw.brg with ports := w.brg.ports } }) ∧
      ((s.sw.bport p).st ≠ .disabled → Does (.brgPortEnable p) s s.sw ∧
        ∃ w, Does (.brgPortRetrain p) s w ∧ (w.bport p).st = .training) ∧
      (∃ w, Does (.brgPortDisable p) s w ∧ (w.bport p).st = .disabled ∧ p.val ∉ w.pins.memUp) ∧
      ((s.sw.bport p).st = .down →
        ∃ w, Does (.brgPortRelease p) s w ∧ (w.bport p).released = true ∧
          w.incOf (incBport p) = (s.sw.incOf (incBport p) + 1) % 256 ∧
          w = { s.sw with lex := w.lex, brg := { s.sw.brg with ports := w.brg.ports } }))

/-! ### 14: tenancies and block resets -/

/-- The commands of Table 14.4 on a tenancy: Activate of a Quenched one that is not stopped and whose contexts are free, its flow
records forgotten, refused otherwise; Quench of an Active one, and of every Active one; Acknowledge; a re-bind while none is under
way, and its last step, where the new tenancy is not to be activated; the ends of the quench's steps, the first once admission has
closed at every die; granule clears; block resets. -/
def Obligations.TenanciesAndBlocks : Prop :=
  ∀ (s : State) (t : Ten) (x : TenSt), x = s.sw.tenSt t.toNat →
    (s.busyFor 0x9000 1 = false →
      (x.st = .quenched → x.stopped = false → s.sw.ctxFree t.toNat = true → s.sw.pwr.state ≠ .parked →
        ∃ w, Does (.tenActivate t) s w ∧ (w.tenSt t.toNat).st = .active ∧ (w.tenSt t.toNat).open_ = [0, 1, 2, 3] ∧
          (∀ u, u ≠ t.toNat → w.tenSt u = s.sw.tenSt u) ∧ w.fab.flows = s.sw.fab.flows.filter (fun kv => kv.2.ten != t.toNat) ∧
          (∀ g, g < 4096 → gValid (s.sw.group g) = true → gTen (s.sw.group g) = t.toNat → w.rd L.collClosed g = 0) ∧
          w = { s.sw with ten := w.ten, fab := w.fab, bel := w.bel, anv := w.anv, lex := w.lex }) ∧
      (x.st ≠ .quenched ∨ x.stopped = true ∨ s.sw.ctxFree t.toNat = false ∨ s.sw.pwr.state = .parked →
        Does (.tenActivate t) s s.sw) ∧
      (x.st = .active → Does (.tenQuench t) s (s.sw.quench t.toNat 1 false)) ∧
      (x.st ≠ .active → Does (.tenQuench t) s s.sw) ∧
      (∃ w, Does (.tenAcknowledge t) s w ∧ w.tenSt t.toNat = { x with stopped := false } ∧
        (∀ u, u ≠ t.toNat → w.tenSt u = s.sw.tenSt u) ∧ w = { s.sw with ten := w.ten }) ∧
      Does .tenQuenchAll s
        ((s.sw.ten.map Prod.fst).foldl (fun w u => if (w.tenSt u).st = .active then w.quench u 4 false else w) s.sw)) ∧
    (∀ v : BitVec 32, s.busyFor 0x9000 2 = false → fld v.toNat 0 8 = t.toNat →
      (s.sw.rebind.isSome = true → Does (.tenRebind v) s s.sw) ∧
      (s.sw.rebind = none → x.st ≠ .active → bit v.toNat 16 = false →
        Does (.tenRebind v) s { s.sw with rebind := some ⟨t.toNat, fld v.toNat 8 8, false⟩ })) ∧
    (x.st = .quenching →
      (s.sw.drainDone t.toNat = false → exec (.quenchDrainComplete t) s = .next s) ∧
      (s.sw.drainDone t.toNat = true → ∃ w, w = (s.sw.reach (x.closedAt s.sw.now)).startClear t.toNat ∧
        Does (.quenchDrainComplete t) s w ∧ (w.tenSt t.toNat).st = .clearing ∧ (w.tenSt t.toNat).drained = true ∧
        (w.tenSt t.toNat).closing = []) ∧
      (∀ d, x.drainAt = some d → ∃ w, w = ((s.sw.reach d).drainDrop t.toNat).startClear t.toNat ∧
        Does (.quenchDrainTimeout t) s w ∧ (w.tenSt t.toNat).st = .clearing ∧ (w.tenSt t.toNat).closing = [])) ∧
    (x.st = .clearing → ∃ w, Does (.quenchClearComplete t) s w ∧ (w.tenSt t.toNat).st = .quenched) ∧
    (s.sw.rebind = none → Does .rebindApplyComplete s s.sw) ∧
    (∀ r : Rebind, s.sw.rebind = some r → r.act = false →
      ((s.sw.tenSt r.old).st ≠ .quenched → Does .rebindApplyComplete s s.sw) ∧
      ((s.sw.tenSt r.old).st = .quenched →
        Does .rebindApplyComplete s { (s.sw.moveBindings r.old r.new) with rebind := none })) ∧
    (∀ g : Fin 576,
      (s.sw.pwr.state = .parked → exec (.granuleClearComplete (.hbm g)) s = .next s) ∧
      (s.sw.pwr.state ≠ .parked →
        ∃ w, Does (.granuleClearComplete (.hbm g)) s w ∧ w.clr.get? g = none ∧ w = { s.sw with clr := w.clr })) ∧
    (∀ v : BitVec 16, s.busyFor 0x9006 1 = false →
      (s.sw.blockOf v.toNat = none → Does (.blockReset v) s s.sw) ∧
      (∀ b, s.sw.blockOf v.toNat = some b → Does (.blockReset v) s (s.sw.blockStop b)) ∧
      (∀ c, s.sw.blockOf v.toNat = some (.core c) →
        ∃ w, Does (.blockReset v) s w ∧ .core c ∈ w.blkRst ∧ (w.core c).halted = true ∧
          (∀ k, k ≠ c.val → w.core k = s.sw.core k) ∧ w = { s.sw with blkRst := w.blkRst, cores := w.cores })) ∧
    (∀ b : Block, s.sw.blkRst.contains b = true →
      ∃ w, Does (.blockResetComplete b) s w ∧ b ∉ w.blkRst ∧
        w.incOf (blockInc b) = (s.sw.incOf (blockInc b) + 1) % 256 ^ L.tenBlkInc.width ∧
        (∀ k, k ≠ blockInc b → w.incOf k = s.sw.incOf k))

/-! ### 15: the transports and the lexicon engine -/

/-- A request that the engine refuses changes nothing but what it counts, and is answered with its status; a write with the bytes
that stand there, a read with none. One of an entry whose storage is uncorrectable is answered so. A read is
served whatever it names, and a write of `coll.stall_ns` that nothing refuses is stored: each is answered by the transport it
came by. Of the requests of the mailbox and I3C the oldest that waits is served, and no other. In-band a full queue, or a write that
has no effect now, answers Busy, before anything else is looked at. A mailbox line is put by who is admitted, and Denied to others. An Issio datagram of
wrong form, or outside a session where one is asked for, is discarded and counted; one seen before is answered as before; the
records of a new one are served. I3C, ARP and ICMP. -/
def Obligations.LexiconTransports : Prop :=
  ∀ s : State, s.sw.held = false → s.unasked = true →
    (∀ (j : LexJob) (n : Nat), s.lexCheck j = n →
      (n ≠ 0 → s.lexServe j = .ok (n, s.writtenBytes j, s.lexCount j.q n)) ∧ (j.op ≠ 1 → s.writtenBytes j = []) ∧
      (n = 0 → j.op = 0 → s.lexBad j = true → s.lexServe j = .ok (10, [], s))) ∧
    (∀ r : LexReq, s.sw.lexs.order = [] → reqTransport r.by_ ≠ 3 → reqTransport r.by_ ≠ 4 →
      (∃ (st : Nat) (bytes : Bytes) (t : State), s.lexServe (jobOf r 0) = .ok (st, bytes, t) ∧
        DoesAll (.lexRead r) s (t.updSw (fun w => w.lexAnswer r st bytes))) ∧
      (r.op = 1 → r.index.toNat = 0x7800 → r.sub.toNat = 3 → r.seg = 0 → r.len = 4 → s.lexCheck (jobOf r 1) = 0 →
        s.lexBad (jobOf r 1) = false → s.sw.recd.st ≠ 1 →
        ∃ (bytes : Bytes) (t : State), s.lexServe (jobOf r 1) = .ok (0, bytes, t) ∧
          DoesAll (.lexWrite r) s (t.updSw (fun w => w.lexAnswer r 0 bytes)) ∧
          t.sw.rd L.collStallNs = leNat (slice r.value 0 4) ∧
          t = { s with sw := { s.sw with lex := t.sw.lex, lexs := t.sw.lexs } }) ∧
      (∀ (st : Nat) (bytes : Bytes) (t : State), t.unasked = true → s.lexServe (jobOf r 1) = .ok (st, bytes, t) →
        DoesAll (.lexWrite r) s (t.updSw (fun w => w.lexAnswer r st bytes)))) ∧
    (∀ (q : Requester) (rest : List Requester) (j : LexJob) (u : State), s.sw.lexs.order = q :: rest → s.sw.lexWaits q = some j →
      u = s.updLexs (fun l => { l with order := rest }) →
      (∀ r : LexReq, r.by_ = q →
        (j.op = 0 → ∃ (st : Nat) (bytes : Bytes) (t : State), u.lexServe j = .ok (st, bytes, t) ∧
          DoesAll (.lexRead r) s (t.updSw (fun w => w.lexReply q st bytes))) ∧
        (∀ (st : Nat) (bytes : Bytes) (t : State), j.op = 1 → t.unasked = true → u.lexServe j = .ok (st, bytes, t) →
          DoesAll (.lexWrite r) s (t.updSw (fun w => w.lexReply q st bytes)))) ∧
      (∀ r : LexReq, r.by_ ≠ q → reqTransport r.by_ = 3 ∨ reqTransport r.by_ = 4 →
        exec (.lexRead r) s = .next s ∧ exec (.lexWrite r) s = .next s)) ∧
    (∀ (i : Ingress) (w : Word256) (u : State), u = s.updSw (fun x => x.takeCtl w) → pKind w = 6 →
      (∀ j : LexJob, u.sw.lexFull 1 = true ∨ u.lexBusy j = true →
        j = { q := .inband (BitVec.ofNat 16 (pSrc w)) (BitVec.ofNat 8 (cTen w)), index := xIndex w, sub := xSub w
              seg := xSeg w, op := xOp w, len := xLen w, value := leBytes 8 (hf w 144 64) } →
        ∃ v, Does (.lexReqReceive i w) s v ∧ v.rd (L.lexBusy.at 0) = (s.sw.rd (L.lexBusy.at 0) + 1) % 256 ^ (L.lexBusy.at 0).width) ∧
      (∀ j : LexJob, s.sw.lexs.order = [] → xOp w = 0 → u.sw.inbandAdmits i w = true →
        j = { q := .inband (BitVec.ofNat 16 (pSrc w)) (BitVec.ofNat 8 (cTen w)), index := xIndex w, sub := xSub w
              seg := xSeg w, op := 0, len := xLen w, value := leBytes 8 (hf w 144 64) } →
        ∃ (st : Nat) (bytes : Bytes) (t : State), u.lexServe j = .ok (st, bytes, t) ∧
          DoesAll (.lexReqReceive i w) s (t.updSw (fun x => x.sendCtl (ingDie i)
            (mkLexResp w x.selfEp (x.incOf incM) st bytes.length (leNat (bytes.take 8))) .both)))) ∧
    (∀ (i : Ingress) (h : Word256) (pay : Bytes) (u : Sw), u = s.sw.takeIn h pay → pKind h = 0 → hOff h < 4096 →
      (u.mboxAdmits (pSrc h) (ingFrom i) = false →
        Does (.mailboxWrite i h pay) s ((u.inc (L.lexDenied.at 3)).answer (ingDie i) h stDenied
          ((u.inc (L.lexDenied.at 3)).incOf incM) [] .both)) ∧
      (u.mboxAdmits (pSrc h) (ingFrom i) = true → hPlen h = 1 → hTail h = 0 → hOff h % 64 = 0 →
        fld (u.mbox.getD (hOff h / 64) 0) 64 8 ≠ 1 → u.lexFull 1 = false →
        ∃ v : Sw, v = ({ u with mbox := AMap.put u.mbox (hOff h / 64) (mboxPending (leNat (slice pay 0 64))) 0 } : Sw).lexJoin
            (.mailbox (Fin.ofNat 64 (hOff h / 64))) ∧
          (u.lexs.at_ ≠ u.now → v.lexs.order = u.lexs.order ++ [.mailbox (Fin.ofNat 64 (hOff h / 64))]) ∧
          Does (.mailboxWrite i h pay) s (v.answer (ingDie i) h stOk (v.incOf incM) [] .both))) ∧
    (∀ (ip : BitVec 32) (p dp : BitVec 16) (sid : Option Nat) (b : Bytes) (n q : Nat), s.sw.boot.error = false →
      s.sw.rd L.lexEthIp4Now ≠ 0 → s.sw.rd L.lexIssioPort ≠ 0 → dp.toNat = s.sw.rd L.lexIssioPort →
      n = fld (leNat (b.take 16)) 64 16 → q = fld (leNat (b.take 16)) 32 32 →
      (b.length < 16 → Does (.issioDatagram ip p dp sid b) s (s.sw.inc (L.lexMalformed.at 1))) ∧
      (fld (leNat (b.take 16)) 0 16 = 0x1550 → fld (leNat (b.take 16)) 16 8 = 1 → n ≤ 64 → b.length = 16 + 16 * n →
        (s.sw.rd L.lexIssioSecure = 1 → s.sec.inSession sid = false →
          Does (.issioDatagram ip p dp sid b) s (s.sw.inc (L.lexDenied.at 1))) ∧
        (s.sw.rd L.lexIssioSecure ≠ 1 →
          (∀ c, s.sw.issioCached ip.toNat p.toNat q = some c →
            ∃ w, Does (.issioDatagram ip p dp sid b) s w ∧ w.tx = .udp ip.toNat p.toNat c :: s.sw.tx ∧ w.lex = s.sw.lex) ∧
          (s.sw.issioCached ip.toNat p.toNat q = none → s.sw.lexs.order = [] →
            (∀ i, i < n → (recJob (.issio ip p) sid (((b.drop 16).drop (16 * i)).take 16)).op ≠ 1) →
            ∃ (recs : Bytes) (t : State), s.issioRecs (.issio ip p) sid (b.drop 16) n = .ok (recs, t) ∧
              DoesAll (.issioDatagram ip p dp sid b) s (t.updSw (fun w =>
                (w.send (.udp ip.toNat p.toNat (issioAns q n 1 0 recs))).issioKeep ip.toNat p.toNat
                  [(q, issioAns q n 3 0 recs)])))))) ∧
    (s.sw.i3c.addr.isSome = true →
      (∀ b : Bytes, b.length = 16 → s.sw.lexFull 1 = false →
        Does (.i3cPrivateWrite b) s (({ s.sw with i3c := { s.sw.i3c with
          req := s.sw.i3c.req ++ [b], resp := none, over_ := false } } : Sw).lexJoin .i3c)) ∧
      (∀ b : Bytes, b.length = 16 → s.sw.lexFull 1 = true →
        ∃ w, Does (.i3cPrivateWrite b) s w ∧ w.rd (L.lexBusy.at 2) = (s.sw.rd (L.lexBusy.at 2) + 1) % 256 ^ (L.lexBusy.at 2).width ∧
          w.i3c.resp = some (recAns b 7 (s.writtenBytes (recJob .i3c none b))) ∧ w.lexs = s.sw.lexs) ∧
      (∀ b, s.sw.i3c.resp = some b → Does .i3cPrivateRead s { s.sw with tx := .i3c b :: s.sw.tx }) ∧
      Does .getpid s { s.sw with tx := .i3c (leBytes 6 Config.i3cPid) :: s.sw.tx } ∧
      Does .getbcr s { s.sw with tx := .i3c (leBytes 1 Config.i3cBcr) :: s.sw.tx } ∧
      Does .getdcr s { s.sw with tx := .i3c (leBytes 1 Config.i3cDcr) :: s.sw.tx }) ∧
    (s.sw.i3c.addr = none →
      (∀ a : BitVec 7, Does (.entdaa a) s { s.sw with
        tx := .i3c i3cId :: s.sw.tx, i3c := { s.sw.i3c with addr := some a.toNat } }) ∧
      (∀ sa a : BitVec 7, s.sw.rd L.lexI3cSa ≠ 0 → sa.toNat = s.sw.rd L.lexI3cSa →
        Does (.setdasa sa a) s { s.sw with i3c := { s.sw.i3c with addr := some a.toNat } }) ∧
      (∀ b, exec (.i3cPrivateWrite b) s = .next s)) ∧
    Does .rstdaa s { s.sw with i3c := { s.sw.i3c with addr := none } } ∧
    Does .enec s { s.sw with i3c := { s.sw.i3c with ibi := true } } ∧
    Does .disec s { s.sw with i3c := { s.sw.i3c with ibi := false } } ∧
    (∀ (a : BitVec 32) (b : Bytes),
      (s.sw.rd L.lexEthIp4Now = a.toNat → a ≠ 0 →
        Does (.arpRequest a) s { s.sw with tx := .arp a.toNat :: s.sw.tx } ∧
        Does (.icmpEcho a b) s { s.sw with tx := .icmp a.toNat b :: s.sw.tx }) ∧
      (s.sw.rd L.lexEthIp4Now ≠ a.toNat → exec (.arpRequest a) s = .next s ∧ exec (.icmpEcho a b) s = .next s))

/-! ### 16: power -/

/-- A present unit that is idle parks once its idle time has passed, and is awake when its wake is complete. Park of a quenched core while Active, Unpark, and the
ends of both, which wait while M's firmware is replaced; the power manager's samples and the end of its window, which shows their mean; a write of the cooling setting while
the core is quenched, air holding the limit to 900 W. -/
def Obligations.PowerAndParking : Prop :=
  ∀ s : State,
    (∀ u : ParkUnit,
      (s.sw.unitPresent u = true → s.sw.unitIdle u = true → s.sw.unitAwake u = true →
        Does (.enginePark u) s { s.sw with now := max s.sw.now (s.sw.parkTime u)
                                           pwr := { s.sw.pwr with parked := s.sw.pwr.parked ++ [u] } }) ∧
      (s.sw.unitLends u = false → s.sw.pwr.idleAt.get? (unitNo u) = none → s.sw.pwr.idle0.2 ≠ 0 →
        s.sw.parkTime u = deadline s.sw.pwr.idle0.1 s.sw.pwr.idle0.2) ∧
      (s.sw.unitPresent u = false ∨ s.sw.unitIdle u = false → Does (.enginePark u) s s.sw) ∧
      Does (.engineWakeComplete u) s { s.sw with pwr := { s.sw.pwr with waking := s.sw.pwr.waking.filter (fun v => v != u) } }) ∧
    (s.busyFor 0xB000 6 = false →
      (s.sw.pwr.state = .active → s.sw.coreQuenched = true →
        ∃ w, Does .park s w ∧ w.pwr.state = .parking ∧ w.pwr.wantUp = false) ∧
      (s.sw.pwr.state = .active → s.sw.coreQuenched = false → Does .park s s.sw) ∧
      (s.sw.pwr.state = .active ∨ s.sw.pwr.state = .unparking → Does .unpark s s.sw) ∧
      (s.sw.pwr.state = .parking → Does .unpark s { s.sw with pwr := { s.sw.pwr with wantUp := true } }) ∧
      (s.sw.pwr.state = .parked → ∃ w, Does .unpark s w ∧ w.pwr.state = .unparking)) ∧
    (s.sec.busy = some 3 → exec .parkEntryComplete s = .next s ∧ exec .unparkComplete s = .next s) ∧
    (s.sw.pwr.state = .parking → s.sw.drivers = [] → s.sec.busy ≠ some 3 → s.sw.pwr.wantUp = false →
      ∃ w : Sw, exec .parkEntryComplete s = .next { s with sec := { s.sec with nonce := none }, sw := w.settle } ∧ w.pwr.state = .parked ∧ w.pwr.back = s.sw.vset ∧ w.fab.flows = [] ∧ w.fab.held = []) ∧
    (s.sw.pwr.state = .unparking → s.sec.busy ≠ some 3 → (s.sw.cfgPortList.any (fun p => (s.sw.port p).exitAt.isSome)) = false →
      ∃ w, Does .unparkComplete s w ∧ w.pwr.state = .active ∧ w.pwr.parked = [] ∧ w.pwr.waking = []) ∧
    (∀ mw : BitVec 32, Does (.powerSample mw) s { s.sw with
      now := max s.sw.now (nextTick 10000 s.sw.now s.sw.pwr.sampled)
      pwr := { s.sw.pwr with samples := s.sw.pwr.samples ++ [mw.toNat], sampled := some (nextTick 10000 s.sw.now s.sw.pwr.sampled) } }) ∧
    (∃ w, Does .powerWindowEnd s w ∧ w.rd L.pwrPkgMw = s.sw.meanMw % 256 ^ L.pwrPkgMw.width ∧ w.pwr.samples = [] ∧
      w.now = max s.sw.now (deadline s.sw.pwr.winAt (if s.sw.pwr.cfgWin = 0 then 100000 else s.sw.pwr.cfgWin)) ∧
      w.pwr.winAt = w.now ∧ w.pwr.cfgLimit = s.sw.rd L.pwrLimit) ∧
    (∀ v : BitVec 8, s.busyFor 0xB000 2 = false →
      (s.sw.coreQuenched = false → exec (.coolingWrite v) s = .fault (.undefinedUse 660)) ∧
      (s.sw.coreQuenched = true → 1 < v.toNat → Does (.coolingWrite v) s s.sw) ∧
      (s.sw.coreQuenched = true → v.toNat ≤ 1 →
        ∃ w, Does (.coolingWrite v) s w ∧ w.rd L.pwrCooling = v.toNat ∧
          w.rd L.pwrLimit = (if v.toNat = 1 ∧ 900 < s.sw.rd L.pwrLimit then 900 else s.sw.rd L.pwrLimit) ∧
          w = { s.sw with lex := w.lex }))

/-! ### 17: the collector -/

/-- A fault of a code of chapter 17 and a source that raises it goes to the collector, any other has no effect; one of an uncorrectable SRAM word also fails what lay there.
At rest one that is not fatal makes a record in a free slot, or merges into its source's open record; one that finds no slot is
lost, and counted. A record closes, and is cleared by `flt.ack` and `flt.clr`; one that took a fault at that very instant is made
anew by it. -/
def Obligations.FaultRecords : Prop :=
  ∀ s : State,
    (∀ f : FaultInfo, faultKnown f = false → exec (.faultRaise f) s = .next s) ∧
    (∀ f : FaultInfo, faultKnown f = true →
      (∀ w : Sw, w = { s.sw with flt := { s.sw.flt with due := s.sw.flt.due ++ [f] } } →
        (f.code ≠ 0x04 → Does (.faultRaise f) s w) ∧
        (f.code = 0x04 → Does (.faultRaise f) s (w.sramLost f.source (fld f.detail.toNat 0 40)))) ∧
      (s.sw.rests = true → f.code ≠ 0x04 → faultClass f.code ≤ 2 →
        ∃ w : Sw, exec (.faultRaise f) s = .next { s with sw := w } ∧ w.flt.due = [] ∧
          (∀ (i : Nat) (r : FltRec), s.sw.openRec f.source = some (i, r) →
            w.flt.recs.get? i = some { r with merges := min 0xFFFF (r.merges + 1), last := f.code
                                              cls := max r.cls (faultClass f.code), closeAt := max r.closeAt s.sw.closeTime
                                              lastAt := s.sw.now
                                              lately := if r.lastAt = s.sw.now then r.lately ++ [f] else [f] }) ∧
          (∀ i : Nat, s.sw.openRec f.source = none → s.sw.recSlot (faultClass f.code) = some i →
            w.flt.recs.get? i = some {
              time := s.sw.now, code := f.code, cls := faultClass f.code, source := f.source, ten := f.ten.map BitVec.toNat
              inc := s.sw.sourceInc f, detail := f.detail.toNat, aux := f.aux.toNat, last := f.code
              open_ := decide (s.sw.now < s.sw.closeTime), closeAt := s.sw.closeTime, lastAt := s.sw.now, lately := [f] }) ∧
          (s.sw.rd L.fltMergeNs ≠ 0 → s.sw.closeTime = deadline s.sw.now (s.sw.rd L.fltMergeNs)) ∧
          (s.sw.rd L.fltMergeNs = 0 → s.sw.closeTime = s.sw.now) ∧
          (s.sw.openRec f.source = none → s.sw.recSlot (faultClass f.code) = none →
            w.flt.ovf = true ∧ w.flt.recs = s.sw.flt.recs ∧
            w.rd L.fltLost = (s.sw.rd L.fltLost + 1) % 256 ^ L.fltLost.width))) ∧
    (∀ (i : Fin 512) (r : FltRec), s.sw.flt.recs.get? i = some r → r.open_ = true → r.waits = [] →
      ∃ w, Does (.faultRecordClose i) s w ∧ w.flt.recs.get? i = some { r with open_ := false } ∧
        (∀ k, k ≠ i.val → w.flt.recs.get? k = s.sw.flt.recs.get? k) ∧
        w = { s.sw with now := max s.sw.now r.closeAt, flt := { s.sw.flt with recs := w.flt.recs } }) ∧
    (∀ v : BitVec 16, s.busyFor 0xA002 1 = false →
      (v.toNat < 512 → ∃ w, w = s.sw.clearRecs (fun i _ => i == v.toNat) false ∧ Does (.fltAck v) s w ∧
        ((∀ kv ∈ s.sw.flt.recs, kv.1 = v.toNat → kv.2.lastAt ≠ s.sw.now) →
          w.flt.recs = s.sw.flt.recs.filter (fun kv => kv.1 != v.toNat) ∧ w.flt.ovf = s.sw.flt.ovf ∧ w.lex = s.sw.lex)) ∧
      (512 ≤ v.toNat → Does (.fltAck v) s s.sw)) ∧
    (∀ v : BitVec 8, s.busyFor 0xA002 2 = false →
      (v = 0xFF → ∃ w, Does (.fltClr v) s w ∧
        ((∀ kv ∈ s.sw.flt.recs, kv.2.lastAt ≠ s.sw.now) → w.flt.recs = [] ∧ (s.sw.flt.ovfAt ≠ s.sw.now → w.flt.ovf = false))) ∧
      (v.toNat < 72 → ∃ w, Does (.fltClr v) s w ∧
        ((∀ kv ∈ s.sw.flt.recs, kv.2.source = v.toNat → kv.2.lastAt ≠ s.sw.now) →
          w.flt.recs = s.sw.flt.recs.filter (fun kv => kv.2.source != v.toNat) ∧ w.flt.ovf = s.sw.flt.ovf)) ∧
      (72 ≤ v.toNat → v ≠ 0xFF → Does (.fltClr v) s s.sw))

/-! ### 18: the recorder -/

/-- The commands of the recorder, by Table 18.6: Record, Compare and Feed of a matching start record and of another, Dump, Stop;
Feed's next record, at its time, which a control packet brings in and one without its payload ends; the end of a Dump; and the
determinism signature. Feed is over when its records are released and the digest records matched (the model's reading, log 43). -/
def Obligations.RecorderCommands : Prop :=
  ∀ s : State,
    (s.busyFor 0xD001 1 = false →
      (s.sw.recIdle = true → ∃ w, Does .recRecord s w ∧ w.recd.st = 1 ∧ w.rd (L.recWp.at 0) = 1 ∧
        (∀ d, d < 4 → d ≠ 0 → w.rd (L.recWp.at d) = 0)) ∧
      (s.sw.recIdle = false → Does .recRecord s s.sw) ∧
      (s.sw.recd.st ≠ 4 → Does .recCompare s s.sw ∧ Does .recFeed s s.sw ∧ Does .recDump s s.sw) ∧
      (s.sw.recd.st = 4 →
        (s.sw.sigMatches = true → Does .recCompare s s.sw.compareStart ∧ Does .recFeed s s.sw.feedStart) ∧
        (s.sw.sigMatches = false → ∀ c : Instr, c = .recCompare ∨ c = .recFeed →
          ∃ w, Does c s w ∧ w.recd.st = 4 ∧ w.recd.cause = 5 ∧ w.recd.diverged = true ∧
            w = { s.sw with lex := w.lex, recd := w.recd, flt := { s.sw.flt with due := w.flt.due } }) ∧
        (s.sw.dumpAllowed = true → Does .recDump s { s.sw with recd := { s.sw.recd with
          st := 5, cause := 0, dumpTo := s.sw.rd L.recDump } }) ∧
        (s.sw.dumpAllowed = false → Does .recDump s s.sw)) ∧
      (s.sw.recIdle = true → Does .recStop s s.sw) ∧
      (s.sw.recd.st = 5 → ∃ w, Does .recStop s w ∧ w.recd.st = 4 ∧ w.recd.cause = 0) ∧
      (s.sw.recIdle = false → s.sw.recd.st ≠ 5 →
        Does .recStop s { s.sw with recd := { s.sw.recd with st := 4, cause := 0, await := [] } })) ∧
    (s.sw.recd.st ≠ 3 → exec .feedRelease s = .next s) ∧
    (s.sw.recd.st = 3 →
      (s.sw.fedNext = none → s.sw.recd.left = 0 →
        Does .feedRelease s { s.sw with recd := { s.sw.recd with st := 4, cause := 4, await := [] } }) ∧
      (s.sw.fedNext = none → s.sw.recd.left ≠ 0 → Does .feedRelease s s.sw) ∧
      (∀ (d n : Nat) (l : Bytes) (v w : Sw), s.sw.fedNext = some (d, n, l) →
        v = s.sw.reach (s.sw.recd.feedAt + cdiv ((lTime l - s.sw.recd.feedT0) * s.sw.rd L.recPace) 16) →
        w = v.ringMeets d (v.recd.cur.getD (1024 + d) (v.ringStart d)) (n + lSpan l - 1) →
        (lKind l = 0 ∧ lFull l = false ∨ w.payLost d n l = true → Does .feedRelease s (w.fedStop d l)) ∧
        (∀ h : Word256, h = BitVec.ofNat 256 (leNat (l.take 32)) → lKind l = 0 → lFull l = true → w.payLost d n l = false →
          pCtl h = 1 → s.unasked = true →
          Does .feedRelease s ((w.ctlIn (.port (Fin.ofNat 512 (lPort l))) h).fedPast d n l)) ∧
        (∀ t : State, (lKind l ≠ 0 ∨ lFull l = true) → w.payLost d n l = false →
          State.replay { s with sw := w } d n l = .ok (some t) → (t.sw.fedPast d n l).boot.asked = false →
          DoesAll .feedRelease s { t with sw := t.sw.fedPast d n l }))) ∧
    (s.sw.recd.st = 5 → ∃ w, Does .recDumpComplete s w ∧ w.recd.st = 4 ∧ w.recd.cause = 4) ∧
    (∃ w, Does .detSigRead s w ∧ w.rd L.detSig = leNat s.sw.detDigest % 256 ^ L.detSig.width ∧ w = { s.sw with lex := w.lex })

/-! ### 19: the root of trust -/

/-- The commands of range 14 inside a Crypto Officer session, outside one, debug unlock, and SPDM. -/
def Obligations.RootOfTrustCommands : Prop :=
  ∀ (s : State) (sid : Option Nat), (∀ k sub, s.busyFor (0xC000 + k) sub = false) → s.unasked = true →
    (s.sec.inOfficer sid = false → ∀ (slot : BitVec 8) (b : Bytes) (c : Instr),
      c ∈ [.keyRevoke sid slot, .svnAdvance sid, .imgErase sid, .imgDataWrite sid b, .imgVerify sid, .imgActivate sid,
        .zeroize sid, .retire sid] → Does c s (s.sw.inc (L.lexDenied.at 1))) ∧
    (s.sec.inOfficer sid = true →
      (∀ (slot : BitVec 8) (hash : BitVec 256),
        (slot.toNat = 0 ∨ 4 < slot.toNat ∨ (s.sec.fuse slot.toNat).fused = true → DoesAll (.keyFuse sid slot hash) s s) ∧
        (0 < slot.toNat → slot.toNat ≤ 4 → (s.sec.fuse slot.toNat).fused = false →
          ∃ x : Sec, DoesAll (.keyFuse sid slot hash) s { s with sec := x } ∧
            x.fuse slot.toNat = { hash := hash.toNat, fused := true } ∧
            (∀ k, k ≠ slot.toNat → x.fuse k = s.sec.fuse k) ∧
            x = { s.sec with fuses := x.fuses, fusing := some (slot.toNat, s.sw.now) }) ∧
        (0 < slot.toNat → slot.toNat ≤ 4 → (s.sec.fuse slot.toNat).fused = true →
          (∀ k, k < 2 → iKey (s.sec.imgHeader k) ≠ slot.toNat ∨ s.sec.valid k = false) →
          ∃ x : Sec, DoesAll (.keyRevoke sid slot) s { s with sec := x } ∧
            x.fuse slot.toNat = { (s.sec.fuse slot.toNat) with revoked := true } ∧ x = { s.sec with fuses := x.fuses })) ∧
      DoesAll (.svnAdvance sid) s { s with sec := { s.sec with svnFuse :=
        if s.sec.svnFuse ≤ s.sec.runSvn ∧ (∀ k : Fin 2, s.sec.runSvn ≤ iSvn (s.sec.imgHeader k) ∧ s.sec.valid k = true)
        then s.sec.runSvn else s.sec.svnFuse } } ∧
      (s.sec.busy = none → s.sec.err = false →
        DoesAll (.imgErase sid) s { s with sec := { s.sec with busy := some 1 } } ∧
        DoesAll (.imgVerify sid) s { s with sec := { s.sec with busy := some 2 } } ∧
        DoesAll (.imgActivate sid) s { s with sec := { s.sec with busy := some 3 } } ∧
        (∀ b : Bytes, s.sw.rd L.secImgOff < slotSize →
          ∃ t, DoesAll (.imgDataWrite sid b) s t ∧
            t.sw.rd L.secImgOff = (s.sw.rd L.secImgOff + 4096) % 256 ^ L.secImgOff.width ∧
            (∀ a, AMap.getD t.sec.nor a 0xFF =
              if slotBase 1 + s.sw.rd L.secImgOff ≤ a ∧ a < slotBase 1 + s.sw.rd L.secImgOff + 4096
              then byteAt b (a - (slotBase 1 + s.sw.rd L.secImgOff)) else AMap.getD s.sec.nor a 0xFF) ∧
            t = { s with sec := { s.sec with nor := t.sec.nor }, sw := { s.sw with lex := t.sw.lex } })) ∧
      DoesAll (.zeroize sid) s { s with sec := { s.sec with nonce := none, sess := [], derived := s.sec.serves } } ∧
      DoesAll (.retire sid) s { s with sec := { s.sec with nonce := none, retired := true, sess := [], derived := false } }) ∧
    (s.sec.busy = none → DoesAll .imgCommandComplete s s) ∧
    (s.sec.busy = some 1 → ∃ x : Sec, DoesAll .imgCommandComplete s { s with sec := x } ∧ x.busy = none ∧
      (∀ a, AMap.getD x.nor a 0xFF =
        if slotBase 1 ≤ a ∧ a < slotBase 1 + slotSize then 0xFF else AMap.getD s.sec.nor a 0xFF) ∧
      x = { s.sec with busy := none, nor := x.nor }) ∧
    (s.sec.busy = some 2 → DoesAll .imgCommandComplete s
      { s with sec := { s.sec with busy := none, imgSlot := 1, imgFail := s.sec.verify 1 } }) ∧
    (∀ r : Requester,
      (s.sw.lexAllows r 0xC003 false = true → s.sw.lexStopped r 0xC003 1 false = false →
        DoesAll (.dbgChallenge r) s { s with
          sec := { s.sec with nonce := some (Config.freeNat s.sw.free % 2 ^ 256, r) }
          sw := { s.sw with free := s.sw.free + 1 } }) ∧
      (∀ b : Bytes, s.sw.lexAllows r 0xC003 true = true → s.sec.holds r = true →
        (3 ≤ s.sec.dbgfail → DoesAll (.dbgResponse r b) s { s with sec := { s.sec with nonce := none } }) ∧
        (∀ n, s.sec.nonce = some (n, r) → s.sec.dbgfail < 3 → s.dbgOk n b = false →
          DoesAll (.dbgResponse r b) s { s with sec := { s.sec with nonce := none, dbgfail := s.sec.dbgfail + 1 } }))) ∧
    (∀ v : SpdmVia, s.spdmHeard v = true →
      (∀ q : SpdmReq, q ≠ .keyExchange → DoesAll (.spdmRequest v q) s (s.spdm q)) ∧
      (s.sec.serves = true → s.sec.derived = true → s.sec.sess.length < 4 →
        ∃ t, DoesAll (.spdmRequest v .keyExchange) s t ∧ t.sec.sess = s.sec.sess ++ [{ id := s.sec.nextSess, via := v }] ∧
          t = { s with sec := { s.sec with sess := t.sec.sess, nextSess := s.sec.nextSess + 1 }, sw := { s.sw with tx := t.sw.tx } }))

/-! ### 16, 20: resets, rails, temperatures, time, pins -/

/-- Resets. A cold reset, by RESET_N or a rail that returns, stops where the fuses fail or a crossing is out of alignment, and
where no image verifies; else it comes to step 8. That is said for images without lexicon values, since one of those may be an
undefined use. So does a warm reset, which stops by alignment alone. READY by the link timeout; a memory port that does not
return; a low rail, RESET_N and a critical temperature stop the part, and its identity stands, as do its fuses, but for a slot that
is being fused, and the NOR, but for an image command under way. Temperatures, time sources, JTAG, clocks and the pins. -/
def Obligations.ResetsAndPins : Prop :=
  ∀ s : State,
    (∀ (f : BootFacts) (c : Instr) (s0 : State),
      (c = .coldReset f ∧ s.sw.mayStart = true ∧ s0 = s) ∨
        (c = .railRestoreTimeout f ∧ s.sw.pins.railLow = true ∧ s.sw.pins.resetN = true ∧ s.sw.pins.thermCritN = true ∧
          s0 = { s with sw := { s.sw with pins := { s.sw.pins with railLow := false } } }) →
      (f.fuseOk = false → ∃ t, DoesAll c s t ∧ t.sw.boot.ready = false ∧ t.sw.boot.error = true ∧
        t.sw.boot.cause = 2 ∧ t.sec.fuses = s.sec.fuses ∧ (s.sec.busy = none → t.sec.nor = s.sec.nor) ∧ t.sw.ports = []) ∧
      (f.fuseOk = true → alignOk s.sw.ident.grade f.align = false →
        ∃ t, DoesAll c s t ∧ t.sw.boot.ready = false ∧ t.sw.boot.error = true ∧ t.sw.boot.cause = 4) ∧
      (f.fuseOk = true → alignOk s.sw.ident.grade f.align = true → f.katOk = true → (∀ k, k < 2 → (s0.coldBase f).sec.secOf k 2 = none) →
        ∀ b : State, b = (((s0.coldBase f).updSec (fun x => x.extend 1 (leBytes 32 Config.romDigest))).updSw
            (fun w => w.showAlign (fun _ => true) f.align)).updSw Sw.linksAligned →
          ∃ t, DoesAll c s t ∧ t.sw.boot.ready = false ∧
            (b.pickImage.1 = none → t.sw.boot.error = true ∧ t.sw.boot.stage = 4 ∧ t.sw.boot.cause = 1) ∧
            (∀ k, b.pickImage.1 = some k → t.sw.boot.error = false ∧ t.sw.boot.stage = 7 ∧ t.sw.boot.slot = k ∧
              t.sw.boot.linkAt = some t.sw.now ∧ t.sw.now = f.ms.toNat * 1000000)) ∧
      (∀ t, s0.coldStart f = .ok t → DoesAll c s t)) ∧
    (∀ f : BootFacts,
      (s.sw.mayStart = false → exec (.coldReset f) s = .next { s with sw := { s.sw with pins := { s.sw.pins with resetN := true } } }) ∧
      (s.sw.pins.railLow = true → s.sw.pins.resetN = false →
        exec (.railRestoreTimeout f) s = .next { s with sw := { s.sw with pins := { s.sw.pins with railLow := false } } }) ∧
      (s.busyFor 0x2000 2 = false →
        (alignOk s.sw.ident.grade f.align = false →
          ∃ t, DoesAll (.warmReset f) s t ∧ t.sw.boot.ready = false ∧ t.sw.boot.error = true ∧ t.sw.boot.cause = 4) ∧
        (alignOk s.sw.ident.grade f.align = true → s.sw.boot.image = [] →
          ∃ t, DoesAll (.warmReset f) s t ∧ t.sw.boot.ready = false ∧ t.sw.boot.error = false ∧ t.sw.boot.warm = true ∧
            t.sw.boot.stage = 7 ∧ t.sw.boot.linkAt = some t.sw.now ∧ t.sw.ten = [] ∧ t.sw.jobs = [] ∧ t.sw.ops = []) ∧
        (∀ t, s.warmStart f = .ok t → DoesAll (.warmReset f) s t))) ∧
    (∀ t, s.sw.boot.linkAt = some t → ∃ w, Does .bootLinkTimeout s w ∧ w.boot.ready = true ∧ w.boot.stage = 9 ∧
      w.now = max s.sw.now (deadline t s.sw.boot.linkNs) ∧ (∀ d : Die, w.rd (L.belMode.at d) = 1)) ∧
    (∀ (p : BPort) (c t : Nat), s.sw.boot.returns.find? (fun r => r.1 == p.val) = some (p.val, c, some t) →
      ∃ w, Does (.memPortReturnTimeout p) s w ∧ (w.bport p).st = .down ∧ (w.bport p).cause = 1 ∧ w.now = max s.sw.now t) ∧
    (∀ c : Instr, c = .railLoss ∨ c = .resetNFall →
      ∃ t, exec c s = .next t ∧ t.sw.faultN = false ∧ t.sw.boot.ready = false ∧
        (c = .resetNFall ∨ (∀ k, s.sec.fusing ≠ some (k, s.sw.now)) → t.sec.fuses = s.sec.fuses) ∧
        (∀ k, c = .railLoss → s.sec.fusing = some (k, s.sw.now) → t.sec.fuse k = { (s.sec.fuse k) with good := false }) ∧
        t.sec.svnFuse = s.sec.svnFuse ∧ (s.sec.busy = none → t.sec.nor = s.sec.nor) ∧
        t.sw.ident = s.sw.ident ∧ t.sw.ports = [] ∧ t.sw.hbm = [] ∧
        t.sw.lex = [] ∧ t.sec.derived = false ∧ t.pending = s.pending) ∧
    (∀ x : Sensor, s.sw.sensed x = true → s.sw.pins.thermCritN = true →
      ∃ t, exec (.thermCritical x) s = .next t ∧ t.sw.pins.thermCritN = false ∧ t.sw.faultN = false ∧ t.sw.boot.ready = false) ∧
    (∀ (l : List (Sensor × Int)) (w : Sw), s.sw.held = false →
      w = ((s.sw.reach (nextTick 10000 s.sw.now s.sw.pwr.sensedAt)).updPwr
        (fun p => { p with sensedAt := some (nextTick 10000 s.sw.now s.sw.pwr.sensedAt) })).sense l →
      w.pwr.temps.any (fun kv => decide (critAt kv.1 ≤ kv.2)) = false →
      Does (.sensorSample l) s
        (Sw.trips { w with pins := { w.pins with thermWarnN := !w.hot } })) ∧
    (s.sw.held = false →
      (∀ n : Nat, (n < 1000 ∨ 500000000 < n → exec (.ppsInEdge n) s = .next s) ∧
        (1000 ≤ n → n ≤ 500000000 →
          Does (.ppsInEdge n) s (Sw.servo { s.sw with pins := s.sw.pins.edge s.sw.now } true))) ∧
      (∃ t, t = max (cdiv s.sw.now 1000000000 * 1000000000) (s.sw.pins.ppsOut + 1000000000) ∧
        Does .ppsOutSecond s { s.sw with now := max s.sw.now t, pins := { s.sw.pins with ppsOut := t }, tx := .pps t :: s.sw.tx }) ∧
      (∀ (o : Int) (k : Bool), ∃ w, Does (.ptpMessageReceive o k) s w ∧
        w.rd L.telPtpOffset = (BitVec.ofInt 64 o).toNat ∧ w.pins.ptpLock = k ∧
        w.rd L.telPtpState = (if s.sw.pins.ppsLock || k then 2 else if s.sw.rd L.telPtpState = 2 then 3
          else if s.sw.rd L.telPtpState = 0 then 1 else s.sw.rd L.telPtpState)) ∧
      (s.sw.pins.ppsLock = false → s.sw.rd L.telPtpState = 2 →
        ∃ w, Does .ptpSourceLoss s w ∧ w.rd L.telPtpState = 3 ∧
          w.flt.due = s.sw.flt.due ++ [⟨0x68, 70, none, BitVec.ofNat 64 (s.sw.rd L.telPtpOffset), 0⟩]) ∧
      (s.sw.pins.ppsLock = true → ∃ w, Does .ptpSourceLoss s w ∧ w.rd L.telPtpState = 2) ∧
      (s.sw.boot.error = true → s.sw.boot.stage < 3 → exec .mgtPhyResetRelease s = .next s) ∧
      (s.sw.boot.error = false ∨ 3 ≤ s.sw.boot.stage → Does .mgtPhyResetRelease s { s.sw with pins := { s.sw.pins with mgtPhyRst := false } }) ∧
      (∀ (d : LinkDie) (w : Sw), w = { s.sw with pins := { s.sw.pins with noClk := insertNat d.val s.sw.pins.noClk } } →
        Does (.refclkLoss d) s ((w.cfgPortList.filter (fun p => p / 64 == d.val)).foldl Sw.clockFail w)) ∧
      (∀ a : BitVec 32, (s.sw.rd L.lexEthIp4 ≠ 0 → exec (.dhcpReply a) s = .next s) ∧
        (s.sw.rd L.lexEthIp4 = 0 → Does (.dhcpReply a) s (s.sw.wr L.lexEthIp4Now 0 a.toNat)))) ∧
    (∀ t, s.sw.pins.ppsLast = some t → ∃ w, Does .ppsLossTimeout s w ∧ w.pins.ppsLock = false ∧ w.pins.ppsRun = 0 ∧
      w.now = max s.sw.now (deadline t 2000000000)) ∧
    (∀ i : JtagInstr, exec (.jtagInstruction i) s = .next { s with sw := { s.sw with pins := { s.sw.pins with jtag := s.jtagRead i } } }) ∧
    (∀ p : BPort, s.sw.memRole p = true → (s.sw.bport p).st ≠ .disabled → (s.sw.bport p).st ≠ .down →
      ∃ w, Does (.memPerstRelease p) s w ∧ p.val ∈ w.pins.memUp ∧
        w = { s.sw with now := max s.sw.now (deadline (s.sw.bport p).enAt 1000000), pins := { s.sw.pins with memUp := w.pins.memUp } })
end

