-- ==== Sys2Proof/Laws/Table.lean ====
section
/-! SUPPORT. Laws of the sparse tables, of memory bytes and of the Lexicon's store: a read after a write, and that every
operation keeps the canonical form. -/

namespace Sys2Proof.Machine

/-! ### Tables -/

theorem AMap.get?_set_self {α : Type} (m : AMap α) (q : Nat) (x : α) : (m.set q x).get? q = some x := by
  induction m with
  | nil => simp [AMap.set, AMap.get?]
  | cons kv m ih =>
    obtain ⟨k, v⟩ := kv
    simp only [AMap.set]
    split
    · simp [AMap.get?]
    · split
      · simp [AMap.get?]
      · rename_i h _; simp [AMap.get?, h, ih]

theorem AMap.get?_set_ne {α : Type} (m : AMap α) (q p : Nat) (x : α) (h : q ≠ p) : (m.set q x).get? p = m.get? p := by
  induction m with
  | nil => simp [AMap.set, AMap.get?, h]
  | cons kv m ih =>
    obtain ⟨k, v⟩ := kv
    simp only [AMap.set]
    split
    · rename_i hk; subst hk; simp [AMap.get?, h]
    · split
      · simp [AMap.get?, h]
      · simp [AMap.get?, ih]

theorem AMap.get?_del_self {α : Type} (m : AMap α) (q : Nat) : (m.del q).get? q = none := by
  induction m with
  | nil => simp [AMap.del, AMap.get?]
  | cons kv m ih =>
    obtain ⟨k, v⟩ := kv
    simp only [AMap.del]
    split
    · exact ih
    · rename_i h; simp [AMap.get?, h, ih]

theorem AMap.get?_del_ne {α : Type} (m : AMap α) (q p : Nat) (h : q ≠ p) : (m.del q).get? p = m.get? p := by
  induction m with
  | nil => simp [AMap.del, AMap.get?]
  | cons kv m ih =>
    obtain ⟨k, v⟩ := kv
    simp only [AMap.del]
    split
    · rename_i hk; subst hk; simp [AMap.get?, h, ih]
    · simp [AMap.get?, ih]

/-- A value put is read back. -/
@[simp] theorem AMap.getD_put_self {α : Type} [DecidableEq α] (m : AMap α) (q : Nat) (x d : α) :
    (m.put q x d).getD q d = x := by
  unfold AMap.put AMap.getD
  split
  · rename_i h; simp [AMap.get?_del_self, h]
  · simp [AMap.get?_set_self]

/-- Every other key reads as before. -/
theorem AMap.getD_put_ne {α : Type} [DecidableEq α] (m : AMap α) (q p : Nat) (x d e : α) (h : q ≠ p) :
    (m.put q x d).getD p e = m.getD p e := by
  unfold AMap.put AMap.getD
  split
  · rw [AMap.get?_del_ne _ _ _ h]
  · rw [AMap.get?_set_ne _ _ _ _ h]

/-! ### The canonical form -/

theorem AMap.rising_mono {α : Type} (m : AMap α) (a b : Nat) (h : a ≤ b) (hm : m.risingFrom b = true) : m.risingFrom a = true := by
  cases m with
  | nil => rfl
  | cons kv m =>
    obtain ⟨k, v⟩ := kv
    simp only [AMap.risingFrom, Bool.and_eq_true, decide_eq_true_eq] at hm ⊢
    exact ⟨Nat.le_trans h hm.1, hm.2⟩

theorem AMap.rising_set {α : Type} (m : AMap α) (lo q : Nat) (x : α) (hq : lo ≤ q) (hm : m.risingFrom lo = true) :
    (m.set q x).risingFrom lo = true := by
  induction m generalizing lo with
  | nil => simp [AMap.set, AMap.risingFrom, hq]
  | cons kv m ih =>
    obtain ⟨k, v⟩ := kv
    simp only [AMap.risingFrom, Bool.and_eq_true, decide_eq_true_eq] at hm
    simp only [AMap.set]
    split
    · rename_i h; subst h; simp [AMap.risingFrom, hm.1, hm.2]
    · split
      · rename_i h; simp only [AMap.risingFrom, Bool.and_eq_true, decide_eq_true_eq]; exact ⟨hq, h, hm.2⟩
      · rename_i h1 h2
        simp only [AMap.risingFrom, Bool.and_eq_true, decide_eq_true_eq]
        exact ⟨hm.1, ih (k + 1) (by omega) hm.2⟩

theorem AMap.rising_del {α : Type} (m : AMap α) (lo q : Nat) (hm : m.risingFrom lo = true) : (m.del q).risingFrom lo = true := by
  induction m generalizing lo with
  | nil => rfl
  | cons kv m ih =>
    obtain ⟨k, v⟩ := kv
    simp only [AMap.risingFrom, Bool.and_eq_true, decide_eq_true_eq] at hm
    simp only [AMap.del]
    split
    · exact AMap.rising_mono _ lo (k + 1) (by omega) (ih (k + 1) hm.2)
    · simp only [AMap.risingFrom, Bool.and_eq_true, decide_eq_true_eq]; exact ⟨hm.1, ih (k + 1) hm.2⟩

theorem AMap.rising_filter {α : Type} (m : AMap α) (p : Nat × α → Bool) (lo : Nat) (hm : m.risingFrom lo = true) :
    AMap.risingFrom lo (m.filter p) = true := by
  induction m generalizing lo with
  | nil => rfl
  | cons kv m ih =>
    obtain ⟨k, v⟩ := kv
    simp only [AMap.risingFrom, Bool.and_eq_true, decide_eq_true_eq] at hm
    simp only [List.filter]
    split
    · simp only [AMap.risingFrom, Bool.and_eq_true, decide_eq_true_eq]; exact ⟨hm.1, ih (k + 1) hm.2⟩
    · exact AMap.rising_mono _ lo (k + 1) (by omega) (ih (k + 1) hm.2)

theorem AMap.mem_set {α : Type} (m : AMap α) (q : Nat) (x : α) (c : Nat × α) (h : c ∈ m.set q x) : c = (q, x) ∨ c ∈ m := by
  induction m with
  | nil => simp [AMap.set] at h; exact .inl h
  | cons kv m ih =>
    obtain ⟨k, v⟩ := kv
    simp only [AMap.set] at h
    split at h
    · rcases List.mem_cons.mp h with h | h
      · exact .inl h
      · exact .inr (List.mem_cons_of_mem _ h)
    · split at h
      · rcases List.mem_cons.mp h with h | h
        · exact .inl h
        · exact .inr h
      · rcases List.mem_cons.mp h with h | h
        · exact .inr (h ▸ List.mem_cons_self)
        · rcases ih h with h | h
          · exact .inl h
          · exact .inr (List.mem_cons_of_mem _ h)

theorem AMap.mem_del {α : Type} (m : AMap α) (q : Nat) (c : Nat × α) (h : c ∈ m.del q) : c ∈ m := by
  induction m with
  | nil => simp [AMap.del] at h
  | cons kv m ih =>
    obtain ⟨k, v⟩ := kv
    simp only [AMap.del] at h
    split at h
    · exact List.mem_cons_of_mem _ (ih h)
    · rcases List.mem_cons.mp h with h | h
      · exact h ▸ List.mem_cons_self
      · exact List.mem_cons_of_mem _ (ih h)

/-! ### Memory bytes -/

/-- What `Memory.wf` says. -/
theorem Memory.wf_iff (m : List Host.Cell) :
    Memory.wf m = true ↔ AMap.risingFrom 0 m = true ∧ ∀ c ∈ m, c.2 ≠ memZero := by
  simp [Memory.wf]

@[simp] theorem memRd_memWr_self (m : List Host.Cell) (a : Nat) (b : Byte) : memRd (memWr m a b) a = b := by
  simp [memRd, memWr]

theorem memRd_memWr_ne (m : List Host.Cell) (a x : Nat) (b : Byte) (h : a ≠ x) : memRd (memWr m a b) x = memRd m x := by
  simp [memRd, memWr, AMap.getD_put_ne _ _ _ _ _ _ h]

/-- A byte outside the bytes written reads as before. -/
theorem memRd_memWrs_out (m : List Host.Cell) (a x : Nat) (bs : Bytes) (h : x < a ∨ a + bs.length ≤ x) :
    memRd (memWrs m a bs) x = memRd m x := by
  induction bs generalizing m a with
  | nil => rfl
  | cons b bs ih =>
    simp only [List.length_cons] at h
    rw [memWrs, ih _ _ (by omega), memRd_memWr_ne _ _ _ _ (by omega)]

/-- A byte inside reads as written. -/
theorem memRd_memWrs_in (m : List Host.Cell) (a i : Nat) (bs : Bytes) (h : i < bs.length) :
    memRd (memWrs m a bs) (a + i) = bs.getD i 0 := by
  induction bs generalizing m a i with
  | nil => simp at h
  | cons b bs ih =>
    cases i with
    | zero => rw [memWrs, memRd_memWrs_out _ _ _ _ (by omega)]; simp
    | succ i =>
      have h' : i < bs.length := by simpa using h
      have := ih (memWr m a b) (a + 1) i h'
      rw [memWrs]
      rw [show a + (i + 1) = a + 1 + i by omega, this]
      simp

theorem memWr_wf (m : List Host.Cell) (a : Nat) (b : Byte) (h : Memory.wf m = true) : Memory.wf (memWr m a b) = true := by
  rw [Memory.wf_iff] at h ⊢
  unfold memWr AMap.put
  split
  · exact ⟨AMap.rising_del _ _ _ h.1, fun c hc => h.2 c (AMap.mem_del _ _ _ hc)⟩
  · rename_i hb
    refine ⟨AMap.rising_set _ _ _ _ (Nat.zero_le _) h.1, fun c hc => ?_⟩
    rcases AMap.mem_set _ _ _ _ hc with hc | hc
    · subst hc; exact hb
    · exact h.2 c hc

theorem memWrs_wf (m : List Host.Cell) (a : Nat) (bs : Bytes) (h : Memory.wf m = true) : Memory.wf (memWrs m a bs) = true := by
  induction bs generalizing m a with
  | nil => exact h
  | cons b bs ih => exact ih _ _ (memWr_wf _ _ _ h)

theorem memZeroRange_wf (m : List Host.Cell) (lo hi : Nat) (h : Memory.wf m = true) :
    Memory.wf (memZeroRange m lo hi) = true := by
  rw [Memory.wf_iff] at h ⊢
  exact ⟨AMap.rising_filter _ _ _ h.1, fun c hc => h.2 c (List.mem_filter.mp hc).1⟩

theorem AMap.get?_filter_out {α : Type} (m : AMap α) (p : Nat × α → Bool) (a : Nat) (h : ∀ v, p (a, v) = true) :
    AMap.get? (m.filter p) a = m.get? a := by
  induction m with
  | nil => rfl
  | cons kv m ih =>
    obtain ⟨k, v⟩ := kv
    by_cases hk : k = a
    · subst hk; simp [List.filter, h v, AMap.get?]
    · simp only [List.filter]
      split
      · simp [AMap.get?, hk, ih]
      · simp [AMap.get?, hk, ih]

theorem AMap.get?_filter_in {α : Type} (m : AMap α) (p : Nat × α → Bool) (a : Nat) (h : ∀ v, p (a, v) = false) :
    AMap.get? (m.filter p) a = none := by
  induction m with
  | nil => rfl
  | cons kv m ih =>
    obtain ⟨k, v⟩ := kv
    by_cases hk : k = a
    · subst hk; simp [List.filter, h v, ih]
    · simp only [List.filter]
      split
      · simp [AMap.get?, hk, ih]
      · exact ih

/-- Inside the range every byte reads 0. -/
theorem memRd_memZeroRange_in (m : List Host.Cell) (lo hi a : Nat) (h : lo ≤ a ∧ a < hi) :
    memRd (memZeroRange m lo hi) a = memZero := by
  unfold memRd memZeroRange AMap.getD
  rw [AMap.get?_filter_in _ _ _ (fun v => by simp; omega)]; rfl

/-- Outside it every byte reads as before. -/
theorem memRd_memZeroRange_out (m : List Host.Cell) (lo hi a : Nat) (h : a < lo ∨ hi ≤ a) :
    memRd (memZeroRange m lo hi) a = memRd m a := by
  unfold memRd memZeroRange AMap.getD
  rw [AMap.get?_filter_out _ _ _ (fun v => by simp; omega)]

/-! ### The Lexicon's store -/

/-- An element written reads as the value, cut to its width. -/
@[simp] theorem Sw.rd_wr_self (s : Sw) (r : Reg) (el v : Nat) : (s.wr r el v).rd r el = v % 256 ^ r.width := by
  simp [Sw.rd, Sw.wr]

/-- Every other element reads as before. -/
theorem Sw.rd_wr_ne (s : Sw) (r q : Reg) (el k v : Nat) (h : r.key el ≠ q.key k) : (s.wr r el v).rd q k = s.rd q k := by
  simp [Sw.rd, Sw.wr, AMap.getD_put_ne _ _ _ _ _ _ h]

end Sys2Proof.Machine
end

