-- ==== Sys2Proof/Laws/Hash.lean ====
section
/-! SUPPORT. SHA3-256 gives 32 bytes; a frame with its own FCS agrees with it; a line of the recorder's ring is the bytes written there. -/

namespace Sys2Proof.Machine

theorem lanesOf_length (f : Nat → Nat → Nat) : (lanesOf f).length = 25 := by simp [lanesOf]

theorem keccakRound_length (a : List Nat) (rc : Nat) : (keccakRound a rc).length = 25 := by
  unfold keccakRound
  dsimp only
  split
  · rename_i h; have := congrArg List.length h; simp [lanesOf_length] at this
  · rename_i h; have := congrArg List.length h; simpa [lanesOf_length] using this.symm

theorem keccakF_length (a : List Nat) (h : a.length = 25) : (keccakF a).length = 25 := by
  unfold keccakF
  generalize iotaConsts 24 1 = rcs
  induction rcs generalizing a with
  | nil => exact h
  | cons r rs ih => exact ih _ (keccakRound_length a r)

theorem absorb_length (n : Nat) (a : List Nat) (bs : Bytes) (h : a.length = 25) : (absorb n a bs).length = 25 := by
  induction n generalizing a bs with
  | zero => exact h
  | succ n ih => exact ih _ _ (keccakF_length _ (by simp))

@[simp] theorem leBytes_length (n v : Nat) : (leBytes n v).length = n := by
  induction n generalizing v with
  | zero => rfl
  | succ n ih => simp [leBytes, ih]

/-- FIPS 202: 256 bits. -/
@[simp] theorem sha3_length (bs : Bytes) : (sha3 bs).length = 32 := by
  unfold sha3
  dsimp only
  have h := absorb_length ((sha3Pad bs).length / 136) (List.replicate 25 0) (sha3Pad bs) (by simp)
  generalize absorb ((sha3Pad bs).length / 136) (List.replicate 25 0) (sha3Pad bs) = l at h
  match l, h with
  | a :: b :: c :: d :: _, _ => simp

/-- A line of the ring that can be read, where all of HBM is what was written there. -/
theorem Sw.ringLine_of_write (s : Sw) (d : Nat) (bs : Bytes) (hr : s.ringLost d 0 = false)
    (h : s.hbm = memWrs [] (s.ringBase d) bs) (hl : bs.length = 64) :
    s.ringLine d 0 = bs := by
  apply List.ext_getElem
  · simp [Sw.ringLine, hr, Sw.hbmRd, memRds, hl]
  · intro i h1 h2
    simp [Sw.ringLine, hr, Sw.ringAt, Sw.hbmRd, memRds, h, memRd_memWrs_in _ _ _ _ h2, List.getD_eq_getElem?_getD, h2]

/-! CRC-32 has 32 bits, and a frame that ends in the CRC-32 of what stands before it passes its check (02 R72). -/

theorem crc32Bits_lt (n r : Nat) (h : r < 2 ^ 32) : crc32Bits n r < 2 ^ 32 := by
  induction n generalizing r with
  | zero => exact h
  | succ n ih =>
    unfold crc32Bits
    apply ih
    split
    · exact Nat.xor_lt_two_pow (by omega) (by decide)
    · omega

theorem crc32From_lt (bs : Bytes) (r : Nat) (h : r < 2 ^ 32) : crc32From r bs < 2 ^ 32 := by
  induction bs generalizing r with
  | nil => exact h
  | cons b bs ih => exact ih _ (crc32Bits_lt 8 _ (Nat.xor_lt_two_pow h (by have := b.isLt; omega)))

theorem crc32_lt (bs : Bytes) : crc32 bs < 2 ^ 32 := Nat.xor_lt_two_pow (crc32From_lt bs _ (by decide)) (by decide)

theorem leNat_leBytes4 (v : Nat) (h : v < 2 ^ 32) : leNat (leBytes 4 v) = v := by
  simp [leBytes, leNat, BitVec.toNat_ofNat]; omega

theorem crc32_fcs (b : Bytes) : (BitVec.ofNat 32 (crc32 b)).toNat = crc32 b := by
  simp only [BitVec.toNat_ofNat]; exact Nat.mod_eq_of_lt (crc32_lt b)

theorem fcsOk_own (b : Bytes) (h : 14 ≤ b.length) : fcsOk (withFcs b (BitVec.ofNat 32 (crc32 b))) = true := by
  have l : (b ++ leBytes 4 (crc32 b)).length - 4 = b.length := by rw [List.length_append, leBytes_length]; omega
  unfold fcsOk withFcs
  rw [crc32_fcs, l, List.drop_left, List.take_left, leNat_leBytes4 _ (crc32_lt b), List.length_append, leBytes_length]
  simp; omega

end Sys2Proof.Machine
end

