-- ==== Sys2Proof/Laws/State.lean ====
section
/-! SUPPORT. One lemma per field per update of the switch, each true by unfolding: later proofs unfold no record update. -/

namespace Sys2Proof.Machine

variable (s : Sw)

/-! ### `wr` -/

@[simp] theorem Sw.wr_now (r : Reg) (el v : Nat) : (s.wr r el v).now = s.now := rfl
@[simp] theorem Sw.wr_free (r : Reg) (el v : Nat) : (s.wr r el v).free = s.free := rfl
@[simp] theorem Sw.wr_ident (r : Reg) (el v : Nat) : (s.wr r el v).ident = s.ident := rfl
@[simp] theorem Sw.wr_fab (r : Reg) (el v : Nat) : (s.wr r el v).fab = s.fab := rfl
@[simp] theorem Sw.wr_cred (r : Reg) (el v : Nat) : (s.wr r el v).cred = s.cred := rfl
@[simp] theorem Sw.wr_bil (r : Reg) (el v : Nat) : (s.wr r el v).bil = s.bil := rfl
@[simp] theorem Sw.wr_bel (r : Reg) (el v : Nat) : (s.wr r el v).bel = s.bel := rfl
@[simp] theorem Sw.wr_ports (r : Reg) (el v : Nat) : (s.wr r el v).ports = s.ports := rfl
@[simp] theorem Sw.wr_lanes (r : Reg) (el v : Nat) : (s.wr r el v).lanes = s.lanes := rfl
@[simp] theorem Sw.wr_fomAt (r : Reg) (el v : Nat) : (s.wr r el v).fomAt = s.fomAt := rfl
@[simp] theorem Sw.wr_ten (r : Reg) (el v : Nat) : (s.wr r el v).ten = s.ten := rfl
@[simp] theorem Sw.wr_rebind (r : Reg) (el v : Nat) : (s.wr r el v).rebind = s.rebind := rfl
@[simp] theorem Sw.wr_blkRst (r : Reg) (el v : Nat) : (s.wr r el v).blkRst = s.blkRst := rfl
@[simp] theorem Sw.wr_flt (r : Reg) (el v : Nat) : (s.wr r el v).flt = s.flt := rfl
@[simp] theorem Sw.wr_boot (r : Reg) (el v : Nat) : (s.wr r el v).boot = s.boot := rfl
@[simp] theorem Sw.wr_pwr (r : Reg) (el v : Nat) : (s.wr r el v).pwr = s.pwr := rfl
@[simp] theorem Sw.wr_pins (r : Reg) (el v : Nat) : (s.wr r el v).pins = s.pins := rfl
@[simp] theorem Sw.wr_hbm (r : Reg) (el v : Nat) : (s.wr r el v).hbm = s.hbm := rfl
@[simp] theorem Sw.wr_cxl (r : Reg) (el v : Nat) : (s.wr r el v).cxl = s.cxl := rfl
@[simp] theorem Sw.wr_hbmBad (r : Reg) (el v : Nat) : (s.wr r el v).hbmBad = s.hbmBad := rfl
@[simp] theorem Sw.wr_cxlBad (r : Reg) (el v : Nat) : (s.wr r el v).cxlBad = s.cxlBad := rfl
@[simp] theorem Sw.wr_clr (r : Reg) (el v : Nat) : (s.wr r el v).clr = s.clr := rfl
@[simp] theorem Sw.wr_cores (r : Reg) (el v : Nat) : (s.wr r el v).cores = s.cores := rfl
@[simp] theorem Sw.wr_brg (r : Reg) (el v : Nat) : (s.wr r el v).brg = s.brg := rfl
@[simp] theorem Sw.wr_mbox (r : Reg) (el v : Nat) : (s.wr r el v).mbox = s.mbox := rfl
@[simp] theorem Sw.wr_anv (r : Reg) (el v : Nat) : (s.wr r el v).anv = s.anv := rfl
@[simp] theorem Sw.wr_recd (r : Reg) (el v : Nat) : (s.wr r el v).recd = s.recd := rfl
@[simp] theorem Sw.wr_agr (r : Reg) (el v : Nat) : (s.wr r el v).agr = s.agr := rfl
@[simp] theorem Sw.wr_jobs (r : Reg) (el v : Nat) : (s.wr r el v).jobs = s.jobs := rfl
@[simp] theorem Sw.wr_jobNo (r : Reg) (el v : Nat) : (s.wr r el v).jobNo = s.jobNo := rfl
@[simp] theorem Sw.wr_ops (r : Reg) (el v : Nat) : (s.wr r el v).ops = s.ops := rfl
@[simp] theorem Sw.wr_opNo (r : Reg) (el v : Nat) : (s.wr r el v).opNo = s.opNo := rfl
@[simp] theorem Sw.wr_lostJobs (r : Reg) (el v : Nat) : (s.wr r el v).lostJobs = s.lostJobs := rfl
@[simp] theorem Sw.wr_lostOps (r : Reg) (el v : Nat) : (s.wr r el v).lostOps = s.lostOps := rfl
@[simp] theorem Sw.wr_scrub (r : Reg) (el v : Nat) : (s.wr r el v).scrub = s.scrub := rfl
@[simp] theorem Sw.wr_i3c (r : Reg) (el v : Nat) : (s.wr r el v).i3c = s.i3c := rfl
@[simp] theorem Sw.wr_lexs (r : Reg) (el v : Nat) : (s.wr r el v).lexs = s.lexs := rfl
@[simp] theorem Sw.wr_lib (r : Reg) (el v : Nat) : (s.wr r el v).lib = s.lib := rfl
@[simp] theorem Sw.wr_libImage (r : Reg) (el v : Nat) : (s.wr r el v).libImage = s.libImage := rfl
@[simp] theorem Sw.wr_tx (r : Reg) (el v : Nat) : (s.wr r el v).tx = s.tx := rfl

/-! ### `inc` -/

@[simp] theorem Sw.inc_now (r : Reg) (el n : Nat) : (s.inc r el n).now = s.now := rfl
@[simp] theorem Sw.inc_free (r : Reg) (el n : Nat) : (s.inc r el n).free = s.free := rfl
@[simp] theorem Sw.inc_ident (r : Reg) (el n : Nat) : (s.inc r el n).ident = s.ident := rfl
@[simp] theorem Sw.inc_fab (r : Reg) (el n : Nat) : (s.inc r el n).fab = s.fab := rfl
@[simp] theorem Sw.inc_cred (r : Reg) (el n : Nat) : (s.inc r el n).cred = s.cred := rfl
@[simp] theorem Sw.inc_bil (r : Reg) (el n : Nat) : (s.inc r el n).bil = s.bil := rfl
@[simp] theorem Sw.inc_bel (r : Reg) (el n : Nat) : (s.inc r el n).bel = s.bel := rfl
@[simp] theorem Sw.inc_ports (r : Reg) (el n : Nat) : (s.inc r el n).ports = s.ports := rfl
@[simp] theorem Sw.inc_lanes (r : Reg) (el n : Nat) : (s.inc r el n).lanes = s.lanes := rfl
@[simp] theorem Sw.inc_fomAt (r : Reg) (el n : Nat) : (s.inc r el n).fomAt = s.fomAt := rfl
@[simp] theorem Sw.inc_ten (r : Reg) (el n : Nat) : (s.inc r el n).ten = s.ten := rfl
@[simp] theorem Sw.inc_rebind (r : Reg) (el n : Nat) : (s.inc r el n).rebind = s.rebind := rfl
@[simp] theorem Sw.inc_blkRst (r : Reg) (el n : Nat) : (s.inc r el n).blkRst = s.blkRst := rfl
@[simp] theorem Sw.inc_flt (r : Reg) (el n : Nat) : (s.inc r el n).flt = s.flt := rfl
@[simp] theorem Sw.inc_boot (r : Reg) (el n : Nat) : (s.inc r el n).boot = s.boot := rfl
@[simp] theorem Sw.inc_pwr (r : Reg) (el n : Nat) : (s.inc r el n).pwr = s.pwr := rfl
@[simp] theorem Sw.inc_pins (r : Reg) (el n : Nat) : (s.inc r el n).pins = s.pins := rfl
@[simp] theorem Sw.inc_hbm (r : Reg) (el n : Nat) : (s.inc r el n).hbm = s.hbm := rfl
@[simp] theorem Sw.inc_cxl (r : Reg) (el n : Nat) : (s.inc r el n).cxl = s.cxl := rfl
@[simp] theorem Sw.inc_hbmBad (r : Reg) (el n : Nat) : (s.inc r el n).hbmBad = s.hbmBad := rfl
@[simp] theorem Sw.inc_cxlBad (r : Reg) (el n : Nat) : (s.inc r el n).cxlBad = s.cxlBad := rfl
@[simp] theorem Sw.inc_clr (r : Reg) (el n : Nat) : (s.inc r el n).clr = s.clr := rfl
@[simp] theorem Sw.inc_cores (r : Reg) (el n : Nat) : (s.inc r el n).cores = s.cores := rfl
@[simp] theorem Sw.inc_brg (r : Reg) (el n : Nat) : (s.inc r el n).brg = s.brg := rfl
@[simp] theorem Sw.inc_mbox (r : Reg) (el n : Nat) : (s.inc r el n).mbox = s.mbox := rfl
@[simp] theorem Sw.inc_anv (r : Reg) (el n : Nat) : (s.inc r el n).anv = s.anv := rfl
@[simp] theorem Sw.inc_recd (r : Reg) (el n : Nat) : (s.inc r el n).recd = s.recd := rfl
@[simp] theorem Sw.inc_agr (r : Reg) (el n : Nat) : (s.inc r el n).agr = s.agr := rfl
@[simp] theorem Sw.inc_jobs (r : Reg) (el n : Nat) : (s.inc r el n).jobs = s.jobs := rfl
@[simp] theorem Sw.inc_jobNo (r : Reg) (el n : Nat) : (s.inc r el n).jobNo = s.jobNo := rfl
@[simp] theorem Sw.inc_ops (r : Reg) (el n : Nat) : (s.inc r el n).ops = s.ops := rfl
@[simp] theorem Sw.inc_opNo (r : Reg) (el n : Nat) : (s.inc r el n).opNo = s.opNo := rfl
@[simp] theorem Sw.inc_lostJobs (r : Reg) (el n : Nat) : (s.inc r el n).lostJobs = s.lostJobs := rfl
@[simp] theorem Sw.inc_lostOps (r : Reg) (el n : Nat) : (s.inc r el n).lostOps = s.lostOps := rfl
@[simp] theorem Sw.inc_scrub (r : Reg) (el n : Nat) : (s.inc r el n).scrub = s.scrub := rfl
@[simp] theorem Sw.inc_i3c (r : Reg) (el n : Nat) : (s.inc r el n).i3c = s.i3c := rfl
@[simp] theorem Sw.inc_lexs (r : Reg) (el n : Nat) : (s.inc r el n).lexs = s.lexs := rfl
@[simp] theorem Sw.inc_lib (r : Reg) (el n : Nat) : (s.inc r el n).lib = s.lib := rfl
@[simp] theorem Sw.inc_libImage (r : Reg) (el n : Nat) : (s.inc r el n).libImage = s.libImage := rfl
@[simp] theorem Sw.inc_tx (r : Reg) (el n : Nat) : (s.inc r el n).tx = s.tx := rfl

/-! ### `reach` -/

@[simp] theorem Sw.reach_now (t : Nat) : (s.reach t).now = max s.now t := rfl
@[simp] theorem Sw.reach_free (t : Nat) : (s.reach t).free = s.free := rfl
@[simp] theorem Sw.reach_lex (t : Nat) : (s.reach t).lex = s.lex := rfl
@[simp] theorem Sw.reach_ident (t : Nat) : (s.reach t).ident = s.ident := rfl
@[simp] theorem Sw.reach_fab (t : Nat) : (s.reach t).fab = s.fab := rfl
@[simp] theorem Sw.reach_cred (t : Nat) : (s.reach t).cred = s.cred := rfl
@[simp] theorem Sw.reach_bil (t : Nat) : (s.reach t).bil = s.bil := rfl
@[simp] theorem Sw.reach_bel (t : Nat) : (s.reach t).bel = s.bel := rfl
@[simp] theorem Sw.reach_ports (t : Nat) : (s.reach t).ports = s.ports := rfl
@[simp] theorem Sw.reach_lanes (t : Nat) : (s.reach t).lanes = s.lanes := rfl
@[simp] theorem Sw.reach_fomAt (t : Nat) : (s.reach t).fomAt = s.fomAt := rfl
@[simp] theorem Sw.reach_ten (t : Nat) : (s.reach t).ten = s.ten := rfl
@[simp] theorem Sw.reach_rebind (t : Nat) : (s.reach t).rebind = s.rebind := rfl
@[simp] theorem Sw.reach_blkRst (t : Nat) : (s.reach t).blkRst = s.blkRst := rfl
@[simp] theorem Sw.reach_flt (t : Nat) : (s.reach t).flt = s.flt := rfl
@[simp] theorem Sw.reach_boot (t : Nat) : (s.reach t).boot = s.boot := rfl
@[simp] theorem Sw.reach_pwr (t : Nat) : (s.reach t).pwr = s.pwr := rfl
@[simp] theorem Sw.reach_pins (t : Nat) : (s.reach t).pins = s.pins := rfl
@[simp] theorem Sw.reach_hbm (t : Nat) : (s.reach t).hbm = s.hbm := rfl
@[simp] theorem Sw.reach_cxl (t : Nat) : (s.reach t).cxl = s.cxl := rfl
@[simp] theorem Sw.reach_hbmBad (t : Nat) : (s.reach t).hbmBad = s.hbmBad := rfl
@[simp] theorem Sw.reach_cxlBad (t : Nat) : (s.reach t).cxlBad = s.cxlBad := rfl
@[simp] theorem Sw.reach_clr (t : Nat) : (s.reach t).clr = s.clr := rfl
@[simp] theorem Sw.reach_cores (t : Nat) : (s.reach t).cores = s.cores := rfl
@[simp] theorem Sw.reach_brg (t : Nat) : (s.reach t).brg = s.brg := rfl
@[simp] theorem Sw.reach_mbox (t : Nat) : (s.reach t).mbox = s.mbox := rfl
@[simp] theorem Sw.reach_anv (t : Nat) : (s.reach t).anv = s.anv := rfl
@[simp] theorem Sw.reach_recd (t : Nat) : (s.reach t).recd = s.recd := rfl
@[simp] theorem Sw.reach_agr (t : Nat) : (s.reach t).agr = s.agr := rfl
@[simp] theorem Sw.reach_jobs (t : Nat) : (s.reach t).jobs = s.jobs := rfl
@[simp] theorem Sw.reach_jobNo (t : Nat) : (s.reach t).jobNo = s.jobNo := rfl
@[simp] theorem Sw.reach_ops (t : Nat) : (s.reach t).ops = s.ops := rfl
@[simp] theorem Sw.reach_opNo (t : Nat) : (s.reach t).opNo = s.opNo := rfl
@[simp] theorem Sw.reach_lostJobs (t : Nat) : (s.reach t).lostJobs = s.lostJobs := rfl
@[simp] theorem Sw.reach_lostOps (t : Nat) : (s.reach t).lostOps = s.lostOps := rfl
@[simp] theorem Sw.reach_scrub (t : Nat) : (s.reach t).scrub = s.scrub := rfl
@[simp] theorem Sw.reach_i3c (t : Nat) : (s.reach t).i3c = s.i3c := rfl
@[simp] theorem Sw.reach_lexs (t : Nat) : (s.reach t).lexs = s.lexs := rfl
@[simp] theorem Sw.reach_lib (t : Nat) : (s.reach t).lib = s.lib := rfl
@[simp] theorem Sw.reach_libImage (t : Nat) : (s.reach t).libImage = s.libImage := rfl
@[simp] theorem Sw.reach_tx (t : Nat) : (s.reach t).tx = s.tx := rfl

/-! ### `send` -/

@[simp] theorem Sw.send_tx (t : Tx) : (s.send t).tx = t :: s.tx := rfl
@[simp] theorem Sw.send_now (t : Tx) : (s.send t).now = s.now := rfl
@[simp] theorem Sw.send_free (t : Tx) : (s.send t).free = s.free := rfl
@[simp] theorem Sw.send_lex (t : Tx) : (s.send t).lex = s.lex := rfl
@[simp] theorem Sw.send_ident (t : Tx) : (s.send t).ident = s.ident := rfl
@[simp] theorem Sw.send_fab (t : Tx) : (s.send t).fab = s.fab := rfl
@[simp] theorem Sw.send_cred (t : Tx) : (s.send t).cred = s.cred := rfl
@[simp] theorem Sw.send_bil (t : Tx) : (s.send t).bil = s.bil := rfl
@[simp] theorem Sw.send_bel (t : Tx) : (s.send t).bel = s.bel := rfl
@[simp] theorem Sw.send_ports (t : Tx) : (s.send t).ports = s.ports := rfl
@[simp] theorem Sw.send_lanes (t : Tx) : (s.send t).lanes = s.lanes := rfl
@[simp] theorem Sw.send_fomAt (t : Tx) : (s.send t).fomAt = s.fomAt := rfl
@[simp] theorem Sw.send_ten (t : Tx) : (s.send t).ten = s.ten := rfl
@[simp] theorem Sw.send_rebind (t : Tx) : (s.send t).rebind = s.rebind := rfl
@[simp] theorem Sw.send_blkRst (t : Tx) : (s.send t).blkRst = s.blkRst := rfl
@[simp] theorem Sw.send_flt (t : Tx) : (s.send t).flt = s.flt := rfl
@[simp] theorem Sw.send_boot (t : Tx) : (s.send t).boot = s.boot := rfl
@[simp] theorem Sw.send_pwr (t : Tx) : (s.send t).pwr = s.pwr := rfl
@[simp] theorem Sw.send_pins (t : Tx) : (s.send t).pins = s.pins := rfl
@[simp] theorem Sw.send_hbm (t : Tx) : (s.send t).hbm = s.hbm := rfl
@[simp] theorem Sw.send_cxl (t : Tx) : (s.send t).cxl = s.cxl := rfl
@[simp] theorem Sw.send_hbmBad (t : Tx) : (s.send t).hbmBad = s.hbmBad := rfl
@[simp] theorem Sw.send_cxlBad (t : Tx) : (s.send t).cxlBad = s.cxlBad := rfl
@[simp] theorem Sw.send_clr (t : Tx) : (s.send t).clr = s.clr := rfl
@[simp] theorem Sw.send_cores (t : Tx) : (s.send t).cores = s.cores := rfl
@[simp] theorem Sw.send_brg (t : Tx) : (s.send t).brg = s.brg := rfl
@[simp] theorem Sw.send_mbox (t : Tx) : (s.send t).mbox = s.mbox := rfl
@[simp] theorem Sw.send_anv (t : Tx) : (s.send t).anv = s.anv := rfl
@[simp] theorem Sw.send_recd (t : Tx) : (s.send t).recd = s.recd := rfl
@[simp] theorem Sw.send_agr (t : Tx) : (s.send t).agr = s.agr := rfl
@[simp] theorem Sw.send_jobs (t : Tx) : (s.send t).jobs = s.jobs := rfl
@[simp] theorem Sw.send_jobNo (t : Tx) : (s.send t).jobNo = s.jobNo := rfl
@[simp] theorem Sw.send_ops (t : Tx) : (s.send t).ops = s.ops := rfl
@[simp] theorem Sw.send_opNo (t : Tx) : (s.send t).opNo = s.opNo := rfl
@[simp] theorem Sw.send_lostJobs (t : Tx) : (s.send t).lostJobs = s.lostJobs := rfl
@[simp] theorem Sw.send_lostOps (t : Tx) : (s.send t).lostOps = s.lostOps := rfl
@[simp] theorem Sw.send_scrub (t : Tx) : (s.send t).scrub = s.scrub := rfl
@[simp] theorem Sw.send_i3c (t : Tx) : (s.send t).i3c = s.i3c := rfl
@[simp] theorem Sw.send_lexs (t : Tx) : (s.send t).lexs = s.lexs := rfl
@[simp] theorem Sw.send_lib (t : Tx) : (s.send t).lib = s.lib := rfl
@[simp] theorem Sw.send_libImage (t : Tx) : (s.send t).libImage = s.libImage := rfl

/-! ### `fault` -/

@[simp] theorem Sw.fault_now (c src : Nat) (ten : Option Nat) (d a : Nat) : (s.fault c src ten d a).now = s.now := rfl
@[simp] theorem Sw.fault_free (c src : Nat) (ten : Option Nat) (d a : Nat) : (s.fault c src ten d a).free = s.free := rfl
@[simp] theorem Sw.fault_lex (c src : Nat) (ten : Option Nat) (d a : Nat) : (s.fault c src ten d a).lex = s.lex := rfl
@[simp] theorem Sw.fault_ident (c src : Nat) (ten : Option Nat) (d a : Nat) : (s.fault c src ten d a).ident = s.ident := rfl
@[simp] theorem Sw.fault_fab (c src : Nat) (ten : Option Nat) (d a : Nat) : (s.fault c src ten d a).fab = s.fab := rfl
@[simp] theorem Sw.fault_cred (c src : Nat) (ten : Option Nat) (d a : Nat) : (s.fault c src ten d a).cred = s.cred := rfl
@[simp] theorem Sw.fault_bil (c src : Nat) (ten : Option Nat) (d a : Nat) : (s.fault c src ten d a).bil = s.bil := rfl
@[simp] theorem Sw.fault_bel (c src : Nat) (ten : Option Nat) (d a : Nat) : (s.fault c src ten d a).bel = s.bel := rfl
@[simp] theorem Sw.fault_ports (c src : Nat) (ten : Option Nat) (d a : Nat) : (s.fault c src ten d a).ports = s.ports := rfl
@[simp] theorem Sw.fault_lanes (c src : Nat) (ten : Option Nat) (d a : Nat) : (s.fault c src ten d a).lanes = s.lanes := rfl
@[simp] theorem Sw.fault_fomAt (c src : Nat) (ten : Option Nat) (d a : Nat) : (s.fault c src ten d a).fomAt = s.fomAt := rfl
@[simp] theorem Sw.fault_ten (c src : Nat) (ten : Option Nat) (d a : Nat) : (s.fault c src ten d a).ten = s.ten := rfl
@[simp] theorem Sw.fault_rebind (c src : Nat) (ten : Option Nat) (d a : Nat) : (s.fault c src ten d a).rebind = s.rebind := rfl
@[simp] theorem Sw.fault_blkRst (c src : Nat) (ten : Option Nat) (d a : Nat) : (s.fault c src ten d a).blkRst = s.blkRst := rfl
@[simp] theorem Sw.fault_boot (c src : Nat) (ten : Option Nat) (d a : Nat) : (s.fault c src ten d a).boot = s.boot := rfl
@[simp] theorem Sw.fault_pwr (c src : Nat) (ten : Option Nat) (d a : Nat) : (s.fault c src ten d a).pwr = s.pwr := rfl
@[simp] theorem Sw.fault_pins (c src : Nat) (ten : Option Nat) (d a : Nat) : (s.fault c src ten d a).pins = s.pins := rfl
@[simp] theorem Sw.fault_hbm (c src : Nat) (ten : Option Nat) (d a : Nat) : (s.fault c src ten d a).hbm = s.hbm := rfl
@[simp] theorem Sw.fault_cxl (c src : Nat) (ten : Option Nat) (d a : Nat) : (s.fault c src ten d a).cxl = s.cxl := rfl
@[simp] theorem Sw.fault_hbmBad (c src : Nat) (ten : Option Nat) (d a : Nat) : (s.fault c src ten d a).hbmBad = s.hbmBad := rfl
@[simp] theorem Sw.fault_cxlBad (c src : Nat) (ten : Option Nat) (d a : Nat) : (s.fault c src ten d a).cxlBad = s.cxlBad := rfl
@[simp] theorem Sw.fault_clr (c src : Nat) (ten : Option Nat) (d a : Nat) : (s.fault c src ten d a).clr = s.clr := rfl
@[simp] theorem Sw.fault_cores (c src : Nat) (ten : Option Nat) (d a : Nat) : (s.fault c src ten d a).cores = s.cores := rfl
@[simp] theorem Sw.fault_brg (c src : Nat) (ten : Option Nat) (d a : Nat) : (s.fault c src ten d a).brg = s.brg := rfl
@[simp] theorem Sw.fault_mbox (c src : Nat) (ten : Option Nat) (d a : Nat) : (s.fault c src ten d a).mbox = s.mbox := rfl
@[simp] theorem Sw.fault_anv (c src : Nat) (ten : Option Nat) (d a : Nat) : (s.fault c src ten d a).anv = s.anv := rfl
@[simp] theorem Sw.fault_recd (c src : Nat) (ten : Option Nat) (d a : Nat) : (s.fault c src ten d a).recd = s.recd := rfl
@[simp] theorem Sw.fault_agr (c src : Nat) (ten : Option Nat) (d a : Nat) : (s.fault c src ten d a).agr = s.agr := rfl
@[simp] theorem Sw.fault_jobs (c src : Nat) (ten : Option Nat) (d a : Nat) : (s.fault c src ten d a).jobs = s.jobs := rfl
@[simp] theorem Sw.fault_jobNo (c src : Nat) (ten : Option Nat) (d a : Nat) : (s.fault c src ten d a).jobNo = s.jobNo := rfl
@[simp] theorem Sw.fault_ops (c src : Nat) (ten : Option Nat) (d a : Nat) : (s.fault c src ten d a).ops = s.ops := rfl
@[simp] theorem Sw.fault_opNo (c src : Nat) (ten : Option Nat) (d a : Nat) : (s.fault c src ten d a).opNo = s.opNo := rfl
@[simp] theorem Sw.fault_lostJobs (c src : Nat) (ten : Option Nat) (d a : Nat) : (s.fault c src ten d a).lostJobs = s.lostJobs := rfl
@[simp] theorem Sw.fault_lostOps (c src : Nat) (ten : Option Nat) (d a : Nat) : (s.fault c src ten d a).lostOps = s.lostOps := rfl
@[simp] theorem Sw.fault_scrub (c src : Nat) (ten : Option Nat) (d a : Nat) : (s.fault c src ten d a).scrub = s.scrub := rfl
@[simp] theorem Sw.fault_i3c (c src : Nat) (ten : Option Nat) (d a : Nat) : (s.fault c src ten d a).i3c = s.i3c := rfl
@[simp] theorem Sw.fault_lexs (c src : Nat) (ten : Option Nat) (d a : Nat) : (s.fault c src ten d a).lexs = s.lexs := rfl
@[simp] theorem Sw.fault_lib (c src : Nat) (ten : Option Nat) (d a : Nat) : (s.fault c src ten d a).lib = s.lib := rfl
@[simp] theorem Sw.fault_libImage (c src : Nat) (ten : Option Nat) (d a : Nat) : (s.fault c src ten d a).libImage = s.libImage := rfl
@[simp] theorem Sw.fault_tx (c src : Nat) (ten : Option Nat) (d a : Nat) : (s.fault c src ten d a).tx = s.tx := rfl

/-! ### `setPort` -/

@[simp] theorem Sw.setPort_now (p : Nat) (x : PortSt) : (s.setPort p x).now = s.now := rfl
@[simp] theorem Sw.setPort_free (p : Nat) (x : PortSt) : (s.setPort p x).free = s.free := rfl
@[simp] theorem Sw.setPort_lex (p : Nat) (x : PortSt) : (s.setPort p x).lex = s.lex := rfl
@[simp] theorem Sw.setPort_ident (p : Nat) (x : PortSt) : (s.setPort p x).ident = s.ident := rfl
@[simp] theorem Sw.setPort_fab (p : Nat) (x : PortSt) : (s.setPort p x).fab = s.fab := rfl
@[simp] theorem Sw.setPort_cred (p : Nat) (x : PortSt) : (s.setPort p x).cred = s.cred := rfl
@[simp] theorem Sw.setPort_bil (p : Nat) (x : PortSt) : (s.setPort p x).bil = s.bil := rfl
@[simp] theorem Sw.setPort_bel (p : Nat) (x : PortSt) : (s.setPort p x).bel = s.bel := rfl
@[simp] theorem Sw.setPort_lanes (p : Nat) (x : PortSt) : (s.setPort p x).lanes = s.lanes := rfl
@[simp] theorem Sw.setPort_fomAt (p : Nat) (x : PortSt) : (s.setPort p x).fomAt = s.fomAt := rfl
@[simp] theorem Sw.setPort_ten (p : Nat) (x : PortSt) : (s.setPort p x).ten = s.ten := rfl
@[simp] theorem Sw.setPort_rebind (p : Nat) (x : PortSt) : (s.setPort p x).rebind = s.rebind := rfl
@[simp] theorem Sw.setPort_blkRst (p : Nat) (x : PortSt) : (s.setPort p x).blkRst = s.blkRst := rfl
@[simp] theorem Sw.setPort_flt (p : Nat) (x : PortSt) : (s.setPort p x).flt = s.flt := rfl
@[simp] theorem Sw.setPort_boot (p : Nat) (x : PortSt) : (s.setPort p x).boot = s.boot := rfl
@[simp] theorem Sw.setPort_pwr (p : Nat) (x : PortSt) : (s.setPort p x).pwr = s.pwr := rfl
@[simp] theorem Sw.setPort_pins (p : Nat) (x : PortSt) : (s.setPort p x).pins = s.pins := rfl
@[simp] theorem Sw.setPort_hbm (p : Nat) (x : PortSt) : (s.setPort p x).hbm = s.hbm := rfl
@[simp] theorem Sw.setPort_cxl (p : Nat) (x : PortSt) : (s.setPort p x).cxl = s.cxl := rfl
@[simp] theorem Sw.setPort_hbmBad (p : Nat) (x : PortSt) : (s.setPort p x).hbmBad = s.hbmBad := rfl
@[simp] theorem Sw.setPort_cxlBad (p : Nat) (x : PortSt) : (s.setPort p x).cxlBad = s.cxlBad := rfl
@[simp] theorem Sw.setPort_clr (p : Nat) (x : PortSt) : (s.setPort p x).clr = s.clr := rfl
@[simp] theorem Sw.setPort_cores (p : Nat) (x : PortSt) : (s.setPort p x).cores = s.cores := rfl
@[simp] theorem Sw.setPort_brg (p : Nat) (x : PortSt) : (s.setPort p x).brg = s.brg := rfl
@[simp] theorem Sw.setPort_mbox (p : Nat) (x : PortSt) : (s.setPort p x).mbox = s.mbox := rfl
@[simp] theorem Sw.setPort_anv (p : Nat) (x : PortSt) : (s.setPort p x).anv = s.anv := rfl
@[simp] theorem Sw.setPort_recd (p : Nat) (x : PortSt) : (s.setPort p x).recd = s.recd := rfl
@[simp] theorem Sw.setPort_agr (p : Nat) (x : PortSt) : (s.setPort p x).agr = s.agr := rfl
@[simp] theorem Sw.setPort_jobs (p : Nat) (x : PortSt) : (s.setPort p x).jobs = s.jobs := rfl
@[simp] theorem Sw.setPort_jobNo (p : Nat) (x : PortSt) : (s.setPort p x).jobNo = s.jobNo := rfl
@[simp] theorem Sw.setPort_ops (p : Nat) (x : PortSt) : (s.setPort p x).ops = s.ops := rfl
@[simp] theorem Sw.setPort_opNo (p : Nat) (x : PortSt) : (s.setPort p x).opNo = s.opNo := rfl
@[simp] theorem Sw.setPort_lostJobs (p : Nat) (x : PortSt) : (s.setPort p x).lostJobs = s.lostJobs := rfl
@[simp] theorem Sw.setPort_lostOps (p : Nat) (x : PortSt) : (s.setPort p x).lostOps = s.lostOps := rfl
@[simp] theorem Sw.setPort_scrub (p : Nat) (x : PortSt) : (s.setPort p x).scrub = s.scrub := rfl
@[simp] theorem Sw.setPort_i3c (p : Nat) (x : PortSt) : (s.setPort p x).i3c = s.i3c := rfl
@[simp] theorem Sw.setPort_lexs (p : Nat) (x : PortSt) : (s.setPort p x).lexs = s.lexs := rfl
@[simp] theorem Sw.setPort_lib (p : Nat) (x : PortSt) : (s.setPort p x).lib = s.lib := rfl
@[simp] theorem Sw.setPort_libImage (p : Nat) (x : PortSt) : (s.setPort p x).libImage = s.libImage := rfl
@[simp] theorem Sw.setPort_tx (p : Nat) (x : PortSt) : (s.setPort p x).tx = s.tx := rfl

/-! ### `updPort` -/

@[simp] theorem Sw.updPort_now (p : Nat) (f : PortSt → PortSt) : (s.updPort p f).now = s.now := rfl
@[simp] theorem Sw.updPort_free (p : Nat) (f : PortSt → PortSt) : (s.updPort p f).free = s.free := rfl
@[simp] theorem Sw.updPort_lex (p : Nat) (f : PortSt → PortSt) : (s.updPort p f).lex = s.lex := rfl
@[simp] theorem Sw.updPort_ident (p : Nat) (f : PortSt → PortSt) : (s.updPort p f).ident = s.ident := rfl
@[simp] theorem Sw.updPort_fab (p : Nat) (f : PortSt → PortSt) : (s.updPort p f).fab = s.fab := rfl
@[simp] theorem Sw.updPort_cred (p : Nat) (f : PortSt → PortSt) : (s.updPort p f).cred = s.cred := rfl
@[simp] theorem Sw.updPort_bil (p : Nat) (f : PortSt → PortSt) : (s.updPort p f).bil = s.bil := rfl
@[simp] theorem Sw.updPort_bel (p : Nat) (f : PortSt → PortSt) : (s.updPort p f).bel = s.bel := rfl
@[simp] theorem Sw.updPort_lanes (p : Nat) (f : PortSt → PortSt) : (s.updPort p f).lanes = s.lanes := rfl
@[simp] theorem Sw.updPort_fomAt (p : Nat) (f : PortSt → PortSt) : (s.updPort p f).fomAt = s.fomAt := rfl
@[simp] theorem Sw.updPort_ten (p : Nat) (f : PortSt → PortSt) : (s.updPort p f).ten = s.ten := rfl
@[simp] theorem Sw.updPort_rebind (p : Nat) (f : PortSt → PortSt) : (s.updPort p f).rebind = s.rebind := rfl
@[simp] theorem Sw.updPort_blkRst (p : Nat) (f : PortSt → PortSt) : (s.updPort p f).blkRst = s.blkRst := rfl
@[simp] theorem Sw.updPort_flt (p : Nat) (f : PortSt → PortSt) : (s.updPort p f).flt = s.flt := rfl
@[simp] theorem Sw.updPort_boot (p : Nat) (f : PortSt → PortSt) : (s.updPort p f).boot = s.boot := rfl
@[simp] theorem Sw.updPort_pwr (p : Nat) (f : PortSt → PortSt) : (s.updPort p f).pwr = s.pwr := rfl
@[simp] theorem Sw.updPort_pins (p : Nat) (f : PortSt → PortSt) : (s.updPort p f).pins = s.pins := rfl
@[simp] theorem Sw.updPort_hbm (p : Nat) (f : PortSt → PortSt) : (s.updPort p f).hbm = s.hbm := rfl
@[simp] theorem Sw.updPort_cxl (p : Nat) (f : PortSt → PortSt) : (s.updPort p f).cxl = s.cxl := rfl
@[simp] theorem Sw.updPort_hbmBad (p : Nat) (f : PortSt → PortSt) : (s.updPort p f).hbmBad = s.hbmBad := rfl
@[simp] theorem Sw.updPort_cxlBad (p : Nat) (f : PortSt → PortSt) : (s.updPort p f).cxlBad = s.cxlBad := rfl
@[simp] theorem Sw.updPort_clr (p : Nat) (f : PortSt → PortSt) : (s.updPort p f).clr = s.clr := rfl
@[simp] theorem Sw.updPort_cores (p : Nat) (f : PortSt → PortSt) : (s.updPort p f).cores = s.cores := rfl
@[simp] theorem Sw.updPort_brg (p : Nat) (f : PortSt → PortSt) : (s.updPort p f).brg = s.brg := rfl
@[simp] theorem Sw.updPort_mbox (p : Nat) (f : PortSt → PortSt) : (s.updPort p f).mbox = s.mbox := rfl
@[simp] theorem Sw.updPort_anv (p : Nat) (f : PortSt → PortSt) : (s.updPort p f).anv = s.anv := rfl
@[simp] theorem Sw.updPort_recd (p : Nat) (f : PortSt → PortSt) : (s.updPort p f).recd = s.recd := rfl
@[simp] theorem Sw.updPort_agr (p : Nat) (f : PortSt → PortSt) : (s.updPort p f).agr = s.agr := rfl
@[simp] theorem Sw.updPort_jobs (p : Nat) (f : PortSt → PortSt) : (s.updPort p f).jobs = s.jobs := rfl
@[simp] theorem Sw.updPort_jobNo (p : Nat) (f : PortSt → PortSt) : (s.updPort p f).jobNo = s.jobNo := rfl
@[simp] theorem Sw.updPort_ops (p : Nat) (f : PortSt → PortSt) : (s.updPort p f).ops = s.ops := rfl
@[simp] theorem Sw.updPort_opNo (p : Nat) (f : PortSt → PortSt) : (s.updPort p f).opNo = s.opNo := rfl
@[simp] theorem Sw.updPort_lostJobs (p : Nat) (f : PortSt → PortSt) : (s.updPort p f).lostJobs = s.lostJobs := rfl
@[simp] theorem Sw.updPort_lostOps (p : Nat) (f : PortSt → PortSt) : (s.updPort p f).lostOps = s.lostOps := rfl
@[simp] theorem Sw.updPort_scrub (p : Nat) (f : PortSt → PortSt) : (s.updPort p f).scrub = s.scrub := rfl
@[simp] theorem Sw.updPort_i3c (p : Nat) (f : PortSt → PortSt) : (s.updPort p f).i3c = s.i3c := rfl
@[simp] theorem Sw.updPort_lexs (p : Nat) (f : PortSt → PortSt) : (s.updPort p f).lexs = s.lexs := rfl
@[simp] theorem Sw.updPort_lib (p : Nat) (f : PortSt → PortSt) : (s.updPort p f).lib = s.lib := rfl
@[simp] theorem Sw.updPort_libImage (p : Nat) (f : PortSt → PortSt) : (s.updPort p f).libImage = s.libImage := rfl
@[simp] theorem Sw.updPort_tx (p : Nat) (f : PortSt → PortSt) : (s.updPort p f).tx = s.tx := rfl

/-! ### `setLane` -/

@[simp] theorem Sw.setLane_now (n : Nat) (x : LaneSt) : (s.setLane n x).now = s.now := rfl
@[simp] theorem Sw.setLane_free (n : Nat) (x : LaneSt) : (s.setLane n x).free = s.free := rfl
@[simp] theorem Sw.setLane_lex (n : Nat) (x : LaneSt) : (s.setLane n x).lex = s.lex := rfl
@[simp] theorem Sw.setLane_ident (n : Nat) (x : LaneSt) : (s.setLane n x).ident = s.ident := rfl
@[simp] theorem Sw.setLane_fab (n : Nat) (x : LaneSt) : (s.setLane n x).fab = s.fab := rfl
@[simp] theorem Sw.setLane_cred (n : Nat) (x : LaneSt) : (s.setLane n x).cred = s.cred := rfl
@[simp] theorem Sw.setLane_bil (n : Nat) (x : LaneSt) : (s.setLane n x).bil = s.bil := rfl
@[simp] theorem Sw.setLane_bel (n : Nat) (x : LaneSt) : (s.setLane n x).bel = s.bel := rfl
@[simp] theorem Sw.setLane_ports (n : Nat) (x : LaneSt) : (s.setLane n x).ports = s.ports := rfl
@[simp] theorem Sw.setLane_fomAt (n : Nat) (x : LaneSt) : (s.setLane n x).fomAt = s.fomAt := rfl
@[simp] theorem Sw.setLane_ten (n : Nat) (x : LaneSt) : (s.setLane n x).ten = s.ten := rfl
@[simp] theorem Sw.setLane_rebind (n : Nat) (x : LaneSt) : (s.setLane n x).rebind = s.rebind := rfl
@[simp] theorem Sw.setLane_blkRst (n : Nat) (x : LaneSt) : (s.setLane n x).blkRst = s.blkRst := rfl
@[simp] theorem Sw.setLane_flt (n : Nat) (x : LaneSt) : (s.setLane n x).flt = s.flt := rfl
@[simp] theorem Sw.setLane_boot (n : Nat) (x : LaneSt) : (s.setLane n x).boot = s.boot := rfl
@[simp] theorem Sw.setLane_pwr (n : Nat) (x : LaneSt) : (s.setLane n x).pwr = s.pwr := rfl
@[simp] theorem Sw.setLane_pins (n : Nat) (x : LaneSt) : (s.setLane n x).pins = s.pins := rfl
@[simp] theorem Sw.setLane_hbm (n : Nat) (x : LaneSt) : (s.setLane n x).hbm = s.hbm := rfl
@[simp] theorem Sw.setLane_cxl (n : Nat) (x : LaneSt) : (s.setLane n x).cxl = s.cxl := rfl
@[simp] theorem Sw.setLane_hbmBad (n : Nat) (x : LaneSt) : (s.setLane n x).hbmBad = s.hbmBad := rfl
@[simp] theorem Sw.setLane_cxlBad (n : Nat) (x : LaneSt) : (s.setLane n x).cxlBad = s.cxlBad := rfl
@[simp] theorem Sw.setLane_clr (n : Nat) (x : LaneSt) : (s.setLane n x).clr = s.clr := rfl
@[simp] theorem Sw.setLane_cores (n : Nat) (x : LaneSt) : (s.setLane n x).cores = s.cores := rfl
@[simp] theorem Sw.setLane_brg (n : Nat) (x : LaneSt) : (s.setLane n x).brg = s.brg := rfl
@[simp] theorem Sw.setLane_mbox (n : Nat) (x : LaneSt) : (s.setLane n x).mbox = s.mbox := rfl
@[simp] theorem Sw.setLane_anv (n : Nat) (x : LaneSt) : (s.setLane n x).anv = s.anv := rfl
@[simp] theorem Sw.setLane_recd (n : Nat) (x : LaneSt) : (s.setLane n x).recd = s.recd := rfl
@[simp] theorem Sw.setLane_agr (n : Nat) (x : LaneSt) : (s.setLane n x).agr = s.agr := rfl
@[simp] theorem Sw.setLane_jobs (n : Nat) (x : LaneSt) : (s.setLane n x).jobs = s.jobs := rfl
@[simp] theorem Sw.setLane_jobNo (n : Nat) (x : LaneSt) : (s.setLane n x).jobNo = s.jobNo := rfl
@[simp] theorem Sw.setLane_ops (n : Nat) (x : LaneSt) : (s.setLane n x).ops = s.ops := rfl
@[simp] theorem Sw.setLane_opNo (n : Nat) (x : LaneSt) : (s.setLane n x).opNo = s.opNo := rfl
@[simp] theorem Sw.setLane_lostJobs (n : Nat) (x : LaneSt) : (s.setLane n x).lostJobs = s.lostJobs := rfl
@[simp] theorem Sw.setLane_lostOps (n : Nat) (x : LaneSt) : (s.setLane n x).lostOps = s.lostOps := rfl
@[simp] theorem Sw.setLane_scrub (n : Nat) (x : LaneSt) : (s.setLane n x).scrub = s.scrub := rfl
@[simp] theorem Sw.setLane_i3c (n : Nat) (x : LaneSt) : (s.setLane n x).i3c = s.i3c := rfl
@[simp] theorem Sw.setLane_lexs (n : Nat) (x : LaneSt) : (s.setLane n x).lexs = s.lexs := rfl
@[simp] theorem Sw.setLane_lib (n : Nat) (x : LaneSt) : (s.setLane n x).lib = s.lib := rfl
@[simp] theorem Sw.setLane_libImage (n : Nat) (x : LaneSt) : (s.setLane n x).libImage = s.libImage := rfl
@[simp] theorem Sw.setLane_tx (n : Nat) (x : LaneSt) : (s.setLane n x).tx = s.tx := rfl

/-! ### `setTen` -/

@[simp] theorem Sw.setTen_now (t : Nat) (x : TenSt) : (s.setTen t x).now = s.now := rfl
@[simp] theorem Sw.setTen_free (t : Nat) (x : TenSt) : (s.setTen t x).free = s.free := rfl
@[simp] theorem Sw.setTen_lex (t : Nat) (x : TenSt) : (s.setTen t x).lex = s.lex := rfl
@[simp] theorem Sw.setTen_ident (t : Nat) (x : TenSt) : (s.setTen t x).ident = s.ident := rfl
@[simp] theorem Sw.setTen_fab (t : Nat) (x : TenSt) : (s.setTen t x).fab = s.fab := rfl
@[simp] theorem Sw.setTen_cred (t : Nat) (x : TenSt) : (s.setTen t x).cred = s.cred := rfl
@[simp] theorem Sw.setTen_bil (t : Nat) (x : TenSt) : (s.setTen t x).bil = s.bil := rfl
@[simp] theorem Sw.setTen_bel (t : Nat) (x : TenSt) : (s.setTen t x).bel = s.bel := rfl
@[simp] theorem Sw.setTen_ports (t : Nat) (x : TenSt) : (s.setTen t x).ports = s.ports := rfl
@[simp] theorem Sw.setTen_lanes (t : Nat) (x : TenSt) : (s.setTen t x).lanes = s.lanes := rfl
@[simp] theorem Sw.setTen_fomAt (t : Nat) (x : TenSt) : (s.setTen t x).fomAt = s.fomAt := rfl
@[simp] theorem Sw.setTen_rebind (t : Nat) (x : TenSt) : (s.setTen t x).rebind = s.rebind := rfl
@[simp] theorem Sw.setTen_blkRst (t : Nat) (x : TenSt) : (s.setTen t x).blkRst = s.blkRst := rfl
@[simp] theorem Sw.setTen_flt (t : Nat) (x : TenSt) : (s.setTen t x).flt = s.flt := rfl
@[simp] theorem Sw.setTen_boot (t : Nat) (x : TenSt) : (s.setTen t x).boot = s.boot := rfl
@[simp] theorem Sw.setTen_pwr (t : Nat) (x : TenSt) : (s.setTen t x).pwr = s.pwr := rfl
@[simp] theorem Sw.setTen_pins (t : Nat) (x : TenSt) : (s.setTen t x).pins = s.pins := rfl
@[simp] theorem Sw.setTen_hbm (t : Nat) (x : TenSt) : (s.setTen t x).hbm = s.hbm := rfl
@[simp] theorem Sw.setTen_cxl (t : Nat) (x : TenSt) : (s.setTen t x).cxl = s.cxl := rfl
@[simp] theorem Sw.setTen_hbmBad (t : Nat) (x : TenSt) : (s.setTen t x).hbmBad = s.hbmBad := rfl
@[simp] theorem Sw.setTen_cxlBad (t : Nat) (x : TenSt) : (s.setTen t x).cxlBad = s.cxlBad := rfl
@[simp] theorem Sw.setTen_clr (t : Nat) (x : TenSt) : (s.setTen t x).clr = s.clr := rfl
@[simp] theorem Sw.setTen_cores (t : Nat) (x : TenSt) : (s.setTen t x).cores = s.cores := rfl
@[simp] theorem Sw.setTen_brg (t : Nat) (x : TenSt) : (s.setTen t x).brg = s.brg := rfl
@[simp] theorem Sw.setTen_mbox (t : Nat) (x : TenSt) : (s.setTen t x).mbox = s.mbox := rfl
@[simp] theorem Sw.setTen_anv (t : Nat) (x : TenSt) : (s.setTen t x).anv = s.anv := rfl
@[simp] theorem Sw.setTen_recd (t : Nat) (x : TenSt) : (s.setTen t x).recd = s.recd := rfl
@[simp] theorem Sw.setTen_agr (t : Nat) (x : TenSt) : (s.setTen t x).agr = s.agr := rfl
@[simp] theorem Sw.setTen_jobs (t : Nat) (x : TenSt) : (s.setTen t x).jobs = s.jobs := rfl
@[simp] theorem Sw.setTen_jobNo (t : Nat) (x : TenSt) : (s.setTen t x).jobNo = s.jobNo := rfl
@[simp] theorem Sw.setTen_ops (t : Nat) (x : TenSt) : (s.setTen t x).ops = s.ops := rfl
@[simp] theorem Sw.setTen_opNo (t : Nat) (x : TenSt) : (s.setTen t x).opNo = s.opNo := rfl
@[simp] theorem Sw.setTen_lostJobs (t : Nat) (x : TenSt) : (s.setTen t x).lostJobs = s.lostJobs := rfl
@[simp] theorem Sw.setTen_lostOps (t : Nat) (x : TenSt) : (s.setTen t x).lostOps = s.lostOps := rfl
@[simp] theorem Sw.setTen_scrub (t : Nat) (x : TenSt) : (s.setTen t x).scrub = s.scrub := rfl
@[simp] theorem Sw.setTen_i3c (t : Nat) (x : TenSt) : (s.setTen t x).i3c = s.i3c := rfl
@[simp] theorem Sw.setTen_lexs (t : Nat) (x : TenSt) : (s.setTen t x).lexs = s.lexs := rfl
@[simp] theorem Sw.setTen_lib (t : Nat) (x : TenSt) : (s.setTen t x).lib = s.lib := rfl
@[simp] theorem Sw.setTen_libImage (t : Nat) (x : TenSt) : (s.setTen t x).libImage = s.libImage := rfl
@[simp] theorem Sw.setTen_tx (t : Nat) (x : TenSt) : (s.setTen t x).tx = s.tx := rfl

/-! ### `setCore` -/

@[simp] theorem Sw.setCore_now (j : Nat) (c : Core) : (s.setCore j c).now = s.now := rfl
@[simp] theorem Sw.setCore_free (j : Nat) (c : Core) : (s.setCore j c).free = s.free := rfl
@[simp] theorem Sw.setCore_lex (j : Nat) (c : Core) : (s.setCore j c).lex = s.lex := rfl
@[simp] theorem Sw.setCore_ident (j : Nat) (c : Core) : (s.setCore j c).ident = s.ident := rfl
@[simp] theorem Sw.setCore_fab (j : Nat) (c : Core) : (s.setCore j c).fab = s.fab := rfl
@[simp] theorem Sw.setCore_cred (j : Nat) (c : Core) : (s.setCore j c).cred = s.cred := rfl
@[simp] theorem Sw.setCore_bil (j : Nat) (c : Core) : (s.setCore j c).bil = s.bil := rfl
@[simp] theorem Sw.setCore_bel (j : Nat) (c : Core) : (s.setCore j c).bel = s.bel := rfl
@[simp] theorem Sw.setCore_ports (j : Nat) (c : Core) : (s.setCore j c).ports = s.ports := rfl
@[simp] theorem Sw.setCore_lanes (j : Nat) (c : Core) : (s.setCore j c).lanes = s.lanes := rfl
@[simp] theorem Sw.setCore_fomAt (j : Nat) (c : Core) : (s.setCore j c).fomAt = s.fomAt := rfl
@[simp] theorem Sw.setCore_ten (j : Nat) (c : Core) : (s.setCore j c).ten = s.ten := rfl
@[simp] theorem Sw.setCore_rebind (j : Nat) (c : Core) : (s.setCore j c).rebind = s.rebind := rfl
@[simp] theorem Sw.setCore_blkRst (j : Nat) (c : Core) : (s.setCore j c).blkRst = s.blkRst := rfl
@[simp] theorem Sw.setCore_flt (j : Nat) (c : Core) : (s.setCore j c).flt = s.flt := rfl
@[simp] theorem Sw.setCore_boot (j : Nat) (c : Core) : (s.setCore j c).boot = s.boot := rfl
@[simp] theorem Sw.setCore_pwr (j : Nat) (c : Core) : (s.setCore j c).pwr = s.pwr := rfl
@[simp] theorem Sw.setCore_pins (j : Nat) (c : Core) : (s.setCore j c).pins = s.pins := rfl
@[simp] theorem Sw.setCore_hbm (j : Nat) (c : Core) : (s.setCore j c).hbm = s.hbm := rfl
@[simp] theorem Sw.setCore_cxl (j : Nat) (c : Core) : (s.setCore j c).cxl = s.cxl := rfl
@[simp] theorem Sw.setCore_hbmBad (j : Nat) (c : Core) : (s.setCore j c).hbmBad = s.hbmBad := rfl
@[simp] theorem Sw.setCore_cxlBad (j : Nat) (c : Core) : (s.setCore j c).cxlBad = s.cxlBad := rfl
@[simp] theorem Sw.setCore_clr (j : Nat) (c : Core) : (s.setCore j c).clr = s.clr := rfl
@[simp] theorem Sw.setCore_brg (j : Nat) (c : Core) : (s.setCore j c).brg = s.brg := rfl
@[simp] theorem Sw.setCore_mbox (j : Nat) (c : Core) : (s.setCore j c).mbox = s.mbox := rfl
@[simp] theorem Sw.setCore_anv (j : Nat) (c : Core) : (s.setCore j c).anv = s.anv := rfl
@[simp] theorem Sw.setCore_recd (j : Nat) (c : Core) : (s.setCore j c).recd = s.recd := rfl
@[simp] theorem Sw.setCore_agr (j : Nat) (c : Core) : (s.setCore j c).agr = s.agr := rfl
@[simp] theorem Sw.setCore_jobs (j : Nat) (c : Core) : (s.setCore j c).jobs = s.jobs := rfl
@[simp] theorem Sw.setCore_jobNo (j : Nat) (c : Core) : (s.setCore j c).jobNo = s.jobNo := rfl
@[simp] theorem Sw.setCore_ops (j : Nat) (c : Core) : (s.setCore j c).ops = s.ops := rfl
@[simp] theorem Sw.setCore_opNo (j : Nat) (c : Core) : (s.setCore j c).opNo = s.opNo := rfl
@[simp] theorem Sw.setCore_lostJobs (j : Nat) (c : Core) : (s.setCore j c).lostJobs = s.lostJobs := rfl
@[simp] theorem Sw.setCore_lostOps (j : Nat) (c : Core) : (s.setCore j c).lostOps = s.lostOps := rfl
@[simp] theorem Sw.setCore_scrub (j : Nat) (c : Core) : (s.setCore j c).scrub = s.scrub := rfl
@[simp] theorem Sw.setCore_i3c (j : Nat) (c : Core) : (s.setCore j c).i3c = s.i3c := rfl
@[simp] theorem Sw.setCore_lexs (j : Nat) (c : Core) : (s.setCore j c).lexs = s.lexs := rfl
@[simp] theorem Sw.setCore_lib (j : Nat) (c : Core) : (s.setCore j c).lib = s.lib := rfl
@[simp] theorem Sw.setCore_libImage (j : Nat) (c : Core) : (s.setCore j c).libImage = s.libImage := rfl
@[simp] theorem Sw.setCore_tx (j : Nat) (c : Core) : (s.setCore j c).tx = s.tx := rfl

/-! ### `setAgr` -/

@[simp] theorem Sw.setAgr_now (c : Nat) (x : Agr) : (s.setAgr c x).now = s.now := rfl
@[simp] theorem Sw.setAgr_free (c : Nat) (x : Agr) : (s.setAgr c x).free = s.free := rfl
@[simp] theorem Sw.setAgr_lex (c : Nat) (x : Agr) : (s.setAgr c x).lex = s.lex := rfl
@[simp] theorem Sw.setAgr_ident (c : Nat) (x : Agr) : (s.setAgr c x).ident = s.ident := rfl
@[simp] theorem Sw.setAgr_fab (c : Nat) (x : Agr) : (s.setAgr c x).fab = s.fab := rfl
@[simp] theorem Sw.setAgr_cred (c : Nat) (x : Agr) : (s.setAgr c x).cred = s.cred := rfl
@[simp] theorem Sw.setAgr_bil (c : Nat) (x : Agr) : (s.setAgr c x).bil = s.bil := rfl
@[simp] theorem Sw.setAgr_bel (c : Nat) (x : Agr) : (s.setAgr c x).bel = s.bel := rfl
@[simp] theorem Sw.setAgr_ports (c : Nat) (x : Agr) : (s.setAgr c x).ports = s.ports := rfl
@[simp] theorem Sw.setAgr_lanes (c : Nat) (x : Agr) : (s.setAgr c x).lanes = s.lanes := rfl
@[simp] theorem Sw.setAgr_fomAt (c : Nat) (x : Agr) : (s.setAgr c x).fomAt = s.fomAt := rfl
@[simp] theorem Sw.setAgr_ten (c : Nat) (x : Agr) : (s.setAgr c x).ten = s.ten := rfl
@[simp] theorem Sw.setAgr_rebind (c : Nat) (x : Agr) : (s.setAgr c x).rebind = s.rebind := rfl
@[simp] theorem Sw.setAgr_blkRst (c : Nat) (x : Agr) : (s.setAgr c x).blkRst = s.blkRst := rfl
@[simp] theorem Sw.setAgr_flt (c : Nat) (x : Agr) : (s.setAgr c x).flt = s.flt := rfl
@[simp] theorem Sw.setAgr_boot (c : Nat) (x : Agr) : (s.setAgr c x).boot = s.boot := rfl
@[simp] theorem Sw.setAgr_pwr (c : Nat) (x : Agr) : (s.setAgr c x).pwr = s.pwr := rfl
@[simp] theorem Sw.setAgr_pins (c : Nat) (x : Agr) : (s.setAgr c x).pins = s.pins := rfl
@[simp] theorem Sw.setAgr_hbm (c : Nat) (x : Agr) : (s.setAgr c x).hbm = s.hbm := rfl
@[simp] theorem Sw.setAgr_cxl (c : Nat) (x : Agr) : (s.setAgr c x).cxl = s.cxl := rfl
@[simp] theorem Sw.setAgr_hbmBad (c : Nat) (x : Agr) : (s.setAgr c x).hbmBad = s.hbmBad := rfl
@[simp] theorem Sw.setAgr_cxlBad (c : Nat) (x : Agr) : (s.setAgr c x).cxlBad = s.cxlBad := rfl
@[simp] theorem Sw.setAgr_clr (c : Nat) (x : Agr) : (s.setAgr c x).clr = s.clr := rfl
@[simp] theorem Sw.setAgr_cores (c : Nat) (x : Agr) : (s.setAgr c x).cores = s.cores := rfl
@[simp] theorem Sw.setAgr_brg (c : Nat) (x : Agr) : (s.setAgr c x).brg = s.brg := rfl
@[simp] theorem Sw.setAgr_mbox (c : Nat) (x : Agr) : (s.setAgr c x).mbox = s.mbox := rfl
@[simp] theorem Sw.setAgr_anv (c : Nat) (x : Agr) : (s.setAgr c x).anv = s.anv := rfl
@[simp] theorem Sw.setAgr_recd (c : Nat) (x : Agr) : (s.setAgr c x).recd = s.recd := rfl
@[simp] theorem Sw.setAgr_jobs (c : Nat) (x : Agr) : (s.setAgr c x).jobs = s.jobs := rfl
@[simp] theorem Sw.setAgr_jobNo (c : Nat) (x : Agr) : (s.setAgr c x).jobNo = s.jobNo := rfl
@[simp] theorem Sw.setAgr_ops (c : Nat) (x : Agr) : (s.setAgr c x).ops = s.ops := rfl
@[simp] theorem Sw.setAgr_opNo (c : Nat) (x : Agr) : (s.setAgr c x).opNo = s.opNo := rfl
@[simp] theorem Sw.setAgr_lostJobs (c : Nat) (x : Agr) : (s.setAgr c x).lostJobs = s.lostJobs := rfl
@[simp] theorem Sw.setAgr_lostOps (c : Nat) (x : Agr) : (s.setAgr c x).lostOps = s.lostOps := rfl
@[simp] theorem Sw.setAgr_scrub (c : Nat) (x : Agr) : (s.setAgr c x).scrub = s.scrub := rfl
@[simp] theorem Sw.setAgr_i3c (c : Nat) (x : Agr) : (s.setAgr c x).i3c = s.i3c := rfl
@[simp] theorem Sw.setAgr_lexs (c : Nat) (x : Agr) : (s.setAgr c x).lexs = s.lexs := rfl
@[simp] theorem Sw.setAgr_lib (c : Nat) (x : Agr) : (s.setAgr c x).lib = s.lib := rfl
@[simp] theorem Sw.setAgr_libImage (c : Nat) (x : Agr) : (s.setAgr c x).libImage = s.libImage := rfl
@[simp] theorem Sw.setAgr_tx (c : Nat) (x : Agr) : (s.setAgr c x).tx = s.tx := rfl

/-! ### `hbmWr` -/

@[simp] theorem Sw.hbmWr_now (o : Nat) (bs : Bytes) : (s.hbmWr o bs).now = s.now := rfl
@[simp] theorem Sw.hbmWr_free (o : Nat) (bs : Bytes) : (s.hbmWr o bs).free = s.free := rfl
@[simp] theorem Sw.hbmWr_lex (o : Nat) (bs : Bytes) : (s.hbmWr o bs).lex = s.lex := rfl
@[simp] theorem Sw.hbmWr_ident (o : Nat) (bs : Bytes) : (s.hbmWr o bs).ident = s.ident := rfl
@[simp] theorem Sw.hbmWr_fab (o : Nat) (bs : Bytes) : (s.hbmWr o bs).fab = s.fab := rfl
@[simp] theorem Sw.hbmWr_cred (o : Nat) (bs : Bytes) : (s.hbmWr o bs).cred = s.cred := rfl
@[simp] theorem Sw.hbmWr_bil (o : Nat) (bs : Bytes) : (s.hbmWr o bs).bil = s.bil := rfl
@[simp] theorem Sw.hbmWr_bel (o : Nat) (bs : Bytes) : (s.hbmWr o bs).bel = s.bel := rfl
@[simp] theorem Sw.hbmWr_ports (o : Nat) (bs : Bytes) : (s.hbmWr o bs).ports = s.ports := rfl
@[simp] theorem Sw.hbmWr_lanes (o : Nat) (bs : Bytes) : (s.hbmWr o bs).lanes = s.lanes := rfl
@[simp] theorem Sw.hbmWr_fomAt (o : Nat) (bs : Bytes) : (s.hbmWr o bs).fomAt = s.fomAt := rfl
@[simp] theorem Sw.hbmWr_ten (o : Nat) (bs : Bytes) : (s.hbmWr o bs).ten = s.ten := rfl
@[simp] theorem Sw.hbmWr_rebind (o : Nat) (bs : Bytes) : (s.hbmWr o bs).rebind = s.rebind := rfl
@[simp] theorem Sw.hbmWr_blkRst (o : Nat) (bs : Bytes) : (s.hbmWr o bs).blkRst = s.blkRst := rfl
@[simp] theorem Sw.hbmWr_flt (o : Nat) (bs : Bytes) : (s.hbmWr o bs).flt = s.flt := rfl
@[simp] theorem Sw.hbmWr_boot (o : Nat) (bs : Bytes) : (s.hbmWr o bs).boot = s.boot := rfl
@[simp] theorem Sw.hbmWr_pwr (o : Nat) (bs : Bytes) : (s.hbmWr o bs).pwr = s.pwr := rfl
@[simp] theorem Sw.hbmWr_pins (o : Nat) (bs : Bytes) : (s.hbmWr o bs).pins = s.pins := rfl
@[simp] theorem Sw.hbmWr_cxl (o : Nat) (bs : Bytes) : (s.hbmWr o bs).cxl = s.cxl := rfl
@[simp] theorem Sw.hbmWr_cxlBad (o : Nat) (bs : Bytes) : (s.hbmWr o bs).cxlBad = s.cxlBad := rfl
@[simp] theorem Sw.hbmWr_clr (o : Nat) (bs : Bytes) : (s.hbmWr o bs).clr = s.clr := rfl
@[simp] theorem Sw.hbmWr_cores (o : Nat) (bs : Bytes) : (s.hbmWr o bs).cores = s.cores := rfl
@[simp] theorem Sw.hbmWr_brg (o : Nat) (bs : Bytes) : (s.hbmWr o bs).brg = s.brg := rfl
@[simp] theorem Sw.hbmWr_mbox (o : Nat) (bs : Bytes) : (s.hbmWr o bs).mbox = s.mbox := rfl
@[simp] theorem Sw.hbmWr_anv (o : Nat) (bs : Bytes) : (s.hbmWr o bs).anv = s.anv := rfl
@[simp] theorem Sw.hbmWr_recd (o : Nat) (bs : Bytes) : (s.hbmWr o bs).recd = s.recd := rfl
@[simp] theorem Sw.hbmWr_agr (o : Nat) (bs : Bytes) : (s.hbmWr o bs).agr = s.agr := rfl
@[simp] theorem Sw.hbmWr_jobs (o : Nat) (bs : Bytes) : (s.hbmWr o bs).jobs = s.jobs := rfl
@[simp] theorem Sw.hbmWr_jobNo (o : Nat) (bs : Bytes) : (s.hbmWr o bs).jobNo = s.jobNo := rfl
@[simp] theorem Sw.hbmWr_ops (o : Nat) (bs : Bytes) : (s.hbmWr o bs).ops = s.ops := rfl
@[simp] theorem Sw.hbmWr_opNo (o : Nat) (bs : Bytes) : (s.hbmWr o bs).opNo = s.opNo := rfl
@[simp] theorem Sw.hbmWr_lostJobs (o : Nat) (bs : Bytes) : (s.hbmWr o bs).lostJobs = s.lostJobs := rfl
@[simp] theorem Sw.hbmWr_lostOps (o : Nat) (bs : Bytes) : (s.hbmWr o bs).lostOps = s.lostOps := rfl
@[simp] theorem Sw.hbmWr_scrub (o : Nat) (bs : Bytes) : (s.hbmWr o bs).scrub = s.scrub := rfl
@[simp] theorem Sw.hbmWr_i3c (o : Nat) (bs : Bytes) : (s.hbmWr o bs).i3c = s.i3c := rfl
@[simp] theorem Sw.hbmWr_lexs (o : Nat) (bs : Bytes) : (s.hbmWr o bs).lexs = s.lexs := rfl
@[simp] theorem Sw.hbmWr_lib (o : Nat) (bs : Bytes) : (s.hbmWr o bs).lib = s.lib := rfl
@[simp] theorem Sw.hbmWr_libImage (o : Nat) (bs : Bytes) : (s.hbmWr o bs).libImage = s.libImage := rfl
@[simp] theorem Sw.hbmWr_tx (o : Nat) (bs : Bytes) : (s.hbmWr o bs).tx = s.tx := rfl

/-! ### `updPwr` -/

@[simp] theorem Sw.updPwr_pwr (f : Pwr → Pwr) : (s.updPwr f).pwr = f s.pwr := rfl
@[simp] theorem Sw.updPwr_now (f : Pwr → Pwr) : (s.updPwr f).now = s.now := rfl
@[simp] theorem Sw.updPwr_free (f : Pwr → Pwr) : (s.updPwr f).free = s.free := rfl
@[simp] theorem Sw.updPwr_lex (f : Pwr → Pwr) : (s.updPwr f).lex = s.lex := rfl
@[simp] theorem Sw.updPwr_ident (f : Pwr → Pwr) : (s.updPwr f).ident = s.ident := rfl
@[simp] theorem Sw.updPwr_fab (f : Pwr → Pwr) : (s.updPwr f).fab = s.fab := rfl
@[simp] theorem Sw.updPwr_cred (f : Pwr → Pwr) : (s.updPwr f).cred = s.cred := rfl
@[simp] theorem Sw.updPwr_bil (f : Pwr → Pwr) : (s.updPwr f).bil = s.bil := rfl
@[simp] theorem Sw.updPwr_bel (f : Pwr → Pwr) : (s.updPwr f).bel = s.bel := rfl
@[simp] theorem Sw.updPwr_ports (f : Pwr → Pwr) : (s.updPwr f).ports = s.ports := rfl
@[simp] theorem Sw.updPwr_lanes (f : Pwr → Pwr) : (s.updPwr f).lanes = s.lanes := rfl
@[simp] theorem Sw.updPwr_fomAt (f : Pwr → Pwr) : (s.updPwr f).fomAt = s.fomAt := rfl
@[simp] theorem Sw.updPwr_ten (f : Pwr → Pwr) : (s.updPwr f).ten = s.ten := rfl
@[simp] theorem Sw.updPwr_rebind (f : Pwr → Pwr) : (s.updPwr f).rebind = s.rebind := rfl
@[simp] theorem Sw.updPwr_blkRst (f : Pwr → Pwr) : (s.updPwr f).blkRst = s.blkRst := rfl
@[simp] theorem Sw.updPwr_flt (f : Pwr → Pwr) : (s.updPwr f).flt = s.flt := rfl
@[simp] theorem Sw.updPwr_boot (f : Pwr → Pwr) : (s.updPwr f).boot = s.boot := rfl
@[simp] theorem Sw.updPwr_pins (f : Pwr → Pwr) : (s.updPwr f).pins = s.pins := rfl
@[simp] theorem Sw.updPwr_hbm (f : Pwr → Pwr) : (s.updPwr f).hbm = s.hbm := rfl
@[simp] theorem Sw.updPwr_cxl (f : Pwr → Pwr) : (s.updPwr f).cxl = s.cxl := rfl
@[simp] theorem Sw.updPwr_hbmBad (f : Pwr → Pwr) : (s.updPwr f).hbmBad = s.hbmBad := rfl
@[simp] theorem Sw.updPwr_cxlBad (f : Pwr → Pwr) : (s.updPwr f).cxlBad = s.cxlBad := rfl
@[simp] theorem Sw.updPwr_clr (f : Pwr → Pwr) : (s.updPwr f).clr = s.clr := rfl
@[simp] theorem Sw.updPwr_cores (f : Pwr → Pwr) : (s.updPwr f).cores = s.cores := rfl
@[simp] theorem Sw.updPwr_brg (f : Pwr → Pwr) : (s.updPwr f).brg = s.brg := rfl
@[simp] theorem Sw.updPwr_mbox (f : Pwr → Pwr) : (s.updPwr f).mbox = s.mbox := rfl
@[simp] theorem Sw.updPwr_anv (f : Pwr → Pwr) : (s.updPwr f).anv = s.anv := rfl
@[simp] theorem Sw.updPwr_recd (f : Pwr → Pwr) : (s.updPwr f).recd = s.recd := rfl
@[simp] theorem Sw.updPwr_agr (f : Pwr → Pwr) : (s.updPwr f).agr = s.agr := rfl
@[simp] theorem Sw.updPwr_jobs (f : Pwr → Pwr) : (s.updPwr f).jobs = s.jobs := rfl
@[simp] theorem Sw.updPwr_jobNo (f : Pwr → Pwr) : (s.updPwr f).jobNo = s.jobNo := rfl
@[simp] theorem Sw.updPwr_ops (f : Pwr → Pwr) : (s.updPwr f).ops = s.ops := rfl
@[simp] theorem Sw.updPwr_opNo (f : Pwr → Pwr) : (s.updPwr f).opNo = s.opNo := rfl
@[simp] theorem Sw.updPwr_lostJobs (f : Pwr → Pwr) : (s.updPwr f).lostJobs = s.lostJobs := rfl
@[simp] theorem Sw.updPwr_lostOps (f : Pwr → Pwr) : (s.updPwr f).lostOps = s.lostOps := rfl
@[simp] theorem Sw.updPwr_scrub (f : Pwr → Pwr) : (s.updPwr f).scrub = s.scrub := rfl
@[simp] theorem Sw.updPwr_i3c (f : Pwr → Pwr) : (s.updPwr f).i3c = s.i3c := rfl
@[simp] theorem Sw.updPwr_lexs (f : Pwr → Pwr) : (s.updPwr f).lexs = s.lexs := rfl
@[simp] theorem Sw.updPwr_lib (f : Pwr → Pwr) : (s.updPwr f).lib = s.lib := rfl
@[simp] theorem Sw.updPwr_libImage (f : Pwr → Pwr) : (s.updPwr f).libImage = s.libImage := rfl
@[simp] theorem Sw.updPwr_tx (f : Pwr → Pwr) : (s.updPwr f).tx = s.tx := rfl

/-! ### `updPins` -/

@[simp] theorem Sw.updPins_pins (f : Pins → Pins) : (s.updPins f).pins = f s.pins := rfl
@[simp] theorem Sw.updPins_now (f : Pins → Pins) : (s.updPins f).now = s.now := rfl
@[simp] theorem Sw.updPins_free (f : Pins → Pins) : (s.updPins f).free = s.free := rfl
@[simp] theorem Sw.updPins_lex (f : Pins → Pins) : (s.updPins f).lex = s.lex := rfl
@[simp] theorem Sw.updPins_ident (f : Pins → Pins) : (s.updPins f).ident = s.ident := rfl
@[simp] theorem Sw.updPins_fab (f : Pins → Pins) : (s.updPins f).fab = s.fab := rfl
@[simp] theorem Sw.updPins_cred (f : Pins → Pins) : (s.updPins f).cred = s.cred := rfl
@[simp] theorem Sw.updPins_bil (f : Pins → Pins) : (s.updPins f).bil = s.bil := rfl
@[simp] theorem Sw.updPins_bel (f : Pins → Pins) : (s.updPins f).bel = s.bel := rfl
@[simp] theorem Sw.updPins_ports (f : Pins → Pins) : (s.updPins f).ports = s.ports := rfl
@[simp] theorem Sw.updPins_lanes (f : Pins → Pins) : (s.updPins f).lanes = s.lanes := rfl
@[simp] theorem Sw.updPins_fomAt (f : Pins → Pins) : (s.updPins f).fomAt = s.fomAt := rfl
@[simp] theorem Sw.updPins_ten (f : Pins → Pins) : (s.updPins f).ten = s.ten := rfl
@[simp] theorem Sw.updPins_rebind (f : Pins → Pins) : (s.updPins f).rebind = s.rebind := rfl
@[simp] theorem Sw.updPins_blkRst (f : Pins → Pins) : (s.updPins f).blkRst = s.blkRst := rfl
@[simp] theorem Sw.updPins_flt (f : Pins → Pins) : (s.updPins f).flt = s.flt := rfl
@[simp] theorem Sw.updPins_boot (f : Pins → Pins) : (s.updPins f).boot = s.boot := rfl
@[simp] theorem Sw.updPins_pwr (f : Pins → Pins) : (s.updPins f).pwr = s.pwr := rfl
@[simp] theorem Sw.updPins_hbm (f : Pins → Pins) : (s.updPins f).hbm = s.hbm := rfl
@[simp] theorem Sw.updPins_cxl (f : Pins → Pins) : (s.updPins f).cxl = s.cxl := rfl
@[simp] theorem Sw.updPins_hbmBad (f : Pins → Pins) : (s.updPins f).hbmBad = s.hbmBad := rfl
@[simp] theorem Sw.updPins_cxlBad (f : Pins → Pins) : (s.updPins f).cxlBad = s.cxlBad := rfl
@[simp] theorem Sw.updPins_clr (f : Pins → Pins) : (s.updPins f).clr = s.clr := rfl
@[simp] theorem Sw.updPins_cores (f : Pins → Pins) : (s.updPins f).cores = s.cores := rfl
@[simp] theorem Sw.updPins_brg (f : Pins → Pins) : (s.updPins f).brg = s.brg := rfl
@[simp] theorem Sw.updPins_mbox (f : Pins → Pins) : (s.updPins f).mbox = s.mbox := rfl
@[simp] theorem Sw.updPins_anv (f : Pins → Pins) : (s.updPins f).anv = s.anv := rfl
@[simp] theorem Sw.updPins_recd (f : Pins → Pins) : (s.updPins f).recd = s.recd := rfl
@[simp] theorem Sw.updPins_agr (f : Pins → Pins) : (s.updPins f).agr = s.agr := rfl
@[simp] theorem Sw.updPins_jobs (f : Pins → Pins) : (s.updPins f).jobs = s.jobs := rfl
@[simp] theorem Sw.updPins_jobNo (f : Pins → Pins) : (s.updPins f).jobNo = s.jobNo := rfl
@[simp] theorem Sw.updPins_ops (f : Pins → Pins) : (s.updPins f).ops = s.ops := rfl
@[simp] theorem Sw.updPins_opNo (f : Pins → Pins) : (s.updPins f).opNo = s.opNo := rfl
@[simp] theorem Sw.updPins_lostJobs (f : Pins → Pins) : (s.updPins f).lostJobs = s.lostJobs := rfl
@[simp] theorem Sw.updPins_lostOps (f : Pins → Pins) : (s.updPins f).lostOps = s.lostOps := rfl
@[simp] theorem Sw.updPins_scrub (f : Pins → Pins) : (s.updPins f).scrub = s.scrub := rfl
@[simp] theorem Sw.updPins_i3c (f : Pins → Pins) : (s.updPins f).i3c = s.i3c := rfl
@[simp] theorem Sw.updPins_lexs (f : Pins → Pins) : (s.updPins f).lexs = s.lexs := rfl
@[simp] theorem Sw.updPins_lib (f : Pins → Pins) : (s.updPins f).lib = s.lib := rfl
@[simp] theorem Sw.updPins_libImage (f : Pins → Pins) : (s.updPins f).libImage = s.libImage := rfl
@[simp] theorem Sw.updPins_tx (f : Pins → Pins) : (s.updPins f).tx = s.tx := rfl

/-! ### `updFlt` -/

@[simp] theorem Sw.updFlt_flt (f : Flt → Flt) : (s.updFlt f).flt = f s.flt := rfl
@[simp] theorem Sw.updFlt_now (f : Flt → Flt) : (s.updFlt f).now = s.now := rfl
@[simp] theorem Sw.updFlt_free (f : Flt → Flt) : (s.updFlt f).free = s.free := rfl
@[simp] theorem Sw.updFlt_lex (f : Flt → Flt) : (s.updFlt f).lex = s.lex := rfl
@[simp] theorem Sw.updFlt_ident (f : Flt → Flt) : (s.updFlt f).ident = s.ident := rfl
@[simp] theorem Sw.updFlt_fab (f : Flt → Flt) : (s.updFlt f).fab = s.fab := rfl
@[simp] theorem Sw.updFlt_cred (f : Flt → Flt) : (s.updFlt f).cred = s.cred := rfl
@[simp] theorem Sw.updFlt_bil (f : Flt → Flt) : (s.updFlt f).bil = s.bil := rfl
@[simp] theorem Sw.updFlt_bel (f : Flt → Flt) : (s.updFlt f).bel = s.bel := rfl
@[simp] theorem Sw.updFlt_ports (f : Flt → Flt) : (s.updFlt f).ports = s.ports := rfl
@[simp] theorem Sw.updFlt_lanes (f : Flt → Flt) : (s.updFlt f).lanes = s.lanes := rfl
@[simp] theorem Sw.updFlt_fomAt (f : Flt → Flt) : (s.updFlt f).fomAt = s.fomAt := rfl
@[simp] theorem Sw.updFlt_ten (f : Flt → Flt) : (s.updFlt f).ten = s.ten := rfl
@[simp] theorem Sw.updFlt_rebind (f : Flt → Flt) : (s.updFlt f).rebind = s.rebind := rfl
@[simp] theorem Sw.updFlt_blkRst (f : Flt → Flt) : (s.updFlt f).blkRst = s.blkRst := rfl
@[simp] theorem Sw.updFlt_boot (f : Flt → Flt) : (s.updFlt f).boot = s.boot := rfl
@[simp] theorem Sw.updFlt_pwr (f : Flt → Flt) : (s.updFlt f).pwr = s.pwr := rfl
@[simp] theorem Sw.updFlt_pins (f : Flt → Flt) : (s.updFlt f).pins = s.pins := rfl
@[simp] theorem Sw.updFlt_hbm (f : Flt → Flt) : (s.updFlt f).hbm = s.hbm := rfl
@[simp] theorem Sw.updFlt_cxl (f : Flt → Flt) : (s.updFlt f).cxl = s.cxl := rfl
@[simp] theorem Sw.updFlt_hbmBad (f : Flt → Flt) : (s.updFlt f).hbmBad = s.hbmBad := rfl
@[simp] theorem Sw.updFlt_cxlBad (f : Flt → Flt) : (s.updFlt f).cxlBad = s.cxlBad := rfl
@[simp] theorem Sw.updFlt_clr (f : Flt → Flt) : (s.updFlt f).clr = s.clr := rfl
@[simp] theorem Sw.updFlt_cores (f : Flt → Flt) : (s.updFlt f).cores = s.cores := rfl
@[simp] theorem Sw.updFlt_brg (f : Flt → Flt) : (s.updFlt f).brg = s.brg := rfl
@[simp] theorem Sw.updFlt_mbox (f : Flt → Flt) : (s.updFlt f).mbox = s.mbox := rfl
@[simp] theorem Sw.updFlt_anv (f : Flt → Flt) : (s.updFlt f).anv = s.anv := rfl
@[simp] theorem Sw.updFlt_recd (f : Flt → Flt) : (s.updFlt f).recd = s.recd := rfl
@[simp] theorem Sw.updFlt_agr (f : Flt → Flt) : (s.updFlt f).agr = s.agr := rfl
@[simp] theorem Sw.updFlt_jobs (f : Flt → Flt) : (s.updFlt f).jobs = s.jobs := rfl
@[simp] theorem Sw.updFlt_jobNo (f : Flt → Flt) : (s.updFlt f).jobNo = s.jobNo := rfl
@[simp] theorem Sw.updFlt_ops (f : Flt → Flt) : (s.updFlt f).ops = s.ops := rfl
@[simp] theorem Sw.updFlt_opNo (f : Flt → Flt) : (s.updFlt f).opNo = s.opNo := rfl
@[simp] theorem Sw.updFlt_lostJobs (f : Flt → Flt) : (s.updFlt f).lostJobs = s.lostJobs := rfl
@[simp] theorem Sw.updFlt_lostOps (f : Flt → Flt) : (s.updFlt f).lostOps = s.lostOps := rfl
@[simp] theorem Sw.updFlt_scrub (f : Flt → Flt) : (s.updFlt f).scrub = s.scrub := rfl
@[simp] theorem Sw.updFlt_i3c (f : Flt → Flt) : (s.updFlt f).i3c = s.i3c := rfl
@[simp] theorem Sw.updFlt_lexs (f : Flt → Flt) : (s.updFlt f).lexs = s.lexs := rfl
@[simp] theorem Sw.updFlt_lib (f : Flt → Flt) : (s.updFlt f).lib = s.lib := rfl
@[simp] theorem Sw.updFlt_libImage (f : Flt → Flt) : (s.updFlt f).libImage = s.libImage := rfl
@[simp] theorem Sw.updFlt_tx (f : Flt → Flt) : (s.updFlt f).tx = s.tx := rfl

/-! ### `updAnv` -/

@[simp] theorem Sw.updAnv_anv (f : Anv → Anv) : (s.updAnv f).anv = f s.anv := rfl
@[simp] theorem Sw.updAnv_now (f : Anv → Anv) : (s.updAnv f).now = s.now := rfl
@[simp] theorem Sw.updAnv_free (f : Anv → Anv) : (s.updAnv f).free = s.free := rfl
@[simp] theorem Sw.updAnv_lex (f : Anv → Anv) : (s.updAnv f).lex = s.lex := rfl
@[simp] theorem Sw.updAnv_ident (f : Anv → Anv) : (s.updAnv f).ident = s.ident := rfl
@[simp] theorem Sw.updAnv_fab (f : Anv → Anv) : (s.updAnv f).fab = s.fab := rfl
@[simp] theorem Sw.updAnv_cred (f : Anv → Anv) : (s.updAnv f).cred = s.cred := rfl
@[simp] theorem Sw.updAnv_bil (f : Anv → Anv) : (s.updAnv f).bil = s.bil := rfl
@[simp] theorem Sw.updAnv_bel (f : Anv → Anv) : (s.updAnv f).bel = s.bel := rfl
@[simp] theorem Sw.updAnv_ports (f : Anv → Anv) : (s.updAnv f).ports = s.ports := rfl
@[simp] theorem Sw.updAnv_lanes (f : Anv → Anv) : (s.updAnv f).lanes = s.lanes := rfl
@[simp] theorem Sw.updAnv_fomAt (f : Anv → Anv) : (s.updAnv f).fomAt = s.fomAt := rfl
@[simp] theorem Sw.updAnv_ten (f : Anv → Anv) : (s.updAnv f).ten = s.ten := rfl
@[simp] theorem Sw.updAnv_rebind (f : Anv → Anv) : (s.updAnv f).rebind = s.rebind := rfl
@[simp] theorem Sw.updAnv_blkRst (f : Anv → Anv) : (s.updAnv f).blkRst = s.blkRst := rfl
@[simp] theorem Sw.updAnv_flt (f : Anv → Anv) : (s.updAnv f).flt = s.flt := rfl
@[simp] theorem Sw.updAnv_boot (f : Anv → Anv) : (s.updAnv f).boot = s.boot := rfl
@[simp] theorem Sw.updAnv_pwr (f : Anv → Anv) : (s.updAnv f).pwr = s.pwr := rfl
@[simp] theorem Sw.updAnv_pins (f : Anv → Anv) : (s.updAnv f).pins = s.pins := rfl
@[simp] theorem Sw.updAnv_hbm (f : Anv → Anv) : (s.updAnv f).hbm = s.hbm := rfl
@[simp] theorem Sw.updAnv_cxl (f : Anv → Anv) : (s.updAnv f).cxl = s.cxl := rfl
@[simp] theorem Sw.updAnv_hbmBad (f : Anv → Anv) : (s.updAnv f).hbmBad = s.hbmBad := rfl
@[simp] theorem Sw.updAnv_cxlBad (f : Anv → Anv) : (s.updAnv f).cxlBad = s.cxlBad := rfl
@[simp] theorem Sw.updAnv_clr (f : Anv → Anv) : (s.updAnv f).clr = s.clr := rfl
@[simp] theorem Sw.updAnv_cores (f : Anv → Anv) : (s.updAnv f).cores = s.cores := rfl
@[simp] theorem Sw.updAnv_brg (f : Anv → Anv) : (s.updAnv f).brg = s.brg := rfl
@[simp] theorem Sw.updAnv_mbox (f : Anv → Anv) : (s.updAnv f).mbox = s.mbox := rfl
@[simp] theorem Sw.updAnv_recd (f : Anv → Anv) : (s.updAnv f).recd = s.recd := rfl
@[simp] theorem Sw.updAnv_agr (f : Anv → Anv) : (s.updAnv f).agr = s.agr := rfl
@[simp] theorem Sw.updAnv_jobs (f : Anv → Anv) : (s.updAnv f).jobs = s.jobs := rfl
@[simp] theorem Sw.updAnv_jobNo (f : Anv → Anv) : (s.updAnv f).jobNo = s.jobNo := rfl
@[simp] theorem Sw.updAnv_ops (f : Anv → Anv) : (s.updAnv f).ops = s.ops := rfl
@[simp] theorem Sw.updAnv_opNo (f : Anv → Anv) : (s.updAnv f).opNo = s.opNo := rfl
@[simp] theorem Sw.updAnv_lostJobs (f : Anv → Anv) : (s.updAnv f).lostJobs = s.lostJobs := rfl
@[simp] theorem Sw.updAnv_lostOps (f : Anv → Anv) : (s.updAnv f).lostOps = s.lostOps := rfl
@[simp] theorem Sw.updAnv_scrub (f : Anv → Anv) : (s.updAnv f).scrub = s.scrub := rfl
@[simp] theorem Sw.updAnv_i3c (f : Anv → Anv) : (s.updAnv f).i3c = s.i3c := rfl
@[simp] theorem Sw.updAnv_lexs (f : Anv → Anv) : (s.updAnv f).lexs = s.lexs := rfl
@[simp] theorem Sw.updAnv_lib (f : Anv → Anv) : (s.updAnv f).lib = s.lib := rfl
@[simp] theorem Sw.updAnv_libImage (f : Anv → Anv) : (s.updAnv f).libImage = s.libImage := rfl
@[simp] theorem Sw.updAnv_tx (f : Anv → Anv) : (s.updAnv f).tx = s.tx := rfl

/-! ### `updBrg` -/

@[simp] theorem Sw.updBrg_brg (f : Brg → Brg) : (s.updBrg f).brg = f s.brg := rfl
@[simp] theorem Sw.updBrg_now (f : Brg → Brg) : (s.updBrg f).now = s.now := rfl
@[simp] theorem Sw.updBrg_free (f : Brg → Brg) : (s.updBrg f).free = s.free := rfl
@[simp] theorem Sw.updBrg_lex (f : Brg → Brg) : (s.updBrg f).lex = s.lex := rfl
@[simp] theorem Sw.updBrg_ident (f : Brg → Brg) : (s.updBrg f).ident = s.ident := rfl
@[simp] theorem Sw.updBrg_fab (f : Brg → Brg) : (s.updBrg f).fab = s.fab := rfl
@[simp] theorem Sw.updBrg_cred (f : Brg → Brg) : (s.updBrg f).cred = s.cred := rfl
@[simp] theorem Sw.updBrg_bil (f : Brg → Brg) : (s.updBrg f).bil = s.bil := rfl
@[simp] theorem Sw.updBrg_bel (f : Brg → Brg) : (s.updBrg f).bel = s.bel := rfl
@[simp] theorem Sw.updBrg_ports (f : Brg → Brg) : (s.updBrg f).ports = s.ports := rfl
@[simp] theorem Sw.updBrg_lanes (f : Brg → Brg) : (s.updBrg f).lanes = s.lanes := rfl
@[simp] theorem Sw.updBrg_fomAt (f : Brg → Brg) : (s.updBrg f).fomAt = s.fomAt := rfl
@[simp] theorem Sw.updBrg_ten (f : Brg → Brg) : (s.updBrg f).ten = s.ten := rfl
@[simp] theorem Sw.updBrg_rebind (f : Brg → Brg) : (s.updBrg f).rebind = s.rebind := rfl
@[simp] theorem Sw.updBrg_blkRst (f : Brg → Brg) : (s.updBrg f).blkRst = s.blkRst := rfl
@[simp] theorem Sw.updBrg_flt (f : Brg → Brg) : (s.updBrg f).flt = s.flt := rfl
@[simp] theorem Sw.updBrg_boot (f : Brg → Brg) : (s.updBrg f).boot = s.boot := rfl
@[simp] theorem Sw.updBrg_pwr (f : Brg → Brg) : (s.updBrg f).pwr = s.pwr := rfl
@[simp] theorem Sw.updBrg_pins (f : Brg → Brg) : (s.updBrg f).pins = s.pins := rfl
@[simp] theorem Sw.updBrg_hbm (f : Brg → Brg) : (s.updBrg f).hbm = s.hbm := rfl
@[simp] theorem Sw.updBrg_cxl (f : Brg → Brg) : (s.updBrg f).cxl = s.cxl := rfl
@[simp] theorem Sw.updBrg_hbmBad (f : Brg → Brg) : (s.updBrg f).hbmBad = s.hbmBad := rfl
@[simp] theorem Sw.updBrg_cxlBad (f : Brg → Brg) : (s.updBrg f).cxlBad = s.cxlBad := rfl
@[simp] theorem Sw.updBrg_clr (f : Brg → Brg) : (s.updBrg f).clr = s.clr := rfl
@[simp] theorem Sw.updBrg_cores (f : Brg → Brg) : (s.updBrg f).cores = s.cores := rfl
@[simp] theorem Sw.updBrg_mbox (f : Brg → Brg) : (s.updBrg f).mbox = s.mbox := rfl
@[simp] theorem Sw.updBrg_anv (f : Brg → Brg) : (s.updBrg f).anv = s.anv := rfl
@[simp] theorem Sw.updBrg_recd (f : Brg → Brg) : (s.updBrg f).recd = s.recd := rfl
@[simp] theorem Sw.updBrg_agr (f : Brg → Brg) : (s.updBrg f).agr = s.agr := rfl
@[simp] theorem Sw.updBrg_jobs (f : Brg → Brg) : (s.updBrg f).jobs = s.jobs := rfl
@[simp] theorem Sw.updBrg_jobNo (f : Brg → Brg) : (s.updBrg f).jobNo = s.jobNo := rfl
@[simp] theorem Sw.updBrg_ops (f : Brg → Brg) : (s.updBrg f).ops = s.ops := rfl
@[simp] theorem Sw.updBrg_opNo (f : Brg → Brg) : (s.updBrg f).opNo = s.opNo := rfl
@[simp] theorem Sw.updBrg_lostJobs (f : Brg → Brg) : (s.updBrg f).lostJobs = s.lostJobs := rfl
@[simp] theorem Sw.updBrg_lostOps (f : Brg → Brg) : (s.updBrg f).lostOps = s.lostOps := rfl
@[simp] theorem Sw.updBrg_scrub (f : Brg → Brg) : (s.updBrg f).scrub = s.scrub := rfl
@[simp] theorem Sw.updBrg_i3c (f : Brg → Brg) : (s.updBrg f).i3c = s.i3c := rfl
@[simp] theorem Sw.updBrg_lexs (f : Brg → Brg) : (s.updBrg f).lexs = s.lexs := rfl
@[simp] theorem Sw.updBrg_lib (f : Brg → Brg) : (s.updBrg f).lib = s.lib := rfl
@[simp] theorem Sw.updBrg_libImage (f : Brg → Brg) : (s.updBrg f).libImage = s.libImage := rfl
@[simp] theorem Sw.updBrg_tx (f : Brg → Brg) : (s.updBrg f).tx = s.tx := rfl

/-! ### `updBport` -/

@[simp] theorem Sw.updBport_now (p : Nat) (f : BPortSt → BPortSt) : (s.updBport p f).now = s.now := rfl
@[simp] theorem Sw.updBport_free (p : Nat) (f : BPortSt → BPortSt) : (s.updBport p f).free = s.free := rfl
@[simp] theorem Sw.updBport_lex (p : Nat) (f : BPortSt → BPortSt) : (s.updBport p f).lex = s.lex := rfl
@[simp] theorem Sw.updBport_ident (p : Nat) (f : BPortSt → BPortSt) : (s.updBport p f).ident = s.ident := rfl
@[simp] theorem Sw.updBport_fab (p : Nat) (f : BPortSt → BPortSt) : (s.updBport p f).fab = s.fab := rfl
@[simp] theorem Sw.updBport_cred (p : Nat) (f : BPortSt → BPortSt) : (s.updBport p f).cred = s.cred := rfl
@[simp] theorem Sw.updBport_bil (p : Nat) (f : BPortSt → BPortSt) : (s.updBport p f).bil = s.bil := rfl
@[simp] theorem Sw.updBport_bel (p : Nat) (f : BPortSt → BPortSt) : (s.updBport p f).bel = s.bel := rfl
@[simp] theorem Sw.updBport_ports (p : Nat) (f : BPortSt → BPortSt) : (s.updBport p f).ports = s.ports := rfl
@[simp] theorem Sw.updBport_lanes (p : Nat) (f : BPortSt → BPortSt) : (s.updBport p f).lanes = s.lanes := rfl
@[simp] theorem Sw.updBport_fomAt (p : Nat) (f : BPortSt → BPortSt) : (s.updBport p f).fomAt = s.fomAt := rfl
@[simp] theorem Sw.updBport_ten (p : Nat) (f : BPortSt → BPortSt) : (s.updBport p f).ten = s.ten := rfl
@[simp] theorem Sw.updBport_rebind (p : Nat) (f : BPortSt → BPortSt) : (s.updBport p f).rebind = s.rebind := rfl
@[simp] theorem Sw.updBport_blkRst (p : Nat) (f : BPortSt → BPortSt) : (s.updBport p f).blkRst = s.blkRst := rfl
@[simp] theorem Sw.updBport_flt (p : Nat) (f : BPortSt → BPortSt) : (s.updBport p f).flt = s.flt := rfl
@[simp] theorem Sw.updBport_boot (p : Nat) (f : BPortSt → BPortSt) : (s.updBport p f).boot = s.boot := rfl
@[simp] theorem Sw.updBport_pwr (p : Nat) (f : BPortSt → BPortSt) : (s.updBport p f).pwr = s.pwr := rfl
@[simp] theorem Sw.updBport_pins (p : Nat) (f : BPortSt → BPortSt) : (s.updBport p f).pins = s.pins := rfl
@[simp] theorem Sw.updBport_hbm (p : Nat) (f : BPortSt → BPortSt) : (s.updBport p f).hbm = s.hbm := rfl
@[simp] theorem Sw.updBport_cxl (p : Nat) (f : BPortSt → BPortSt) : (s.updBport p f).cxl = s.cxl := rfl
@[simp] theorem Sw.updBport_hbmBad (p : Nat) (f : BPortSt → BPortSt) : (s.updBport p f).hbmBad = s.hbmBad := rfl
@[simp] theorem Sw.updBport_cxlBad (p : Nat) (f : BPortSt → BPortSt) : (s.updBport p f).cxlBad = s.cxlBad := rfl
@[simp] theorem Sw.updBport_clr (p : Nat) (f : BPortSt → BPortSt) : (s.updBport p f).clr = s.clr := rfl
@[simp] theorem Sw.updBport_cores (p : Nat) (f : BPortSt → BPortSt) : (s.updBport p f).cores = s.cores := rfl
@[simp] theorem Sw.updBport_mbox (p : Nat) (f : BPortSt → BPortSt) : (s.updBport p f).mbox = s.mbox := rfl
@[simp] theorem Sw.updBport_anv (p : Nat) (f : BPortSt → BPortSt) : (s.updBport p f).anv = s.anv := rfl
@[simp] theorem Sw.updBport_recd (p : Nat) (f : BPortSt → BPortSt) : (s.updBport p f).recd = s.recd := rfl
@[simp] theorem Sw.updBport_agr (p : Nat) (f : BPortSt → BPortSt) : (s.updBport p f).agr = s.agr := rfl
@[simp] theorem Sw.updBport_jobs (p : Nat) (f : BPortSt → BPortSt) : (s.updBport p f).jobs = s.jobs := rfl
@[simp] theorem Sw.updBport_jobNo (p : Nat) (f : BPortSt → BPortSt) : (s.updBport p f).jobNo = s.jobNo := rfl
@[simp] theorem Sw.updBport_ops (p : Nat) (f : BPortSt → BPortSt) : (s.updBport p f).ops = s.ops := rfl
@[simp] theorem Sw.updBport_opNo (p : Nat) (f : BPortSt → BPortSt) : (s.updBport p f).opNo = s.opNo := rfl
@[simp] theorem Sw.updBport_lostJobs (p : Nat) (f : BPortSt → BPortSt) : (s.updBport p f).lostJobs = s.lostJobs := rfl
@[simp] theorem Sw.updBport_lostOps (p : Nat) (f : BPortSt → BPortSt) : (s.updBport p f).lostOps = s.lostOps := rfl
@[simp] theorem Sw.updBport_scrub (p : Nat) (f : BPortSt → BPortSt) : (s.updBport p f).scrub = s.scrub := rfl
@[simp] theorem Sw.updBport_i3c (p : Nat) (f : BPortSt → BPortSt) : (s.updBport p f).i3c = s.i3c := rfl
@[simp] theorem Sw.updBport_lexs (p : Nat) (f : BPortSt → BPortSt) : (s.updBport p f).lexs = s.lexs := rfl
@[simp] theorem Sw.updBport_lib (p : Nat) (f : BPortSt → BPortSt) : (s.updBport p f).lib = s.lib := rfl
@[simp] theorem Sw.updBport_libImage (p : Nat) (f : BPortSt → BPortSt) : (s.updBport p f).libImage = s.libImage := rfl
@[simp] theorem Sw.updBport_tx (p : Nat) (f : BPortSt → BPortSt) : (s.updBport p f).tx = s.tx := rfl

/-! ### `updRec` -/

@[simp] theorem Sw.updRec_recd (f : Recd → Recd) : (s.updRec f).recd = f s.recd := rfl
@[simp] theorem Sw.updRec_now (f : Recd → Recd) : (s.updRec f).now = s.now := rfl
@[simp] theorem Sw.updRec_free (f : Recd → Recd) : (s.updRec f).free = s.free := rfl
@[simp] theorem Sw.updRec_lex (f : Recd → Recd) : (s.updRec f).lex = s.lex := rfl
@[simp] theorem Sw.updRec_ident (f : Recd → Recd) : (s.updRec f).ident = s.ident := rfl
@[simp] theorem Sw.updRec_fab (f : Recd → Recd) : (s.updRec f).fab = s.fab := rfl
@[simp] theorem Sw.updRec_cred (f : Recd → Recd) : (s.updRec f).cred = s.cred := rfl
@[simp] theorem Sw.updRec_bil (f : Recd → Recd) : (s.updRec f).bil = s.bil := rfl
@[simp] theorem Sw.updRec_bel (f : Recd → Recd) : (s.updRec f).bel = s.bel := rfl
@[simp] theorem Sw.updRec_ports (f : Recd → Recd) : (s.updRec f).ports = s.ports := rfl
@[simp] theorem Sw.updRec_lanes (f : Recd → Recd) : (s.updRec f).lanes = s.lanes := rfl
@[simp] theorem Sw.updRec_fomAt (f : Recd → Recd) : (s.updRec f).fomAt = s.fomAt := rfl
@[simp] theorem Sw.updRec_ten (f : Recd → Recd) : (s.updRec f).ten = s.ten := rfl
@[simp] theorem Sw.updRec_rebind (f : Recd → Recd) : (s.updRec f).rebind = s.rebind := rfl
@[simp] theorem Sw.updRec_blkRst (f : Recd → Recd) : (s.updRec f).blkRst = s.blkRst := rfl
@[simp] theorem Sw.updRec_flt (f : Recd → Recd) : (s.updRec f).flt = s.flt := rfl
@[simp] theorem Sw.updRec_boot (f : Recd → Recd) : (s.updRec f).boot = s.boot := rfl
@[simp] theorem Sw.updRec_pwr (f : Recd → Recd) : (s.updRec f).pwr = s.pwr := rfl
@[simp] theorem Sw.updRec_pins (f : Recd → Recd) : (s.updRec f).pins = s.pins := rfl
@[simp] theorem Sw.updRec_hbm (f : Recd → Recd) : (s.updRec f).hbm = s.hbm := rfl
@[simp] theorem Sw.updRec_cxl (f : Recd → Recd) : (s.updRec f).cxl = s.cxl := rfl
@[simp] theorem Sw.updRec_hbmBad (f : Recd → Recd) : (s.updRec f).hbmBad = s.hbmBad := rfl
@[simp] theorem Sw.updRec_cxlBad (f : Recd → Recd) : (s.updRec f).cxlBad = s.cxlBad := rfl
@[simp] theorem Sw.updRec_clr (f : Recd → Recd) : (s.updRec f).clr = s.clr := rfl
@[simp] theorem Sw.updRec_cores (f : Recd → Recd) : (s.updRec f).cores = s.cores := rfl
@[simp] theorem Sw.updRec_brg (f : Recd → Recd) : (s.updRec f).brg = s.brg := rfl
@[simp] theorem Sw.updRec_mbox (f : Recd → Recd) : (s.updRec f).mbox = s.mbox := rfl
@[simp] theorem Sw.updRec_anv (f : Recd → Recd) : (s.updRec f).anv = s.anv := rfl
@[simp] theorem Sw.updRec_agr (f : Recd → Recd) : (s.updRec f).agr = s.agr := rfl
@[simp] theorem Sw.updRec_jobs (f : Recd → Recd) : (s.updRec f).jobs = s.jobs := rfl
@[simp] theorem Sw.updRec_jobNo (f : Recd → Recd) : (s.updRec f).jobNo = s.jobNo := rfl
@[simp] theorem Sw.updRec_ops (f : Recd → Recd) : (s.updRec f).ops = s.ops := rfl
@[simp] theorem Sw.updRec_opNo (f : Recd → Recd) : (s.updRec f).opNo = s.opNo := rfl
@[simp] theorem Sw.updRec_lostJobs (f : Recd → Recd) : (s.updRec f).lostJobs = s.lostJobs := rfl
@[simp] theorem Sw.updRec_lostOps (f : Recd → Recd) : (s.updRec f).lostOps = s.lostOps := rfl
@[simp] theorem Sw.updRec_scrub (f : Recd → Recd) : (s.updRec f).scrub = s.scrub := rfl
@[simp] theorem Sw.updRec_i3c (f : Recd → Recd) : (s.updRec f).i3c = s.i3c := rfl
@[simp] theorem Sw.updRec_lexs (f : Recd → Recd) : (s.updRec f).lexs = s.lexs := rfl
@[simp] theorem Sw.updRec_lib (f : Recd → Recd) : (s.updRec f).lib = s.lib := rfl
@[simp] theorem Sw.updRec_libImage (f : Recd → Recd) : (s.updRec f).libImage = s.libImage := rfl
@[simp] theorem Sw.updRec_tx (f : Recd → Recd) : (s.updRec f).tx = s.tx := rfl

/-! ### `setStore` -/

@[simp] theorem Sw.setStore_now (d p : Nat) (x : Store) : (s.setStore d p x).now = s.now := rfl
@[simp] theorem Sw.setStore_free (d p : Nat) (x : Store) : (s.setStore d p x).free = s.free := rfl
@[simp] theorem Sw.setStore_lex (d p : Nat) (x : Store) : (s.setStore d p x).lex = s.lex := rfl
@[simp] theorem Sw.setStore_ident (d p : Nat) (x : Store) : (s.setStore d p x).ident = s.ident := rfl
@[simp] theorem Sw.setStore_fab (d p : Nat) (x : Store) : (s.setStore d p x).fab = s.fab := rfl
@[simp] theorem Sw.setStore_cred (d p : Nat) (x : Store) : (s.setStore d p x).cred = s.cred := rfl
@[simp] theorem Sw.setStore_bel (d p : Nat) (x : Store) : (s.setStore d p x).bel = s.bel := rfl
@[simp] theorem Sw.setStore_ports (d p : Nat) (x : Store) : (s.setStore d p x).ports = s.ports := rfl
@[simp] theorem Sw.setStore_lanes (d p : Nat) (x : Store) : (s.setStore d p x).lanes = s.lanes := rfl
@[simp] theorem Sw.setStore_fomAt (d p : Nat) (x : Store) : (s.setStore d p x).fomAt = s.fomAt := rfl
@[simp] theorem Sw.setStore_ten (d p : Nat) (x : Store) : (s.setStore d p x).ten = s.ten := rfl
@[simp] theorem Sw.setStore_rebind (d p : Nat) (x : Store) : (s.setStore d p x).rebind = s.rebind := rfl
@[simp] theorem Sw.setStore_blkRst (d p : Nat) (x : Store) : (s.setStore d p x).blkRst = s.blkRst := rfl
@[simp] theorem Sw.setStore_flt (d p : Nat) (x : Store) : (s.setStore d p x).flt = s.flt := rfl
@[simp] theorem Sw.setStore_boot (d p : Nat) (x : Store) : (s.setStore d p x).boot = s.boot := rfl
@[simp] theorem Sw.setStore_pwr (d p : Nat) (x : Store) : (s.setStore d p x).pwr = s.pwr := rfl
@[simp] theorem Sw.setStore_pins (d p : Nat) (x : Store) : (s.setStore d p x).pins = s.pins := rfl
@[simp] theorem Sw.setStore_hbm (d p : Nat) (x : Store) : (s.setStore d p x).hbm = s.hbm := rfl
@[simp] theorem Sw.setStore_cxl (d p : Nat) (x : Store) : (s.setStore d p x).cxl = s.cxl := rfl
@[simp] theorem Sw.setStore_hbmBad (d p : Nat) (x : Store) : (s.setStore d p x).hbmBad = s.hbmBad := rfl
@[simp] theorem Sw.setStore_cxlBad (d p : Nat) (x : Store) : (s.setStore d p x).cxlBad = s.cxlBad := rfl
@[simp] theorem Sw.setStore_clr (d p : Nat) (x : Store) : (s.setStore d p x).clr = s.clr := rfl
@[simp] theorem Sw.setStore_cores (d p : Nat) (x : Store) : (s.setStore d p x).cores = s.cores := rfl
@[simp] theorem Sw.setStore_brg (d p : Nat) (x : Store) : (s.setStore d p x).brg = s.brg := rfl
@[simp] theorem Sw.setStore_mbox (d p : Nat) (x : Store) : (s.setStore d p x).mbox = s.mbox := rfl
@[simp] theorem Sw.setStore_anv (d p : Nat) (x : Store) : (s.setStore d p x).anv = s.anv := rfl
@[simp] theorem Sw.setStore_recd (d p : Nat) (x : Store) : (s.setStore d p x).recd = s.recd := rfl
@[simp] theorem Sw.setStore_agr (d p : Nat) (x : Store) : (s.setStore d p x).agr = s.agr := rfl
@[simp] theorem Sw.setStore_jobs (d p : Nat) (x : Store) : (s.setStore d p x).jobs = s.jobs := rfl
@[simp] theorem Sw.setStore_jobNo (d p : Nat) (x : Store) : (s.setStore d p x).jobNo = s.jobNo := rfl
@[simp] theorem Sw.setStore_ops (d p : Nat) (x : Store) : (s.setStore d p x).ops = s.ops := rfl
@[simp] theorem Sw.setStore_opNo (d p : Nat) (x : Store) : (s.setStore d p x).opNo = s.opNo := rfl
@[simp] theorem Sw.setStore_lostJobs (d p : Nat) (x : Store) : (s.setStore d p x).lostJobs = s.lostJobs := rfl
@[simp] theorem Sw.setStore_lostOps (d p : Nat) (x : Store) : (s.setStore d p x).lostOps = s.lostOps := rfl
@[simp] theorem Sw.setStore_scrub (d p : Nat) (x : Store) : (s.setStore d p x).scrub = s.scrub := rfl
@[simp] theorem Sw.setStore_i3c (d p : Nat) (x : Store) : (s.setStore d p x).i3c = s.i3c := rfl
@[simp] theorem Sw.setStore_lexs (d p : Nat) (x : Store) : (s.setStore d p x).lexs = s.lexs := rfl
@[simp] theorem Sw.setStore_lib (d p : Nat) (x : Store) : (s.setStore d p x).lib = s.lib := rfl
@[simp] theorem Sw.setStore_libImage (d p : Nat) (x : Store) : (s.setStore d p x).libImage = s.libImage := rfl
@[simp] theorem Sw.setStore_tx (d p : Nat) (x : Store) : (s.setStore d p x).tx = s.tx := rfl

/-! ### `setCredit` -/

@[simp] theorem Sw.setCredit_now (p c : Nat) (x : Credit) : (s.setCredit p c x).now = s.now := rfl
@[simp] theorem Sw.setCredit_free (p c : Nat) (x : Credit) : (s.setCredit p c x).free = s.free := rfl
@[simp] theorem Sw.setCredit_lex (p c : Nat) (x : Credit) : (s.setCredit p c x).lex = s.lex := rfl
@[simp] theorem Sw.setCredit_ident (p c : Nat) (x : Credit) : (s.setCredit p c x).ident = s.ident := rfl
@[simp] theorem Sw.setCredit_fab (p c : Nat) (x : Credit) : (s.setCredit p c x).fab = s.fab := rfl
@[simp] theorem Sw.setCredit_bil (p c : Nat) (x : Credit) : (s.setCredit p c x).bil = s.bil := rfl
@[simp] theorem Sw.setCredit_bel (p c : Nat) (x : Credit) : (s.setCredit p c x).bel = s.bel := rfl
@[simp] theorem Sw.setCredit_ports (p c : Nat) (x : Credit) : (s.setCredit p c x).ports = s.ports := rfl
@[simp] theorem Sw.setCredit_lanes (p c : Nat) (x : Credit) : (s.setCredit p c x).lanes = s.lanes := rfl
@[simp] theorem Sw.setCredit_fomAt (p c : Nat) (x : Credit) : (s.setCredit p c x).fomAt = s.fomAt := rfl
@[simp] theorem Sw.setCredit_ten (p c : Nat) (x : Credit) : (s.setCredit p c x).ten = s.ten := rfl
@[simp] theorem Sw.setCredit_rebind (p c : Nat) (x : Credit) : (s.setCredit p c x).rebind = s.rebind := rfl
@[simp] theorem Sw.setCredit_blkRst (p c : Nat) (x : Credit) : (s.setCredit p c x).blkRst = s.blkRst := rfl
@[simp] theorem Sw.setCredit_flt (p c : Nat) (x : Credit) : (s.setCredit p c x).flt = s.flt := rfl
@[simp] theorem Sw.setCredit_boot (p c : Nat) (x : Credit) : (s.setCredit p c x).boot = s.boot := rfl
@[simp] theorem Sw.setCredit_pwr (p c : Nat) (x : Credit) : (s.setCredit p c x).pwr = s.pwr := rfl
@[simp] theorem Sw.setCredit_pins (p c : Nat) (x : Credit) : (s.setCredit p c x).pins = s.pins := rfl
@[simp] theorem Sw.setCredit_hbm (p c : Nat) (x : Credit) : (s.setCredit p c x).hbm = s.hbm := rfl
@[simp] theorem Sw.setCredit_cxl (p c : Nat) (x : Credit) : (s.setCredit p c x).cxl = s.cxl := rfl
@[simp] theorem Sw.setCredit_hbmBad (p c : Nat) (x : Credit) : (s.setCredit p c x).hbmBad = s.hbmBad := rfl
@[simp] theorem Sw.setCredit_cxlBad (p c : Nat) (x : Credit) : (s.setCredit p c x).cxlBad = s.cxlBad := rfl
@[simp] theorem Sw.setCredit_clr (p c : Nat) (x : Credit) : (s.setCredit p c x).clr = s.clr := rfl
@[simp] theorem Sw.setCredit_cores (p c : Nat) (x : Credit) : (s.setCredit p c x).cores = s.cores := rfl
@[simp] theorem Sw.setCredit_brg (p c : Nat) (x : Credit) : (s.setCredit p c x).brg = s.brg := rfl
@[simp] theorem Sw.setCredit_mbox (p c : Nat) (x : Credit) : (s.setCredit p c x).mbox = s.mbox := rfl
@[simp] theorem Sw.setCredit_anv (p c : Nat) (x : Credit) : (s.setCredit p c x).anv = s.anv := rfl
@[simp] theorem Sw.setCredit_recd (p c : Nat) (x : Credit) : (s.setCredit p c x).recd = s.recd := rfl
@[simp] theorem Sw.setCredit_agr (p c : Nat) (x : Credit) : (s.setCredit p c x).agr = s.agr := rfl
@[simp] theorem Sw.setCredit_jobs (p c : Nat) (x : Credit) : (s.setCredit p c x).jobs = s.jobs := rfl
@[simp] theorem Sw.setCredit_jobNo (p c : Nat) (x : Credit) : (s.setCredit p c x).jobNo = s.jobNo := rfl
@[simp] theorem Sw.setCredit_ops (p c : Nat) (x : Credit) : (s.setCredit p c x).ops = s.ops := rfl
@[simp] theorem Sw.setCredit_opNo (p c : Nat) (x : Credit) : (s.setCredit p c x).opNo = s.opNo := rfl
@[simp] theorem Sw.setCredit_lostJobs (p c : Nat) (x : Credit) : (s.setCredit p c x).lostJobs = s.lostJobs := rfl
@[simp] theorem Sw.setCredit_lostOps (p c : Nat) (x : Credit) : (s.setCredit p c x).lostOps = s.lostOps := rfl
@[simp] theorem Sw.setCredit_scrub (p c : Nat) (x : Credit) : (s.setCredit p c x).scrub = s.scrub := rfl
@[simp] theorem Sw.setCredit_i3c (p c : Nat) (x : Credit) : (s.setCredit p c x).i3c = s.i3c := rfl
@[simp] theorem Sw.setCredit_lexs (p c : Nat) (x : Credit) : (s.setCredit p c x).lexs = s.lexs := rfl
@[simp] theorem Sw.setCredit_lib (p c : Nat) (x : Credit) : (s.setCredit p c x).lib = s.lib := rfl
@[simp] theorem Sw.setCredit_libImage (p c : Nat) (x : Credit) : (s.setCredit p c x).libImage = s.libImage := rfl
@[simp] theorem Sw.setCredit_tx (p c : Nat) (x : Credit) : (s.setCredit p c x).tx = s.tx := rfl

/-! ### `updOp` -/

@[simp] theorem Sw.updOp_now (n : Nat) (f : SwOp → SwOp) : (s.updOp n f).now = s.now := rfl
@[simp] theorem Sw.updOp_free (n : Nat) (f : SwOp → SwOp) : (s.updOp n f).free = s.free := rfl
@[simp] theorem Sw.updOp_lex (n : Nat) (f : SwOp → SwOp) : (s.updOp n f).lex = s.lex := rfl
@[simp] theorem Sw.updOp_ident (n : Nat) (f : SwOp → SwOp) : (s.updOp n f).ident = s.ident := rfl
@[simp] theorem Sw.updOp_fab (n : Nat) (f : SwOp → SwOp) : (s.updOp n f).fab = s.fab := rfl
@[simp] theorem Sw.updOp_cred (n : Nat) (f : SwOp → SwOp) : (s.updOp n f).cred = s.cred := rfl
@[simp] theorem Sw.updOp_bil (n : Nat) (f : SwOp → SwOp) : (s.updOp n f).bil = s.bil := rfl
@[simp] theorem Sw.updOp_bel (n : Nat) (f : SwOp → SwOp) : (s.updOp n f).bel = s.bel := rfl
@[simp] theorem Sw.updOp_ports (n : Nat) (f : SwOp → SwOp) : (s.updOp n f).ports = s.ports := rfl
@[simp] theorem Sw.updOp_lanes (n : Nat) (f : SwOp → SwOp) : (s.updOp n f).lanes = s.lanes := rfl
@[simp] theorem Sw.updOp_fomAt (n : Nat) (f : SwOp → SwOp) : (s.updOp n f).fomAt = s.fomAt := rfl
@[simp] theorem Sw.updOp_ten (n : Nat) (f : SwOp → SwOp) : (s.updOp n f).ten = s.ten := rfl
@[simp] theorem Sw.updOp_rebind (n : Nat) (f : SwOp → SwOp) : (s.updOp n f).rebind = s.rebind := rfl
@[simp] theorem Sw.updOp_blkRst (n : Nat) (f : SwOp → SwOp) : (s.updOp n f).blkRst = s.blkRst := rfl
@[simp] theorem Sw.updOp_flt (n : Nat) (f : SwOp → SwOp) : (s.updOp n f).flt = s.flt := rfl
@[simp] theorem Sw.updOp_boot (n : Nat) (f : SwOp → SwOp) : (s.updOp n f).boot = s.boot := rfl
@[simp] theorem Sw.updOp_pwr (n : Nat) (f : SwOp → SwOp) : (s.updOp n f).pwr = s.pwr := rfl
@[simp] theorem Sw.updOp_pins (n : Nat) (f : SwOp → SwOp) : (s.updOp n f).pins = s.pins := rfl
@[simp] theorem Sw.updOp_hbm (n : Nat) (f : SwOp → SwOp) : (s.updOp n f).hbm = s.hbm := rfl
@[simp] theorem Sw.updOp_cxl (n : Nat) (f : SwOp → SwOp) : (s.updOp n f).cxl = s.cxl := rfl
@[simp] theorem Sw.updOp_hbmBad (n : Nat) (f : SwOp → SwOp) : (s.updOp n f).hbmBad = s.hbmBad := rfl
@[simp] theorem Sw.updOp_cxlBad (n : Nat) (f : SwOp → SwOp) : (s.updOp n f).cxlBad = s.cxlBad := rfl
@[simp] theorem Sw.updOp_clr (n : Nat) (f : SwOp → SwOp) : (s.updOp n f).clr = s.clr := rfl
@[simp] theorem Sw.updOp_cores (n : Nat) (f : SwOp → SwOp) : (s.updOp n f).cores = s.cores := rfl
@[simp] theorem Sw.updOp_brg (n : Nat) (f : SwOp → SwOp) : (s.updOp n f).brg = s.brg := rfl
@[simp] theorem Sw.updOp_mbox (n : Nat) (f : SwOp → SwOp) : (s.updOp n f).mbox = s.mbox := rfl
@[simp] theorem Sw.updOp_anv (n : Nat) (f : SwOp → SwOp) : (s.updOp n f).anv = s.anv := rfl
@[simp] theorem Sw.updOp_recd (n : Nat) (f : SwOp → SwOp) : (s.updOp n f).recd = s.recd := rfl
@[simp] theorem Sw.updOp_agr (n : Nat) (f : SwOp → SwOp) : (s.updOp n f).agr = s.agr := rfl
@[simp] theorem Sw.updOp_jobs (n : Nat) (f : SwOp → SwOp) : (s.updOp n f).jobs = s.jobs := rfl
@[simp] theorem Sw.updOp_jobNo (n : Nat) (f : SwOp → SwOp) : (s.updOp n f).jobNo = s.jobNo := rfl
@[simp] theorem Sw.updOp_opNo (n : Nat) (f : SwOp → SwOp) : (s.updOp n f).opNo = s.opNo := rfl
@[simp] theorem Sw.updOp_lostJobs (n : Nat) (f : SwOp → SwOp) : (s.updOp n f).lostJobs = s.lostJobs := rfl
@[simp] theorem Sw.updOp_lostOps (n : Nat) (f : SwOp → SwOp) : (s.updOp n f).lostOps = s.lostOps := rfl
@[simp] theorem Sw.updOp_scrub (n : Nat) (f : SwOp → SwOp) : (s.updOp n f).scrub = s.scrub := rfl
@[simp] theorem Sw.updOp_i3c (n : Nat) (f : SwOp → SwOp) : (s.updOp n f).i3c = s.i3c := rfl
@[simp] theorem Sw.updOp_lexs (n : Nat) (f : SwOp → SwOp) : (s.updOp n f).lexs = s.lexs := rfl
@[simp] theorem Sw.updOp_lib (n : Nat) (f : SwOp → SwOp) : (s.updOp n f).lib = s.lib := rfl
@[simp] theorem Sw.updOp_libImage (n : Nat) (f : SwOp → SwOp) : (s.updOp n f).libImage = s.libImage := rfl
@[simp] theorem Sw.updOp_tx (n : Nat) (f : SwOp → SwOp) : (s.updOp n f).tx = s.tx := rfl

/-! ### `updJob` -/

@[simp] theorem Sw.updJob_now (n : Nat) (f : Job → Job) : (s.updJob n f).now = s.now := rfl
@[simp] theorem Sw.updJob_free (n : Nat) (f : Job → Job) : (s.updJob n f).free = s.free := rfl
@[simp] theorem Sw.updJob_lex (n : Nat) (f : Job → Job) : (s.updJob n f).lex = s.lex := rfl
@[simp] theorem Sw.updJob_ident (n : Nat) (f : Job → Job) : (s.updJob n f).ident = s.ident := rfl
@[simp] theorem Sw.updJob_fab (n : Nat) (f : Job → Job) : (s.updJob n f).fab = s.fab := rfl
@[simp] theorem Sw.updJob_cred (n : Nat) (f : Job → Job) : (s.updJob n f).cred = s.cred := rfl
@[simp] theorem Sw.updJob_bil (n : Nat) (f : Job → Job) : (s.updJob n f).bil = s.bil := rfl
@[simp] theorem Sw.updJob_bel (n : Nat) (f : Job → Job) : (s.updJob n f).bel = s.bel := rfl
@[simp] theorem Sw.updJob_ports (n : Nat) (f : Job → Job) : (s.updJob n f).ports = s.ports := rfl
@[simp] theorem Sw.updJob_lanes (n : Nat) (f : Job → Job) : (s.updJob n f).lanes = s.lanes := rfl
@[simp] theorem Sw.updJob_fomAt (n : Nat) (f : Job → Job) : (s.updJob n f).fomAt = s.fomAt := rfl
@[simp] theorem Sw.updJob_ten (n : Nat) (f : Job → Job) : (s.updJob n f).ten = s.ten := rfl
@[simp] theorem Sw.updJob_rebind (n : Nat) (f : Job → Job) : (s.updJob n f).rebind = s.rebind := rfl
@[simp] theorem Sw.updJob_blkRst (n : Nat) (f : Job → Job) : (s.updJob n f).blkRst = s.blkRst := rfl
@[simp] theorem Sw.updJob_flt (n : Nat) (f : Job → Job) : (s.updJob n f).flt = s.flt := rfl
@[simp] theorem Sw.updJob_boot (n : Nat) (f : Job → Job) : (s.updJob n f).boot = s.boot := rfl
@[simp] theorem Sw.updJob_pwr (n : Nat) (f : Job → Job) : (s.updJob n f).pwr = s.pwr := rfl
@[simp] theorem Sw.updJob_pins (n : Nat) (f : Job → Job) : (s.updJob n f).pins = s.pins := rfl
@[simp] theorem Sw.updJob_hbm (n : Nat) (f : Job → Job) : (s.updJob n f).hbm = s.hbm := rfl
@[simp] theorem Sw.updJob_cxl (n : Nat) (f : Job → Job) : (s.updJob n f).cxl = s.cxl := rfl
@[simp] theorem Sw.updJob_hbmBad (n : Nat) (f : Job → Job) : (s.updJob n f).hbmBad = s.hbmBad := rfl
@[simp] theorem Sw.updJob_cxlBad (n : Nat) (f : Job → Job) : (s.updJob n f).cxlBad = s.cxlBad := rfl
@[simp] theorem Sw.updJob_clr (n : Nat) (f : Job → Job) : (s.updJob n f).clr = s.clr := rfl
@[simp] theorem Sw.updJob_cores (n : Nat) (f : Job → Job) : (s.updJob n f).cores = s.cores := rfl
@[simp] theorem Sw.updJob_brg (n : Nat) (f : Job → Job) : (s.updJob n f).brg = s.brg := rfl
@[simp] theorem Sw.updJob_mbox (n : Nat) (f : Job → Job) : (s.updJob n f).mbox = s.mbox := rfl
@[simp] theorem Sw.updJob_anv (n : Nat) (f : Job → Job) : (s.updJob n f).anv = s.anv := rfl
@[simp] theorem Sw.updJob_recd (n : Nat) (f : Job → Job) : (s.updJob n f).recd = s.recd := rfl
@[simp] theorem Sw.updJob_agr (n : Nat) (f : Job → Job) : (s.updJob n f).agr = s.agr := rfl
@[simp] theorem Sw.updJob_jobNo (n : Nat) (f : Job → Job) : (s.updJob n f).jobNo = s.jobNo := rfl
@[simp] theorem Sw.updJob_ops (n : Nat) (f : Job → Job) : (s.updJob n f).ops = s.ops := rfl
@[simp] theorem Sw.updJob_opNo (n : Nat) (f : Job → Job) : (s.updJob n f).opNo = s.opNo := rfl
@[simp] theorem Sw.updJob_lostJobs (n : Nat) (f : Job → Job) : (s.updJob n f).lostJobs = s.lostJobs := rfl
@[simp] theorem Sw.updJob_lostOps (n : Nat) (f : Job → Job) : (s.updJob n f).lostOps = s.lostOps := rfl
@[simp] theorem Sw.updJob_scrub (n : Nat) (f : Job → Job) : (s.updJob n f).scrub = s.scrub := rfl
@[simp] theorem Sw.updJob_i3c (n : Nat) (f : Job → Job) : (s.updJob n f).i3c = s.i3c := rfl
@[simp] theorem Sw.updJob_lexs (n : Nat) (f : Job → Job) : (s.updJob n f).lexs = s.lexs := rfl
@[simp] theorem Sw.updJob_lib (n : Nat) (f : Job → Job) : (s.updJob n f).lib = s.lib := rfl
@[simp] theorem Sw.updJob_libImage (n : Nat) (f : Job → Job) : (s.updJob n f).libImage = s.libImage := rfl
@[simp] theorem Sw.updJob_tx (n : Nat) (f : Job → Job) : (s.updJob n f).tx = s.tx := rfl

/-! ### A state and its switch -/

@[simp] theorem State.updSw_sw (t : State) (f : Sw → Sw) : (t.updSw f).sw = f t.sw := rfl
@[simp] theorem State.updSw_sec (t : State) (f : Sw → Sw) : (t.updSw f).sec = t.sec := rfl
@[simp] theorem State.updSw_pending (t : State) (f : Sw → Sw) : (t.updSw f).pending = t.pending := rfl
@[simp] theorem State.updSec_sw (t : State) (f : Sec → Sec) : (t.updSec f).sw = t.sw := rfl
@[simp] theorem State.updSec_sec (t : State) (f : Sec → Sec) : (t.updSec f).sec = f t.sec := rfl
@[simp] theorem State.updSec_pending (t : State) (f : Sec → Sec) : (t.updSec f).pending = t.pending := rfl

end Sys2Proof.Machine
end

