-- ==== Sys2Proof/Laws/Settle.lean ====
section
/-! SUPPORT. What `settle` does where no fault is due, no record's time is over, no bring-up waits for its ports, no RESULT was lost and no context returns: a parked unit may
start to wake, and the schedulers take note of what became eligible. -/

namespace Sys2Proof.Machine

/-- Waking a unit changes the power manager's state alone. -/
theorem Sw.wakeAsked_spec (s : Sw) : ∃ f : Pwr → Pwr, s.wakeAsked = s.updPwr f := by
  unfold Sw.wakeAsked
  split
  · exact ⟨id, rfl⟩
  · simp only
    split
    · exact ⟨id, rfl⟩
    · exact ⟨_, rfl⟩

/-- Without a linger time of 0 that has started no context returns (07 R303). -/
theorem Sw.lingerNow_none (s : Sw) (h : s.anv.ctx.filter (fun kv => kv.2.linger == some 0) = []) : s.lingerNow = s := by
  simp [Sw.lingerNow, h]

/-- Where no RESULT was lost nothing is done for one (10 R431). -/
theorem Sw.lostNow_none (s : Sw) (h : s.fab.lostRes = []) : s.lostNow = s := by simp [Sw.lostNow, h]

/-- No record's time is over. -/
theorem Sw.closeDue_none (s : Sw) (h : s.flt.recs.any (fun kv => kv.2.due s.now) = false) : s.closeDue = s := by simp [Sw.closeDue, h]

/-- The summary word has not changed. -/
theorem Sw.fltSignal_same (s : Sw) (h : s.fltSum = s.flt.seen) : s.fltSignal = s := by simp [Sw.fltSignal, h]

/-- Taking note of idle units changes the power manager's state alone. -/
theorem Sw.idleMark_spec (s : Sw) : ∃ f : Pwr → Pwr, s.idleMark = s.updPwr f := by
  unfold Sw.idleMark
  simp only
  split
  · exact ⟨id, rfl⟩
  · exact ⟨_, rfl⟩

/-- No fault is due, no record's time is over, the summary word has not changed, no bring-up is at its link step, no RESULT was lost,
and no context returns. -/
theorem Sw.settle_rest (s : Sw) (h : s.flt.due = []) (hr : s.flt.recs.any (fun kv => kv.2.due s.now) = false)
    (hs : s.fltSum = s.flt.seen) (hb : s.boot.linkAt = none) (hr' : s.fab.lostRes = [])
    (hl : s.anv.ctx.filter (fun kv => kv.2.linger == some 0) = []) : s.settle = s.wakeAsked.idleMark.eligSync := by
  obtain ⟨f, hf⟩ := s.wakeAsked_spec
  obtain ⟨g, hg⟩ := (s.updPwr f).idleMark_spec
  have hn : ((s.updPwr f).updPwr g).bootTick = (s.updPwr f).updPwr g := by simp [Sw.bootTick, Sw.updPwr, hb]
  simp only [Sw.settle, s.lostNow_none hr', s.lingerNow_none hl, h, List.isEmpty_nil, if_true, s.closeDue_none hr, s.fltSignal_same hs]
  rw [hf, hg, hn]

/-- Where nothing is queued and no deficit is kept, the schedulers have nothing to note. -/
theorem Sw.eligSync_idle (s : Sw) (hq : s.belPorts = []) (hd : s.bel.defi = []) : s.eligSync = s := by
  simp [Sw.eligSync, hq, hd]

/-- With no unit parked, none newly idle or busy and nothing queued `settle` then does nothing. -/
theorem Sw.settle_calm (s : Sw) (h : s.flt.due = []) (hr : s.flt.recs.any (fun kv => kv.2.due s.now) = false)
    (hs : s.fltSum = s.flt.seen) (hb : s.boot.linkAt = none) (hr' : s.fab.lostRes = [])
    (hl : s.anv.ctx.filter (fun kv => kv.2.linger == some 0) = []) (hp : s.pwr.parked = []) (hi : s.busyUnits = s.pwr.busy)
    (hq : s.belPorts = []) (hd : s.bel.defi = []) : s.settle = s := by
  rw [s.settle_rest h hr hs hb hr' hl]
  simp [Sw.wakeAsked, hp, Sw.idleMark, hi, s.eligSync_idle hq hd]

end Sys2Proof.Machine
end

