-- ==== Sys2Proof/WellFormed.lean ====
section
/-! DEFINITION. Which commands a sender of the right shape sends: limits that the types of `Instr` do not carry. -/

namespace Sys2Proof

/-- A lexicon request carries as many bytes as it says, or none for a read (15 R598). -/
def LexReq.wf (r : LexReq) : Bool := decide (r.value.length ≤ r.len ∧ r.len ≤ 65536)

/-- A payload is whole 64-byte units, at most 64 (02 R57). -/
def payloadWf (p : Bytes) : Bool := p.length % 64 == 0 && decide (p.length ≤ 4096)

/-- A line access stays inside its line (08 R319). -/
def LineAccess.wf : LineAccess → Bool
  | .read => true
  | .write bs => bs.length == 64
  | .merge off bs => decide (off.val + bs.length ≤ 64)
  | .add _ el ts => decide (el + ts.length ≤ 64)

/-- The limits of one command. -/
def Instr.wf : Instr → Bool
  | .dataEndWordReceive _ p _ | .collDescriptorReceive _ p | .anvilContribution _ p | .resultReceive _ p
  | .updateBlockReceive _ p | .hearthJobSubmit _ p | .swageOpSubmit _ p | .swageStreamWrite _ p
  | .hostReadResp _ p | .reverseWindowRequest _ p | .mailboxWrite _ _ p => payloadWf p
  | .linePortAccess off a _ => off.toNat % 64 == 0 && a.wf
  | .patrolRead off _ => off.toNat % 64 == 0
  | .lexRead r | .lexWrite r => r.wf
  | .libLoad b => decide (b.length ≤ 69300)
  | .imgDataWrite _ b => b.length == 4096
  | .dbgResponse _ b => b.length == 3734
  | _ => true

end Sys2Proof
end

