-- ==== Sys2Proof/Tests/Slice0.lean ====
section
/-! SUPPORT. Tests: ill-formed commands are refused; single steps whose results the spec states; and, for the statements of
Certificates/Slice0, states and operands that meet their hypotheses (`met_`). Expected values are the spec's. -/

namespace Sys2Proof.Tests

open Sys2Proof Sys2Proof.Machine

-- one theorem at a time: each is small, and a thread for each would cost memory
set_option Elab.async false

/-- `c` completes at `s`, and `p` holds of the state after it. -/
def after (c : Instr) (s : State) (p : Sw → Bool) : Bool :=
  match exec c s with
  | .next t => p t.sw
  | _ => false

/-- The same for a property of the whole state. -/
def afterAll (c : Instr) (s : State) (p : State → Bool) : Bool :=
  match exec c s with
  | .next t => p t
  | _ => false

/-- `c` stops at `s` with the fault of an undefined use of rule `r`. -/
def stops (c : Instr) (s : State) (r : Nat) : Bool :=
  match exec c s with
  | .fault f => decide (f = .undefinedUse r)
  | _ => false

/-- The state after reset, changed in its switch. -/
def with_ (f : Sw → Sw) : State := State.reset.updSw f

/-- The same, changed in its root of trust. -/
def withSec (f : Sec → Sec) : State := State.reset.updSec f

/-- Port `p`, one lane wide, Up in `mode`. -/
def portAt (p mode : Nat) (x : PortSt) : Sw → Sw := fun s =>
  (s.wr L.linkPortWidth p 1).setPort p { x with st := .up, mode := mode, width := 1 }

/-- Tenancy `t` is Active. -/
def active (t : Nat) : Sw → Sw := fun s => s.setTen t { (s.tenSt t) with st := .active, open_ := [0, 1, 2, 3] }

/-! ### Well-formedness: one ill-formed command for each check -/

theorem test_wf_lex_longer_than_len :
    (Instr.lexWrite { by_ := .i3c, index := 0, sub := 1, seg := 0, op := 1, len := 1, value := [1, 2], tag := 0 }).wf = false := by
  decide +kernel
theorem test_wf_lex_over_64_kib :
    (Instr.lexRead { by_ := .i3c, index := 0, sub := 1, seg := 0, op := 0, len := 65537, value := [], tag := 0 }).wf = false := by
  decide +kernel
theorem test_wf_payload_not_whole_units : (Instr.hearthJobSubmit 0 (zeros 63)).wf = false := by decide +kernel
theorem test_wf_payload_over_64_units : (Instr.swageOpSubmit 0 (zeros 4160)).wf = false := by decide +kernel
theorem test_wf_line_offset : (Instr.linePortAccess 1 .read []).wf = false := by decide +kernel
theorem test_wf_line_write_length : (Instr.linePortAccess 0 (.write (zeros 63)) []).wf = false := by decide +kernel
theorem test_wf_merge_past_line : (Instr.linePortAccess 0 (.merge 63 (zeros 2)) []).wf = false := by decide +kernel
theorem test_wf_add_past_line : (Instr.linePortAccess 0 (.add 0 64 [0]) []).wf = false := by decide +kernel
theorem test_wf_patrol_offset : (Instr.patrolRead 32 []).wf = false := by decide +kernel
theorem test_wf_library_image : (Instr.libLoad (zeros 69301)).wf = false := by decide +kernel
theorem test_wf_image_piece : (Instr.imgDataWrite none (zeros 4095)).wf = false := by decide +kernel
theorem test_wf_debug_response : (Instr.dbgResponse .i3c (zeros 3733)).wf = false := by decide +kernel
theorem test_wf_accepts : (Instr.hearthJobSubmit 0 (zeros 64)).wf = true ∧ (Instr.patrolRead 64 []).wf = true := by
  decide +kernel

/-! ### The queue, the tick, reset, the end of a command -/

/-- The queue is first in, first out. -/
theorem test_queue_order :
    (match step { State.reset with pending := [.fltAck 600, .park] } with
     | .next t => decide (t.pending = [.park]) | _ => false) = true := by decide +kernel
theorem test_empty_queue_ticks :
    (match step State.reset with | .next t => decide (t.sw.now = 4) | _ => false) = true := by decide +kernel
theorem met_empty_queue : State.reset.pending = [] := rfl
theorem met_command_completes : afterAll (.fltAck 600) { State.reset with pending := [.park] }
    (fun t => decide (t.pending = [.park])) = true := by decide +kernel
theorem met_rests : State.reset.sw.rests = true ∧ State.reset.sw.busyUnits = State.reset.sw.pwr.busy ∧
    (with_ (fun s => { s with pwr := { s.pwr with parked := [.swage 3] } })).sw.rests = true := by decide +kernel
/-- A RESULT that was lost is still to be told. -/
theorem met_not_rests : (with_ (fun s => { s with fab := { s.fab with lostRes := [mkPkt []] } })).sw.rests = false := by decide +kernel
theorem met_quiet : State.reset.sw.pwr.parked = [] ∧ State.reset.sw.belPorts = [] ∧ State.reset.sw.bel.defi = [] := by decide +kernel
theorem met_two_keys : L.fltLost.key 0 ≠ L.pwrLimit.key 0 := by decide +kernel
theorem test_reset_memory_wf : Memory.wf State.reset.sw.hbm = true ∧ Memory.wf State.reset.sw.cxl = true := by decide +kernel
theorem met_root_of_trust_step :
    (State.reset.sec.Inv && (match step { State.reset with pending := [.svnAdvance none] } with
      | .next t => t.sec.Inv | _ => false)) = true := by decide +kernel

/-! ### 01 -/

theorem met_rate_monitor : State.reset.sw.hsWin 0 ≠ 0 ∧ State.reset.busyFor 0x2010 5 = false ∧ 600 ≤ (600 : BitVec 16).toNat ∧
    (600 : BitVec 16).toNat ≤ 850 ∧ (with_ (fun s => { s with pins := { s.pins with hsWin := [(3, 0)] } })).sw.hsWin 3 = 0 := by
  decide +kernel
/-- A window set to 1 ns is 1,000 ns, one above a millisecond is 1,000,000 ns (R45). -/
theorem test_hs_window_low : after (.hsWindowWrite 1) State.reset (fun s => s.rd L.devCoreHsWindow == 1000) = true := by decide +kernel
theorem test_hs_window_high :
    after (.hsWindowWrite 1000001) State.reset (fun s => s.rd L.devCoreHsWindow == 1000000) = true := by decide +kernel
theorem test_rate_monitor : after (.rateMonitorWindow 2 930 600) State.reset
    (fun s => s.rd (L.devCoreHsRate.at 2) == 930 && s.rd (L.devCoreVddMv.at 2) == 600) = true := by decide +kernel
theorem met_d2d : State.reset.sw.pins.d2dFatal.contains 17 = false ∧
    (with_ (fun s => { s with pins := { s.pins with d2dFatal := [17] } })).sw.pins.d2dFatal.contains 17 = true := by decide +kernel

/-! ### 02, 03, 05: packets -/

/-- Tenancy 1 is Active, endpoint ID 0x100 is an endpoint of it at port 5 (role 1), and port 5 is Up and bound to it. -/
def lanes : Sw → Sw := fun s => (((active 1 (portAt 5 1 {} s)).wr L.fwdPortRole 5 1).wr L.tenEp 0x100 0x40010205).wr L.tenPort 5
  0x80000001

/-- A WRITE of one unit from 0x100 to the switch's own HBM, in tenancy 1. -/
def writeHbm : Word256 := mkPkt [(0, 5, 0), (5, 2, 1), (24, 16, 0x100), (40, 7, 1), (96, 16, 0xFFE1), (112, 8, 1)]

/-- The same with granule 0 of HBM bound to tenancy 1. -/
def bound : State := with_ (fun s => ((lanes s).wr L.tenHbm 0 0x80000001).wr (L.belMode.at 0) 0 1)

/-- The check of R53 over a header written out byte by byte from Table 2.1: `kind` 0 and `ver` 1 in byte 0, `src` in bytes 3
and 4, `plen` in byte 5, `dst` in bytes 12 and 13, the tenancy in byte 14. -/
theorem test_header_layout : (wordBytes writeHbm).take 30 =
    [0x20, 0, 0, 0x00, 0x01, 1, 0, 0, 0, 0, 0, 0, 0xE1, 0xFF, 1, 0, 0, 0, 0, 0, 0, 0, 0, 0, 0, 0, 0, 0, 0, 0] := by decide +kernel
theorem test_header_check : checkOk writeHbm = true ∧ checkOk (hset writeHbm 0 5 1) = false ∧ hdrMalformed writeHbm = false := by
  decide +kernel

theorem met_header_comes_in : pCtl writeHbm ≠ 1 ∧
    (match bound.sw.rxHeader (.bridge 0) writeHbm with | .ok _ => true | _ => false) = true := by decide +kernel
theorem met_credit_kind : pKind (mkCredit []) = 0 ∧ pCtl (mkCredit []) = 1 ∧ ctlMalformed (mkCredit []) = false ∧ checkOk (mkCredit []) = true := by
  decide +kernel
theorem met_credit : bound.sw.ingressOpen (.port 5) = true := by decide +kernel
/-- A difference is taken modulo 2^16: from 65,530 to 4 is 10 cells (R66). -/
theorem test_credit_wraps :
    after (.creditReceive 5 (mkCredit [4])) (with_ (fun s => (lanes s).setCredit 5 0 { tx := 1, rxLast := 65530 }))
      (fun s => (s.credit 5 0).tx == 11 && (s.credit 5 0).rxLast == 4) = true := by decide +kernel
theorem met_failed_check : bound.sw.ingressOpen (.port 5) = true ∧ checkOk (hset writeHbm 240 16 0) = false ∧
    pCtl (hset writeHbm 240 16 0) ≠ 1 ∧ checkOk (hset (mkCredit []) 240 16 0) = false ∧ pCtl (hset (mkCredit []) 240 16 0) = 1 ∧
    State.reset.sw.ingressOpen (.port 5) = false := by decide +kernel
theorem met_bridge_packet :
    (let v := bound.sw.beginRx 512 writeHbm
     bound.sw.ingressOpen (.bridge 0) && decide (bound.sw.fab.arriving.get? 512 = none) && checkOk writeHbm && pCtl writeHbm != 1 &&
      !hdrMalformed writeHbm && decide (hOff writeHbm + 64 * hPlen writeHbm ≤ 2 ^ 40) && bound.sw.own (hDst writeHbm) &&
      (List.range 8).all (fun k => bound.sw.rd (L.mirKind.atIdx k) != 4) && bound.sw.guarding 0 &&
      decide (v.checks 0 none (pSrc writeHbm) (hDst writeHbm) (hOff writeHbm) (touched writeHbm) (pKind writeHbm)
        (hTen writeHbm) true = .ok) && !bound.sw.bil.rebuild.contains 0 &&
      (match Sw.allocCells (cellsOf (hPlen writeHbm)) v 0 (.bridge 0) (some 1) with | .ok _ => true | .error _ => false)) = true := by
  decide +kernel
/-- 40 + 64 bytes are one 256-byte cell, 40 + 64 × 4 are two (R101). -/
theorem test_cells : cellsOf 1 = 1 ∧ cellsOf 3 = 1 ∧ cellsOf 4 = 2 ∧ cellsOf 64 = 17 := by decide +kernel
theorem test_bridge_packet_joins : after (.dataHeaderReceive (.bridge 0) writeHbm) bound
    (fun s => s.fab.pkts.map (fun k => (k.cells, k.inBil.length)) == [(1, 1)]) = true := by decide +kernel
/-- Without a binding of the granule check 3 denies the packet: it joins nothing (14 R565). -/
theorem test_unbound_granule_denied :
    (with_ lanes).sw.checks 0 none 0x100 0xFFE1 0 64 0 1 true = .three := by decide +kernel

/-- A lone control packet of die 0 bound for port 64 of die 1, and one that stays on its die. -/
def lone (c : CPkt) : State := with_ (fun s => { s with fab := { s.fab with ctl := [c] } })
def far : CPkt := { id := 1, pkt := 0, src := .service 0, inDie := 0, out := .port 130, egDie := 1 }
def near : CPkt := { id := 1, pkt := 0, src := .service 0, inDie := 0, out := .port 5, egDie := 0 }
theorem met_lone_control : (lone far).sw.fab.ctl = [far] ∧ (lone far).sw.fab.pkts = [] ∧ (lone far).sw.fab.xm = [] ∧ far.atEg = false ∧
    far.at_ = 0 ∧ far.inDie ≠ far.egDie ∧ far.link = false ∧ (lone far).sw.pairStopped far.inDie far.egDie = false ∧ near.at_ = 0 ∧
    near.inDie = near.egDie ∧ pKind near.pkt ≠ 2 ∧ State.reset.sw.fab.ctl = [] := by decide +kernel
theorem test_lone_control : after (.crossbarCellSlot 0) (lone far) (fun s => decide (s.fab.ctl = [{ far with link := true }])) = true ∧
    after (.crossbarCellSlot 0) (lone near)
      (fun s => decide (s.fab.ctl = [{ near with atEg := true, ord := State.reset.sw.fab.nextOrd + 1 }])) = true := by decide +kernel
/-- A lone data packet of four cells at port 5: two have arrived, one has moved. -/
def cellPkt : DPkt := { id := 1, hdr := writeHbm, src := .service 0, inDie := 0, out := .port 5, egDie := 0, cells := 4, here := 2, moved := 1
                        inBil := [7] }
def packet (k : DPkt) : State := with_ (fun s => { s with fab := { s.fab with pkts := [k] } })
theorem met_lone_cell : (packet cellPkt).sw.fab.pkts = [cellPkt] ∧ (packet cellPkt).sw.bil.waits = [] ∧ cellPkt.wait = false ∧
    cellPkt.fan = none ∧ 0 < cellPkt.moved ∧ cellPkt.moved < cellPkt.here ∧ cellPkt.moved + 1 < cellPkt.cells := by decide +kernel
theorem test_lone_cell : after (.crossbarCellSlot 0) (packet cellPkt)
    (fun s => s.fab.pkts.map (fun k => (k.moved, k.inBil, k.egBil)) == [(2, [], [7])]) = true := by decide +kernel
/-- A packet of one cell leaves port 5: its end word is still to come, or has come good or bad. -/
def outPkt (fin : Option Bool) : DPkt :=
  { id := 1, hdr := writeHbm, pay := zeros 64, fin := fin, src := .service 0, inDie := 0, out := .port 5, egDie := 0, cells := 1, here := 1
    moved := 1, stage := .leaving }
theorem met_leaving : (packet (outPkt none)).sw.leavingAt 5 = some (outPkt none) ∧
    (packet (outPkt (some true))).sw.leavingAt 5 = some (outPkt (some true)) ∧ pKind writeHbm ≠ 6 ∧
    (packet (outPkt (some true))).sw.flow (hFlow writeHbm) = none ∧ State.reset.sw.leavingAt 5 = none := by decide +kernel
/-- The end word inverts its check where the packet ends in poison, which is counted (R71, R75). -/
theorem test_leaving :
    after (.egressPacketComplete 5) (packet (outPkt (some true)))
      (fun s => s.fab.pkts.isEmpty && s.tx.contains (.data 5 writeHbm (zeros 64) (mkEnd writeHbm (zeros 64) true))) = true ∧
    after (.egressPacketComplete 5) (packet (outPkt (some false))) (fun s => s.fab.pkts.isEmpty && s.rd (L.fabRxPoisonMade.at 0) == 1 &&
      s.tx.contains (.data 5 writeHbm (zeros 64) (mkEnd writeHbm (zeros 64) false))) = true := by decide +kernel
/-- A packet with sequence number 3 is held, its flow expects 1, and the hole timer ends at 40. -/
def heldPkt : DPkt := { id := 1, hdr := hset writeHbm 120 32 3, src := .service 0, inDie := 0, out := .port 5, egDie := 0, cells := 1, here := 1
                        moved := 1, stage := .held }
def hole : State := (packet heldPkt).updSw (fun s => s.setFlow (hFlow writeHbm) { ten := 1, die := 0, expected := 1, timer := some 40 })
theorem met_hole_held : hSeq heldPkt.hdr = 3 ∧ hole.sw.heldPkts (hFlow writeHbm) = [heldPkt] ∧ hole.sw.pkt? 1 = some heldPkt ∧
    pKind heldPkt.hdr ≠ 3 ∧ hFlow writeHbm = flowKey 0x100 0xFFE1 0 0 := by decide +kernel
/-- The hole is 1 and 2: the packet held is delivered, and the fault names where the hole began and its length (R131, R133). -/
theorem test_hole : after (.holeTimerExpire 0x100 0xFFE1 0 0) hole
    (fun s => (s.flow (hFlow writeHbm)).any (fun f => f.expected == 3 && f.timer.isNone && f.current == some 1) && s.now == 40 &&
      s.rd (L.fwdReseqHoles.at 0) == 1 && s.fab.pkts.map DPkt.stage == [.queued]) = true := by decide +kernel
theorem met_hole_timer :
    (let s := with_ (fun s => s.setFlow (flowKey 1 2 3 4) { ten := 1, die := 0, timer := some 40 })
     (s.sw.flow (flowKey 1 2 3 4)).any (fun f => f.timer == some 40)) = true := by decide +kernel
theorem met_signal_hold :
    (let s := with_ (fun s => { s with fab := { s.fab with held := [⟨7, .port 5, 0, 40, 0⟩] } })
     (s.sw.fab.held.find? (fun h => decide (h.pkt = 7))).isSome) = true := by decide +kernel
theorem met_halving : (with_ (fun s => { s with fab := { s.fab with halve := [(4096 * 3 + 8 * 5 + 7, 40)] } })).sw.fab.halve.get?
    (4096 * 3 + 8 * 5 + 7) = some 40 := by decide +kernel
theorem test_halving_ends : after (.sprayHalvingExpire 3 5 7)
    (with_ (fun s => { s with fab := { s.fab with halve := [(4096 * 3 + 8 * 5 + 7, 40)] } }))
    (fun s => decide (s.fab.halve = []) && s.now == 40) = true := by decide +kernel
theorem met_depth_report : laneDie 5 ≠ (3 : Nat) := by decide +kernel

/-- Port 5 can send: Up, no packet leaving, room in its replay buffer. -/
def sending (s : State) : Bool :=
  s.sw.portUp 5 && s.sw.linkRuns 5 && decide (s.sw.leavingAt 5 = none) && decide ((s.sw.port 5).exitAt = none) &&
  !(s.sw.port 5).eidleTx && s.sw.role 5 != 3 && s.sw.linkRoom 5 1 40 && (s.sw.port 5).width == 1

theorem met_egress_credit : (sending bound && bound.sw.creditDue 5) = true := by decide +kernel
/-- A packet of class 7 waits at port 5 and no CREDIT is due. -/
def waits7 : State := with_ (fun s => (portAt 5 1 { sentTot := List.replicate 8 0 } s).placeCtl (.service 0) 0 (.port 5) 0
  (mkPkt [(5, 2, 1), (7, 1, 1), (8, 3, 7)]) |> fun s => { s with fab := { s.fab with ctl := s.fab.ctl.map (fun c => { c with atEg := true }) } })
theorem met_egress_class7 : (sending waits7 && !waits7.sw.creditDue 5 && (waits7.sw.ctlHead 5 7).isSome) = true := by decide +kernel
theorem test_egress_class7 : after (.egressSelect 5) waits7
    (fun s => s.tx.length == 2 && (match s.tx.head? with | some (.codeword p n m _) => p == 5 && n == 5 && fld m 272 16 == 0 && fld m 290 1 == 0 | _ => false) &&
      s.fab.ctl.isEmpty) = true := by decide +kernel

/-! ### 04: billets -/

theorem met_billet_served : (match State.reset.sw.allocate 2 (.target 0) (some 1) 257 with | .got _ _ => true | _ => false) = true := by
  decide +kernel
/-- Die 1 has no billet left in any pool. -/
def noBillet : State := with_ (fun s => (List.range 6).foldl (fun s p => s.setStore 1 p {}) s)
theorem met_billet_waits :
    (match noBillet.sw.allocate 1 (.target 0) (some 1) 65536 with | .got _ _ => false | _ => true) = true := by decide +kernel
theorem test_billet_waits : after (.billetAllocate 1 (.target 0) (some 1) 65536) noBillet
    (fun s => s.bil.waits.length == 1) = true := by decide +kernel
/-- A request of 65,537 bytes is answered with the null handle and does not wait (R163). -/
theorem test_billet_too_large : after (.billetAllocate 1 (.target 0) none 65537) noBillet
    (fun s => s.bil.waits.isEmpty && s.bil.granted.isEmpty) = true := by decide +kernel
/-- Core 3 has its home in pool 1 and a minimum of one billet on die 0. -/
def reserved : State := with_ (fun s => s.wr (L.bilCoreQuota.at 0) 3 (2 ^ 61 + 2 ^ 20 + 1000))
theorem met_reserve :
    (decide ((reserved.sw.ownerQuota 0 (.core 3)).home = poolFor 1024) && decide (0 < reserved.sw.ownerUnused 0 (.core 3)) &&
      decide ((reserved.sw.store 0 (poolFor 1024)).cache.head? = some (0, 448)) && !reserved.sw.bil.rebuild.contains 0) = true := by
  decide +kernel
/-- A billet of 1,024 bytes charges 1,024 bytes for a request of 300 (R162). -/
theorem test_reserve : after (.billetAllocate 0 (.core 3) none 300) reserved
    (fun s => s.bil.granted.map (fun g => (g.1, g.2.bytes)) == [(2 ^ 26, 1024)]) = true := by decide +kernel
def granted : State := with_ (fun s => { s with bil := { s.bil with granted := [(mkHandle 2 1 0, ⟨.target 0, none, 1024⟩)] } })
theorem met_billet_freed : granted.sw.bil.granted.get? (2 * 2 ^ 30 + 2 ^ 26) = some ⟨.target 0, none, 1024⟩ ∧
    handleDie (2 * 2 ^ 30 + 2 ^ 26) = 2 := by decide +kernel
/-- Pool 1 of die 2 with a full cache of 512 handles, beside the stack of its ring in reset. -/
def fullCache : State := granted.updSw (fun s => (s.setStore 2 1 { cache := [(0, 512)] }) |> fun s => { s with
  blkRst := [.stack (Fin.ofNat 6 (s.hbmStack (s.ringLineOf 2 1 0)).1)] })
theorem met_cache_full : runLen (fullCache.sw.store 2 1).cache = 512 ∧ fullCache.sw.ringReset 2 1 (fullCache.sw.store 2 1).head = true ∧
    runLen (granted.sw.store 2 1).cache < 512 := by decide +kernel
theorem test_free_waits : after (.billetFree 2 (.target 0) (BitVec.ofNat 32 (mkHandle 2 1 0))) fullCache
    (fun s => s.bilFree 2 1 == fullCache.sw.bilFree 2 1 && (s.store 2 1).late == [mkHandle 2 1 0]) = true ∧
    after (.billetFree 2 (.target 0) (BitVec.ofNat 32 (mkHandle 2 1 0))) granted
      (fun s => s.bilFree 2 1 == granted.sw.bilFree 2 1 + 1) = true := by decide +kernel
theorem test_free_foreign : stops (.billetFree 2 (.core 0) (BitVec.ofNat 32 (2 * 2 ^ 30 + 2 ^ 26))) granted 178 = true ∧
    stops (.billetFree 2 (.target 0) 5) granted 178 = true := by decide +kernel
/-- Caches at the boundary values: 127 takes a refill, 449 a writeback (R153). -/
def caches : State := with_ (fun s => (s.setStore 0 1 { cache := [(0, 127)], ring := [(200, 300)] }).setStore 0 2 { cache := [(0, 449)] })
theorem met_rings : runLen (caches.sw.store 0 1).cache = 127 ∧ runLen (caches.sw.store 0 2).cache = 449 ∧
    128 ≤ runLen (caches.sw.store 0 2).cache ∧ runLen (caches.sw.store 0 1).cache ≤ 448 ∧
    caches.sw.lineReset (caches.sw.ringLineOf 0 1 (caches.sw.store 0 1).head) = false ∧
    caches.sw.lineReset (caches.sw.ringLineOf 0 2 (caches.sw.store 0 2).head) = false := by decide +kernel
/-- The stack that holds the rings of die 0 is in reset. -/
def ringReset : State := caches.updSw (fun s => { s with blkRst := [.stack (Fin.ofNat 6 (s.hbmStack (s.ringLineOf 0 1 0)).1),
  .stack (Fin.ofNat 6 (s.hbmStack (s.ringLineOf 0 2 0)).1)] })
theorem met_ring_reset : ringReset.sw.lineReset (ringReset.sw.ringLineOf 0 1 (ringReset.sw.store 0 1).head) = true ∧
    ringReset.sw.lineReset (ringReset.sw.ringLineOf 0 2 (ringReset.sw.store 0 2).head) = true := by decide +kernel
theorem test_refill : after (.freeRingRefill 0 1 []) caches
    (fun s => runLen (s.store 0 1).cache == 383 && runLen (s.store 0 1).ring == 44) = true := by decide +kernel
theorem test_writeback : after (.freeRingWriteback 0 2) caches
    (fun s => runLen (s.store 0 2).cache == 193 && runLen (s.store 0 2).ring == 256) = true := by decide +kernel
/-- A bad line of the ring loses its 16 handles (R156). -/
theorem test_refill_bad : after (.freeRingRefill 0 1 [0]) caches
    (fun s => s.rd (L.bilLost.at 0) == 16 && runLen (s.store 0 1).cache == 367) = true := by decide +kernel
theorem met_pools : State.reset.busyFor 0x5000 1 = false ∧ State.reset.sw.coreQuenched = true ∧ bound.sw.coreQuenched = false ∧
    bound.busyFor 0x5000 1 = false := by decide +kernel
/-- A sum of 769 units is refused (R149). -/
theorem test_pool_sum : after (.poolUnitsWrite 0 [(0, 769), (1, 0), (2, 0), (3, 0), (4, 0)]) State.reset
    (fun s => s.rd (L.bilPoolUnits.at 0) 0 == State.reset.sw.rd (L.bilPoolUnits.at 0) 0) = true := by decide +kernel
theorem test_pool_fits : after (.poolUnitsWrite 0 [(0, 768), (1, 0), (2, 0), (3, 0), (4, 0)]) State.reset
    (fun s => s.rd (L.bilPoolUnits.at 0) 0 == 768 && s.bil.rebuild == [0] && s.bilFree 0 0 == 768 * 256) = true := by decide +kernel
theorem test_pool_not_quenched : stops (.poolUnitsWrite 0 [(0, 768)]) bound 630 = true := by decide +kernel
theorem met_deep : (State.reset.busyFor 0x5008 1 || !State.reset.sw.coreQuenched) = false ∧
    (State.reset.sw.wr (L.bilDeepGib.at 0) 0 16).reservedFree 0 = true ∧
    sumBy (fun k => (State.reset.sw.wr (L.bilDeepGib.at 0) 0 16).rd (L.bilDeepGib.at k)) (List.range 4) ≤ 64 := by decide +kernel
theorem met_rebuild_ends : (with_ (fun s => { s with bil := { s.bil with rebuild := [0] } })).sw.bil.rebuild.contains 0 = true := by
  decide +kernel
theorem met_quota :
    (let w := State.reset.sw.wr (quotaReg .ten 0 5).1 5 (quotaMask .ten 0)
     !State.reset.busyFor (quotaReg .ten 0 5).1.index 1 && decide (5 < quotaCount .ten) &&
       (List.range 5).all (fun p => decide (w.minima (quotaReg .ten 0 5).2 p ≤ w.bilCount (quotaReg .ten 0 5).2 p))) = true := by
  decide +kernel
/-- One request has waited on die 1. -/
def starved : State := with_ (fun s => { s with bil := { s.bil with waits := [⟨1, .target 0, some 1, 300, 0, false, .owner⟩] } })
theorem met_starved : ((starved.sw.bil.waits.filter (fun r => r.die == (1 : Fin 4).val))[0]?.any (fun r => !r.warned) &&
    starved.sw.rd L.bilWaitNs != 0) = true := by decide +kernel

/-! ### 05: Bellows -/

theorem met_bellows : (!State.reset.busyFor 0x5800 1 && !State.reset.busyFor 0x580D 1 && !State.reset.busyFor 0x580D 2 &&
    State.reset.sw.coreQuenched) = true := by decide +kernel
/-- A period of 1 ns is 500 ns, 0 stays 0 (R209). -/
theorem test_tel_period : after (.telPeriodWrite 1) State.reset (fun s => s.rd L.belTelPeriodNs == 500) = true ∧
    after (.telPeriodWrite 0) State.reset (fun s => s.rd L.belTelPeriodNs == 0) = true := by decide +kernel
theorem met_bel_entry : (let r := belReg .tenCir 3
    !State.reset.busyFor r.1.index r.1.sub && decide (255 < r.2) && !State.reset.sw.belBad .tenCir 255 1) = true := by decide +kernel
/-- A write of `bel.tq` while the tenancy concerned is not quenched is an undefined use (R217). -/
theorem met_bel_undefined : (let r := belReg .tq 0
    !bound.busyFor r.1.index r.1.sub && decide (1 < r.2) && bound.sw.belBad .tq 1 1) = true := by decide +kernel
theorem test_bel_undefined : stops (.bellowsParamWrite .tq 0 1 1) bound 217 = true := by decide +kernel
/-- Telemetry on, with a ring of 1 MiB. -/
def telOn : State := with_ (fun s => ((((s.wr L.linkPortWidth 5 1).wr (L.belTelSel.at 0) 0 (2 ^ 286)).wr L.belTelPeriodNs 0 1000).wr
  L.belTelRingMib 0 1) |> fun s => { s with now := 1001 })
theorem met_sweep : telOn.sw.rd L.belTelPeriodNs ≠ 0 ∧ telOn.sw.rd L.belTelRingMib ≠ 0 ∧ telOn.sw.pwr.state ≠ .parked ∧
    telOn.sw.rd (L.belTelWp.at 0) + 1024 ≤ 256 ^ L.belTelWp.width ∧ (telOn.sw.telQueues 0)[0]? = some 286 := by decide +kernel
theorem met_sweep_ring : ∀ a, telOn.sw.lineReset a = false ∧ telOn.sw.lineBad (a / 64) = false := fun _ => ⟨rfl, rfl⟩
/-- The sweep starts at the next whole multiple of the period (R209). -/
theorem test_sweep_time : after (.telemetrySweep 0) telOn (fun s => s.now == 2000 && s.rd (L.belTelWp.at 0) == 1) = true := by decide +kernel

/-! ### 07, 10: collectives -/

/-- Group 7 of tenancy 1, class 1, two members in all (Table 10.3); `top`: this switch is its top, else its parent is 0x40. -/
def groupWord (top : Bool) : Nat := 2 ^ 511 + (if top then 2 ^ 509 else 0) + 2 ^ 506 + 2 ^ 480 + 0x40 * 2 ^ 464 + 2 * 2 ^ 447

/-- Group 7 with endpoint 0x100 as its member here. -/
def grouped (top : Bool) : Sw → Sw := fun s => (s.wr L.collGroup 7 (groupWord top)).wr L.collCoord 0x100 (2 ^ 63)

/-- A data packet of group 7 and `cseq` 6. -/
def collData (kind level src : Nat) : Word256 :=
  mkPkt [(0, 5, kind), (5, 2, 1), (8, 3, 1), (24, 16, src), (40, 7, 1), (96, 16, 0xFFE0), (112, 8, 1), (152, 12, 7), (164, 32, 6),
    (228, 2, level)]

/-- A context of die 0 bound to group 7, its slot 0 holding `y`. -/
def slotted (top : Bool) (y : Slot) : State := with_ (fun s =>
  (grouped top s).updAnv (fun a => { a with ctx := [(3, { ten := 1, group := 7, slot0 := { y with cseq := 6 } })] }))

theorem met_coll_packets :
    [(4, 1), (5, 1), (4, 0), (5, 0), (5, 2), (6, 0), (6, 2)].all (fun (kl : Nat × Nat) =>
      pKind (collData kl.1 kl.2 0x100) == kl.1 && kLevel (collData kl.1 kl.2 0x100) == kl.2) = true := by decide +kernel
theorem met_withdraw_and_abort :
    (let w := mkWithdraw 0x100 0xFFE0 1 0 6 7
     let a := mkColl 0x100 0xFFE0 1 0 2 4 0 6 7 0
     let s := (with_ (grouped true)).sw
     pKind w == 5 && !s.collWaits 7 && !(s.takeCtl w).collDenied (wGroup w) (cTen w) (pSrc w) none && wSlot w == 0 &&
     !(s.takeCtl w).collStaleFor (wGroup w) (wCseq w) &&
     pKind a == 4 && oOp a == 2 && !(s.takeCtl a).collDenied (oGroup a) (cTen a) (pSrc a) none && oStatus a == 4) = true := by
  decide +kernel
/-- Contributions wait at the service ID, one good and one for another ID. -/
def arrived : State := slotted false { st := .gathering } |>.updSw (fun s => { s with fab := { s.fab with
  svcIn := [⟨collData 4 0 0x100, zeros 64, [], 0⟩, ⟨collData 5 2 0x100, zeros 64, [], 0⟩] } })
/-- `s` with a data packet of no bytes that waits at the service ID. -/
def inbox (h : Word256) (s : Sw) : Sw := { s with fab := { s.fab with svcIn := [⟨h, [], [], 0⟩] } }
/-- The group's machinery waits: its core 9 has no room for the event it is due (R444). -/
def stuck : State := with_ (fun s => { inbox (collData 6 0 0x40) (s.wr L.collGroup 7 (groupWord false + 4 * 2 ^ 500 + 9 * 2 ^ 494)) with
  anv := { s.anv with late := [(9, zeros 16)] } })
theorem met_machinery_waits : stuck.sw.collWaits 7 = true ∧ arrived.sw.collWaits 7 = false ∧
    stuck.sw.svcHas (collData 6 0 0x40) [] = true := by decide +kernel
theorem met_contributions : hDst (collData 4 0 0x100) = arrived.sw.svcEp ∧ arrived.sw.svcHas (collData 4 0 0x100) (zeros 64) = true ∧
    arrived.sw.svcHas (collData 5 2 0x100) (zeros 64) = true ∧ State.reset.sw.svcHas (collData 4 0 0x100) (zeros 64) = false := by
  decide +kernel
theorem test_contribution_elsewhere :
    (match exec (.anvilContribution (collData 4 0 0x100) (zeros 64)) State.reset with
     | .next t => decide (t = State.reset) | _ => false) = true := by decide +kernel
theorem met_from_parent :
    (let c := mkColl 0x40 0xFFE0 1 0 1 0 0 6 7 0
     let e := mkColl 0x40 0xFFE0 1 0 3 0 0 6 7 0
     let s := (slotted false { st := .draining }).sw
     pKind c == 4 && oOp c == 1 && (s.takeCtl c).fromParent (oGroup c) (cTen c) (pSrc c) && oOp e == 3 &&
     ((inbox (collData 6 0 0x40) s).takeIn (collData 6 0 0x40) []).fromParent 7 1 0x40 &&
     !s.collWaits 7 && decide ((s.takeIn (collData 6 0 0x40) []).liveSlot ((s.takeIn (collData 6 0 0x40) []).blockDie (bNum (collData 6 0 0x40))) 1 7 6 =
       some 3)) = true := by decide +kernel
/-- From the parent and not stale; the slot here holds digest 0, that of the packet, or no digest. -/
theorem met_parent_digest :
    (let h := collData 6 0 0x40
     let u (d : Option Nat) : Sw := (slotted false { st := .draining, digest := d }).sw.takeIn h []
     !(u (some 0)).collStaleFor 7 6 && !(u (some 0)).digestDiffers 3 6 h && (u none).digestDiffers 3 6 h &&
     decide ((with_ (grouped false)).sw.liveSlot ((with_ (grouped false)).sw.blockDie (bNum h)) 1 7 6 = none)) = true := by decide +kernel
/-- From the parent, and stale: `cseq` 6 is closed. -/
theorem met_parent_stale :
    (let c := mkColl 0x40 0xFFE0 1 0 1 0 0 6 7 0
     let s := (with_ (fun s => ((grouped false s).wr L.collClosed 7 6).updAnv (fun a => { a with closed := [7] }))).sw
     (s.takeCtl c).fromParent (oGroup c) (cTen c) (pSrc c) && (s.takeCtl c).collStaleFor (oGroup c) (oCseq c) &&
     (s.takeIn (collData 6 2 0x40) []).fromParent 7 1 0x40 && (s.takeIn (collData 6 2 0x40) []).collStaleFor 7 6) = true := by
  decide +kernel
theorem met_not_from_parent :
    (let c := mkColl 0x41 0xFFE0 1 0 1 0 0 6 7 0
     let s := (slotted false { st := .draining }).sw
     !(s.takeCtl c).fromParent (oGroup c) (cTen c) (pSrc c) && !(s.takeIn (collData 6 2 0x41) []).fromParent 7 1 0x41) = true := by
  decide +kernel
/-- Denied: the group is not valid. -/
theorem met_coll_denied :
    (let s := inbox (collData 4 1 0x100) State.reset.sw
     let u := (s.takeKeep (collData 4 1 0x100) []).2
     s.svcHas (collData 4 1 0x100) [] && !s.collWaits 7 && u.anv.admq.isEmpty && u.collDenied 7 1 0x100 (some 1) && u.epKind 0x100 != 1) = true := by decide +kernel
theorem met_contribution_denied :
    (let s := with_ (fun s => { s with fab := { s.fab with svcIn := [⟨collData 4 0 0x100, [], [], 0⟩] } })
     let k := s.sw.takeKeep (collData 4 0 0x100) []
     decide (hDst (collData 4 0 0x100) = s.sw.svcEp) && s.sw.svcHas (collData 4 0 0x100) [] && k.2.collDenied 7 1 0x100 (some 0) &&
     k.2.anv.admq.isEmpty) = true := by decide +kernel
theorem test_coll_denied : after (.collDescriptorReceive (collData 4 1 0x100) []) (with_ (inbox (collData 4 1 0x100)))
    (fun s => s.rd (L.collDenied.at s.anvilLow) == 1 && decide (s.fab = State.reset.sw.fab)) = true := by decide +kernel
/-- Stale: `cseq` 6 is closed, and 6 is not later than 6 (R419). -/
def closed6 : State := with_ (fun s => ((grouped true s).wr L.collClosed 7 6).updAnv (fun a => { a with closed := [7] }))
theorem met_coll_stale :
    (let u := ((inbox (collData 4 1 0x100) closed6.sw).takeKeep (collData 4 1 0x100) []).2
     u.anv.admq.isEmpty && !u.collDenied 7 1 0x100 (some 1) && u.collStaleFor 7 6) = true := by decide +kernel
theorem test_coll_stale : after (.collDescriptorReceive (collData 4 1 0x100) []) (closed6.updSw (inbox (collData 4 1 0x100)))
    (fun s => s.rd (L.collStale.at s.anvilLow) == 1 && s.rd (L.collDenied.at s.anvilLow) == 0) = true := by decide +kernel
theorem met_root_engine_awake : State.reset.sw.unitAwake (.anvil 3) = true ∧
    (with_ (fun s => { s with pwr := { s.pwr with parked := [.anvil 3] } })).sw.unitAwake (.anvil 3) = false := by decide +kernel
/-- A barrier of one block, committed, at the top. -/
def finished : State := with_ (fun s => ((grouped true s).updAnv (fun a => { a with
  ctx := [(3, { ten := 1, group := 7, slot0 := { st := .draining, cseq := 6, word := some (5 * 2 ^ 128) } })]
  colls := [{ ten := 1, group := 7, cseq := 6, commits := 1 }] })))
theorem met_collective_finish : finished.sw.mayFinish 1 7 6 = true ∧ State.reset.sw.mayFinish 1 7 6 = false := by decide +kernel
theorem met_abort_write : State.reset.busyFor 0x7800 4 = false := by decide +kernel
theorem met_cross_die_abort : ((slotted true { st := .aborting }).sw.collSlots 1 7 6).any (fun cy => cy.2.st == .aborting) = true := by
  decide +kernel

/-- A context whose linger time ends at 40, with `cseq` 6 closed. -/
def lingering : State := with_ (fun s => (grouped true s).updAnv (fun a => { a with
  ctx := [(3, { ten := 1, group := 7, slot0 := { st := .closed, cseq := 6 }, linger := some 40 })] }))
theorem met_linger : (lingering.sw.anv.ctx.get? 3).any (fun x => x.linger == some 40 && x.slot0.st == .closed && x.slot1.st != .closed) = true ∧
    lingering.sw.anv.admq = [] ∧ lingering.sw.anv.closed.contains 7 = false := by decide +kernel
theorem test_linger : after (.anvilLingerExpire 3) lingering
    (fun s => s.anv.ctx.isEmpty && s.rd L.collClosed 7 == 6 && s.anv.closed == [7] && s.now == 40) = true := by decide +kernel
/-- A held value of block 2, ranks 0 to 0, that spills at 40. -/
def holding (it : Item) : State := slotted true { st := .gathering, word := some 0, blocks := [{ num := 2, items := [it] }], stallAt := some 80 }
theorem met_spill : (holding { lo := 0, hi := 1, vals := some [], due := some 40 }).sw.nodeAt 3 0 ⟨2, 0, 1⟩ =
    some { lo := 0, hi := 1, vals := some [], due := some 40 } := by decide +kernel
/-- The spill area has no slot by default, 16,384 for 1 GiB (R291). -/
def spilling : State := (holding { lo := 0, hi := 1, vals := some [5], due := some 40 }).updSw (fun s => s.wr (L.anvilSpillGib.at 0) 0 1)
theorem met_spill_area :
    (let u := (spilling.sw.reach 40).updItem 3 0 ⟨2, 0, 1⟩ (fun x => { x with due := none })
     let bs := [5].flatMap (fun v => leBytes (spillWidth 0) (spillEnc 0 v))
     (u.spillSlot 0).any (fun a => !u.linesReset a (cdiv bs.length 64)) && (u.slot 3 0).word == some 0 &&
     (((holding { lo := 0, hi := 1, vals := some [], due := some 40 }).sw.reach 40).spillSlot 0).isNone) = true := by decide +kernel
theorem met_spill_reset :
    (let s := spilling.updSw (fun s => { s with blkRst := (List.range 6).map (fun n => .stack (Fin.ofNat 6 n)) })
     let u := (s.sw.reach 40).updItem 3 0 ⟨2, 0, 1⟩ (fun x => { x with due := none })
     (u.spillSlot 0).any (fun a => u.linesReset a 1)) = true := by decide +kernel
theorem test_spill : after (.anvilSpillTimeout 3 0 ⟨2, 0, 1⟩) spilling
    (fun s => s.rd (L.anvilSpills.at 0) == 1 && (s.nodeAt 3 0 ⟨2, 0, 1⟩).any (fun it => it.spill.isSome && it.vals.isNone)) = true := by
  decide +kernel
/-- A spilled value at offset 4096, its lines good, and with a bad first line. -/
def spilt (bad : List Nat) : State := (holding { lo := 0, hi := 1, vals := none, spill := some 4096 }).updSw (fun s => { s with hbmBad := bad })
theorem met_readback :
    (let s := (spilt []).sw
     (s.nodeAt 3 0 ⟨2, 0, 1⟩).any (fun it => it.spill == some 4096) && (s.slot 3 0).word == some 0 &&
     (s.lineFetch 4096 rdAnvil []).1.isSome && ((spilt [64]).sw.lineFetch 4096 rdAnvil []).1.isNone &&
     ((s.lineFetch 4096 rdAnvil []).2.readLines 4096 (cdiv (elemsOf (dColl 0) 0 2 * spillWidth 0) 64) rdAnvil).1.isSome &&
     ((((spilt [65]).sw.lineFetch 4096 rdAnvil []).2.readLines 4096 (cdiv (elemsOf (dColl 0) 0 2 * spillWidth 0) 64) rdAnvil).1.isNone ||
       decide (cdiv (elemsOf (dColl 0) 0 2 * spillWidth 0) 64 ≤ 1))) = true := by decide +kernel
/-- A data packet waits in the admission queue of die 0 until 40. -/
def admitting : State := with_ (fun s => (grouped true s).updAnv (fun a => { a with admq := [⟨0, false, ⟨collData 4 0 0x100, [], [], 0⟩, some 40, []⟩] }))
theorem met_context_starvation : ((admitting.sw.anv.admq.filter (fun e => e.die == (0 : Fin 4).val))[0]?.any
    (fun e => e.due == some 40 && !e.ctl)) = true := by decide +kernel
theorem met_stall :
    (let s := (holding { lo := 0, hi := 1, vals := some [] }).sw
     (s.anv.ctx.get? 3).isSome && (s.slot 3 0).stallAt == some 80 && (s.slot 3 0).st == .gathering) = true := by decide +kernel
def committed : State := with_ (fun s => (grouped true s).updAnv (fun a => { a with
  ctx := [(3, { ten := 1, group := 7, slot0 := { st := .draining, cseq := 6 } })]
  colls := [{ ten := 1, group := 7, cseq := 6, commitAt := [(2, 12)] }] }))
theorem met_staging :
    (let s := committed.sw
     let x : Ctx := { ten := 1, group := 7, slot0 := { st := .draining, cseq := 6 } }
     decide (s.anv.ctx.get? 3 = some x) && (s.coll x.ten x.group (x.slot 0).cseq).commitAt.find? (fun e => e.1 == 2) == some (2, 12) &&
     (s.blockResults 0 x.ten x.group (x.slot 0).cseq 2 (x.slot 0)).isEmpty && (s.coll x.ten x.group (x.slot 0).cseq).staged.all (fun z => z.block != 2)) = true := by decide +kernel

/-- A RESULT of the block waits, and the spill area has a slot; its stack runs, or is in reset. -/
def staging (gone : List Block) : State := committed.updSw (fun s => { ((s.wr (L.anvilSpillGib.at 0) 0 1).wr L.tenEp 0x100 0x80010205) with
  blkRst := gone
  fab := { s.fab with pkts := [{ id := 1, hdr := hset (hset (collData 6 0 s.svcEp) 72 24 2) 96 16 0x100, src := .service 0
                                 inDie := 0, out := .port 5, egDie := 0, cells := 1, stage := .voq }] } })
theorem met_staging_waits :
    (let s := (staging []).sw
     let x : Ctx := { ten := 1, group := 7, slot0 := { st := .draining, cseq := 6 } }
     let u := s.reach 12
     (u.spillSlot 0).any (fun a => !u.linesReset a 1024) &&
     ((((staging ((List.range 6).map (fun n => .stack (Fin.ofNat 6 n)))).sw.reach 12).spillSlot 0).any (fun a =>
       ((staging ((List.range 6).map (fun n => .stack (Fin.ofNat 6 n)))).sw.reach 12).linesReset a 1024)) &&
     !(u.blockResults 0 x.ten x.group (x.slot 0).cseq 2 (x.slot 0)).isEmpty) = true := by decide +kernel
theorem met_group_free : State.reset.busyFor 0x7803 1 = false ∧ State.reset.sw.groupBusy 7 = false ∧ State.reset.sw.agrHolds 7 = false := by
  decide +kernel
theorem met_group_busy : lingering.sw.groupBusy 7 = true ∧ lingering.busyFor 0x7803 1 = false := by decide +kernel
theorem test_group_busy : stops (.groupEntryWrite 7 0) lingering 451 = true := by decide +kernel
/-- Counter 5 is bound to group 7 and holds a round. -/
def rounds : State := with_ (fun s => { (s.wr L.agrBind 5 0x80010007) with agr := [(5, { st := .gathering })] })
theorem met_group_round : rounds.sw.groupBusy 7 = false ∧ rounds.sw.agrHolds 7 = true := by decide +kernel
theorem test_group_round : stops (.groupEntryWrite 7 0) rounds 484 = true := by decide +kernel
theorem met_group_classes : gClass (groupMask (7 * 2 ^ 506)) = 7 ∧ gClass (groupMask (2 ^ 506)) ≠ 7 ∧
    gUcount (groupMask (6 * 2 ^ 148)) ≤ 6 ∧ gValid (groupMask (2 ^ 506)) = false := by decide +kernel
/-- Program 4 of the library, and core 9 bound to tenancy 1. -/
def library : State := with_ (fun s => { (s.wr L.tenCore 9 0x80000001) with lib := [(4, ⟨4, 1, 0, [0x73, 0, 0x10, 0]⟩)] })
/-- An entry valid with program 4 on core 9. -/
def progWord : BitVec 512 := BitVec.ofNat 512 (groupWord true + 4 * 2 ^ 500 + 9 * 2 ^ 494)
theorem met_group_program :
    (let g := groupMask progWord.toNat
     gClass g == 1 && decide (gUcount g ≤ 6) && gValid g && !gReg g && gProg g == 4 && gCore g == 9 && !(library.sw.core 9).running &&
     boundTo (library.sw.rd L.tenCore 9) (gTen g) && (library.sw.lib.get? 4).isSome && !library.busyFor 0x7803 1 &&
     !library.sw.groupBusy 7 && !library.sw.agrHolds 7) = true := by decide +kernel
/-- The core starts at address 0 with the group number in a0 (R443). -/
theorem test_group_program : after (.groupEntryWrite 7 progWord) library
    (fun s => (s.core 9).running && (s.core 9).pc == 0 && (s.core 9).reg 10 == 7 && memRd (s.core 9).mem 2 == 0x10) = true := by
  decide +kernel

/-! ### 10: clause cores -/

/-- Core 9, of tenancy 1, runs the instruction words `is` from address 0; a0 to a2 hold `a`, `b`, `c`. -/
def running (is : List Nat) (a b c : Nat) : State := with_ (fun s => (s.wr L.tenCore 9 0x80000001).setCore 9
  { regs := [(10, a), (11, b), (12, c)], running := true, mem := memWrs [] 0 (is.flatMap (leBytes 4)) })

theorem met_core_idle : State.reset.sw.coreReady 9 = false := by decide +kernel
theorem met_core_ready : (running [] 0 0 0).sw.coreReady 9 = true ∧ (running [] 0 0 0).sw.elems L.collGroup = [] ∧
    (running [] 0 0 0).sw.anv.admq = [] := by decide +kernel
/-- ADDI a0, a1, -1 is 0xFFF58513. -/
theorem test_core_addi : after (.rv32imcInstruction 9) (running [0xFFF58513] 0 0 0)
    (fun s => (s.core 9).reg 10 == 0xFFFFFFFF && (s.core 9).pc == 4 && (s.core 9).reg 11 == 0) = true := by decide +kernel
/-- EBREAK (0x00100073), and an instruction of zero bytes, halt the core (R446). -/
theorem met_core_halts : (match ((running [0x00100073] 0 0 0).sw.core 9).step with | .halt => true | _ => false) = true ∧
    (match ((running [] 0 0 0).sw.core 9).step with | .halt => true | _ => false) = true := by decide +kernel
/-- TIME is funct3 7, funct7 0 of major opcode 0b0001011 (R445): TIME a0, a1 is 0x0005F50B. -/
theorem test_time_encoding : (match ((running [0x0005F50B] 0 1 0).sw.core 9).step with
    | .ext f3 f7 rd a _ => f3 == 7 && f7 == 0 && rd == 10 && a == 11 | _ => false) = true := by decide +kernel
theorem test_time_high : after (.time 9 10 11) { running [] 0 1 0 with sw := { (running [] 0 1 0).sw with now := 5 * 2 ^ 32 + 3 } }
    (fun s => (s.core 9).reg 10 == 5 && (s.core 9).pc == 4) = true := by decide +kernel
/-- Every extension completes on a core that runs. -/
def okSw (r : Except Nat Sw) : Bool := match r with | .ok _ => true | .error _ => false
theorem met_core_goes : (match ((running [0xFFF58513] 0 0 0).sw.core 9).step with | .go _ => true | _ => false) = true := by decide +kernel
theorem met_extensions :
    (let s := (running [] 0 0 0).sw
     okSw (s.opEvwait 9 10 0) && okSw (s.opEvpoll 9 10 0) && okSw (s.opBalloc 9 10 256) && okSw (s.opBallocn 9 10 256) &&
     okSw (s.opHjob 9 10 0 0) && okSw (s.opSjob 9 10 0 0) && okSw (s.opCabort 9 0 0) && okSw (s.opGather 9 0 0) && okSw (s.opTime 9 10 0) &&
     okSw (s.opMove 9 10 65536)) = true := by decide +kernel
/-- A local control packet in the core's tenancy: the bytes of an AGREE at address 64. -/
def sends : State := with_ (fun s => (s.wr L.tenCore 9 0x80000001).setCore 9
  { regs := [(10, 64)], running := true, mem := memWrs [] 64 (wordBytes (mkAgree 0xFFE0 0x100 1 0 0 3 0 1 0 7)) })
theorem met_pktsend : okSw (sends.sw.opPktsend 9 10 64) = true ∧
    (let w : Word256 := BitVec.ofNat 256 (leNat (memRds (sends.sw.core 9).mem 64 32))
     pCtl w == 1 && !ctlMalformed w && cTen w == sends.sw.coreTen 9) = true := by decide +kernel
/-- Core 9 holds a billet of 256 bytes. -/
def holds : State := with_ (fun s => { (s.setCore 9 { regs := [(10, 5)], running := true }) with
  bil := { s.bil with granted := [(5, ⟨.core 9, none, 256⟩)] } })
theorem met_bfree : holds.sw.holdsBillet 9 5 = true ∧ holds.sw.holdsBillet 9 6 = false := by decide +kernel
/-- The billet that a MOVE record of zeros names, if it names one, has been freed, or none has. The places of the record's fields are
opaque constants of `Config` (log 45), so that no state shows what else its hypotheses say. -/
def moves0 : State := with_ (fun s => { s with bil := { s.bil with freed := [Config.moveField 3 0] } })
theorem met_move : moves0.sw.bil.freed.contains (Config.moveField 3 0) = true ∧
    State.reset.sw.bil.freed.contains (Config.moveField 3 0) = false := by
  exact ⟨by simp [moves0, with_, State.updSw], rfl⟩
theorem test_bfree_foreign : stops (.bfree 9 0) holds 178 = true := by decide +kernel
/-- The result of an allocation of 65,537 bytes is the null handle (R163). -/
theorem test_balloc_null : after (.balloc 9 12 10) (running [] 65537 0 0) (fun s => (s.core 9).reg 12 == 0xFFFFFFFF) = true := by
  decide +kernel
theorem test_evpoll_empty : after (.evpoll 9 12 10) (running [] 0 0 7) (fun s => (s.core 9).reg 12 == 0) = true := by decide +kernel
theorem met_event : (((running [] 0 0 0).updSw (fun s => s.setCore 9 { (s.core 9) with evq := [zeros 16] })).sw.core 9).evq = [zeros 16] := by
  decide +kernel
theorem met_core_allocates : (match (running [] 0 0 0).sw.allocate 0 (.core 9) (some 1) 256 with | .got _ _ => true | _ => false) = true ∧
    (running [] 0 0 0).sw.coreGroup 9 0 = false ∧ (running [] 0 0 0).sw.jobsQueued 0 < 256 ∧ (running [] 0 0 0).sw.opsQueued 0 < 16 ∧
    (running [] 0 0 0).sw.blkRst = [] := by decide +kernel
theorem met_no_event : ((running [] 65520 0 0).sw.core 9).evq = [] ∧ (running [] 65520 0 0).xreg 9 10 + 16 ≤ 65536 ∧
    65536 < (running [] 65473 0 0).xreg 9 10 + 64 := by decide +kernel
/-- LEXRD and LEXWR of `pwr.limit` (0xB000:1), word 0, by a core that may use every range. -/
def lexCore (a b : Nat) : State := (running [] a b 0).updSw (fun s => s.wr L.lexCoreMask 0 (2 ^ 36 - 1))
theorem met_lexrd :
    (match (lexCore (0xB000 * 256 + 1) 0).lexServe (coreJob 9 (0xB000 * 256 + 1) 0 0 4 []) with
     | .ok (st, bytes, t) => st == 0 && leNat bytes == 1650 && !t.sw.boot.asked | .error _ => false) = true := by decide +kernel
theorem met_lexwr_stall : wordLen 0x780003 0 = 4 ∧ (lexCore 0x780003 77).xreg 9 10 % 2 ^ 24 = 0x780003 ∧
    ((lexCore 0x780003 77).sw.core 9).sel = 0 ∧
    (lexCore 0x780003 77).lexCheck (coreJob 9 0x780003 0 1 4 (leBytes 4 77)) = 0 ∧ (lexCore 0x780003 77).sw.recd.st ≠ 1 ∧
    (lexCore 0x780003 77).unasked = true := by decide +kernel
theorem met_lexwr : wordLen (0xB000 * 256 + 1) 0 = 2 ∧
    (match (lexCore (0xB000 * 256 + 1) 900).lexServe (coreJob 9 (0xB000 * 256 + 1) 0 1 2 (leBytes 2 900)) with
     | .ok (st, _, t) => st == 0 && t.sw.rd L.pwrLimit == 900 && !t.sw.boot.asked | .error _ => false) = true := by decide +kernel
/-- Without the ranges of `lex.core.mask` a core is denied: status 6 (Table 15.5). -/
theorem test_lexwr_denied : after (.lexwr 9 12 10 11) (running [] (0xB000 * 256 + 1) 900 0)
    (fun s => (s.core 9).reg 12 == 6 && s.rd L.pwrLimit == 1650) = true := by decide +kernel
/-- A program image of four bytes for slot 4, signed by key 1 (R727), and a part that holds that key. The verification of its
signature is an opaque constant of `Config`, so that no state shows the two cases of it apart. -/
def progImage : Bytes := [0x47, 0x50, 0x56, 0x57, 1, 0, 1, 0, 4, 1, 4, 0, 0, 0] ++ zeros 18 ++ zeros 1312 ++ zeros 2420 ++ [0x73, 0, 0x10, 0]
def keyed : State := withSec (fun x => { x with keys := [(1, { hash := leNat (sha3 ((progImage.drop 32).take 1312)), fused := true })] })
theorem met_lib_load : progForm progImage = true ∧ byteAt progImage 8 = 4 ∧ byteAt progImage 9 = 1 ∧ keyed.busyFor 0x7805 2 = false ∧
    keyed.sec.err = false ∧ keyed.sw.lib.get? 4 = none := by decide +kernel
theorem met_lib_key : keyed.sec.keyHash 1 = some (leNat (sha3 ((progImage.drop 32).take 1312))) := by
  simp [keyed, withSec, State.updSec, Sec.keyHash, Sec.key, AMap.getD, AMap.get?, KeySlot.usable]
/-- The library holds a program in slot 4 already. -/
theorem met_lib_taken : (library.sw.lib.get? 4).isSome = true := by decide +kernel

/-! ### 08: Hearth -/

/-- A WRITE of one unit to the service ID at offset `off`, in tenancy 1. -/
def toService (off : Nat) : Word256 := mkPkt [(0, 5, 0), (5, 2, 1), (24, 16, 0x100), (40, 7, 1), (56, 40, off), (96, 16, 0xFFE0), (112, 8, 1)]
def jobWrite : Word256 := toService (State.reset.sw.rd L.hearthJobWin)

/-- Stack 0 and array 0 are in reset. -/
def inReset : State := with_ (fun s => { s with blkRst := [.stack 0, .array 0] })
theorem met_job_window : pKind jobWrite = 0 ∧ hOff jobWrite = State.reset.sw.rd L.hearthJobWin ∧ hPlen jobWrite = 1 ∧
    hTail jobWrite = 0 ∧ hPlen (hset jobWrite 40 7 2) ≠ 1 ∧ State.reset.sw.jobsQueued 0 < 256 ∧
    ((State.reset.sw.takeIn jobWrite (zeros 64)).blkRst.contains (.stack (Fin.ofNat 6 0))) = false ∧
    (inReset.sw.takeIn jobWrite (zeros 64)).blkRst.contains (.stack (Fin.ofNat 6 0)) = true ∧
    State.reset.sw.parkedNow = false := by
  decide +kernel
/-- Stack 0 has 256 jobs in its queue. -/
def full : State := with_ (fun s => { s with jobs := (List.range 256).map (fun i => { no := i, stack := 0, ten := 1, desc := 0 }) })
theorem met_queue_full : full.sw.jobsQueued 0 = 256 := by decide +kernel
theorem met_parked : ((with_ (fun s => { s with pwr := { s.pwr with state := .parked } })).sw.takeIn jobWrite (zeros 64)).parkedNow = true := by
  decide +kernel
/-- The 257th job is answered Busy and counted (R328). -/
theorem test_queue_full : after (.hearthJobSubmit jobWrite (zeros 64)) full
    (fun s => s.rd (L.hearthJobBusy.at 0) == 1 && s.jobs.length == 256) = true := by decide +kernel
theorem test_job_queued : after (.hearthJobSubmit jobWrite (zeros 64)) State.reset
    (fun s => s.jobs.map (fun j => (j.no, j.stack, j.ten)) == [(0, 0, 1)] && s.jobNo == 1) = true := by decide +kernel

/-- One job `j` on stack 0. -/
def oneJob (j : Job) : State := with_ (fun s => { (s.wr L.tenHearth 0 0x80000001) with jobs := [j] })
/-- A job queued after another of its tenancy (`after` is bit 42), and an earlier one that runs. -/
def behind : State := with_ (fun s => { s with jobs := [{ no := 1, stack := 0, st := .running, ten := 1, desc := 0 },
  { no := 2, stack := 0, ten := 1, desc := 2 ^ 42 }] })
theorem met_job_waits :
    ((behind.sw.jobs.find? (fun y => y.stack == (0 : Fin 6).val && y.st == .queued)).any
      (fun j => jAfter j.desc && !behind.sw.jobClear j)) = true := by decide +kernel
theorem test_job_waits : after (.hearthJobStart 0) behind (fun s => s.jobs.map Job.st == [.running, .waiting]) = true := by
  decide +kernel
theorem met_job_starts : ((oneJob { no := 2, stack := 0, ten := 1, desc := 0 }).sw.jobs.find?
    (fun y => y.stack == (0 : Fin 6).val && y.st == .queued)).any (fun j => !jAfter j.desc) = true := by decide +kernel
/-- A recipe job of 100 elements has two steps (R335). -/
def recipeJob : Job := { no := 2, stack := 0, st := .running, ten := 1, desc := 100, recipe := [0] }
theorem met_recipe :
    ((oneJob recipeJob).sw.job? 0 2 == some recipeJob && jKind recipeJob.desc == 0 && jobUnits recipeJob == 2 &&
      (oneJob recipeJob).sw.engineAwake 0 1 && !jobAliases recipeJob) = true := by decide +kernel
theorem test_recipe_step : after (.recipeStep 0 2 1) (oneJob recipeJob) (fun s => s.jobs.map Job.done == [[1]]) = true := by decide +kernel
/-- A job whose recipe stores stream 1 over stream 0, both at offset 0, uses its own output. -/
def aliasJob : Job := { recipeJob with recipe := [2 ^ 60, 2 * 2 ^ 60 + 2 ^ 38] }
/-- What a step leaves: the job runs on, and the step is done. -/
theorem test_recipe_goes_on : after (.recipeStep 0 2 1) (oneJob recipeJob)
    (fun s => (s.job? 0 2).any (fun k => k.st == .running && k.done == [1])) = true := by decide +kernel
theorem met_recipe_aliases : jobAliases aliasJob = true ∧ (oneJob aliasJob).sw.job? 0 2 = some aliasJob := by decide +kernel
/-- No completion record is asked for at an offset that is no multiple of 64, and no job waits. -/
theorem met_job_leaves : jCgfa (100 + 2 ^ 128) % 64 ≠ 0 ∧ recipeJob.core = none ∧
    ((oneJob { recipeJob with desc := 100 + 2 ^ 128, done := [0, 1] }).sw.jobs.all (fun y => y.st != .waiting)) = true := by decide +kernel
/-- A job with both its steps applied. -/
theorem met_job_done : (oneJob { recipeJob with done := [0, 1] }).sw.job? 0 2 = some { recipeJob with done := [0, 1] } ∧
    jobUnits recipeJob ≤ [0, 1].length := by decide +kernel
theorem test_job_done : after (.hearthJobComplete 0 2) (oneJob { recipeJob with done := [0, 1] }) (fun s => s.jobs.isEmpty) = true := by
  decide +kernel
/-- A copy of one line, kind 1, from HBM offset 4096 to offset 64 of the port behind ID index 4. -/
def copyJob : Job := { no := 3, stack := 0, st := .running, ten := 1, desc := 2 ^ 40 + 1
                       pblk := leBytes 8 4096 ++ leBytes 8 (0xFFE4 * 2 ^ 40 + 64) ++ zeros 112 }
def copying : State := (oneJob copyJob).updSw (fun s => { (s.setBport 0 { st := .ready, cap := 2 ^ 30 }) with hbm := [(4097, 7)] })
theorem met_copy :
    (copying.sw.job? 0 3 == some copyJob && jKind copyJob.desc == 1 && jobUnits copyJob == 1 &&
      stBase (streamEntry copyJob.pblk 0) == 4096 && cxlOf (fld (streamEntry copyJob.pblk 1) 40 16 % 32) 64 == (0, 64) &&
      (copying.sw.bport 0).st == .ready && !copying.sw.hostRole && copying.sw.hbmBad.isEmpty && !copying.sw.lineReset 4096 &&
      !copying.sw.pins.d2dFatal.contains (copying.sw.copyLink copyJob)) = true := by decide +kernel
/-- The link from the copy's HBM die to the bridge die has stopped. -/
theorem met_copy_stopped : (copying.updSw (fun s => { s with pins := { s.pins with d2dFatal := [14] } })).sw.pins.d2dFatal.contains
    (copying.sw.copyLink copyJob) = true := by decide +kernel
theorem test_copy : after (.copyLine 0 3 0) copying (fun s => s.cxl == [(65, 7)] && s.hbm == [(4097, 7)]) = true := by decide +kernel
theorem met_line_port : (64 : Nat) < State.reset.sw.hbmSize ∧ State.reset.sw.stackOk (State.reset.sw.hbmStack 64).1 = true ∧
    State.reset.sw.lineBad 1 = false ∧ State.reset.sw.lineReset 64 = false ∧ (64 : Nat) = 64 * (64 / 64) := by decide +kernel
/-- A line of zeros, in the words the ports decode. -/
def zeroLine : Bytes := State.reset.sw.hbmRd 64 64
/-- One symbol in error is corrected; two make the line uncorrectable. -/
theorem met_line_code : lineRead zeroLine [] = .clean zeroLine ∧ lineRead zeroLine [(3, 5)] = .corrected zeroLine ∧
    lineRead zeroLine [(3, 5), (60, 9)] = .bad ∧ (with_ (fun s => { s with hbmBad := [1] })).sw.lineBad 1 = true := by decide +kernel
/-- A pass of the line port of offset 64 is under way. -/
theorem met_patrol : (let s := (with_ (fun s => { s with scrub := s.scrub.set (s.portOfLine 64) (0, 86400) })).sw
    s.scrub.get? (s.portOfLine 64) == some (0, 86400) && decide (s.now < 0 + 86400 * 10 ^ 9) && !s.parkedNow &&
    State.reset.sw.scrub.get? (State.reset.sw.portOfLine 64) == none && (State.reset.sw.wr L.hbmScrubS 0 0).rd L.hbmScrubS == 0 &&
    (with_ (fun s => { s with pwr := { s.pwr with state := .parked } })).sw.parkedNow) = true := by decide +kernel
/-- A granule of stack 0 clears. -/
theorem met_clears : (with_ (fun s => { s with clr := [(0, [])] })).sw.clearsStack (State.reset.sw.hbmStack 0).1 = true ∧
    State.reset.sw.clearsStack 0 = false := by decide +kernel
/-- The last line of installed HBM is one; the next offset is absent (R308). -/
theorem met_line_port_last : State.reset.sw.hbmSize - 64 < State.reset.sw.hbmSize ∧
    State.reset.sw.stackOk (State.reset.sw.hbmStack (State.reset.sw.hbmSize - 64)).1 = true := by decide +kernel
theorem test_line_merge : after (.linePortAccess (2 ^ 30) (.merge 62 [1, 2]) []) State.reset
    (fun s => s.hbm == [(2 ^ 30 + 62, 1), (2 ^ 30 + 63, 2)]) = true := by decide +kernel
theorem met_line_plain : 544 * 2 ^ 20 ≤ 2 ^ 30 % State.reset.sw.dieRegion ∧ 64 % State.reset.sw.dieRegion < 544 * 2 ^ 20 := by
  decide +kernel
/-- A line of the free ring of pool 0 shows the handles behind the 448 of the cache, 16 to a line (R311, Table 4.1). -/
theorem test_ring_line : (State.reset.sw.lineBytes 64).take 4 = leBytes 4 (448 + 16) := by decide +kernel
/-- A whole-line write makes a bad line good again (R316). -/
theorem test_line_write : after (.linePortAccess 64 (.write (zeros 64)) [(3, 5), (60, 9)]) (with_ (fun s => { s with hbmBad := [1, 2] }))
    (fun s => s.hbmBad == [2]) = true := by decide +kernel

/-! ### 09: Swage -/

def opWrite : Word256 := toService (State.reset.sw.rd L.swageJobWin)
theorem met_op_window : pKind opWrite = 0 ∧ hOff opWrite = State.reset.sw.rd L.swageJobWin ∧ hPlen opWrite = 1 ∧ hTail opWrite = 0 ∧
    State.reset.sw.opsQueued 0 < 16 ∧ wArray (leNat (List.take 64 (zeros 64))) = 0 ∧
    (inReset.sw.takeIn opWrite (zeros 64)).blkRst.contains (.array (Fin.ofNat 16 0)) = true ∧
    (State.reset.sw.takeIn opWrite (zeros 64)).blkRst.contains (.array (Fin.ofNat 16 0)) = false := by decide +kernel
def sixteen : State := with_ (fun s => { s with ops := (List.range 16).map (fun i => { no := i, array := 0, ten := 1, desc := 0 }) })
theorem met_op_queue_full : sixteen.sw.opsQueued 0 = 16 := by decide +kernel
theorem test_op_queue_full : after (.swageOpSubmit opWrite (zeros 64)) sixteen
    (fun s => s.rd (L.swageBusy.at 0) == 1 && s.ops.length == 16) = true := by decide +kernel
theorem test_op_queued : after (.swageOpSubmit opWrite (zeros 64)) State.reset
    (fun s => s.ops.map (fun x => (x.no, x.array, x.ten)) == [(0, 0, 1)]) = true := by decide +kernel

/-- One operation `x` on array 0. -/
def oneOp (x : SwOp) : State := with_ (fun s => { s with ops := [x] })
/-- `after` (bit 10) behind an earlier operation of the tenancy on another array of the die. -/
def opBehind : State := with_ (fun s => { s with ops := [{ no := 1, array := 1, st := .running, ten := 1, desc := 0 },
  { no := 2, array := 0, ten := 1, desc := 2 ^ 10 }] })
theorem met_op_waits : (opBehind.sw.opHead 0).any (fun x => wAfter x.desc && !opBehind.sw.opClear x) = true ∧
    opBehind.sw.unitAwake (.swage 0) = true := by decide +kernel
theorem test_op_waits : after (.swageOpValidate 0) opBehind (fun s => s.ops.map SwOp.st == [.running, .waiting]) = true := by decide +kernel
/-- Descriptor fields: M, N, K of one, A and W in BF16 (format 2) at granule 1, C in BF16 at the switch's own HBM. -/
def opDesc (m n : Nat) : Nat := m * 2 ^ 160 + 2 ^ 128 + n * 2 ^ 48 + 2 * 2 ^ 112 + 2 * 2 ^ 96 + 2 * 2 ^ 80 +
  2 ^ 30 * 2 ^ 192 + (2 ^ 30 + 4096) * 2 ^ 232 + (2 ^ 56 + 0xFFE1 * 2 ^ 40 + 2 ^ 30 + 8192) * 2 ^ 352
/-- Array 0 and granule 1 of HBM belong to tenancy 1. -/
def opBound (d : Nat) : State := with_ (fun s => { ((s.wr L.tenHbm 1 0x80000001).wr L.tenSwage 0 0x80000001) with
  ops := [{ no := 2, array := 0, ten := 1, desc := d }] })
theorem met_op_format : (oneOp { no := 2, array := 0, ten := 1, desc := 2 ^ 11 }).sw.opHead 0 =
    some { no := 2, array := 0, ten := 1, desc := 2 ^ 11 } ∧ wAfter (2 ^ 11) = false ∧ swFormat (2 ^ 11) = true := by decide +kernel
theorem met_op_denied : swFormat (opDesc 1 1) = false ∧
    (oneOp { no := 2, array := 0, ten := 1, desc := opDesc 1 1 }).sw.swDenied { no := 2, array := 0, ten := 1, desc := opDesc 1 1 } = true := by
  decide +kernel
theorem met_op_runs :
    (let x : SwOp := { no := 2, array := 0, ten := 1, desc := opDesc 1 1 }
     !(opBound x.desc).sw.swDenied x && wM x.desc == 1 && wN x.desc == 1 && !(opBound x.desc).sw.swUndefined x) = true := by decide +kernel
/-- Two operations that write the same bytes are in flight (R401). -/
theorem met_op_undefined :
    (let x : SwOp := { no := 2, array := 0, ten := 1, desc := opDesc 1 1 }
     let s := (opBound x.desc).sw
     ({ s with ops := { x with no := 1, array := 1, st := .running } :: s.ops } : Sw).swUndefined x) = true := by decide +kernel
theorem met_op_empty :
    (let x : SwOp := { no := 2, array := 0, ten := 1, desc := opDesc 0 1 }
     !swFormat x.desc && !(opBound x.desc).sw.swDenied x && wM x.desc == 0) = true := by decide +kernel
theorem test_op_loads : after (.swageOpValidate 0) (opBound (opDesc 1 1))
    (fun s => s.ops.map (fun x => (x.st, x.shadow)) == [(.loading, some (0, 0))]) = true := by decide +kernel
def loadingOp (a : Nat) : SwOp := { no := 2, array := a, st := .loading, ten := 1, desc := opDesc 1 1, shadow := some (0, 0) }
/-- The lines of granule 1 are die 0's: array 4, of die 1, reads them over link 0. -/
def farOp : State := (oneOp (loadingOp 4)).updSw (fun s => { s with pins := { s.pins with d2dFatal := [0] } })
theorem met_op_loading : (oneOp (loadingOp 0)).sw.opIn 0 (fun st => st == .loading) = some (loadingOp 0) ∧
    (oneOp (loadingOp 0)).sw.linesReach 0 (loadLines (loadingOp 0)) = true ∧ (oneOp (loadingOp 0)).sw.op? 2 = some (loadingOp 0) ∧
    passesQ (loadingOp 0).desc ≠ 0 ∧ (loadingOp 0).active ≠ some (loadingOp 0).needs ∧
    (loadingOp 0).shadow = some (loadingOp 0).needs ∧ farOp.sw.linesReach 4 (loadLines (loadingOp 4)) = false := by decide +kernel
theorem test_op_loaded : after (.swageLoadComplete 0) (oneOp (loadingOp 0))
    (fun s => (s.op? 2).any (fun y => y.st == .running && y.active == some (0, 0) && !y.swap)) = true := by decide +kernel
/-- An operation of K = 513 has two passes (R366); its first pass is under way. -/
def passing : SwOp := { no := 2, array := 0, st := .running, ten := 1, desc := opDesc 1 1 + 512 * 2 ^ 128, begun := true
                        frame := List.replicate 32 { enc := 0 }, active := some (0, 0), shadow := some (1, 0) }
theorem met_op_passes : (oneOp passing).sw.opIn 0 (fun st => st == .running) = some passing ∧ passing.swap = false ∧
    passing.pass + 1 < passesQ passing.desc ∧ passing.wait = false ∧ passing.begun = true ∧ (oneOp passing).sw.op? 2 = some passing ∧
    (oneOp passing).sw.linesReach 0 (passLines passing) = true ∧ farOp.sw.linesReach 4 (passLines passing) = false := by decide +kernel
/-- Its second pass is the last of its last tile; with another operation of the array that drains, and without. -/
def lastPass : SwOp := { passing with pass := 1, active := some (1, 0), shadow := none }
def drainer (d : Nat) : SwOp := { no := 1, array := 0, st := .draining, ten := 1, desc := d, frame := List.replicate 32 { enc := 0 } }
theorem met_op_last : passesQ lastPass.desc ≤ lastPass.pass + 1 ∧ tilesU lastPass.desc * slicesV lastPass.desc ≤ lastPass.tile + 1 ∧
    ((oneOp lastPass).sw.opIn 0 (fun st => st == .draining)).isSome = false ∧
    ((with_ (fun s => { s with ops := [drainer (opDesc 1 1), lastPass] })).sw.opIn 0 (fun st => st == .draining)).isSome = true ∧
    ((with_ (fun s => { s with ops := [drainer (opDesc 1 1), lastPass] })).sw.opIn 0 (fun st => st == .running)) = some lastPass := by
  decide +kernel
theorem met_op_shadow : lastPass.shadow = none ∧ (oneOp lastPass).sw.opIn 0 (fun st => st == .running) = some lastPass ∧
    passing.shadow = some (1, 0) ∧ passing.swap = false ∧ ({ passing with pass := 1, swap := true } : SwOp).needs = (1, 0) := by
  decide +kernel
theorem test_shadow_turns : after (.shadowLoadComplete 0) (oneOp { passing with pass := 1, swap := true })
    (fun s => (s.op? 2).any (fun y => y.active == some (1, 0) && !y.swap)) = true := by decide +kernel
theorem met_op_swap : (oneOp { passing with swap := true }).sw.opIn 0 (fun st => st == .running) = some { passing with swap := true } := by
  decide +kernel
theorem met_op_draining : (oneOp { passing with st := .draining }).sw.opIn 0 (fun st => st == .draining) =
    some { passing with st := .draining } ∧
    ((oneOp { passing with st := .draining }).sw.opDone { passing with st := .draining } ({ passing with st := .draining } : SwOp).status
      .both).opIn 0 (fun st => st == .running) = none := by decide +kernel
/-- A drain to a spill buffer, with no completion record, and the same over a stopped link. -/
def spillDrain : SwOp := drainer (opDesc 1 1 + 2 ^ 8 + (2 ^ 30 + 8192) * 2 ^ 312 + 2 ^ 416)
theorem met_op_drains : (oneOp spillDrain).sw.opIn 0 (fun st => st == .draining) = some spillDrain ∧ wSpill spillDrain.desc = true ∧
    wCgfa spillDrain.desc % 64 ≠ 0 ∧ spillDrain.held = [] ∧ spillDrain.rest = [] ∧ spillDrain.core = none ∧
    (oneOp spillDrain).sw.op? 1 = some spillDrain ∧
    (oneOp spillDrain).sw.linesReach 0 (linesOf (wSbase spillDrain.desc, 8 * wM spillDrain.desc * wN spillDrain.desc)) = true ∧
    farOp.sw.linesReach 4 (linesOf (wSbase spillDrain.desc, 8 * wM spillDrain.desc * wN spillDrain.desc)) = false := by decide +kernel
theorem test_op_drained : after (.swageDrainComplete 0) (oneOp { passing with st := .draining }) (fun s => s.ops.isEmpty) = true := by
  decide +kernel
def streamWr : Word256 := toService (State.reset.sw.rd L.swageStreamWin + 3 * 2 ^ 32)
theorem met_stream : pKind streamWr = 0 ∧ State.reset.sw.rd L.swageStreamWin ≤ hOff streamWr ∧
    (hOff streamWr - State.reset.sw.rd L.swageStreamWin) / 2 ^ 32 = 3 ∧
    (State.reset.sw.takeKeep streamWr (zeros 64)).2.opIn 3 (fun st => st == .loading || st == .running) = none ∧
    (State.reset.sw.takeKeep streamWr (zeros 64)).2.blkRst.contains (.array (Fin.ofNat 16 3)) = false ∧
    ((with_ (fun s => { s with blkRst := [.array 3] })).sw.takeKeep streamWr (zeros 64)).2.blkRst.contains (.array (Fin.ofNat 16 3)) = true := by
  decide +kernel
theorem test_stream_orphan : after (.swageStreamWrite streamWr (zeros 64)) State.reset (fun s => s.rd (L.swageOrphan.at 3) == 1) = true := by
  decide +kernel
theorem met_stream_timeout : (oneOp { passing with due := some 40 }).sw.opIn 0 (fun st => st == .running) =
    some { passing with due := some 40 } := by decide +kernel

/-! ### 11: agreement counters -/

/-- Counter 5 is bound to group 7 of tenancy 1 and stands at `x`. -/
def agr (top : Bool) (x : Agr) : State := with_ (fun s => ((grouped top s).wr L.agrBind 5 0x80100007).setAgr 5 x)
/-- An ARRIVE of member 0x100, and a RELEASE of the parent 0x40, at counter 5. -/
def arrive (epoch count level : Nat) : Word256 := mkAgree 0x100 0xFFE0 1 0 0 5 epoch count level 7
def releaseOf (epoch : Nat) : Word256 := mkAgree 0x40 0xFFE0 1 0 1 5 epoch 1 0 7

theorem met_agr_denied : State.reset.sw.agrDenied (arrive 0 1 0) = true ∧ State.reset.sw.agrDenied (releaseOf 0) = true ∧
    gOp (arrive 0 1 0) = 0 ∧ gOp (releaseOf 0) = 1 ∧ pKind (arrive 0 1 0) = 3 := by decide +kernel
theorem met_arrive : (agr true {}).sw.agrDenied (arrive 0 1 0) = false ∧ gCtr (arrive 0 1 0) = 5 ∧ gCount (arrive 0 1 0) = 1 ∧
    gCount (arrive 0 0 1) = 0 ∧ gLevel (arrive 0 0 1) = 1 := by decide +kernel
/-- No arrival (R457). -/
theorem test_no_arrival : after (.agreeArrive (arrive 0 0 0)) (agr true {}) (fun s => s.agr.isEmpty) = true := by decide +kernel
/-- The one member here has arrived: the round ends, the epoch wraps from 65,535 to 0 (R462). -/
theorem test_round_ends : after (.agreeArrive (arrive 65535 1 0)) (agr true { epoch := 65535, st := .gathering })
    (fun s => (s.agrCtr 5).epoch == 0 && (s.agrCtr 5).st == .waiting) = true := by decide +kernel
theorem met_round_ends : ((agr true {}).sw.agrMembers 5).all (fun m => [0x100].contains m.id) = true ∧
    gTop ((agr true {}).sw.group (bGroup ((agr true {}).sw.agrBind 5))) = true := by decide +kernel
/-- A second member, 0x101, has not arrived. -/
def two : State := (agr true {}).updSw (fun s => s.wr L.collCoord 0x101 (2 ^ 63))
theorem met_round_goes_on : (two.sw.agrMembers 5).all (fun m => [0x100].contains m.id) = false ∧ two.sw.agrDenied (arrive 0 1 0) = false := by
  decide +kernel
theorem met_arrive_dup : (((agr true { cur := { marked := [0x100] } }).sw.agrCtr 5).cur.marked).contains 0x100 = true := by decide +kernel
/-- Below the top; held for the next epoch already; a counter that is not in Up, at the top and below it. -/
theorem met_arrive_below : gTop ((agr false {}).sw.group (bGroup ((agr false {}).sw.agrBind 5))) = false ∧
    (agr false {}).sw.agrDenied (arrive 0 1 0) = false ∧ ((agr false {}).sw.agrMembers 5).all (fun m => [0x100].contains m.id) = true ∧
    ((agr true { nxt := { marked := [0x100] } }).sw.agrCtr 5).nxt.marked.contains 0x100 = true ∧
    ((agr false { st := .up }).sw.agrCtr 5).cur.marked.contains 0x100 = false := by decide +kernel
theorem met_force_not_up : ((agr true { st := .gathering }).sw.agrCtr 5).st ≠ .up ∧ ((agr true { st := .gathering }).sw.agrCtr 5).nxt.marked = [] ∧
    gTop ((agr false { st := .gathering }).sw.group (bGroup ((agr false { st := .gathering }).sw.agrBind 5))) = false ∧
    bValid ((agr false { st := .gathering }).sw.agrBind 5) = true := by decide +kernel
theorem met_arrive_next : gEpoch (arrive 1 1 0) = ((agr true {}).sw.agrCtr 5).epoch + 1 := by decide +kernel
/-- A forced ARRIVE that comes early is forced in its own round (R462, R466). -/
theorem test_early_forced : after (.agreeArrive (arrive 1 1 1)) (agr true {})
    (fun s => (s.agrCtr 5).nxt.forced && !(s.agrCtr 5).forced && (s.agrCtr 5).nxt.marked == [0x100]) = true := by decide +kernel
/-- Epoch 65,535 is before 0 and stale; 2 is too far ahead (Table 11.1). -/
theorem met_arrive_far : later 65536 ((0 + 65535) % 65536) (gEpoch (arrive 65535 1 0)) = false ∧
    later 65536 ((0 + 65535) % 65536) (gEpoch (arrive 2 1 0)) = true := by decide +kernel
theorem test_arrive_stale : after (.agreeArrive (arrive 65535 1 0)) (agr true {}) (fun s => s.rd (L.agrStale.at 0) == 1 && s.agr.isEmpty) = true := by
  decide +kernel
theorem met_release : (agr false { st := .up, epoch := 9 }).sw.agrDenied (releaseOf 9) = false ∧ gCtr (releaseOf 9) = 5 ∧
    gEpoch (releaseOf 9) = 9 := by decide +kernel
theorem test_release : after (.agreeRelease (releaseOf 9)) (agr false { st := .up, epoch := 9 })
    (fun s => (s.agrCtr 5).epoch == 10 && (s.agrCtr 5).st == .waiting) = true := by decide +kernel
theorem test_release_stale : after (.agreeRelease (releaseOf 8)) (agr false { st := .up, epoch := 9 })
    (fun s => (s.agrCtr 5).epoch == 9 && s.rd (L.agrStale.at 0) == 1) = true := by decide +kernel
theorem met_force : (agr false { st := .up, epoch := 9 }).busyFor 0x8000 3 = false ∧ fld (9 * 65536 + 5) 0 11 = 5 ∧
    fld (9 * 65536 + 5) 16 16 = 9 ∧ bValid ((agr false { st := .up, epoch := 9 }).sw.agrBind 5) = true := by decide +kernel
theorem met_bind : State.reset.busyFor 0x8000 1 = false := by decide +kernel
theorem test_bind_clears : after (.agrBindWrite 5 0x80100007) (agr false { st := .up, epoch := 9 })
    (fun s => s.agr.isEmpty && s.rd L.agrBind 5 == 0x80100007) = true := by decide +kernel
theorem met_lend : ((agr true { st := .gathering, cur := { marked := [0x100], lendAt := some 40 } }).sw.agrCtr 5).cur.lendAt = some 40 := by
  decide +kernel

/-! ### 12: ports -/

/-- Port 5, one lane wide, in state `x`. -/
def lane5 (x : PortSt) : State := with_ (fun s => (s.wr L.linkPortWidth 5 1).setPort 5 { x with width := 1 })
def up5 (mode : Nat) (x : PortSt) : State := lane5 { x with st := .up, mode := mode }
/-- Pages of a Hokuell partner with native mode, and of one that offers nothing. -/
def hokuellPages : PartnerPages := ⟨true, BitVec.ofNat 24 (State.reset.sw.rd L.linkAnOui), 0x30000000, [], 1⟩
def noPages : PartnerPages := ⟨false, 0, 0, [], 0⟩

theorem met_port_commands : (lane5 {}).busyFor 0x3000 4 = false ∧ (lane5 {}).sw.portCfg 5 = true ∧ ((lane5 {}).sw.port 5).st = .disabled ∧
    State.reset.sw.portCfg 5 = false ∧ (up5 1 {}).sw.portCfg 5 = true ∧ ((lane5 { st := .failed }).sw.port 5).st = .failed := by
  decide +kernel
theorem test_port_enable : after (.portEnable 5) (lane5 {}) (fun s => (s.port 5).st == .negotiating) = true := by decide +kernel
theorem test_port_enable_up : after (.portEnable 5) (up5 1 {}) (fun s => (s.port 5).st == .up) = true := by decide +kernel
theorem test_port_disable : after (.portDisable 5) (lane5 { st := .failed, oos := true })
    (fun s => (s.port 5).st == .disabled && !(s.port 5).oos) = true := by decide +kernel
theorem test_port_retrain : after (.portRetrain 5) (lane5 { st := .failed }) (fun s => (s.port 5).st == .negotiating) = true := by
  decide +kernel
/-- Port 5 has sent the CREDIT that was due, and idles after 1,000 ns. -/
def quiet5 (want : Bool) : State := (up5 1 { sentTot := List.replicate 8 0, wantIdle := want }).updSw (fun s => s.wr L.linkIdleNs 0 1000)
theorem met_port_idle : (quiet5 false).sw.canIdle 5 = true ∧ (quiet5 true).sw.canIdle 5 = true ∧
    (quiet5 false).sw.rd L.linkIdleNs ≠ 0 ∧ (quiet5 false).sw.pwr.state = .active ∧ (up5 1 {}).sw.canIdle 5 = false := by decide +kernel
theorem test_auto_idle : after (.eidleAutoEntry 5) (quiet5 false) (fun s => (s.port 5).eidleTx && s.now == 1004) = true := by
  decide +kernel
theorem test_port_enter_idle : after (.portEnterIdle 5) (quiet5 false) (fun s => (s.port 5).eidleTx) = true ∧
    after (.portEnterIdle 5) (up5 2 {}) (fun s => !(s.port 5).eidleTx && !(s.port 5).wantIdle) = true := by decide +kernel
theorem met_negotiation : (lane5 { st := .negotiating }).sw.settleMode 5 hokuellPages = 1 ∧
    (lane5 { st := .negotiating }).sw.settleMode 5 noPages = 0 ∧ (lane5 {}).sw.pins.noClk.contains (5 / 64) = false := by decide +kernel
/-- A Hokuell partner settles on native mode and its capability word is kept (R493). -/
theorem test_negotiation : after (.negotiationComplete 5 hokuellPages) (lane5 { st := .negotiating })
    (fun s => (s.port 5).st == .training && (s.port 5).mode == 1 && (s.port 5).partner == 0x30000000) = true := by decide +kernel
theorem met_training : ((lane5 { st := .training, mode := 1 }).sw.port 5).st = .training ∧
    ((lane5 { st := .training, mode := 1 }).updSw (fun s => s.setLane 5 { fom := 255 })).sw.lanesBelow 5 = [] := by decide +kernel
/-- The base page has the Next Page bit, the part's page with OUI and capabilities goes out, and each other next page is answered
with a null page (R491, R492). -/
theorem test_negotiation_pages : after (.negotiationComplete 5 hokuellPages) (lane5 { st := .negotiating })
    (fun s => s.tx == [.nullPage 5, .nextPages 5 (s.rd L.linkAnOui) (s.capWord 5)]) = true ∧
    after (.portEnable 5) (lane5 {}) (fun s => s.tx == [.basePage 5 true (s.port 5).phys]) = true := by decide +kernel
/-- 300 ms from the start of training at 8 is 300,000,012 on the timebase (R515, R39). -/
theorem test_training_ends : after (.trainingTimeout 5 true)
    ((lane5 { st := .training, mode := 1, trainAt := 8 }).updSw (fun s => s.setLane 5 { fom := 255 }))
    (fun s => (s.port 5).st == .aligning && s.now == 300000012) = true := by decide +kernel
theorem met_alignment : ((lane5 { st := .aligning, mode := 2 }).sw.port 5).st = .aligning ∧
    ((lane5 { st := .aligning, mode := 2 }).sw.port 5).mode ≠ 1 := by decide +kernel
theorem test_alignment : after (.pcsAlignmentLock 5) (lane5 { st := .aligning, mode := 2 }) (fun s => s.portUp 5 && (s.port 5).locked) = true := by
  decide +kernel
/-- A lane that training has found inverted does not lock on an Ethernet port whose `link.lane.pol` does not say so (R488). -/
theorem met_polarity :
    (let s := (lane5 { st := .aligning, mode := 2 }).updSw (fun s => s.setLane 5 { inv := true })
     (s.sw.portLanes 5).any (fun n => (s.sw.lane n).inv != bit (s.sw.rd L.linkLanePol n) 1) &&
     ((lane5 { st := .aligning, mode := 2 }).sw.portLanes 5).all (fun n => !((lane5 { st := .aligning, mode := 2 }).sw.lane n).inv)) = true := by
  decide +kernel
theorem met_comma_asleep : ((up5 1 {}).sw.lane 5).asleep = false ∧ (some (0 : BitVec 32)).isSome = true := by decide +kernel
theorem met_comma : (up5 1 {}).sw.portOfLane 5 = some 5 ∧ 5 < 5 + ((up5 1 {}).sw.port 5).width ∧ ((up5 1 {}).sw.port 5).eidleRx = false := by
  decide +kernel
/-- Two consecutive misses lose the lock (R501). -/
theorem test_comma_lost : after (.commaReceive 5 none) ((up5 1 {}).updSw (fun s => s.setLane 5 { locked := true, misses := 1 }))
    (fun s => !(s.lane 5).locked) = true ∧
    after (.commaReceive 5 none) ((up5 1 {}).updSw (fun s => s.setLane 5 { locked := true })) (fun s => (s.lane 5).locked) = true := by
  decide +kernel
/-- The base page of a two-lane CR port with all modes on: mode 2 and mode 3 (R491). -/
theorem test_phys : ({ modes := 7, width := 2 } : PortSt).phys = [⟨2, 2, false⟩, ⟨3, 2, false⟩] := by decide
theorem met_up_timeout : (lane5 { st := .negotiating }).sw.rd L.linkUpNs ≠ 0 := by decide +kernel
theorem met_retry : ((lane5 { st := .failed }).sw.port 5).st = .failed ∧ ((lane5 { st := .failed }).sw.port 5).oos = false := by decide +kernel
theorem test_retry : after (.failedPortRetry 5) (lane5 { st := .failed }) (fun s => (s.port 5).st == .negotiating && s.now == 1000000004) = true := by
  decide +kernel
/-- An eye of 30 mV at 14 dB: min (2 × 30, 8 × (14 - 10)) = 32 (R514). -/
theorem test_fom : fomOf ⟨5, 30000, 14000, false⟩ = 32 ∧ fomOf ⟨5, 200000, 60000, false⟩ = 255 ∧ fomOf ⟨5, 30000, 9000, false⟩ = 0 := by decide +kernel
/-- Lane 5 in Up, its last step up at a figure of 40. -/
def tempered : State := (up5 1 {}).updSw (fun s => s.setLane 5 { eq := 3, step := 1, was := 41 })
theorem met_temper : [(⟨5, 30000, 14000, false⟩ : LaneEye)].Pairwise (fun a b => a.lane ≠ b.lane) ∧ tempered.sw.lanePowered 5 = true ∧
    tempered.sw.portOfLane 5 = some 5 ∧ tempered.sw.portUp 5 = true ∧ (tempered.sw.port 5).eidleRx = false ∧
    (tempered.sw.lane 5).step ≠ 0 ∧ fomOf ⟨5, 30000, 14000, false⟩ + 8 < (tempered.sw.lane 5).was := by decide +kernel
/-- A step that lowered the figure by more than 8 is undone (R516): 41 to 32 is, 40 to 32 is not. -/
theorem test_temper_undone : after (.temperFomUpdate [⟨5, 30000, 14000, false⟩]) tempered (fun s => (s.lane 5).eq == 2 && (s.lane 5).fom == 32) = true := by
  decide +kernel
theorem met_lane_unlock : (((up5 1 {}).updSw (fun s => s.setLane 5 { unlocked := some 40 })).sw.lane 5).unlocked = some 40 := by decide +kernel

/-- An idle codeword of one block on lane 5, with `e` symbols in error, that acknowledges up to `a`. Its kind symbol is 0b0_0001
and the inverse, bit 0 first: bits 10, 00, 00, 11, 11 (R495). -/
def idleWord (e : Nat) (a : BitVec 16) : Codeword := ⟨5, [[.p3, .n3, .n3, .p1, .p1]], e, BitVec.ofNat 5280 (shortMsg false true false 0 a.toNat 0)⟩
/-- The same with one level of the kind symbol misread. -/
def lostBlock : Codeword := { idleWord 0 3 with kinds := [[.p3, .n3, .n1, .p1, .p1]] }
/-- A short codeword, number `n`, of a control word whose check does not hold. -/
def shortWord (n : Nat) : Codeword := { idleWord 0 3 with msg := BitVec.ofNat 5280 (shortMsg false false false n 3 1) }
/-- A short codeword of a sealed CREDIT, and an idle word that says `eidle`. -/
def creditCw : Codeword := { idleWord 0 3 with msg := BitVec.ofNat 5280 (shortMsg false false false 0 3 (sealPkt (mkCredit [])).toNat) }
def eidleCw : Codeword := { idleWord 0 3 with msg := BitVec.ofNat 5280 (shortMsg false true true 0 3 0) }
/-- Port 5 is Up and its lane locked. -/
def locked5 (x : PortSt) : State := (up5 1 x).updSw (fun s => s.setLane 5 { locked := true })
theorem met_codeword : (match (locked5 {}).sw.codeword 5 (idleWord 0 3) with | .ok _ => true | _ => false) = true ∧
    cwNak (idleWord 0 3) = false ∧ cwIdle (idleWord 0 3) = true ∧ cwWhole false (idleWord 0 3) = true ∧ cwWhole false lostBlock = false ∧
    cwWhole true (idleWord 0 3) = false ∧ cwEidle eidleCw = true ∧ cwAseq eidleCw = 3 ∧ cwCorrectable (idleWord 2 3) = true ∧
    cwCorrectable (idleWord 3 3) = false ∧ ((locked5 {}).sw.portLanes 5).contains 5 = true ∧ ((locked5 {}).sw.lane 5).locked = true ∧
    ((up5 1 {}).sw.lane 5).locked = false := by decide +kernel
theorem met_codeword_order : ((locked5 {}).sw.port 5).rxNext = 0 ∧ later 65536 0 (cwLseq (shortWord 2)) = true ∧
    ((locked5 {}).sw.port 5).nakDue = false ∧ ((locked5 {}).sw.port 5).stash = [] ∧ cwChecked (shortWord 0) = false ∧ cwShort creditCw = true ∧ cwIdle creditCw = false ∧
    cwChecked creditCw = true ∧ cwLseq creditCw = 0 ∧ pCtl (cwPkt creditCw) = 1 ∧ cwEidle creditCw = false ∧
    ((locked5 {}).sw.port 5).skip = false ∧ ((locked5 {}).sw.port 5).rxLeft = 0 := by decide +kernel
/-- The flits of a long codeword (Table 12.4): the first begins a packet. -/
theorem test_flits : cwFlits { idleWord 0 0 with kinds := List.replicate 16 []
                                                 msg := BitVec.ofNat 5280 (longMsg false false 7 9 1 [List.replicate 64 1, List.replicate 64 2]) } =
    [(true, List.replicate 64 1), (false, List.replicate 64 2)] := by decide +kernel
/-- Kind 0b1_0011, block 3 of a long codeword: 10011 and 01100, bit 0 first (R495, R496). -/
theorem test_block_kind : blockKind [.p1, .n3, .p3, .n1, .p3] = some 19 ∧ blockKind [.p1, .n3, .p3, .n1, .p1] = none ∧
    blockKind [.n1, .n3, .n1, .n1, .p1] = none := by decide +kernel
/-- A transmitter frees every kept codeword up to and including `aseq` (R506). -/
theorem test_codeword_frees : after (.codewordReceive 5 (idleWord 1 3)) (locked5 { kept := [2, 3, 4].map (fun n => ⟨n, 0, .ctl 0⟩) })
    (fun s => (s.port 5).kept.map Kept.lseq == [4]) = true := by decide +kernel
/-- A codeword ahead came at 40: the gap may last 60 ns, as the timebase tells them (R39, R502). -/
theorem met_skew : ((up5 1 { stash := [(shortWord 2, 40)] }).sw.port 5).skewAt = some 104 := by decide +kernel
/-- A kept codeword and a resend limit of 3 with one resend so far, and the limit reached. -/
def kept5 (n : Nat) : State := (up5 1 { kept := [⟨2, 0, .ctl 0⟩], resends := n }).updSw (fun s => s.wr L.linkRetryMax 0 3)
theorem met_replay : ((kept5 1).sw.port 5).resends < (kept5 1).sw.rd L.linkRetryMax ∧ (kept5 3).sw.rd L.linkRetryMax ≤ ((kept5 3).sw.port 5).resends ∧
    ((kept5 1).sw.port 5).kept = [⟨2, 0, .ctl 0⟩] := by decide +kernel
theorem test_replay : after (.replayTimeout 5) (kept5 1) (fun s => s.tx.contains (.resend 5 2) && (s.port 5).resends == 2) = true := by decide +kernel
theorem met_ack_wait : (let x := (up5 1 { ackFrom := some 40, eidleTx := true }).sw.port 5
    x.ackFrom == some 40 && x.eidleTx && x.exitAt.isNone) = true ∧ ((up5 1 { exitAt := some 40 }).sw.port 5).exitAt = some 40 := by
  decide +kernel
/-- The link may be due to go down at the same instant: its retry limit is reached, or it is not (R524). -/
theorem met_ack_wait_down :
    (((up5 1 { ackFrom := some 40, eidleTx := true }).sw.reach (deadline 40 500)).downDue 5).isNone = true ∧
    (((kept5 3).sw.reach 4004).downDue 5) = some 5 ∧ ((up5 1 { exitAt := some 40 }).sw.reach 150).downDue 5 = none := by decide +kernel
theorem met_enter_idle : (quiet5 false).sw.hasToSend 5 = false ∧ (up5 1 { nakDue := true }).sw.hasToSend 5 = true ∧
    ((quiet5 false).updSw (fun s => s.updPort 5 (fun x => { x with kept := [⟨2, 0, .ctl 0⟩] }))).sw.hasToSend 5 = false ∧
    ((quiet5 false).sw.portLanes 5).all (fun n => ((quiet5 false).sw.lane n).unlocked.isNone) = true := by decide +kernel
/-- An entry that meets something ready to be sent is abandoned (R520). -/
theorem test_enter_idle_abandoned : after (.portEnterIdle 5) (up5 1 { nakDue := true, wantIdle := true })
    (fun s => !(s.port 5).wantIdle && !(s.port 5).eidleTx) = true := by decide +kernel
/-- What the lanes send when they drive again: a comma with the lane tag (R500, R521). -/
theorem test_idle_exit : after (.eidleExitComplete 5) (up5 1 { exitAt := some 40, eidleTx := true })
    (fun s => !(s.port 5).eidleTx && s.tx.any (fun t => match t with | .comma 5 5 _ 1 => true | _ => false)) = true := by decide +kernel
theorem test_ack_wait : after (.eidleAckWaitTimeout 5) (up5 1 { ackFrom := some 40, eidleTx := true })
    (fun s => (s.port 5).exitAt == some 544 && s.now == 544) = true := by decide +kernel

/-- A frame with EtherType `e` and body `b`, without FCS and with it. -/
def frameHead (e : Nat) (b : Bytes) : Bytes := zeros 12 ++ (leBytes 2 e).reverse ++ b
def frameFcs (e : Nat) (b : Bytes) : BitVec 32 := BitVec.ofNat 32 (crc32 (frameHead e b))
def frameOf (e : Nat) (b : Bytes) (x : Nat) : Bytes := withFcs (frameHead e b) (frameFcs e b + BitVec.ofNat 32 x)
theorem met_frame_bytes :
    fcsOk (frameOf 0x0800 (zeros 46) 0) = true ∧ fcsOk (frameOf 0x0800 (zeros 46) 1) = false ∧ etherType (frameOf 0x0800 (zeros 46) 0) = 0x0800 ∧
    isPfc (frameOf 0x0800 (zeros 46) 0) = false ∧ isPfc (frameOf 0x8808 ([1, 1] ++ zeros 44) 0) = true ∧ fecOk [15] = true ∧ fecOk [16] = false ∧
    (frameOf 0x0800 (zeros 46) 0).length ≤ 4158 ∧
    pCtl (firstWord (frameBody (frameOf 0x0800 (wordBytes (mkCredit []) ++ zeros 14) 0))) = 1 ∧
    pCtl (firstWord (frameBody (frameOf 0x0800 (wordBytes writeHbm ++ zeros 72) 0))) ≠ 1 := by decide +kernel
/-- A frame of 4,167 bytes with the part's EtherType. -/
def longFrame : Bytes := zeros 12 ++ (leBytes 2 0x88B5).reverse ++ zeros 4149
theorem met_frame_long : fcsOk (withFcs longFrame (BitVec.ofNat 32 (crc32 longFrame))) = true ∧
    4158 < (withFcs longFrame (BitVec.ofNat 32 (crc32 longFrame))).length ∧ etherType longFrame = 0x88B5 ∧
    State.reset.sw.rd L.fabEthEthertype = 0x88B5 := by
  refine ⟨fcsOk_own longFrame ?_, ?_, by decide +kernel, by decide +kernel⟩ <;>
    simp only [withFcs, longFrame, zeros, List.length_append, List.length_replicate, List.length_reverse, leBytes_length] <;> omega
/-- The packet of a frame at a plain Ethernet port: a CREDIT; a data header is not one. -/
theorem met_frame : pCtl (mkCredit []) = 1 ∧ pCtl writeHbm ≠ 1 ∧
    (match (up5 2 { plain := true }).sw.rxHeader (.port 5) writeHbm with | .ok _ => true | _ => false) = true ∧
    ((up5 2 {}).sw.port 5).mode ≠ 1 ∧ (0x0800 : BitVec 16).toNat ≠ (up5 2 {}).sw.rd L.fabEthEthertype := by decide +kernel
theorem test_frame_other : after (.ethFrameReceive 5 [3, 16] (frameHead 0x0800 (zeros 46)) (frameFcs 0x0800 (zeros 46))) (up5 2 {})
    (fun s => s.rd L.linkEthOther 5 == 0 && s.rd L.linkCntCorr 5 == 3 && s.rd L.linkCntUncorr 5 == 1) = true ∧
    after (.ethFrameReceive 5 [] (frameHead 0x0800 (zeros 46)) (frameFcs 0x0800 (zeros 46))) (up5 2 {}) (fun s => s.rd L.linkEthOther 5 == 1) = true := by decide +kernel
/-- Class 0 is paused for 2 quanta, class 1 resumed (R512). -/
theorem test_pfc : after (.pfcReceive 5 3 [2, 0]) (up5 2 { plain := true, pause := [(1, 4000)] })
    (fun s => ((s.port 5).pause.get? 0).isSome && ((s.port 5).pause.get? 1).isNone) = true := by decide +kernel
theorem met_pfc : ((up5 2 { plain := true, pause := [(7, 40)], pfcSent := [(7, 40)] }).sw.port 5).pause.get? 7 = some 40 ∧
    ((up5 2 { plain := true, pause := [(7, 40)], pfcSent := [(7, 40)] }).sw.port 5).pfcSent.get? 7 = some 40 ∧
    (up5 2 { plain := true, pfcSent := [(7, 40)] }).sw.ruled 7 = false ∧
    (up5 2 { plain := true, pfcSent := [(7, 40)] }).sw.rd L.linkPfcXoff ≠ 0 ∧
    (up5 2 { plain := true, pfcSent := [(7, 40)] }).sw.unusedCredit 5 7 < (up5 2 { plain := true, pfcSent := [(7, 40)] }).sw.rd L.linkPfcXon := by
  decide +kernel
/-- A control packet of 32 bytes leaves a plain port in a frame of 64 bytes, tagged, after both addresses (R509). -/
theorem test_eth_frame : ((up5 2 { plain := true }).sw.ethFrame 5 7 (List.replicate 32 1)).length = 64 ∧
    slice ((up5 2 { plain := true }).sw.ethFrame 5 7 (List.replicate 32 1)) 12 4 = [0x81, 0, 0xE0, 0] := by decide +kernel
/-- It ends the pause with quanta 0 once the cells are back (R512). -/
def resumes : State := (up5 2 { plain := true, pfcSent := [(7, 40)] }).updSw (fun s => (s.wr L.linkPfcXoff 0 0).wr L.linkPfcXon 0 0)
theorem met_pfc_end : (resumes.sw.port 5).pfcSent.get? 7 = some 40 ∧ resumes.sw.ruled 7 = false ∧
    max (resumes.sw.rd L.linkPfcXoff) (resumes.sw.rd L.linkPfcXon) ≤ resumes.sw.unusedCredit 5 7 := by decide +kernel
/-- The part repeats its PFC every 20 µs while its condition holds (R512). -/
theorem test_pfc_repeat : after (.pfcRepeat 5 7) (up5 2 { plain := true, pfcSent := [(7, 40)] })
    (fun s => s.tx == [.pfc 5 7 0xFFFF] && (s.port 5).pfcSent == [(7, 20044)]) = true := by decide +kernel

/-! ### 13: the bridge -/

/-- The host link is up. -/
def host : State := with_ (fun s => ((s.wr L.brgP0Role 0 1).setBport 0 { st := .ready }))
theorem met_host : host.sw.hostUp = true ∧ host.sw.boot.ready = true ∧ State.reset.sw.hostUp = false := by decide +kernel
/-- An access beyond the 64 windows is an undefined use (R558); the last byte of window 63 lies inside. -/
theorem test_host_outside : stops (.hostWrite (64 * host.sw.winSize) [some 1]) host 558 = true ∧
    stops (.hostRead (64 * host.sw.winSize) 1) host 558 = true := by decide +kernel
theorem met_host_window : winEn (host.sw.rd L.brgWin 1) = false ∧ host.sw.winSize / host.sw.winSize = 1 ∧ 64 * host.sw.winSize - 1 + [some (1 : Byte)].length ≤ 64 * host.sw.winSize := by
  decide +kernel
theorem test_host_write_denied : after (.hostWrite host.sw.winSize [some 1]) host (fun s => s.rd L.brgDenied == 1) = true := by decide +kernel
theorem test_host_read_disabled : after (.hostRead host.sw.winSize 4) host (fun s => s.tx == [.hostCpl 0 .unsupported []]) = true := by decide +kernel
/-- Class 0, in which window 0 sends, is ruled. -/
def ruledHost : State := host.updSw (fun s => s.wr L.fwdClassRuled 0 1)
theorem met_host_runs :
    (let s := ruledHost.sw
     let e := s.rd L.brgWin 0
     let t := s.winTarget e 0
     winEn e && !winRo e && s.ruled (winClass e) && s.hostCredit (winDie e) (fld t 40 16) (winClass e) (cellsOf (cdiv 4 64)) &&
     (s.fab.arriving.get? (512 + winDie e)).isNone && (List.range 8).all (fun k => s.rd (L.mirKind.atIdx k) != 4) &&
     decide (fld t 0 40 + 64 ≤ 2 ^ 40) && s.freeTags 1 == [0] && decide ((pad64 (t + 4) - t / 64 * 64) / 64 ≤ 64)) = true := by decide +kernel
/-- Window 0 is enabled by default (Table 13.3). -/
theorem met_host_accesses : (match host.sw.hostWrite 0 [some 1] with | .ok (some _) => true | _ => false) = true ∧
    (match host.sw.hostRead 0 4 with | .ok (some _) => true | _ => false) = true := by decide +kernel
/-- A READ_RESP at the return window. -/
def retResp : Word256 := hset (toService (host.sw.rd L.brgRetWin)) 0 5 2
theorem met_read_resp : pKind retResp = 2 ∧ hOff retResp = host.sw.rd L.brgRetWin ∧ host.sw.brg.reads = [] := by decide +kernel
theorem test_read_resp_late : after (.hostReadResp retResp []) host (fun s => s.rd L.brgLate == 1 && s.tx.isEmpty) = true := by decide +kernel
/-- What waits at die 2 gets no further while link 16 to the bridge is stopped (01 R27). -/
def cut (h : Word256) : Sw := { host.sw with
  fab := { host.sw.fab with svcIn := [⟨h, [], [], 2⟩] }, pins := { host.sw.pins with d2dFatal := [16] } }
theorem met_cut : (cut retResp).svcCut retResp [] = true ∧ host.sw.svcCut retResp [] = false := by decide +kernel
theorem test_cut : (match exec (.hostReadResp retResp []) { host with sw := cut retResp } with
    | .next t => decide (t.sw = cut retResp) | _ => false) = true := by decide +kernel
/-- A host read outstanding with tag 1,023. -/
def reading : State := host.updSw (fun s => { s with brg := { s.brg with reads := [⟨0, 4, [{ tag := 1023, gfa := 0, units := 1, inc := none, due := some 40 }], 0⟩] } })
theorem met_read_timeout : (reading.sw.brg.reads.find? (fun r => r.waiting.contains (1023 : Fin 1024).val)).any
    (fun r => (r.parts.find? (fun p => p.tag == 1023)).any (fun p => p.due == some 40)) = true := by decide +kernel
theorem test_read_timeout : after (.hostReadTimeout 1023) reading
    (fun s => s.brg.reads.isEmpty && s.brg.late == [1023] && s.tx == [.hostCpl 1023 .abort []]) = true := by decide +kernel
def revWrite : Word256 := toService (host.sw.rd L.brgRevWin)
theorem met_reverse : pKind revWrite ≤ 1 ∧ hOff revWrite = host.sw.rd L.brgRevWin ∧ fld (host.sw.revEntry (hOff revWrite)).1 48 8 ≠ hTen revWrite ∧
    host.sw.brg.revs = [] := by decide +kernel
def reversing : State := host.updSw (fun s => { s with brg := { s.brg with revs := [⟨revWrite, 0, [⟨4, 64, [], false⟩], 0, some 40⟩] } })
theorem met_reverse_timeout : (reversing.sw.brg.revs.find? (fun r => r.parts.any (fun p => p.id == 4))).any (fun r => r.due == some 40) = true := by
  decide +kernel
/-- MSI-X vectors 0 and 63 at their offsets of the window. -/
def msi (v : Nat) : Word256 := toService (host.sw.rd L.brgMsiWin + 64 * v)
theorem met_msi : (host.sw.takeIn (msi 1) []).hostUp = true ∧ hPlen (msi 1) = 1 ∧ (hOff (msi 63) - host.sw.rd L.brgMsiWin) / 64 = 63 ∧ (hOff (msi 0) - host.sw.rd L.brgMsiWin) / 64 = 0 ∧
    (host.updSw (fun s => s.wr L.brgMsiTen 63 1)).sw.rd L.brgMsiTen 63 = hTen (msi 63) ∧ host.sw.rd L.brgMsiTen 63 ≠ hTen (msi 63) := by
  decide +kernel
theorem test_bar_outstanding : stops (.hostConfigWrite 0x10 0) reading 558 = true := by decide +kernel
theorem met_host_down : (with_ (fun s => (s.wr L.brgP0Role 0 1).setBport 0 { st := .training })).sw.hostRole = true := by decide +kernel
theorem test_host_link_up : after .hostLinkUp (with_ (fun s => (s.wr L.brgP0Role 0 1).setBport 0 { st := .training })) (fun s => s.hostUp) = true := by
  decide +kernel

/-- Memory port 2 in state `x`. -/
def mem2 (x : BPortSt) : State := with_ (fun s => s.setBport 2 x)
theorem met_mem_port : (mem2 { st := .training }).sw.memRole 2 = true ∧ (mem2 { st := .training }).sw.awaited 2 = none ∧
    (mem2 {}).busyFor 0x1101 4 = false ∧ ((mem2 { st := .down }).sw.bport 2).st = .down := by decide +kernel
/-- The capacity is cut to 256 MiB (R547). -/
theorem test_mem_enumerate : after (.memPortEnumerate 2 true (2 ^ 28 + 1)) (mem2 { st := .training })
    (fun s => (s.bport 2).st == .ready && (s.bport 2).cap == 2 ^ 28) = true := by decide +kernel
theorem met_cxl_access : (mem2 { st := .ready, cap := 2 ^ 28 }).sw.cxlJudge 2 (2 ^ 28 - 64) 64 = none ∧
    (mem2 { st := .ready, cap := 2 ^ 28 }).sw.cxlJudge 2 (2 ^ 28) 64 ≠ none := by decide +kernel
/-- A read of line 3 is under way. -/
def lineRead : State := (mem2 { st := .ready, cap := 2 ^ 28 }).updSw (fun s => { s with brg := { s.brg with cxl := [{ port := 2, addr := 192, units := 1, wr := none, lines := [3], req := none, due := some 40 }] } })
theorem met_cxl_response : (lineRead.sw.brg.cxl.find? (fun y => y.port == (2 : Fin 4).val && y.lines.contains 3)).any
    (fun x => x.wr.isNone && x.req.isNone && x.due == some 40) = true := by decide +kernel
theorem test_cxl_poison : after (.cxlResponse 2 3 true) lineRead (fun s => s.cxlBad == [2 * 2 ^ 36 + 3] && s.brg.cxl.isEmpty) = true := by
  decide +kernel
theorem test_brg_enable : after (.brgPortEnable 2) (mem2 {}) (fun s => (s.bport 2).st == .training) = true := by decide +kernel
theorem test_brg_release : after (.brgPortRelease 2) (mem2 { st := .down }) (fun s => (s.bport 2).released) = true := by decide +kernel

/-! ### 14: tenancies -/

/-- Tenancy 1 in state `x`. -/
def ten1 (x : TenSt) : State := with_ (fun s => s.setTen 1 x)
theorem met_activate : (ten1 {}).busyFor 0x9000 1 = false ∧ ((ten1 {}).sw.tenSt 1).st = .quenched ∧ ((ten1 {}).sw.tenSt 1).stopped = false ∧
    (ten1 {}).sw.ctxFree 1 = true ∧ (ten1 {}).sw.pwr.state ≠ .parked ∧ ((ten1 { stopped := true }).sw.tenSt 1).stopped = true := by decide +kernel
/-- Group 7 is one of tenancy 1, and its last `cseq` stands in coll.closed. -/
def oldGroup : State := with_ (fun s => (grouped true s).wr L.collClosed 7 6)
theorem met_activate_group : gValid (oldGroup.sw.group 7) = true ∧ gTen (oldGroup.sw.group 7) = 1 ∧ (oldGroup.sw.tenSt 1).st = .quenched ∧
    oldGroup.sw.ctxFree 1 = true ∧ oldGroup.busyFor 0x9000 1 = false := by decide +kernel
/-- A binding anew forgets the last `cseq` of the tenancy's groups (R419). -/
theorem test_activate_group : after (.tenActivate 1) oldGroup (fun s => s.rd L.collClosed 7 == 0) = true := by decide +kernel
/-- Tenancies 1 and 2 hold context 5 of die 0. -/
def sharing : State := with_ (fun s => (((s.wr (L.tenCtx.at 0) 1 (5 + 2 ^ 16)).wr (L.tenCtx.at 0) 2 (5 + 2 ^ 16))).setTen 2 { st := .active })
theorem met_ctx_shared : sharing.sw.ctxFree 1 = false := by decide +kernel
theorem test_activate : after (.tenActivate 1) State.reset (fun s => (s.tenSt 1).st == .active) = true ∧
    after (.tenActivate 1) (ten1 { stopped := true }) (fun s => (s.tenSt 1).st == .quenched) = true ∧
    after (.tenActivate 1) sharing (fun s => (s.tenSt 1).st == .quenched) = true := by decide +kernel
theorem met_quench : ((with_ (active 1)).sw.tenSt 1).st = .active := by decide +kernel
/-- Cause 1 is the service command (Table 14.3). -/
theorem test_quench : after (.tenQuench 1) (with_ (active 1)) (fun s => (s.tenSt 1).st == .quenching && (s.tenSt 1).cause == 1) = true := by
  decide +kernel
theorem test_acknowledge : after (.tenAcknowledge 1) (ten1 { stopped := true }) (fun s => !(s.tenSt 1).stopped) = true := by decide +kernel
def quenching : State := ten1 { st := .quenching, drainAt := some 40 }
theorem met_drain : (quenching.sw.tenSt 1).st = .quenching ∧ quenching.sw.drainDone 1 = true ∧ (quenching.sw.tenSt 1).drainAt = some 40 := by
  decide +kernel
/-- A packet of tenancy 1 still waits in the switch, or at the service ID. -/
theorem met_drain_waits :
    (quenching.updSw (fun s => { s with fab := { s.fab with pkts := [cellPkt] } })).sw.drainDone 1 = false ∧
    (quenching.updSw (fun s => { s with fab := { s.fab with svcIn := [⟨writeHbm, [], [5], 0⟩] } })).sw.drainDone 1 = false := by decide +kernel
/-- Each die closes admission at its own instant, within 2 µs (R565, Table 14.6). -/
theorem test_quench_closes : after (.tenQuench 1) (with_ (active 1))
    (fun s => (s.tenSt 1).closing.map Prod.fst == [0, 1, 2, 3]) = true := by decide +kernel
theorem test_drain : after (.quenchDrainComplete 1) quenching (fun s => (s.tenSt 1).st == .clearing) = true ∧
    after (.quenchClearComplete 1) (ten1 { st := .clearing }) (fun s => (s.tenSt 1).st == .quenched) = true := by decide +kernel
theorem met_clearing : ((ten1 { st := .clearing }).sw.tenSt 1).st = .clearing := by decide +kernel
def rebinding (old : TState) : State := with_ (fun s => { (s.setTen 1 { st := old }) with rebind := some ⟨1, 2, false⟩ })
theorem met_rebind : fld (0x0201 : BitVec 32).toNat 0 8 = (1 : Ten).toNat ∧ bit (0x0201 : BitVec 32).toNat 16 = false ∧
    State.reset.busyFor 0x9000 2 = false ∧ State.reset.sw.rebind = none ∧ (rebinding .active).sw.rebind = some ⟨1, 2, false⟩ ∧
    ((rebinding .active).sw.tenSt 1).st ≠ .quenched ∧ ((rebinding .quenched).sw.tenSt 1).st = .quenched := by decide +kernel
theorem test_rebind : after (.tenRebind 0x0201) State.reset (fun s => s.rebind == some ⟨1, 2, false⟩) = true ∧
    after .rebindApplyComplete (rebinding .quenched) (fun s => s.rebind.isNone) = true := by decide +kernel
theorem met_granule_paused : (with_ (fun s => { s with pwr := { s.pwr with state := .parked } })).sw.pwr.state = .parked := rfl
theorem met_block : State.reset.busyFor 0x9006 1 = false ∧ State.reset.sw.blockOf 0x023F = some (.core 63) ∧ State.reset.sw.blockOf 0x0240 = none ∧
    State.reset.sw.blockOf 0x010F = some (.array 15) ∧ State.reset.sw.blockOf 0x0110 = none := by decide +kernel
def coreReset : State := with_ (fun s => { s with blkRst := [.core 63] })
theorem met_block_done : coreReset.sw.blkRst.contains (.core 63) = true := by decide +kernel
theorem test_block_done : after (.blockResetComplete (.core 63)) coreReset
    (fun s => s.blkRst.isEmpty && s.incOf (incCore 63) == s.incOf (incCore 62) + 1) = true := by decide +kernel

/-! ### 15: the lexicon engine -/

theorem met_transports : State.reset.sw.held = false ∧ State.reset.unasked = true := by decide +kernel
/-- An index that holds no entry is status 1, a write of a read-only one status 2, a third operation status 9 (Table 15.5). -/
def ask (index sub op : Nat) : LexJob := { q := .i3c, index := index, sub := sub, seg := 0, op := op, len := 0, value := [] }
theorem met_lex_check : State.reset.lexCheck (ask 0x1FFF 1 0) = 1 ∧ State.reset.lexCheck (ask 0x1000 1 1) = 2 ∧
    State.reset.lexCheck (ask 0x1000 1 2) = 9 := by decide +kernel
def readLimit : LexReq := { by_ := .inband 0x100 1, index := 0xB000, sub := 1, seg := 0, op := 0, len := 0, value := [], tag := 0 }
def serves (s : State) (j : LexJob) : Bool := match s.lexServe j with | .ok (_, _, t) => t.unasked | _ => false
theorem met_lex_serve : serves State.reset (jobOf readLimit 0) = true ∧
    serves State.reset (jobOf { readLimit with op := 1, len := 4, value := [1, 2, 0, 0] } 1) = true ∧
    State.reset.sw.lexs.order = [] ∧ reqTransport readLimit.by_ = 1 := by decide +kernel
/-- A write of `coll.stall_ns` by a clause core is not refused: range 9 is in `lex.core.mask` (Table 15.16). -/
def stallWrite : LexReq := { by_ := .core 0, index := 0x7800, sub := 3, seg := 0, op := 1, len := 4, value := [1, 2, 0, 0], tag := 0 }
theorem met_lex_write : State.reset.lexCheck (jobOf stallWrite 1) = 0 ∧ State.reset.sw.recd.st ≠ 1 := by decide +kernel
/-- The storage of `coll.stall_ns` is uncorrectable (R607). -/
def badWord : State := with_ (fun s => { s with lexs := { s.lexs with bad := [0x7800 * 256 + 3] } })
theorem met_lex_bad : badWord.lexBad (jobOf { stallWrite with op := 0 } 0) = true ∧ badWord.lexCheck (jobOf { stallWrite with op := 0 } 0) = 0 ∧
    State.reset.lexBad (jobOf stallWrite 1) = false := by decide +kernel
theorem test_lex_bad : (match badWord.lexServe (jobOf { stallWrite with op := 0 } 0) with
    | .ok (st, bs, _) => st == 10 && bs.isEmpty | _ => false) = true := by decide +kernel
/-- A write that has no effect now: M's firmware is being replaced (R587). -/
theorem met_lex_busy : ({ State.reset with sec := { State.reset.sec with busy := some 3 } } : State).lexBusy (jobOf stallWrite 1) = true := by
  decide +kernel
theorem test_lex_write : after (.lexWrite stallWrite) State.reset (fun s => s.rd L.collStallNs == 513) = true := by decide +kernel
/-- I3C holds a read of `pwr.limit`, and mailbox slot 3 waits behind it. -/
def i3cRead : Bytes := leBytes 2 0xB000 ++ [1, 0, 0, 0, 0, 0] ++ zeros 8
def queued (q : List Requester) : State := with_ (fun s => { s with
  i3c := { s.i3c with req := [i3cRead] }, mbox := [(3, mboxPending (0x7800 + 3 * 2 ^ 16 + 2 ^ 40 + 4 * 2 ^ 48 + 7 * 2 ^ 256))]
  lexs := { s.lexs with order := q } })
theorem met_lex_queue : (queued [.i3c, .mailbox 3]).sw.lexs.order = [.i3c, .mailbox 3] ∧
    ((queued [.i3c]).sw.lexWaits .i3c).map LexJob.op = some 0 ∧ ((queued []).sw.lexWaits (.mailbox 3)).map LexJob.op = some 1 ∧
    ((queued [.mailbox 3]).sw.lexWaits (.mailbox 3)).any (fun j => serves (queued []) j) = true ∧
    reqTransport (.mailbox 3) = 4 ∧ reqTransport .i3c = 3 := by decide +kernel
/-- The mailbox is served in its turn, not ahead of I3C (R602). -/
theorem test_lex_queue : after (.lexWrite { stallWrite with by_ := .mailbox 3 }) (queued [.i3c, .mailbox 3])
      (fun s => s.lexs.order.length == 2 && s.rd L.collStallNs != 7) = true ∧
    after (.lexWrite { stallWrite with by_ := .mailbox 3 }) (queued [.mailbox 3, .i3c])
      (fun s => s.lexs.order == [.i3c] && s.rd L.collStallNs == 7 && fld (s.mbox.getD 3 0) 64 8 == 2) = true := by decide +kernel
/-- A core's write is served behind the mailbox request that waits. -/
theorem test_lex_ahead : after (.lexWrite stallWrite) (queued [.mailbox 3])
      (fun s => s.lexs.order.isEmpty && s.rd L.collStallNs == 513 && fld (s.mbox.getD 3 0) 64 8 == 2) = true := by decide +kernel
/-- A LEX_REQ of endpoint 0x100 in tenancy 1, and an allow-list entry for it. -/
def lexReq : Word256 := mkPkt [(0, 5, 6), (8, 16, 0xFFE0), (24, 16, 0x100), (56, 8, 1), (64, 16, 0xB000), (80, 8, 1)]
def inband : State := with_ (fun s => s.wr L.lexInband 31 (2 ^ 63 + 1 * 2 ^ 55 + 0x100 * 2 ^ 39 + 2 ^ 36 - 1))
def waiting256 : State := with_ (fun s => { s with lexs := { s.lexs with order := List.replicate 256 .i3c } })
theorem met_inband : pKind lexReq = 6 ∧ pSrc lexReq = 0x100 ∧ cTen lexReq = 1 ∧ xOp lexReq = 0 ∧
    inband.sw.lexs.order = [] ∧ (inband.sw.takeCtl lexReq).inbandAdmits (.bridge 0) lexReq = true ∧
    (State.reset.sw.takeCtl lexReq).inbandAdmits (.bridge 0) lexReq = false ∧ (waiting256.sw.takeCtl lexReq).lexFull 1 = true := by
  decide +kernel
theorem met_inband_served : serves (inband.updSw (fun x => x.takeCtl lexReq))
    { q := .inband (BitVec.ofNat 16 (pSrc lexReq)) (BitVec.ofNat 8 (cTen lexReq)), index := xIndex lexReq, sub := xSub lexReq
      seg := xSeg lexReq, op := xOp lexReq, len := xLen lexReq, value := leBytes 8 (hf lexReq 144 64) } = true := by decide +kernel
theorem test_lex_full : after (.lexReqReceive (.bridge 0) lexReq) waiting256 (fun s => s.rd (L.lexBusy.at 0) == 1) = true := by
  decide +kernel

/-- A write of one line to mailbox slot 63 by a service endpoint of this switch, and by endpoint 0x100. -/
def mboxWrite (src : Nat) : Word256 := mkPkt [(0, 5, 0), (5, 2, 1), (24, 16, src), (40, 7, 1), (56, 40, 4032), (96, 16, 0xFFE0)]
theorem met_mailbox : pKind (mboxWrite 0xFFE2) = 0 ∧ hOff (mboxWrite 0xFFE2) = 4032 ∧ hPlen (mboxWrite 0xFFE2) = 1 ∧ hTail (mboxWrite 0xFFE2) = 0 ∧
    hOff (mboxWrite 0xFFE2) % 64 = 0 ∧ (State.reset.sw.takeIn (mboxWrite 0xFFE2) (zeros 64)).mboxAdmits (pSrc (mboxWrite 0xFFE2)) (.bridge 0) = true ∧
    (State.reset.sw.takeIn (mboxWrite 0x100) (zeros 64)).mboxAdmits (pSrc (mboxWrite 0x100)) (.bridge 0) = false ∧
    fld ((State.reset.sw.takeIn (mboxWrite 0xFFE2) (zeros 64)).mbox.getD 63 0) 64 8 ≠ 1 ∧
    (State.reset.sw.takeIn (mboxWrite 0xFFE2) (zeros 64)).lexFull 1 = false := by decide +kernel
theorem test_mailbox_pending : after (.mailboxWrite (.bridge 0) (mboxWrite 0xFFE2) (zeros 64)) State.reset
    (fun s => fld (s.mbox.getD 63 0) 64 8 == 1) = true := by decide +kernel

/-- The part has an address; `secure` of Issio is cleared, and 192.168.0.9 is allowed range 12 (Table 15.12). -/
def net (secure : Nat) : State := with_ (fun s =>
  ((s.wr L.lexEthIp4Now 0 0xC0A80001).wr L.lexIssioSecure 0 secure).wr L.lexIssioAllow 7 (0xC0A80009 * 2 ^ 96 + 2 ^ 95 + 0xFFFFFFFF))
def datagram (dseq : Nat) : Bytes := leBytes 2 0x1550 ++ [1, 0] ++ leBytes 4 dseq ++ zeros 8
def cachedNet : State := (net 0).updSw (fun s => s.issioKeep 0xC0A80009 7 [(5, [1])])
theorem met_issio : (net 0).sw.boot.error = false ∧ (net 0).sw.rd L.lexEthIp4Now ≠ 0 ∧ (net 0).sw.rd L.lexIssioPort ≠ 0 ∧
    (0xBA1E : BitVec 16).toNat = (net 0).sw.rd L.lexIssioPort ∧ fld (leNat ((datagram 5).take 16)) 64 16 = 0 ∧
    fld (leNat ((datagram 5).take 16)) 32 32 = 5 ∧ fld (leNat ((datagram 5).take 16)) 0 16 = 0x1550 ∧
    fld (leNat ((datagram 5).take 16)) 16 8 = 1 ∧ (datagram 5).length = 16 + 16 * 0 ∧ (zeros 15).length < 16 := by decide +kernel
theorem met_issio_more : (net 1).sw.rd L.lexIssioSecure = 1 ∧ (net 1).sec.inSession none = false ∧ (net 0).sw.rd L.lexIssioSecure ≠ 1 ∧
    cachedNet.sw.issioCached (0xC0A80009 : BitVec 32).toNat (7 : BitVec 16).toNat 5 = some [1] ∧
    (net 0).sw.issioCached (0xC0A80009 : BitVec 32).toNat (7 : BitVec 16).toNat 5 = none ∧ (net 0).sw.lexs.order = [] ∧
    (net 0).sw.lexMasks (.issio 0xC0A80009 7) ≠ some [] ∧ (net 0).unasked = true ∧
    (match (net 0).issioRecs (.issio 0xC0A80009 7) none ((datagram 5).drop 16) 0 with | .ok (r, _) => r == [] | _ => false) = true := by
  decide +kernel
/-- A datagram of one record, a read. -/
def readGram : Bytes := leBytes 2 0x1550 ++ [1, 0] ++ leBytes 4 5 ++ leBytes 8 1 ++ leBytes 2 0xB000 ++ [1, 0, 0, 0, 0, 0] ++ zeros 8
theorem met_issio_read : readGram.length = 16 + 16 * 1 ∧ fld (leNat (readGram.take 16)) 64 16 = 1 ∧
    (List.range 1).all (fun i => (recJob (.issio 0xC0A80009 7) none (((readGram.drop 16).drop (16 * i)).take 16)).op != 1) = true := by
  decide +kernel
theorem test_issio_secure : after (.issioDatagram 0xC0A80009 7 0xBA1E none (datagram 5)) (net 1) (fun s => s.rd (L.lexDenied.at 1) == 1) = true := by
  decide +kernel
theorem test_issio_again : after (.issioDatagram 0xC0A80009 7 0xBA1E none (datagram 5)) cachedNet
    (fun s => s.tx == [.udp 0xC0A80009 7 [1]]) = true := by decide +kernel
/-- The I3C queue is full: the last write is answered Busy, with the bytes that stand there. -/
theorem met_i3c_full : (waiting256.updSw (fun s => { s with i3c := { s.i3c with addr := some 9 } })).sw.lexFull 1 = true ∧
    (waiting256.updSw (fun s => { s with i3c := { s.i3c with addr := some 9 } })).sw.i3c.addr.isSome = true := by decide +kernel
/-- The target with dynamic address 9. -/
def target (x : I3c) : State := with_ (fun s => { s with i3c := { x with addr := some 9 } })
theorem met_i3c : (target {}).sw.i3c.addr.isSome = true ∧ (zeros 16).length = 16 ∧ (target {}).sw.lexFull 1 = false ∧
    (target { resp := some [1] }).sw.i3c.resp = some [1] ∧ State.reset.sw.i3c.addr = none ∧ State.reset.sw.rd L.lexI3cSa ≠ 0 ∧
    (0x2C : BitVec 7).toNat = State.reset.sw.rd L.lexI3cSa := by decide +kernel
/-- The static address is 0x2C by default (Table 15.17). -/
theorem test_setdasa : after (.setdasa 0x2C 9) State.reset (fun s => s.i3c.addr == some 9) = true := by decide +kernel
theorem met_arp : (net 0).sw.rd L.lexEthIp4Now = (0xC0A80001 : BitVec 32).toNat ∧ (0xC0A80001 : BitVec 32) ≠ 0 ∧
    (net 0).sw.rd L.lexEthIp4Now ≠ (0xC0A80002 : BitVec 32).toNat := by decide +kernel

/-! ### 16: power -/

theorem met_unit_idle : State.reset.sw.unitIdle (.swage 3) = true ∧ State.reset.sw.unitAwake (.swage 3) = true ∧
    (with_ (fun s => s.setCore 7 { (s.core 7) with running := true })).sw.unitIdle (.core 7) = false ∧
    State.reset.sw.unitPresent (.swage 3) = true ∧
    (with_ (fun s => { s with ident := { s.ident with swageMap := 0 } })).sw.unitPresent (.swage 3) = false := by decide +kernel
theorem test_engine_park : after (.enginePark (.swage 3)) State.reset (fun s => s.pwr.parked == [.swage 3] && s.now == 50004) = true ∧
    State.reset.sw.unitLends (.swage 3) = false ∧ State.reset.sw.pwr.idle0.2 ≠ 0 := by decide +kernel
/-- The package in state `p`. -/
def pack (p : ParkState) : State := with_ (fun s => { s with pwr := { s.pwr with state := p } })
theorem met_park : (pack .active).busyFor 0xB000 6 = false ∧ (pack .active).sw.coreQuenched = true ∧ (with_ (active 1)).sw.coreQuenched = false ∧
    (pack .parking).sw.drivers = [] ∧ (pack .parking).sw.pwr.wantUp = false ∧ (pack .parked).sw.pwr.state = .parked ∧
    (pack .parked).busyFor 0xB000 6 = false ∧ (pack .parking).busyFor 0xB000 6 = false ∧ (pack .unparking).sw.pwr.state = .unparking ∧
    (pack .unparking).sw.cfgPortList.any (fun p => ((pack .unparking).sw.port p).exitAt.isSome) = false := by decide +kernel
/-- M's firmware is being replaced; the debug challenge is class T, which entry to Parked resets (R596, R587). -/
theorem met_firmware : ({ pack .parking with sec := { (pack .parking).sec with busy := some 3 } } : State).sec.busy = some 3 ∧
    (pack .parking).sec.busy ≠ some 3 ∧ (pack .unparking).sec.busy ≠ some 3 := by decide +kernel
theorem test_park_firmware :
    afterAll .parkEntryComplete { pack .parking with sec := { (pack .parking).sec with busy := some 3 } }
      (fun t => t.sw.pwr.state == .parking) = true ∧
    afterAll .parkEntryComplete { pack .parking with sec := { (pack .parking).sec with nonce := some (9, .i3c) } }
      (fun t => t.sw.pwr.state == .parked && t.sec.nonce.isNone) = true := by decide +kernel
theorem test_park : after .park State.reset (fun s => s.pwr.state == .parking) = true ∧
    after .park (with_ (active 1)) (fun s => s.pwr.state == .active) = true ∧
    after .parkEntryComplete (pack .parking) (fun s => s.pwr.state == .parked) = true ∧
    after .unpark (pack .parked) (fun s => s.pwr.state == .unparking) = true := by decide +kernel
/-- The mean of 1,000 and 2,000 mW. -/
theorem test_mean_power : (with_ (fun s => { s with pwr := { s.pwr with samples := [1000, 2000] } })).sw.meanMw = 1500 := by
  decide +kernel
theorem met_cooling : State.reset.busyFor 0xB000 2 = false ∧ State.reset.sw.coreQuenched = true ∧ 1 < (2 : BitVec 8).toNat ∧
    (1 : BitVec 8).toNat ≤ 1 ∧ (with_ (active 1)).busyFor 0xB000 2 = false := by decide +kernel
/-- Air cooling cuts the limit to 900 W; with a tenancy not Quenched the write is undefined (R660). -/
theorem test_cooling : after (.coolingWrite 1) State.reset (fun s => s.rd L.pwrCooling == 1 && s.rd L.pwrLimit == 900) = true ∧
    stops (.coolingWrite 1) (with_ (active 1)) 660 = true := by decide +kernel

/-! ### 17: the collector -/

/-- Format, a contained fault of source 5. -/
def fault21 : FaultInfo := ⟨0x21, 5, none, 0, 0⟩
def record5 : FltRec := { time := 0, code := 0x40, cls := 1, source := 5, ten := none, inc := 0, detail := 0, aux := 0, last := 0x40, closeAt := 100 }
/-- In-band interrupts are enabled. -/
def ibiOn : Sw := (State.reset.sw.wr L.lexI3cIbi 0 1) |> fun s => { s with i3c := { s.i3c with ibi := true, addr := some 9 } }
/-- With records that have been signalled. -/
def withRecs (l : List (Nat × FltRec)) : State :=
  with_ (fun s => { s with flt := { s.flt with recs := l, seen := ({ s with flt := { s.flt with recs := l } } : Sw).fltSum } })
def withRec (r : FltRec) : State := withRecs [(511, r)]
def recsFull : State := withRecs ((List.range 512).map (fun i => (i, { record5 with source := 6, open_ := false })))
theorem met_fault_raise : faultKnown fault21 = true ∧ faultKnown ⟨0x40, 5, none, 0, 0⟩ = false ∧ State.reset.sw.rd L.fltMergeNs ≠ 0 ∧
    (with_ (fun s => s.wr L.fltMergeNs 0 0)).sw.rd L.fltMergeNs = 0 ∧ State.reset.sw.flt.due = [] ∧
    faultClass fault21.code ≤ 2 ∧ State.reset.sw.rests = true ∧ (withRec record5).sw.rests = true ∧ recsFull.sw.rests = true ∧
    faultKnown ⟨4, 3, none, 0, 0⟩ = true ∧ fault21.code ≠ 0x04 ∧ (withRec record5).sw.openRec 5 = some (511, record5) ∧ State.reset.sw.openRec 5 = none ∧
    State.reset.sw.recSlot (faultClass fault21.code) = some 0 := by decide +kernel
theorem met_fault_lost : faultKnown ⟨3, 5, none, 0, 0⟩ = true ∧ recsFull.sw.openRec 5 = none ∧ recsFull.sw.recSlot (faultClass 3) = none := by decide +kernel
/-- A record that took its last fault before this instant, at this instant, and an overflow of an earlier instant. -/
theorem met_record_instant :
    (let s := (withRec { record5 with lastAt := 7 }).updSw (fun s => { s with flt := { s.flt with ovf := true, ovfAt := 3 } })
     s.sw.flt.recs.all (fun kv => kv.2.lastAt != s.sw.now) && s.sw.flt.ovfAt != s.sw.now && record5.lastAt == State.reset.sw.now) = true := by
  decide +kernel
theorem met_record_close : (withRec record5).sw.flt.recs.get? (511 : Fin 512) = some record5 ∧ record5.open_ = true ∧ record5.waits = [] := by
  decide +kernel
theorem test_record_close : after (.faultRecordClose 511) (withRec record5) (fun s => s.flt.recs.any (fun kv => !kv.2.open_) && s.now == 100) = true := by
  decide +kernel
/-- Two rises at one instant signal once (R677), and without a merge time a record closes with its handling (R686). -/
theorem test_flt_once : after (.faultRaise fault21) { State.reset with sw := ibiOn } (fun s => s.tx.length == 1 && s.flt.recs.all (fun kv => kv.2.open_)) = true ∧
    after (.faultRaise ⟨0x21, 6, none, 0, 0⟩) { State.reset with sw := { ibiOn with flt := { sigAt := some 0 } } } (fun s => s.tx.length == 0) = true ∧
    after (.faultRaise fault21) (with_ (fun s => s.wr L.fltMergeNs 0 0)) (fun s => s.flt.recs.all (fun kv => !kv.2.open_)) = true := by
  decide +kernel
theorem met_flt_commands : State.reset.busyFor 0xA002 1 = false ∧ State.reset.busyFor 0xA002 2 = false := by decide +kernel
theorem test_flt_ack : after (.fltAck 511) (withRec record5) (fun s => s.flt.recs.isEmpty) = true ∧
    after (.fltAck 512) (withRec record5) (fun s => s.flt.recs.length == 1) = true ∧
    after (.fltClr 5) (withRec record5) (fun s => s.flt.recs.isEmpty) = true ∧
    after (.fltClr 72) (withRec record5) (fun s => s.flt.recs.length == 1) = true := by decide +kernel

/-! ### 18: the recorder -/

/-- The recorder in state `n`. -/
def recorder (n : Nat) : State := with_ (fun s => { s with recd := { s.recd with st := n } })
theorem met_recorder : State.reset.busyFor 0xD001 1 = false ∧ State.reset.sw.recIdle = true ∧ (recorder 1).sw.recIdle = false ∧
    (recorder 1).busyFor 0xD001 1 = false ∧ (recorder 4).sw.recd.st = 4 ∧ (recorder 5).sw.recd.st = 5 ∧ (recorder 5).busyFor 0xD001 1 = false ∧ (recorder 3).sw.fedNext = none ∧ (recorder 3).sw.recd.left = 0 ∧
    (with_ (fun s => { s with recd := { s.recd with st := 3, left := 1 } })).sw.fedNext = none := by
  decide +kernel
theorem test_rec_stop : after .recStop (recorder 1) (fun s => s.recd.st == 4 && s.recd.cause == 0) = true ∧
    after .recDumpComplete (recorder 5) (fun s => s.recd.st == 4 && s.recd.cause == 4) = true := by decide +kernel
/-- A clear comes before a fault of the same instant, which makes its record anew (R605). -/
theorem test_clear_first : after (.fltAck 511) (withRec { record5 with lastAt := 0, lately := [fault21] })
      (fun s => s.flt.recs.map (fun kv => (kv.1, kv.2.code)) == [(0, 0x21)]) = true ∧
    after (.fltAck 511) (withRec { record5 with lastAt := 7 }) (fun s => s.flt.recs.isEmpty) = true := by decide +kernel
/-- Records of one instant stand by rising port, numbered in that order (R700). -/
theorem test_record_ties : ((((recorder 1).sw.record 0 [] { kind := 0, port := 5 } []).record 0 [] { kind := 0, port := 2 } []).ringRaw 0 0 2).map
    (fun l => (lPort l, lRno l)) = [(2, 0), (5, 1)] := by decide +kernel
theorem met_dump : (with_ (fun s => (active 1 s).wr L.recTen 0 2 |>.wr L.recDump 0 (2 ^ 56))).sw.dumpAllowed = true ∧
    State.reset.sw.dumpAllowed = false := by decide +kernel

/-- The recorder is Stopped, with the signature, changed by `f`, in line 0 of die 0's ring. -/
def stopped : Sw := { State.reset.sw with recd := { State.reset.sw.recd with st := 4 } }
def signedRing (f : Byte → Byte) (w : Sw) : Sw := { w with hbm := memWrs [] (w.ringBase 0) (w.detDigest.map f ++ zeros 32) }
theorem ring_kept (f : Byte → Byte) (w : Sw) (hb : w.hbmBad = []) (hk : w.blkRst = []) : (signedRing f w).ringLost 0 0 = false := by
  simp only [Sw.ringLost, Sw.lineBad, Sw.lineReset, signedRing, hb, hk, List.contains_nil, Bool.or_self]
theorem hbm_rd (w : Sw) (m : List Host.Cell) (r : Reg) (i : Nat) : ({ w with hbm := m } : Sw).rd r i = w.rd r i := rfl
theorem hbm_base (w : Sw) (m : List Host.Cell) (d : Nat) : ({ w with hbm := m } : Sw).ringBase d = w.ringBase d := rfl
theorem hbm_entry (w : Sw) (m : List Host.Cell) (i j : Nat) : ({ w with hbm := m } : Sw).detEntry i j = w.detEntry i j := by
  simp only [Sw.detEntry, Sw.storedBytes, hbm_rd]
theorem hbm_digest (w : Sw) (m : List Host.Cell) : ({ w with hbm := m } : Sw).detDigest = w.detDigest := by
  simp only [Sw.detDigest, hbm_entry, hbm_rd]
theorem signed_line (f : Byte → Byte) (w : Sw) (x : Bytes) (h : w.detDigest = x) (hb : w.hbmBad = []) (hk : w.blkRst = []) :
    x.length = 32 ∧ (signedRing f w).detDigest = x ∧ ((signedRing f w).ringLine 0 0).take 32 = x.map f := by
  have l : x.length = 32 := by rw [← h]; simp [Sw.detDigest]
  refine ⟨l, by rw [signedRing, hbm_digest, h], ?_⟩
  have hr : (signedRing f w).ringLine 0 0 = x.map f ++ zeros 32 := by
    apply Sw.ringLine_of_write (signedRing f w) 0 _ (ring_kept f w hb hk)
    · simp only [signedRing, h, hbm_base]
    · simp [l, zeros]
  rw [hr, List.take_append_of_le_length (by simp [l]), List.take_of_length_le (by simp [l])]
theorem signed_matches (w : Sw) (hb : w.hbmBad = []) (hk : w.blkRst = []) : (signedRing id w).sigMatches = true := by
  obtain ⟨-, hd, hr⟩ := signed_line id w _ rfl hb hk
  rw [Sw.sigMatches, hr, hd, List.map_id]
  exact beq_self_eq_true _
theorem signed_differs (w : Sw) (hb : w.hbmBad = []) (hk : w.blkRst = []) : (signedRing (fun b => ~~~ b) w).sigMatches = false := by
  obtain ⟨l, hd, hr⟩ := signed_line (fun b => ~~~ b) w _ rfl hb hk
  rw [Sw.sigMatches, hr, hd]
  generalize w.detDigest = x at l
  match x, l with
  | b :: t, _ =>
    have hb : ∀ c : Byte, ¬ ~~~ c = c := by decide
    rw [List.map_cons, List.cons_beq_cons, beq_eq_false_iff_ne.mpr (hb b), Bool.false_and]
theorem met_signature : (signedRing id stopped).sigMatches = true ∧ (signedRing id stopped).recd.st = 4 ∧
    (signedRing (fun b => ~~~ b) stopped).sigMatches = false ∧ (signedRing (fun b => ~~~ b) stopped).recd.st = 4 :=
  ⟨signed_matches _ rfl rfl, rfl, signed_differs _ rfl rfl, rfl⟩

/-- Feed, with one record in die 0's ring: a packet of port 0 kept without its payload, or a lexicon read. -/
def feeding (kind : Nat) : State :=
  let s := { State.reset.sw with recd := { State.reset.sw.recd with st := 3 } }
  let s := (s.wr (L.recWp.at 0) 0 1).wr L.recPorts 0 1
  { State.reset with sw := { s with hbm := memWrs [] (s.ringBase 0) (zeros 32 ++ recMeta { kind := kind, port := 0 } 40 0) } }
theorem met_feed : ((feeding 0).sw.fedNext.any (fun x => x.1 == 0 && x.2.1 == 0 && lKind x.2.2 == 0 && !lFull x.2.2)) = true := by
  decide +kernel
/-- The record is a control packet, a CREDIT, kept whole; and one whose second line, of the payload, cannot be read. -/
def feedingLine (l : Bytes) (bad : List Nat) : State :=
  let s := { State.reset.sw with recd := { State.reset.sw.recd with st := 3 } }
  let s := (s.wr (L.recWp.at 0) 0 2).wr L.recPorts 0 1
  { State.reset with sw := { s with hbm := memWrs [] (s.ringBase 0) l, hbmBad := bad } }
def feedsCtl : State := feedingLine (wordBytes (mkCredit []) ++ recMeta { kind := 0, port := 0, full := true } 40 0) []
def feedsLost : State := feedingLine (zeros 32 ++ recMeta { kind := 0, port := 0, full := true, lines := 1 } 40 0)
  [State.reset.sw.ringAt 0 1 / 64]
theorem met_feed_packets :
    (feedsCtl.sw.fedNext.any (fun x => lKind x.2.2 == 0 && lFull x.2.2 && !feedsCtl.sw.payLost x.1 x.2.1 x.2.2 &&
       pCtl (BitVec.ofNat 256 (leNat (x.2.2.take 32))) == 1) && feedsCtl.unasked &&
     feedsLost.sw.fedNext.any (fun x => feedsLost.sw.payLost x.1 x.2.1 x.2.2)) = true := by decide +kernel
theorem met_feed_replayed : ((feeding 2).sw.fedNext.any (fun x => lKind x.2.2 == 2 &&
    (match (feeding 2).replay x.1 x.2.1 x.2.2 with | .ok (some t) => !(t.sw.fedPast x.1 x.2.1 x.2.2).boot.asked | _ => false))) = true := by
  decide +kernel

/-! ### 19: the root of trust -/

/-- A Crypto Officer session 5. -/
def officer (f : Sec → Sec) : State := withSec (fun x => f { x with sess := [{ id := 5, via := .i3c, open_ := true, officer := true }] })
theorem met_never_busy : ∀ k sub, (officer id).busyFor (0xC000 + k) sub = false := fun _ _ => rfl
theorem met_officer : (officer id).sec.inOfficer (some 5) = true ∧ (officer id).sec.inOfficer none = false ∧
    (officer id).sec.inOfficer (some 4) = false ∧ (officer id).unasked = true := by decide +kernel
theorem test_outside_session : after (.zeroize none) (officer id) (fun s => s.rd (L.lexDenied.at 1) == 1) = true := by decide +kernel
/-- Slot 4 is fused. -/
def fused4 (x : Sec) : Sec := { x with fuses := [(4, { hash := 9, fused := true })] }
theorem met_fuse : ((officer fused4).sec.fuse (4 : BitVec 8).toNat).fused = true ∧ ((officer id).sec.fuse (4 : BitVec 8).toNat).fused = false ∧
    ((officer id).sec.fuse (1 : BitVec 8).toNat).fused = false := by decide +kernel
theorem met_revoke : ∀ k : Fin 2, iKey ((officer fused4).sec.imgHeader k) ≠ 4 := by decide +kernel
theorem test_key_fuse : afterAll (.keyFuse (some 5) 4 7) (officer id) (fun s => decide (s.sec.fuse 4 = { hash := 7, fused := true })) = true ∧
    afterAll (.keyFuse (some 5) 4 7) (officer fused4) (fun s => (s.sec.fuse 4).hash == 9) = true ∧
    afterAll (.keyRevoke (some 5) 4) (officer fused4) (fun s => (s.sec.fuse 4).revoked && (s.sec.fuse 4).hash == 9) = true := by
  decide +kernel
theorem test_svn_refused : afterAll (.svnAdvance (some 5)) (officer (fun x => { x with runSvn := 3 })) (fun s => s.sec.svnFuse == 0) = true := by
  decide +kernel
theorem met_image : (officer id).sec.busy = none ∧ (officer id).sec.err = false ∧ (officer id).sw.rd L.secImgOff < slotSize ∧
    (officer (fun x => { x with busy := some 1 })).sec.busy = some 1 ∧ (officer (fun x => { x with busy := some 2 })).sec.busy = some 2 := by
  decide +kernel
/-- Erasing slot 1 leaves slot 0 (R725). -/
theorem test_erase : afterAll .imgCommandComplete (withSec (fun x => { x with busy := some 1, nor := [(7, 1), (slotBase 1 + 7, 1)] }))
    (fun s => s.sec.busy.isNone && s.sec.nor == [(7, 1)]) = true := by decide +kernel
theorem test_retire : afterAll (.retire (some 5)) (officer id) (fun s => s.sec.retired && s.sec.sess.isEmpty && !s.sec.derived) = true := by
  decide +kernel
/-- The I3C requester holds nonce 9. -/
def challenged (fails : Nat) : State := withSec (fun x => { x with nonce := some (9, .i3c), dbgfail := fails })
theorem met_debug : State.reset.sw.lexAllows .i3c 0xC003 false = true ∧ State.reset.sw.lexStopped .i3c 0xC003 1 false = false ∧
    (challenged 2).sw.lexAllows .i3c 0xC003 true = true ∧ (challenged 2).sec.holds .i3c = true ∧ (challenged 3).sec.dbgfail = 3 ∧
    (challenged 2).sec.nonce = some (9, .i3c) ∧ (challenged 2).dbgOk 9 (3 :: zeros 3731) = false := by decide +kernel
/-- Debug level 3 does not exist: the third failure (R734). -/
theorem test_debug_fails : afterAll (.dbgResponse .i3c (3 :: zeros 3731)) (challenged 2)
    (fun s => s.sec.dbgfail == 3 && s.sec.nonce.isNone && s.sec.debug == 0) = true := by decide +kernel
theorem met_spdm : (target {}).spdmHeard .i3c = true ∧ (target {}).sec.serves = true ∧ (target {}).sec.derived = true ∧
    (target {}).sec.sess.length < 4 ∧ SpdmReq.endSession 1 ≠ .keyExchange := by decide +kernel

/-! ### Resets and pins -/

def alignGood : List Nat := List.replicate 60 8
def factsOk : BootFacts := ⟨true, alignGood, false, 0, 900⟩
def factsFuse : BootFacts := ⟨false, [], true, 0, 900⟩
def factsKat : BootFacts := ⟨true, alignGood, true, 0, 900⟩
def factsAlign : BootFacts := ⟨true, [6], true, 0, 900⟩
theorem met_cold_reset : State.reset.sw.mayStart = true ∧ factsFuse.fuseOk = false ∧ factsOk.fuseOk = true ∧ alignOk State.reset.sw.ident.grade factsOk.align = true ∧
    factsAlign.fuseOk = true ∧ alignOk State.reset.sw.ident.grade factsAlign.align = false ∧ (match State.reset.coldStart factsFuse with | .ok _ => true | _ => false) = true ∧
    (with_ (fun s => { s with pins := { s.pins with railLow := true } })).sw.mayStart = false := by decide +kernel
/-- No image of the NOR after reset has lexicon values. -/
theorem met_cold_images : factsKat.fuseOk = true ∧ alignOk State.reset.sw.ident.grade factsKat.align = true ∧ factsKat.katOk = true ∧
    (State.reset.coldBase factsKat).sec.secOf 0 2 = none ∧ (State.reset.coldBase factsKat).sec.secOf 1 2 = none ∧
    State.reset.sec.busy = none := by decide +kernel
theorem test_cold_stops : after (.coldReset factsFuse) State.reset (fun s => s.boot.error && s.boot.cause == 2 && !s.boot.ready) = true := by
  decide +kernel
theorem met_warm_reset : State.reset.busyFor 0x2000 2 = false ∧ State.reset.sw.boot.image = [] ∧
    (match State.reset.warmStart factsAlign with | .ok _ => true | _ => false) = true ∧
    (match State.reset.warmStart factsOk with | .ok _ => true | _ => false) = true := by decide +kernel
/-- A rail is low; RESET_N is high or low. -/
def low (r : Bool) : State := with_ (fun s => { s with pins := { s.pins with railLow := true, resetN := r } })
theorem met_rail : (low true).sw.pins.railLow = true ∧ (low true).sw.pins.resetN = true ∧ (low true).sw.pins.thermCritN = true ∧
    (low false).sw.pins.railLow = true ∧ (low false).sw.pins.resetN = false ∧
    (match State.coldStart { low true with sw := { (low true).sw with pins := { (low true).sw.pins with railLow := false } } } factsFuse with
     | .ok _ => true | _ => false) = true := by decide +kernel
theorem test_rail_loss : after .railLoss (with_ (active 1)) (fun s => !s.boot.ready && !s.faultN && (s.tenSt 1).st == .quenched) = true := by
  decide +kernel
def linking : State := with_ (fun s => { s with boot := { s.boot with stage := 7, ready := false, linkAt := some 0, linkNs := 1000 } })
theorem met_link_timeout : linking.sw.boot.linkAt = some 0 := rfl
theorem test_link_timeout : after .bootLinkTimeout linking (fun s => s.boot.ready && s.boot.stage == 9 && s.now == 1004) = true := by
  decide +kernel
def returning : State := with_ (fun s => { s with boot := { s.boot with returns := [(2, 2 ^ 28, some 40)] } })
theorem met_return : returning.sw.boot.returns.find? (fun r => r.1 == (2 : BPort).val) = some ((2 : BPort).val, 2 ^ 28, some 40) := by decide +kernel
/-- A rail that is lost while slot 2 is being fused leaves it without a usable key (R753). -/
def fusing2 : State := (State.reset.wrFuse 2 77).2
theorem met_fusing : fusing2.sec.fusing = some (2, fusing2.sw.now) ∧ (∀ k, State.reset.sec.fusing ≠ some (k, State.reset.sw.now)) :=
  ⟨by decide +kernel, fun _ h => by cases h⟩
theorem test_fusing : afterAll .railLoss fusing2 (fun s => (s.sec.fuse 2).good == false && (s.sec.fuse 2).fused) = true := by decide +kernel
theorem met_mgt_phy : (with_ (fun s => { s with boot := { s.boot with error := true, stage := 1 } })).sw.boot.error = true ∧
    (with_ (fun s => { s with boot := { s.boot with error := true, stage := 1 } })).sw.boot.stage < 3 ∧
    State.reset.sw.boot.error = false := by decide +kernel
theorem met_critical : State.reset.sw.sensed (.stack 5 2) = true ∧ State.reset.sw.pins.thermCritN = true := by decide +kernel
theorem test_critical : after (.thermCritical .mgmt) State.reset (fun s => !s.pins.thermCritN && !s.boot.ready) = true := by decide +kernel
theorem met_sample : State.reset.sw.held = false ∧
    ((State.reset.sw.reach (nextTick 10000 State.reset.sw.now State.reset.sw.pwr.sensedAt)).sense [(.mgmt, 1199), (.stack 0 0, 1049)]).pwr.temps.any
      (fun kv => decide (critAt kv.1 ≤ kv.2)) = false := by decide +kernel
theorem test_sample_critical : after (.sensorSample [(.stack 0 0, 1050)]) State.reset (fun s => !s.pins.thermCritN) = true ∧
    after (.sensorSample [(.stack 0 0, 1049)]) State.reset (fun s => s.pins.thermCritN) = true := by decide +kernel
/-- A pulse of 1 µs counts, one of 999 ns does not (R760). -/
theorem test_pps_width : after (.ppsInEdge 1000) State.reset (fun s => s.pins.ppsRun == 1) = true ∧
    after (.ppsInEdge 999) State.reset (fun s => s.pins.ppsRun == 0) = true := by decide +kernel
def locked (pps : Bool) : State := with_ (fun s => { (s.wr L.telPtpState 0 2) with pins := { s.pins with ppsLock := pps, ppsLast := some 40 } })
theorem met_time : (locked false).sw.pins.ppsLock = false ∧ (locked false).sw.rd L.telPtpState = 2 ∧ (locked true).sw.pins.ppsLock = true ∧
    (locked true).sw.pins.ppsLast = some 40 ∧ (locked true).sw.held = false := by decide +kernel
theorem test_ptp_loss : after .ptpSourceLoss (locked true) (fun s => s.rd L.telPtpState == 2) = true := by decide +kernel
/-- An address is taken from DHCP only while none is configured (R616). -/
theorem test_dhcp : after (.dhcpReply 0xC0A80001) State.reset (fun s => s.rd L.lexEthIp4Now == 0xC0A80001) = true := by decide +kernel
theorem met_dhcp : State.reset.sw.rd L.lexEthIp4 = 0 ∧ (with_ (fun s => s.wr L.lexEthIp4 0 5)).sw.rd L.lexEthIp4 ≠ 0 := by decide +kernel
/-- Outside debug level 2 an instruction that is not boundary scan reads as BYPASS (R757). -/
theorem test_jtag : after (.jtagInstruction (.other 3)) State.reset (fun s => s.pins.jtag == 0) = true := by decide +kernel
theorem met_perst : (mem2 { st := .training, enAt := 8 }).sw.memRole 2 = true ∧ ((mem2 { st := .training, enAt := 8 }).sw.bport 2).st ≠ .disabled ∧
    ((mem2 { st := .training, enAt := 8 }).sw.bport 2).st ≠ .down := by decide +kernel
theorem test_perst : after (.memPerstRelease 2) (mem2 { st := .training, enAt := 8 }) (fun s => s.pins.memUp == [2] && s.now == 1000012) = true := by
  decide +kernel
end Sys2Proof.Tests
end

section
/-! SUPPORT. Bit fields (00 R13): what a field of a word, of a header and of a packet the part makes reads as. -/

namespace Sys2Proof.Machine

/-- A bit of a word with one field set: that of the value inside the field, that of the word outside. -/
theorem testBit_setFld (w lo len v i : Nat) :
    (setFld w lo len v).testBit i = if lo ≤ i ∧ i < lo + len then v.testBit (i - lo) else w.testBit i := by
  have hw : w = 2 ^ lo * (2 ^ len * (w / 2 ^ lo / 2 ^ len) + fld w lo len) + w % 2 ^ lo := by
    rw [fld, Nat.shiftRight_eq_div_pow, Nat.div_add_mod, Nat.div_add_mod]
  have hlo : w % 2 ^ lo < 2 ^ lo := Nat.mod_lt _ (Nat.two_pow_pos _)
  have hf : fld w lo len < 2 ^ len := Nat.mod_lt _ (Nat.two_pow_pos _)
  have hv : v % 2 ^ len < 2 ^ len := Nat.mod_lt _ (Nat.two_pow_pos _)
  have hset : setFld w lo len v = 2 ^ lo * (2 ^ len * (w / 2 ^ lo / 2 ^ len) + v % 2 ^ len) + w % 2 ^ lo := by
    rw [setFld, Nat.shiftLeft_eq, Nat.shiftLeft_eq]
    conv => lhs; arg 1; arg 1; rw [hw]
    rw [Nat.mul_add, Nat.mul_add, Nat.mul_comm (fld w lo len), Nat.mul_comm (v % 2 ^ len)]
    omega
  conv => rhs; rw [hw]
  rw [hset]
  simp only [Nat.testBit_two_pow_mul_add _ hlo, Nat.testBit_two_pow_mul_add _ hf, Nat.testBit_two_pow_mul_add _ hv,
    Nat.testBit_mod_two_pow]
  by_cases h1 : i < lo
  · simp [h1, Nat.not_le.mpr h1]
  · by_cases h2 : i - lo < len
    · simp [h1, h2, Nat.le_of_not_lt h1, show i < lo + len by omega]
    · simp [h1, h2, show ¬ i < lo + len by omega]

/-- A bit of a field. -/
theorem testBit_fld (w lo len i : Nat) : (fld w lo len).testBit i = (decide (i < len) && w.testBit (lo + i)) := by
  simp [fld, Nat.testBit_mod_two_pow, Nat.testBit_shiftRight]

/-- A field that lies apart from the one set reads as before. -/
theorem fld_setFld_apart (w lo len v lo' len' : Nat) (h : lo' + len' ≤ lo ∨ lo + len ≤ lo') :
    fld (setFld w lo len v) lo' len' = fld w lo' len' := by
  refine Nat.eq_of_testBit_eq fun i => ?_
  rw [testBit_fld, testBit_fld, testBit_setFld]
  by_cases hi : i < len'
  · rw [if_neg (by omega)]
  · simp [hi]

/-- The low bits of the field set read as those of the value. -/
theorem fld_setFld_low (w lo len v n : Nat) (h : n ≤ len) : fld (setFld w lo len v) lo n = v % 2 ^ n := by
  refine Nat.eq_of_testBit_eq fun i => ?_
  rw [testBit_fld, testBit_setFld, Nat.testBit_mod_two_pow]
  by_cases hi : i < n
  · rw [if_pos (by omega), Nat.add_sub_cancel_left]
  · simp [hi]

/-- A field of a 256-bit word made from a number. -/
theorem hf_ofNat (n lo len : Nat) (h : lo + len ≤ 256) : hf (BitVec.ofNat 256 n) lo len = fld n lo len := by
  refine Nat.eq_of_testBit_eq fun i => ?_
  rw [hf, testBit_fld, testBit_fld, BitVec.toNat_ofNat, Nat.testBit_mod_two_pow]
  by_cases hi : i < len
  · simp [show lo + i < 256 by omega]
  · simp [hi]

theorem hf_hset_apart (w : Word256) (lo len v lo' len' : Nat) (hw : lo' + len' ≤ 256) (h : lo' + len' ≤ lo ∨ lo + len ≤ lo') :
    hf (hset w lo len v) lo' len' = hf w lo' len' := by
  rw [hset, hf_ofNat _ _ _ hw, fld_setFld_apart _ _ _ _ _ _ h, hf]

/-- Sealing a packet changes its check alone. -/
theorem hf_sealPkt (w : Word256) (lo len : Nat) (h : lo + len ≤ 240) : hf (sealPkt w) lo len = hf w lo len :=
  hf_hset_apart _ _ _ _ _ _ (by omega) (.inl h)

end Sys2Proof.Machine
end

section
/-! SUPPORT. What the fabric, the billets, the resequencer and the recorder leave of the Lexicon: none of them writes a
forwarding entry (03 R145), so a packet under way finds the routes and classes it started with. -/

namespace Sys2Proof.Machine

/-- What the Lexicon's store holds of the forwarding entries, 0x4010 to 0x4014: routes, uplink sets,
spraying, ruled classes, port roles (03 R145). -/
def fwdLex (m : AMap Nat) (k : Nat) : Option Nat := if 0x401000 * 65536 ≤ k ∧ k < 0x401500 * 65536 then m.get? k else none

theorem fwdLex_put (m : AMap Nat) (q x d : Nat) (h : q < 0x401000 * 65536 ∨ 0x401500 * 65536 ≤ q) :
    fwdLex (m.put q x d) = fwdLex m := by
  funext k
  unfold fwdLex
  split
  · have hq : q ≠ k := by omega
    unfold AMap.put
    split
    · exact AMap.get?_del_ne _ _ _ hq
    · exact AMap.get?_set_ne _ _ _ _ hq
  · rfl

/-- An entry from 0x4015 on is none of them. -/
@[simp] theorem fwdLex_wr (s : Sw) (r : Reg) (el v : Nat) (h : 0x4015 ≤ r.index) : fwdLex (s.wr r el v).lex = fwdLex s.lex :=
  fwdLex_put _ _ _ _ (.inr (by unfold Reg.key; omega))

@[simp] theorem fwdLex_inc (s : Sw) (r : Reg) (el n : Nat) (h : 0x4015 ≤ r.index) : fwdLex (s.inc r el n).lex = fwdLex s.lex :=
  fwdLex_wr _ _ _ _ h

/-- Nor is an element below entry 0x4010. -/
theorem fwdLex_inc_below (s : Sw) (r : Reg) (el n : Nat) (h : r.key el < 0x401000 * 65536) :
    fwdLex (s.inc r el n).lex = fwdLex s.lex := fwdLex_put _ _ _ _ (.inl h)

/-- The count of malformed packets is kept for each Forge die. -/
@[simp] theorem fwdLex_inc_malformed (s : Sw) (d n : Nat) (h : d < 4) :
    fwdLex (s.inc (L.fabRxMalformed.at d) 0 n).lex = fwdLex s.lex :=
  fwdLex_inc_below _ _ _ _ (by simp only [Reg.key, Reg.at, L.fabRxMalformed]; omega)

@[simp] theorem fwdLex_inc_lexDenied (s : Sw) (n : Nat) : fwdLex (s.inc (L.lexDenied.at 3) 0 n).lex = fwdLex s.lex :=
  fwdLex_inc_below _ _ _ _ (by decide)

/-- A loop that carries the switch in `g` keeps the forwarding entries where each of its rounds does. -/
theorem fwdLex_foldl_of {α β : Type} (g : β → Sw) (f : β → α → β) (l : List α) (b : β)
    (h : ∀ b a, fwdLex (g (f b a)).lex = fwdLex (g b).lex) : fwdLex (g (l.foldl f b)).lex = fwdLex (g b).lex := by
  induction l generalizing b with
  | nil => rfl
  | cons a l ih => rw [List.foldl_cons, ih, h]

theorem fwdLex_foldl {α : Type} (f : Sw → α → Sw) (l : List α) (s : Sw) (h : ∀ s a, fwdLex (f s a).lex = fwdLex s.lex) :
    fwdLex (l.foldl f s).lex = fwdLex s.lex := fwdLex_foldl_of id f l s h

theorem fwdLex_forN_of {β : Type} (g : β → Sw) (n : Nat) (b : β) (f : Nat → β → β)
    (h : ∀ i b, fwdLex (g (f i b)).lex = fwdLex (g b).lex) : fwdLex (g (forN n b f)).lex = fwdLex (g b).lex :=
  fwdLex_foldl_of g (fun b i => f i b) _ _ (fun b i => h i b)

theorem fwdLex_forN (n : Nat) (s : Sw) (f : Nat → Sw → Sw) (h : ∀ i s, fwdLex (f i s).lex = fwdLex s.lex) :
    fwdLex (forN n s f).lex = fwdLex s.lex := fwdLex_forN_of id n s f h

/-! ### Memory lines -/

@[simp] theorem fwdLex_uncorr (s : Sw) (off reader : Nat) : fwdLex (s.uncorr off reader).lex = fwdLex s.lex := by
  simp [Sw.uncorr, Reg.at, L.hbmEccUncorr]

@[simp] theorem Sw.touchHbm_lex (s : Sw) (off : Nat) : (s.touchHbm off).lex = s.lex := by
  unfold Sw.touchHbm; split <;> rfl

@[simp] theorem Sw.touchCxl_lex (s : Sw) (p a : Nat) : (s.touchCxl p a).lex = s.lex := by
  unfold Sw.touchCxl; dsimp only; split <;> rfl

@[simp] theorem fwdLex_readLines (s : Sw) (off n reader : Nat) : fwdLex (s.readLines off n reader).2.lex = fwdLex s.lex := by
  unfold Sw.readLines
  split
  · rfl
  · dsimp only
    exact (fwdLex_foldl _ _ _ (fun _ _ => fwdLex_uncorr _ _ _)).trans (fwdLex_forN _ _ _ (fun _ _ => by simp))

@[simp] theorem fwdLex_writeLine (s : Sw) (off : Nat) (bs : Bytes) (reader : Nat) :
    fwdLex (s.writeLine off bs reader).2.lex = fwdLex s.lex := by
  unfold Sw.writeLine
  split
  · rfl
  · dsimp only
    split
    · simp
    · split <;> simp

@[simp] theorem fwdLex_writeLinesN (n : Nat) (s : Sw) (off : Nat) (bs : Bytes) (reader : Nat) :
    fwdLex (Sw.writeLinesN n s off bs reader).2.lex = fwdLex s.lex := by
  induction n generalizing s off bs with
  | zero => rfl
  | succ n ih =>
    unfold Sw.writeLinesN
    split
    · rfl
    · simp [ih]

@[simp] theorem fwdLex_writeLines (s : Sw) (off : Nat) (bs : Bytes) (reader : Nat) :
    fwdLex (s.writeLines off bs reader).2.lex = fwdLex s.lex := fwdLex_writeLinesN _ _ _ _ _

theorem Sw.touchCxl_foldl_lex (s : Sw) (p : Nat) (l : List Nat) : (l.foldl (fun s i => s.touchCxl p (64 * i)) s).lex = s.lex := by
  induction l generalizing s with
  | nil => rfl
  | cons i l ih => rw [List.foldl_cons, ih, Sw.touchCxl_lex]

@[simp] theorem Sw.cxlStart_lex (s : Sw) (p a n : Nat) (wr : Option Bytes) (req : Option Word256) (die : Nat) :
    (s.cxlStart p a n wr req die).lex = s.lex := by
  unfold Sw.cxlStart
  exact Sw.touchCxl_foldl_lex _ _ _

/-! ### Billets -/

@[simp] theorem fwdLex_refill (s : Sw) (d p : Nat) (bad : List Nat) : fwdLex (s.refill d p bad).lex = fwdLex s.lex := by
  unfold Sw.refill
  dsimp only
  split
  · rfl
  · rw [Sw.setStore_lex]
    refine fwdLex_forN_of (fun a : List (Nat × Nat) × List (Nat × Nat) × Sw => a.2.2) 16 _ _ (fun i a => ?_)
    split
    · rfl
    · split
      · simp [Reg.at, L.bilLost]
      · rfl

theorem fwdLex_takeHandleN (n : Nat) (s t : Sw) (d p h : Nat) (e : Sw.takeHandleN n s d p = some (h, t)) :
    fwdLex t.lex = fwdLex s.lex := by
  induction n generalizing s with
  | zero =>
    unfold Sw.takeHandleN at e
    dsimp only at e
    split at e
    · cases e
    · cases e; rfl
  | succ n ih =>
    unfold Sw.takeHandleN at e
    dsimp only at e
    split at e
    · split at e
      · cases e
      · rw [ih _ e, fwdLex_refill]
    · cases e; rfl

theorem fwdLex_grant (s t : Sw) (d q h : Nat) (o : Owner) (x : Option Ten) (e : s.grant d q o x = .got h t) :
    fwdLex t.lex = fwdLex s.lex := by
  unfold Sw.grant at e
  split at e
  · split at e <;> cases e
  · rename_i hs; cases e; exact (fwdLex_takeHandleN _ _ _ _ _ _ hs :)

/-- What follows from either branch follows from the choice. -/
theorem of_ite_eq {α : Type} {p : Prop} [Decidable p] {a b c : α} {q : Prop} (ha : a = c → q) (hb : b = c → q)
    (e : (if p then a else b) = c) : q := by
  by_cases h : p
  · exact ha ((if_pos h).symm.trans e)
  · exact hb ((if_neg h).symm.trans e)

theorem fwdLex_allocate (s t : Sw) (d n h : Nat) (o : Owner) (x : Option Ten) (e : s.allocate d o x n = .got h t) :
    fwdLex t.lex = fwdLex s.lex := by
  unfold Sw.allocate at e
  dsimp only at e
  refine of_ite_eq (fun e => by cases e) (of_ite_eq (fun e => by cases e) (of_ite_eq (fwdLex_grant _ _ _ _ _ _ _)
    (of_ite_eq (fwdLex_grant _ _ _ _ _ _ _) (fun e => ?_)))) e
  split at e
  · cases e
  · exact fwdLex_grant _ _ _ _ _ _ _ e

theorem fwdLex_allocCells (n : Nat) (s : Sw) (d : Nat) (o : Owner) (x : Option Ten) (r : List Nat × Sw)
    (e : Sw.allocCells n s d o x = .ok r) : fwdLex r.2.lex = fwdLex s.lex := by
  induction n generalizing s r with
  | zero => unfold Sw.allocCells at e; cases e; rfl
  | succ n ih =>
    unfold Sw.allocCells at e
    split at e
    · rename_i ha
      split at e
      · rename_i hr; cases e; exact (ih _ _ hr).trans (fwdLex_allocate _ _ _ _ _ _ _ ha)
      · cases e
    · cases e
    · cases e

theorem fwdLex_forceCells (n : Nat) (qs : List Nat) (s : Sw) (d : Nat) (o : Owner) (x : Option Ten) (r : List Nat × Sw)
    (e : Sw.forceCells n qs s d o x = .ok r) : fwdLex r.2.lex = fwdLex s.lex := by
  induction n generalizing s qs r with
  | zero => unfold Sw.forceCells at e; cases e; rfl
  | succ n ih =>
    unfold Sw.forceCells at e
    split at e
    · cases e
    · split at e
      · rename_i hg
        cases hr : Sw.forceCells n (qs.drop 1) _ d o x with
        | error b => rw [hr] at e; cases e
        | ok r' => rw [hr] at e; cases e; exact (ih _ _ _ hr).trans (fwdLex_grant _ _ _ _ _ _ _ hg)
      · cases e
      · cases e

theorem fwdLex_cellsFor (s : Sw) (k : DPkt) (d : Nat) (o : Owner) (x : Option Ten) (r : List Nat × Sw)
    (e : s.cellsFor k d o x = .ok r) : fwdLex r.2.lex = fwdLex s.lex := by
  unfold Sw.cellsFor at e
  split at e
  · cases e
  split at e
  · exact fwdLex_forceCells _ _ _ _ _ _ _ e
  · exact fwdLex_allocCells _ _ _ _ _ _ e

@[simp] theorem Sw.writeback_lex (s : Sw) (d p : Nat) : (s.writeback d p).lex = s.lex := by
  unfold Sw.writeback; dsimp only; split <;> rfl

@[simp] theorem Sw.putHandle_lex (s : Sw) (h : Nat) : (s.putHandle h).lex = s.lex := by
  unfold Sw.putHandle
  rw [Sw.setStore_lex]
  split <;> simp

@[simp] theorem Sw.release_lex (s : Sw) (h : Nat) : (s.release h).lex = s.lex := by
  unfold Sw.release; split <;> simp

@[simp] theorem Sw.releaseAll_lex (s : Sw) (hs : List Nat) : (s.releaseAll hs).lex = s.lex := by
  induction hs generalizing s with
  | nil => rfl
  | cons h hs ih => exact (ih _).trans (Sw.release_lex _ _)

@[simp] theorem Sw.grantTo_lex (s : Sw) (r : BilReq) (h : Nat) : (s.grantTo r h).lex = s.lex := by
  unfold Sw.grantTo
  split
  · simp
  · simp
  · split
    · simp
    · split
      · simp
      · split <;> simp
  · rfl

@[simp] theorem Sw.pfcCheck_lex (s : Sw) (p c : Nat) : (s.pfcCheck p c).lex = s.lex := by
  unfold Sw.pfcCheck
  dsimp only
  split
  · rfl
  · split
    · simp
    · split <;> simp

@[simp] theorem Sw.askStep_lex (s : Sw) (p c : Nat) (f : Bool) : (s.askStep p c f).lex = s.lex := by
  unfold Sw.askStep
  dsimp only
  split
  · rfl
  · rw [Sw.pfcCheck_lex]
    split <;> simp

theorem fwdLex_serve (s t : Sw) (r : BilReq) (e : s.serve r = some t) : fwdLex t.lex = fwdLex s.lex := by
  unfold Sw.serve at e
  dsimp only at e
  split at e
  · split at e
    · cases e; rfl
    · split at e
      · rename_i hc; cases e; exact (fwdLex_cellsFor _ _ _ _ _ _ hc :)
      · cases e; exact (fwdLex_inc _ (L.mirDropped.atIdx _) _ _ (Nat.le_add_right_of_le (by decide : 0x4015 ≤ L.mirDropped.index)) :)
      · cases e
  · split at e
    · cases e; rfl
    · rename_i k _
      cases hc : Sw.allocCells k.cells s r.die r.owner r.ten with
      | error b => rw [hc] at e; cases e
      | ok x => rw [hc] at e; cases e; exact (fwdLex_allocCells _ _ _ _ _ _ hc :)
  · split at e
    · rename_i ha; cases e; rw [Sw.grantTo_lex]; exact (fwdLex_allocate _ _ _ _ _ _ _ ha :)
    · cases e
    · cases e; rw [Sw.grantTo_lex]
  · split at e
    · rename_i ha; cases e; rw [Sw.grantTo_lex]; exact (fwdLex_allocate _ _ _ _ _ _ _ ha :)
    · cases e

theorem fwdLex_retryOne (s t : Sw) (e : s.retryOne = some t) : fwdLex t.lex = fwdLex s.lex := by
  obtain ⟨l₁, r, l₂, -, hr, -⟩ := List.findSome?_eq_some_iff.mp e
  obtain ⟨w, hw, rfl⟩ := Option.map_eq_some_iff.mp hr
  exact (fwdLex_serve _ _ _ hw :)

@[simp] theorem fwdLex_bilRetry (s : Sw) : fwdLex s.bilRetry.lex = fwdLex s.lex := by
  unfold Sw.bilRetry
  refine (fwdLex_foldl _ _ _ (fun s kv => by split <;> simp)).trans (fwdLex_forN _ _ _ (fun _ s => ?_))
  cases h : s.retryOne with
  | none => rfl
  | some t => exact fwdLex_retryOne _ _ h

/-! ### Routes -/

@[simp] theorem Sw.drawMember_lex (s : Sw) (d c : Nat) (ms : List Nat) : (s.drawMember d c ms).2.lex = s.lex := rfl

@[simp] theorem Sw.report_lex (s : Sw) (d p c : Nat) : (s.report d p c).2.lex = s.lex := by
  unfold Sw.report
  exact (apply_ite Sw.lex _ _ _).trans (ite_self _)

@[simp] theorem Sw.spray_lex (s : Sw) (d c : Nat) (ms : List Nat) : (s.spray d c ms).2.lex = s.lex := by
  unfold Sw.spray; dsimp only; split <;> simp

/-- Routing a packet writes no entry. -/
@[simp] theorem Sw.route_lex (s : Sw) (d id c src ent : Nat) (ok : Bool) (near : List Nat) :
    (s.route d id c src ent ok near).2.lex = s.lex := by
  unfold Sw.route
  dsimp only
  split
  · rfl
  split
  · split <;> rfl
  · split
    · rfl
    · split
      · exact Sw.spray_lex _ _ _ _
      · rfl
  · rfl

/-! ### Packets of the part -/

@[simp] theorem Sw.loseRes_lex (s : Sw) (h : Word256) : (s.loseRes h).lex = s.lex := by
  unfold Sw.loseRes; split <;> rfl

@[simp] theorem fwdLex_ownFail (s : Sw) (d t src dst c ent chk : Nat) :
    fwdLex (s.ownFail d t src dst c ent chk).lex = fwdLex s.lex := by
  unfold Sw.ownFail; split <;> simp [Reg.at, L.tenQdrop, L.tenViol]

@[simp] theorem fwdLex_sendCtl (s : Sw) (d : Nat) (w : Word256) (ck : Checks) : fwdLex (s.sendCtl d w ck).lex = fwdLex s.lex := by
  unfold Sw.sendCtl
  dsimp only
  split
  · simp
  split
  · simp
  split
  · simp [Sw.placeCtl]
  · simp [Sw.placeCtl]
  · simp [Reg.at, L.fwdDropNoroute]

@[simp] theorem Sw.updPkt_lex (s : Sw) (i : Nat) (f : DPkt → DPkt) : (s.updPkt i f).lex = s.lex := rfl
@[simp] theorem Sw.place_lex (s : Sw) (k : DPkt) : (s.place k).lex = s.lex := rfl

@[simp] theorem fwdLex_askCells (s : Sw) (i d : Nat) (o : Owner) (x : Option Ten) : fwdLex (s.askCells i d o x).lex = fwdLex s.lex := by
  unfold Sw.askCells
  split
  · rfl
  · split
    · rename_i hc; exact fwdLex_cellsFor _ _ _ _ _ _ hc
    · rfl

@[simp] theorem fwdLex_sendData (s : Sw) (d : Nat) (w : Word256) (pay : Bytes) (ck : Checks) (own : Owner) (fan : Option Nat) :
    fwdLex (s.sendData d w pay ck own fan).lex = fwdLex s.lex := by
  unfold Sw.sendData
  dsimp only
  split
  · simp
  split
  · simp
  split
  · simp [Sw.nextSeq]
  · simp [Sw.nextSeq]
  · simp [Sw.nextSeq, Reg.at, L.fwdDropNoroute]

@[simp] theorem fwdLex_answer (s : Sw) (d : Nat) (h : Word256) (st inc : Nat) (data : Bytes) (ck : Checks) :
    fwdLex (s.answer d h st inc data ck).lex = fwdLex s.lex := by
  unfold Sw.answer
  split
  · simp
  · split <;> simp

theorem fwdLex_deny (s : Sw) (d : Nat) (h : Word256) (hd : d < 4) : fwdLex (s.deny d h).lex = fwdLex s.lex := by
  unfold Sw.deny; split <;> simp [hd]

/-! ### The switch's own targets -/

@[simp] theorem fwdLex_actHbm (s : Sw) (d : Nat) (h : Word256) (pay : Bytes) : fwdLex (s.actHbm d h pay).lex = fwdLex s.lex := by
  unfold Sw.actHbm
  dsimp only
  split
  · simp
  split
  · simp
  split
  · simp
  split
  · split <;> simp
  · simp

@[simp] theorem fwdLex_actCxl (s : Sw) (d : Nat) (h : Word256) (pay : Bytes) : fwdLex (s.actCxl d h pay).lex = fwdLex s.lex := by
  unfold Sw.actCxl
  dsimp only
  split
  · simp
  split
  · simp
  split
  · simp
  · split <;> simp

theorem fwdLex_actService (s : Sw) (d : Nat) (p : DPkt) (hd : d < 4) : fwdLex (s.actService d p).lex = fwdLex s.lex := by
  unfold Sw.actService
  dsimp only
  split
  · simp
  split
  · simp
  split
  · simp [Reg.at, L.agrSigDiscard]
  split
  · exact fwdLex_deny _ _ _ hd
  · rfl

@[simp] theorem fwdLex_act (s : Sw) (p : DPkt) : fwdLex (s.act p).lex = fwdLex s.lex := by
  unfold Sw.act
  dsimp only
  split
  · simp [Reg.at, L.agrSigDiscard]
  split
  · simp
  split
  · exact fwdLex_deny _ _ _ p.egDie.isLt
  split
  · simp
  · simp
  · exact fwdLex_actService _ _ _ p.egDie.isLt
  · rfl

/-! ### The resequencer -/

@[simp] theorem Sw.setFlow_lex (s : Sw) (k : Nat) (f : Flow) : (s.setFlow k f).lex = s.lex := rfl

@[simp] theorem fwdLex_shortFault (s : Sw) (d src dst c ent t a n : Nat) :
    fwdLex (s.shortFault d src dst c ent t a n).lex = fwdLex s.lex := by
  simp [Sw.shortFault, Reg.at, L.agrSigShort]

@[simp] theorem fwdLex_releaseDue (s : Sw) (k : Nat) : fwdLex (s.releaseDue k).lex = fwdLex s.lex :=
  fwdLex_foldl _ _ _ (fun _ _ => rfl)

@[simp] theorem Sw.creditBack_lex (s : Sw) (src : From) (c n m : Nat) : (s.creditBack src c n m).lex = s.lex := by
  unfold Sw.creditBack
  split
  · split <;> simp
  · rfl

@[simp] theorem Sw.dropPkt_lex (s : Sw) (i : Nat) : (s.dropPkt i).lex = s.lex := rfl

@[simp] theorem fwdLex_freePkt (s : Sw) (p : DPkt) : fwdLex (s.freePkt p).lex = fwdLex s.lex := by simp [Sw.freePkt]

theorem fwdLex_takePages (n : Nat) (s : Sw) (d : Nat) (o : Owner) (r : List Nat × Sw) (e : Sw.takePages n s d o = some r) :
    fwdLex r.2.lex = fwdLex s.lex := by
  induction n generalizing s r with
  | zero => unfold Sw.takePages at e; cases e; rfl
  | succ n ih =>
    unfold Sw.takePages at e
    split at e
    · rename_i hg
      split at e
      · rename_i hr; cases e; exact (ih _ _ hr).trans (fwdLex_grant _ _ _ _ _ _ _ hg)
      · cases e
    · cases e

@[simp] theorem fwdLex_deepWrite (s : Sw) (hs : List Nat) (bs : Bytes) : fwdLex (s.deepWrite hs bs).lex = fwdLex s.lex :=
  fwdLex_foldl _ _ _ (fun _ _ => fwdLex_writeLines _ _ _ _)

@[simp] theorem fwdLex_deepSpill (s : Sw) (i : Nat) : fwdLex (s.deepSpill i).lex = fwdLex s.lex := by
  unfold Sw.deepSpill
  split
  · rfl
  · split
    · dsimp only
      split
      · split
        · rfl
        · rename_i ht
          have hr := fwdLex_takePages _ _ _ _ _ ht
          split
          · rfl
          · simpa using hr
      · rfl
    · rfl

@[simp] theorem fwdLex_joinQueue (s : Sw) (i : Nat) : fwdLex (s.joinQueue i).lex = fwdLex s.lex := by simp [Sw.joinQueue]

@[simp] theorem fwdLex_beginSignal (s : Sw) (p : DPkt) (f : Flow) : fwdLex (s.beginSignal p f).lex = fwdLex s.lex := by
  unfold Sw.beginSignal; split <;> simp

@[simp] theorem fwdLex_endDelivery (s : Sw) (k : Nat) (p : DPkt) (good : Bool) :
    fwdLex (s.endDelivery k p good).lex = fwdLex s.lex := by
  unfold Sw.endDelivery
  split
  · rfl
  · dsimp only
    split
    · rfl
    · split
      · simp
      · exact (fwdLex_foldl _ _ _ (fun s q => by simp [Reg.at, L.fwdReseqLate])).trans (by simp)

@[simp] theorem fwdLex_declareHole (s : Sw) (k : Nat) : fwdLex (s.declareHole k).lex = fwdLex s.lex := by
  unfold Sw.declareHole
  split
  · rfl
  · split
    · rfl
    · simp [Reg.at, L.fwdReseqHoles]

@[simp] theorem fwdLex_reseqRun (n : Nat) (s : Sw) (k : Nat) : fwdLex (Sw.reseqRun n s k).lex = fwdLex s.lex := by
  induction n generalizing s with
  | zero => rfl
  | succ n ih =>
    unfold Sw.reseqRun
    split
    · rfl
    split
    · rfl
    split
    · split
      · rw [ih]; rfl
      · split
        · rw [ih]; split <;> simp
        · rfl
    · dsimp only
      split
      · rw [ih]; simp
      split
      · rfl
      split
      · rw [ih]; simp
      split <;> rfl

@[simp] theorem fwdLex_reseq (s : Sw) (k : Nat) : fwdLex (s.reseq k).lex = fwdLex s.lex := fwdLex_reseqRun _ _ _

/-! ### A packet that is cut -/

@[simp] theorem fwdLex_failPkt (s : Sw) (i : Nat) : fwdLex (s.failPkt i).lex = fwdLex s.lex := by
  unfold Sw.failPkt
  split
  · rfl
  · dsimp only
    split
    · rfl
    · simp only [fwdLex_reseq, Sw.loseRes_lex, fwdLex_freePkt]
      split
      · split <;> rfl
      · rfl

@[simp] theorem fwdLex_cutArriving (s : Sw) (key : Nat) : fwdLex (s.cutArriving key).lex = fwdLex s.lex := by
  unfold Sw.cutArriving
  split
  · rfl
  · simp

/-! ### The recorder -/

@[simp] theorem fwdLex_ringMeets (s : Sw) (d a b : Nat) : fwdLex (s.ringMeets d a b).lex = fwdLex s.lex :=
  fwdLex_foldl _ _ _ (fun _ _ => fwdLex_uncorr _ _ _)

@[simp] theorem Sw.ringFree_lex (s : Sw) (d n : Nat) : (s.ringFree d n).lex = s.lex := by
  unfold Sw.ringFree; dsimp only; split <;> rfl

@[simp] theorem fwdLex_ringPut (s : Sw) (d : Nat) (first : Bytes) (m : RecMeta) (pay : List Bytes) :
    fwdLex (s.ringPut d first m pay).2.lex = fwdLex s.lex := by
  unfold Sw.ringPut
  dsimp only
  split
  · rfl
  · have hw : ∀ (t : Sw) v, fwdLex (t.wr (L.recWp.at d) 0 v).lex = fwdLex t.lex := fun t v =>
      fwdLex_wr _ _ _ _ (by simp [Reg.at, L.recWp])
    simp only [apply_ite Sw.lex, Sw.updRec_lex, ite_self, hw]
    exact (fwdLex_foldl _ _ _ (fun _ _ => fwdLex_writeLine _ _ _ _)).trans (congrArg fwdLex (Sw.ringFree_lex _ _ _))

@[simp] theorem fwdLex_record (s : Sw) (d : Nat) (first : Bytes) (m : RecMeta) (pay : List Bytes) :
    fwdLex (s.record d first m pay).lex = fwdLex s.lex := by
  unfold Sw.record Sw.recordAt
  split
  · rfl
  split
  · simp [Reg.at, L.recLost]
  · dsimp only
    split
    · simp
    · split <;> simp

@[simp] theorem fwdLex_diverge (s : Sw) (a b c d e : Nat) : fwdLex (s.diverge a b c d e).lex = fwdLex s.lex := by
  unfold Sw.diverge; split <;> simp [L.recNdiv, L.recDiv]

@[simp] theorem Sw.passRec_lex (s : Sw) (key n : Nat) (l : Bytes) : (s.passRec key n l).lex = s.lex := by
  unfold Sw.passRec Sw.consumed Sw.recLast
  split <;> rfl

@[simp] theorem fwdLex_recHost (s : Sw) (d win off : Nat) (bs : Bytes) : fwdLex (s.recHost d win off bs).lex = fwdLex s.lex := by
  unfold Sw.recHost
  split
  · rfl
  · dsimp only
    split
    · simp
    split
    · split
      · simp [Sw.nextMeets]
      · rw [Sw.passRec_lex]
        split <;> simp [Sw.nextMeets]
    · rfl

/-- An element of the forwarding entries reads the same where these are the same. -/
theorem rd_of_fwdLex {s t : Sw} (h : fwdLex t.lex = fwdLex s.lex) (r : Reg) (el : Nat)
    (hk : 0x401000 * 65536 ≤ r.key el ∧ r.key el < 0x401500 * 65536) : t.rd r el = s.rd r el := by
  have hq := congrFun h (r.key el)
  unfold fwdLex at hq
  rw [if_pos hk, if_pos hk] at hq
  rw [Sw.rd, Sw.rd, AMap.getD, AMap.getD, hq]

/-- Which classes are ruled is among them (03 R120). -/
theorem ruled_of_fwdLex {s t : Sw} (h : fwdLex t.lex = fwdLex s.lex) (c : Nat) : t.ruled c = s.ruled c := by
  rw [Sw.ruled, Sw.ruled, rd_of_fwdLex h _ _ (by decide)]

end Sys2Proof.Machine
end

section
/-! SUPPORT. The tick, the rate monitors and the die-to-die links (01), with the theorems that settle O2, O10 and O11. -/

namespace Sys2Proof.Machine

/-- With no command waiting the block idles. -/
theorem step_empty (s : State) (h : s.pending = []) : step s = .next s.idle := by simp [step, h]

/-! ### Rate monitors (01 R45, R46) -/

/-- A command that is not answered Busy has its effect. -/
theorem State.written_ends (s : State) (i sub : Nat) (o : Host.Outcome State Fault Refusal) (h : s.busyFor i sub = false) :
    s.written i sub o = o := by simp [State.written, h]

theorem AMap.getD_set_self {α : Type} (m : AMap α) (q : Nat) (x d : α) : (m.set q x).getD q d = x := by
  rw [AMap.getD, AMap.get?_set_self]; rfl

theorem AMap.getD_set_ne {α : Type} (m : AMap α) (q p : Nat) (x d : α) (h : q ≠ p) : (m.set q x).getD p d = m.getD p d := by
  rw [AMap.getD, AMap.getD, AMap.get?_set_ne _ _ _ _ h]

/-- What a monitor's window leaves of the switch: rate and voltage written, the next window begun (01 R46, R50). -/
def Sw.monitorEnd (s : Sw) (d : Die) (rate mv : Nat) : Sw :=
  let t := s.hsAt d + s.hsWin d
  let w := ((s.reach t).wr (L.devCoreHsRate.at d) 0 rate).wr (L.devCoreVddMv.at d) 0 mv
  { w with pins := { w.pins with hsWin := AMap.put w.pins.hsWin d (w.rd L.devCoreHsWindow) 10000, hsAt := AMap.set w.pins.hsAt d t } }

theorem execRateMonitorWindow_stopped (d : Die) (rate : BitVec 32) (mv : BitVec 16) (s : State) (h : s.sw.hsWin d = 0) :
    exec (.rateMonitorWindow d rate mv) s = .next s := by
  change execRateMonitorWindow d rate mv s = _
  simp [execRateMonitorWindow, h]

theorem execRateMonitorWindow_runs (d : Die) (rate : BitVec 32) (mv : BitVec 16) (s : State) (h : s.sw.hsWin d ≠ 0)
    (hlo : 600 ≤ mv.toNat) (hhi : mv.toNat ≤ 850) :
    Does (.rateMonitorWindow d rate mv) s (s.sw.monitorEnd d rate.toNat mv.toNat) := by
  change execRateMonitorWindow d rate mv s = _
  simp only [execRateMonitorWindow]
  rw [if_neg h, if_neg (by omega)]
  rfl

/-- The entries of the monitors' voltages, of their counts and of the window's length lie apart (01 R44). -/
theorem vddMv_key_ne_hsRate (d e : Die) : (L.devCoreVddMv.at d).key 0 ≠ (L.devCoreHsRate.at e).key 0 := by
  simp only [Reg.key, Reg.at, L.devCoreVddMv, L.devCoreHsRate]
  omega

theorem vddMv_key_ne_hsWindow (d : Die) : (L.devCoreVddMv.at d).key 0 ≠ L.devCoreHsWindow.key 0 := by
  simp only [Reg.key, Reg.at, L.devCoreVddMv, L.devCoreHsWindow]
  omega

theorem hsRate_key_ne_hsWindow (d : Die) : (L.devCoreHsRate.at d).key 0 ≠ L.devCoreHsWindow.key 0 := by
  simp only [Reg.key, Reg.at, L.devCoreHsRate, L.devCoreHsWindow]
  omega

theorem monitorEnd_rate (s : Sw) (d : Die) (rate mv : Nat) :
    (s.monitorEnd d rate mv).rd (L.devCoreHsRate.at d) = rate % 256 ^ 4 :=
  (Sw.rd_wr_ne _ _ _ _ _ _ (vddMv_key_ne_hsRate d d)).trans (Sw.rd_wr_self ..)

theorem monitorEnd_mv (s : Sw) (d : Die) (rate mv : Nat) : (s.monitorEnd d rate mv).rd (L.devCoreVddMv.at d) = mv % 256 ^ 2 :=
  Sw.rd_wr_self ..

theorem monitorEnd_hsWin_self (s : Sw) (d : Die) (rate mv : Nat) : (s.monitorEnd d rate mv).hsWin d = s.rd L.devCoreHsWindow :=
  (AMap.getD_put_self ..).trans
    ((Sw.rd_wr_ne _ _ _ _ _ _ (vddMv_key_ne_hsWindow d)).trans (Sw.rd_wr_ne _ _ _ _ _ _ (hsRate_key_ne_hsWindow d)))

theorem monitorEnd_hsAt_self (s : Sw) (d : Die) (rate mv : Nat) : (s.monitorEnd d rate mv).hsAt d = s.hsAt d + s.hsWin d :=
  AMap.getD_set_self ..

theorem monitorEnd_other (s : Sw) (d k : Die) (rate mv : Nat) (h : k ≠ d) :
    (s.monitorEnd d rate mv).hsWin k = s.hsWin k ∧ (s.monitorEnd d rate mv).hsAt k = s.hsAt k :=
  have hv : d.val ≠ k.val := fun e => h (Fin.ext e.symm)
  ⟨AMap.getD_put_ne _ _ _ _ _ _ hv, AMap.getD_set_ne _ _ _ _ _ hv⟩

/-- The length that a write of `dev.core.hs_window` stores fits its entry. -/
theorem hsClamp_lt (v : Nat) : hsClamp v < 256 ^ 4 := by unfold hsClamp; split <;> omega

theorem wrHsWindow_rd (s : Sw) (v : Nat) : (s.wrHsWindow v).rd L.devCoreHsWindow = hsClamp v :=
  (Sw.rd_wr_self ..).trans (Nat.mod_eq_of_lt (hsClamp_lt v))

/-- After a value was stored for each key of a list, those keys read it and the others read as before. -/
theorem getD_foldl_put {α : Type} [DecidableEq α] (l : List Nat) (m : AMap α) (x d : α) (q : Nat) :
    (l.foldl (fun m k => m.put k x d) m).getD q d = if q ∈ l then x else m.getD q d := by
  induction l generalizing m with
  | nil => simp
  | cons k l ih =>
    rw [List.foldl_cons, ih]
    by_cases hk : k = q
    · subst hk; simp
    · simp [AMap.getD_put_ne _ _ _ _ _ _ hk, Ne.symm hk]

theorem getD_foldl_set {α : Type} (l : List Nat) (m : AMap α) (x d : α) (q : Nat) :
    (l.foldl (fun m k => m.set k x) m).getD q d = if q ∈ l then x else m.getD q d := by
  induction l generalizing m with
  | nil => simp
  | cons k l ih =>
    rw [List.foldl_cons, ih]
    by_cases hk : k = q
    · subst hk; simp [AMap.getD_set_self]
    · simp [AMap.getD_set_ne _ _ _ _ _ hk, Ne.symm hk]

/-- A stopped monitor starts with what is written; one that runs ends its window as it is (01 R45, R50). -/
theorem wrHsWindow_hsWin (s : Sw) (v : Nat) (d : Die) :
    (s.wrHsWindow v).hsWin d = if s.hsWin d = 0 then hsClamp v else s.hsWin d := by
  refine (getD_foldl_put ..).trans ?_
  by_cases h : s.hsWin d = 0 <;> simp_all [Sw.hsWin]

theorem wrHsWindow_hsAt (s : Sw) (v : Nat) (d : Die) : (s.wrHsWindow v).hsAt d = if s.hsWin d = 0 then s.now else s.hsAt d := by
  refine (getD_foldl_set ..).trans ?_
  by_cases h : s.hsWin d = 0 <;> simp_all [Sw.hsWin, Sw.hsAt]

theorem execHsWindowWrite_does (v : BitVec 32) (s : State) (h : s.busyFor 0x2010 5 = false) :
    Does (.hsWindowWrite v) s (s.sw.wrHsWindow v.toNat) := s.written_ends _ _ _ h

/-! ### Die-to-die links (01 R26 to R28) -/

theorem mem_insertNat (x : Nat) (l : List Nat) : x ∈ insertNat x l := by
  induction l with
  | nil => simp [insertNat]
  | cons a l ih =>
    unfold insertNat
    split
    · rename_i h; simp [h]
    · split
      · simp
      · simp [ih]

/-- What is listed stays listed. -/
theorem mem_insertNat_of_mem (x y : Nat) (l : List Nat) (h : y ∈ l) : y ∈ insertNat x l := by
  induction l with
  | nil => cases h
  | cons a l ih =>
    unfold insertNat
    split
    · exact h
    · split
      · exact List.mem_cons_of_mem _ h
      · rcases List.mem_cons.mp h with h | h
        · exact h ▸ List.mem_cons_self
        · exact List.mem_cons_of_mem _ (ih h)

/-- The link stopped, its packets cut, its fatal fault raised (01 R27, R28). -/
def Sw.linkStopped (s : Sw) (j : LinkId) : Sw :=
  let w := s.linkLost j
  { w with pins := { w.pins with d2dFatal := insertNat j w.pins.d2dFatal
                                 d2dUp := w.pins.d2dUp.filter (fun n => n != j.val) } }.fault
    0x02 (46 + j) none (detL 1 j 0 0 0) 0

theorem exec_d2d_of_stopped (s : State) (j : LinkId) (h : s.sw.pins.d2dFatal.contains j.val = true) :
    exec (.d2dWordCorrected j) s = .next s ∧ exec (.d2dLinkStop j) s = .next s := by
  change execD2dWordCorrected j s = _ ∧ execD2dLinkStop j s = _
  simp only [execD2dWordCorrected, execD2dLinkStop, h, if_true, and_self]

theorem execD2dWordCorrected_does (s : State) (j : LinkId) (h : s.sw.pins.d2dFatal.contains j.val = false) :
    Does (.d2dWordCorrected j) s ((s.sw.inc (L.devD2dCorrected.at j)).fault 0x01 (46 + j) none (detL 1 j 0 0 0) 0) := by
  change execD2dWordCorrected j s = _
  simp only [execD2dWordCorrected, h, Bool.false_eq_true, if_false]
  rfl

theorem execD2dLinkStop_does (s : State) (j : LinkId) (h : s.sw.pins.d2dFatal.contains j.val = false) :
    Does (.d2dLinkStop j) s (s.sw.linkStopped j) := by
  change execD2dLinkStop j s = _
  simp only [execD2dLinkStop, h, Bool.false_eq_true, if_false]
  rfl

end Sys2Proof.Machine

open Sys2Proof Sys2Proof.Machine

/-- Settles O2: the tick is the idle step (01 R38, R39). -/
theorem emptyQueueIsOneTick : Obligations.EmptyQueueIsOneTick := fun s h => step_empty s h

/-- Settles O10, from what the end of a window and a write of the window's length do to the entries and to each monitor. -/
theorem rateMonitors : Obligations.RateMonitors := by
  intro s
  refine ⟨fun d rate mv => ⟨execRateMonitorWindow_stopped d rate mv s, fun h hlo hhi => ?_⟩, fun v h => ?_⟩
  · exact ⟨_, execRateMonitorWindow_runs d rate mv s h hlo hhi,
      (monitorEnd_rate ..).trans (Nat.mod_eq_of_lt rate.isLt), (monitorEnd_mv ..).trans (Nat.mod_eq_of_lt mv.isLt),
      monitorEnd_hsWin_self .., monitorEnd_hsAt_self .., rfl, fun k hk => monitorEnd_other _ _ _ _ _ hk, rfl⟩
  · exact ⟨_, execHsWindowWrite_does v s h, wrHsWindow_rd ..,
      fun d hd => ⟨(wrHsWindow_hsWin ..).trans (if_neg hd), (wrHsWindow_hsAt ..).trans (if_neg hd)⟩,
      fun d hd => ⟨(wrHsWindow_hsWin ..).trans ((if_pos hd).trans (wrHsWindow_rd ..).symm), (wrHsWindow_hsAt ..).trans (if_pos hd)⟩,
      rfl⟩

/-- Settles O11: stopping a link lists it among the stopped ones, strikes it from those that are up and raises its fault last. -/
theorem dieToDieLinks : Obligations.DieToDieLinks := by
  intro s j
  refine ⟨exec_d2d_of_stopped s j, fun h => ⟨execD2dWordCorrected_does s j h, _, execD2dLinkStop_does s j h, ?_, ?_, ?_⟩⟩
  · exact mem_insertNat _ _
  · simp [Sw.linkStopped]
  · simp [Sw.linkStopped, Sw.fault]
end

section
/-! SUPPORT. The packets that the bridge makes for the host (13 R537 to R539): they enter their die. -/

namespace Sys2Proof.Machine

/-! ### Packets of the bridge -/

/-- A packet from the bridge waits for billets rather than be refused (01 R29, 04 R168). -/
theorem admitData_bridge (s : Sw) (d : Die) (w : Word256) (o : Out) (col : Nat) : ∃ t, s.admitData (.bridge d) w o col = .ok t := by
  unfold Sw.admitData
  exact ⟨_, rfl⟩

theorem forwardData_bridge (s : Sw) (d : Die) (w : Word256) (h : s.ruled (pClass w) = true) :
    ∃ t, s.forwardData (.bridge d) w = .ok t := by
  unfold Sw.forwardData
  have hr : (s.route (ingDie (.bridge d)) (hDst w) (pClass w) (pSrc w) (hEntropy w) true).2.ruled (pClass w) = true :=
    (ruled_of_fwdLex (congrArg fwdLex (Sw.route_lex ..)) _).trans h
  dsimp only
  simp only [hr, if_true]
  split
  · exact admitData_bridge ..
  · exact admitData_bridge ..
  · exact ⟨_, rfl⟩

theorem checkData_bridge (s : Sw) (d : Die) (w : Word256) (h : s.ruled (pClass w) = true) :
    ∃ t, s.checkData (.bridge d) w = .ok t := by
  unfold Sw.checkData
  dsimp only
  split
  · exact forwardData_bridge _ _ _ h
  all_goals exact ⟨_, rfl⟩

theorem headerIn_bridge (s : Sw) (d : Die) (w : Word256) (h : s.ruled (pClass w) = true) (ho : hOff w + 64 * hPlen w ≤ 2 ^ 40) :
    ∃ t, s.headerIn (.bridge d) w = .ok t := by
  unfold Sw.headerIn
  obtain ⟨t, ht⟩ := checkData_bridge (s.beginRx (ingKey (.bridge d)) w) d w h
  dsimp only [ingPort]
  split
  · exact ⟨_, rfl⟩
  · rw [if_neg (Nat.not_lt.mpr ho), ht]
    exact ⟨_, rfl⟩

theorem rxHeader_bridge (s : Sw) (d : Die) (w : Word256) (h : s.ruled (pClass w) = true) (ho : hOff w + 64 * hPlen w ≤ 2 ^ 40) :
    ∃ t, s.rxHeader (.bridge d) w = .ok t := by
  unfold Sw.rxHeader
  split
  · exact ⟨_, rfl⟩
  · dsimp only
    split
    · exact ⟨_, rfl⟩
    · exact headerIn_bridge _ _ _ ((ruled_of_fwdLex (fwdLex_cutArriving ..) _).trans h) ho

/-- A packet of a ruled class that stays within its target enters its die: nothing leaves its use undefined (02 R100, 05 R217). -/
theorem bridgeIn_ok (s : Sw) (d : Die) (w : Word256) (pay : Bytes) (h : s.ruled (pClass w) = true)
    (ho : hOff w + 64 * hPlen w ≤ 2 ^ 40) : ∃ t, s.bridgeIn d w pay = .ok t := by
  obtain ⟨t, ht⟩ := rxHeader_bridge s d w h ho
  exact ⟨_, by rw [Sw.bridgeIn, ht]⟩

/-- A packet of the bridge keeps the fields below its number when it is numbered and sealed. -/
theorem hf_bridgeSeal (s : Sw) (w : Word256) (lo len : Nat) (h : lo + len ≤ 120) : hf (s.bridgeSeal w).1 lo len = hf w lo len := by
  rw [Sw.bridgeSeal, hf_sealPkt _ _ _ (by omega), hf_hset_apart _ _ _ _ _ _ (by omega) (.inl h)]

@[simp] theorem Sw.bridgeSeal_lex (s : Sw) (w : Word256) : (s.bridgeSeal w).2.lex = s.lex := rfl

/-! ### The packets of a host write and a host read -/

theorem fld_zero (lo len : Nat) : fld 0 lo len = 0 := by simp [fld]

/-- A field of a packet as its field list leaves it. -/
theorem hf_mkPkt (fs : List (Nat × Nat × Nat)) (lo len : Nat) (h : lo + len ≤ 240) :
    hf (mkPkt fs) lo len = fld (fs.foldl (fun n f => setFld n f.1 f.2.1 f.2.2) 0) lo len := by
  rw [mkPkt, hf_sealPkt _ _ _ h, hf_ofNat _ _ _ (by omega)]

theorem winClass_lt (e : Nat) : winClass e < 8 := Nat.mod_lt _ (by decide)

theorem pClass_mkWrite (src cls ent gfa n : Nat) : pClass (mkWrite src cls ent gfa n) = cls % 8 := by
  simp [pClass, mkWrite, hf_mkPkt, fld_setFld_apart, fld_setFld_low]

theorem hOff_mkWrite (src cls ent gfa n : Nat) : hOff (mkWrite src cls ent gfa n) = gfa % 2 ^ 40 := by
  simp [hOff, mkWrite, hf_mkPkt, fld_setFld_low]

theorem hPlen_mkWrite (src cls ent gfa n : Nat) : hPlen (mkWrite src cls ent gfa n) = cdiv n 64 % 128 := by
  simp [hPlen, mkWrite, hf_mkPkt, fld_setFld_apart, fld_setFld_low]

theorem pClass_mkReadReq (src cls ent gfa roff n tag : Nat) : pClass (mkReadReq src cls ent gfa roff n tag) = cls % 8 := by
  simp [pClass, mkReadReq, hf_mkPkt, fld_setFld_apart, fld_setFld_low]

theorem hPlen_mkReadReq (src cls ent gfa roff n tag : Nat) : hPlen (mkReadReq src cls ent gfa roff n tag) = 0 := by
  simp [hPlen, mkReadReq, hf_mkPkt, fld_setFld_apart, fld_zero]

/-- One run of a host write through a window of a ruled class becomes a WRITE that enters its die. -/
theorem hostRun_ok (s : Sw) (w e o : Nat) (bs : Bytes) (hc : s.ruled (winClass e) = true)
    (ho : fld (s.winTarget e o) 0 40 + 64 * cdiv bs.length 64 ≤ 2 ^ 40) : ∃ t, s.hostRun w e o bs = .ok t := by
  unfold Sw.hostRun
  refine bridgeIn_ok _ _ _ _ ?_ ?_
  · rw [pClass, hf_bridgeSeal _ _ _ _ (by decide), hf_hset_apart _ _ _ _ _ _ (by decide) (.inl (by decide)), ← pClass,
      pClass_mkWrite, Nat.mod_eq_of_lt (winClass_lt e)]
    exact (ruled_of_fwdLex (by simp) _).trans hc
  · rw [hOff, hPlen, hf_bridgeSeal _ _ _ _ (by decide), hf_bridgeSeal _ _ _ _ (by decide),
      hf_hset_apart _ _ _ _ _ _ (by decide) (.inr (by decide)), hf_hset_apart _ _ _ _ _ _ (by decide) (.inr (by decide)),
      ← hOff, ← hPlen, hOff_mkWrite, hPlen_mkWrite]
    have := Nat.mod_le (cdiv bs.length 64) 128
    simp only [fld, Nat.shiftRight_zero] at ho
    omega

/-- The READ_REQ of a host read through a window of a ruled class enters its die. -/
theorem readReq_ok (s : Sw) (d : Die) (src cls ent gfa roff n tag : Nat) (hk : cls < 8) (hc : s.ruled cls = true) :
    ∃ t, (s.bridgeSeal (mkReadReq src cls ent gfa roff n tag)).2.bridgeIn d
      (s.bridgeSeal (mkReadReq src cls ent gfa roff n tag)).1 [] = .ok t := by
  refine bridgeIn_ok _ _ _ _ ?_ ?_
  · rw [pClass, hf_bridgeSeal _ _ _ _ (by decide), ← pClass, pClass_mkReadReq, Nat.mod_eq_of_lt hk]
    exact (ruled_of_fwdLex (by simp) _).trans hc
  · rw [hOff, hPlen, hf_bridgeSeal _ _ _ _ (by decide), hf_bridgeSeal _ _ _ _ (by decide), ← hPlen, hPlen_mkReadReq]
    exact Nat.le_of_lt (Nat.mod_lt _ (by decide))

end Sys2Proof.Machine
end

section
/-! SUPPORT. The host's accesses (13), with the theorem that settles O51. -/

namespace Sys2Proof.Machine

/-! ### Host writes (13 R535 to R541) -/

theorem execHostWrite_beyond (s : State) (o : Nat) (bs : List (Option Byte)) (hu : s.sw.hostUp = true) (hr : s.sw.boot.ready = true)
    (h : 64 * s.sw.winSize < o + bs.length) : exec (.hostWrite o bs) s = .fault (.undefinedUse 558) := by
  change execHostWrite o bs s = _
  simp [execHostWrite, hu, hr, h]

theorem execHostWrite_does (s : State) (o : Nat) (bs : List (Option Byte)) (w : Sw) (hu : s.sw.hostUp = true)
    (hr : s.sw.boot.ready = true) (h : o + bs.length ≤ 64 * s.sw.winSize) (hw : s.sw.hostWrite o bs = .ok (some w)) :
    Does (.hostWrite o bs) s w := by
  change execHostWrite o bs s = _
  simp only [execHostWrite, hu, hr, Nat.not_lt.mpr h, hw, Bool.not_true, Bool.false_eq_true, or_self, if_false]
  rfl

/-- A write of no byte has no run. -/
theorem runsIn_eq_nil_iff (n : Nat) (bs : List (Option Byte)) : runsIn n bs = [] ↔ bs.all Option.isNone = true := by
  induction bs generalizing n with
  | nil => simp [runsIn]
  | cons b bs ih =>
    cases b with
    | none => simpa [runsIn] using ih (n + 1)
    | some b =>
      simp only [runsIn, List.all_cons, Option.isNone_some, Bool.false_and, Bool.false_eq_true, iff_false]
      split
      · split <;> simp
      · simp

theorem hostWrite_none (s : Sw) (o : Nat) (bs : List (Option Byte)) (h : bs.all Option.isNone = true) :
    s.hostWrite o bs = .ok (some s) := by
  simp [Sw.hostWrite, (runsIn_eq_nil_iff _ _).mpr h]

theorem hostWrite_denied (s : Sw) (o : Nat) (bs : List (Option Byte)) (h : bs.all Option.isNone = false)
    (he : winEn (s.rd L.brgWin (o / s.winSize)) = false ∨ winRo (s.rd L.brgWin (o / s.winSize)) = true) :
    s.hostWrite o bs = .ok (some (s.inc L.brgDenied)) := by
  have hn : (runsIn (o % s.winSize) bs).isEmpty = false := by
    rw [List.isEmpty_eq_false_iff, Ne, runsIn_eq_nil_iff, h]; simp
  simp [Sw.hostWrite, hn, he]

/-- Bytes without a gap are one run. -/
theorem runsIn_map_some (n : Nat) (bs : Bytes) (h : bs ≠ []) : runsIn n (bs.map some) = [(n, bs)] := by
  induction bs generalizing n with
  | nil => exact absurd rfl h
  | cons b bs ih =>
    cases bs with
    | nil => rfl
    | cons c cs => rw [List.map_cons, runsIn, ih _ (List.cons_ne_nil _ _)]; simp

/-- A write of bytes without a gap is one run, which its WRITE carries. -/
theorem hostWrite_run (s w : Sw) (o : Nat) (cs : Bytes) (hcs : cs ≠ []) (hen : winEn (s.rd L.brgWin (o / s.winSize)) = true)
    (hro : winRo (s.rd L.brgWin (o / s.winSize)) = false)
    (hcr : s.hostCredit (winDie (s.rd L.brgWin (o / s.winSize)))
      (fld (s.winTarget (s.rd L.brgWin (o / s.winSize)) (o % s.winSize)) 40 16) (winClass (s.rd L.brgWin (o / s.winSize)))
      (cellsOf (cdiv cs.length 64)) = true)
    (hw : s.hostRun (o / s.winSize) (s.rd L.brgWin (o / s.winSize)) (o % s.winSize) cs = .ok w) :
    s.hostWrite o (cs.map some) = .ok (some w) := by
  simp [Sw.hostWrite, runsIn_map_some _ _ hcs, hen, hro, hcr, hw, Except.map]

/-! ### Host reads (13 R539, R540) -/

theorem execHostRead_beyond (s : State) (o n : Nat) (hu : s.sw.hostUp = true) (hr : s.sw.boot.ready = true)
    (h : 64 * s.sw.winSize < o + n) : exec (.hostRead o n) s = .fault (.undefinedUse 558) := by
  change execHostRead o n s = _
  simp [execHostRead, hu, hr, h]

theorem execHostRead_does (s : State) (o n : Nat) (w : Sw) (hu : s.sw.hostUp = true)
    (hr : s.sw.boot.ready = true) (h : o + n ≤ 64 * s.sw.winSize) (hw : s.sw.hostRead o n = .ok (some w)) :
    Does (.hostRead o n) s w := by
  change execHostRead o n s = _
  simp only [execHostRead, hu, hr, Nat.not_lt.mpr h, hw, Bool.not_true, Bool.false_eq_true, if_false]
  rfl

theorem hostRead_zero (s : Sw) (o : Nat) : s.hostRead o 0 = .ok (some (s.send (.hostCpl 0 .ok []))) := by
  simp [Sw.hostRead]

theorem hostRead_disabled (s : Sw) (o n : Nat) (hn : n ≠ 0) (he : winEn (s.rd L.brgWin (o / s.winSize)) = false) :
    s.hostRead o n = .ok (some ((s.send (.hostCpl 0 .unsupported [])).aerSet 0 20)) := by
  simp [Sw.hostRead, hn, he]

/-- The host read of one piece, of window entry `e`, that waits under tag `g` (13 R539). -/
def Sw.readOpened (s : Sw) (e t n g : Nat) : Sw :=
  let lo := t / 64 * 64
  s.updBrg (fun b => { b with
    reads := b.reads ++ [{ target := t, bytes := n
                           parts := [{ tag := g, gfa := lo, units := (pad64 (t + n) - lo) / 64, inc := s.targetInc (winDie e) lo []
                                       dieInc := s.incOf (incForge (winDie e)), due := s.dueIn (s.rd L.brgRdNs) }] }]
    nextTag := (b.nextTag + 1) % 1024, late := b.late.filter (fun x => !List.contains [g] x) })

theorem hostRead_piece (s w : Sw) (o n e t g : Nat) (he : e = s.rd L.brgWin (o / s.winSize)) (ht : t = s.winTarget e (o % s.winSize))
    (hn : n ≠ 0) (hun : (pad64 (t + n) - t / 64 * 64) / 64 ≤ 64) (hen : winEn e = true) (hfull : s.brg.reads.length < 1024)
    (hg : s.freeTags 1 = [g]) (r : Word256 × Sw)
    (hreq : r = (s.readOpened e t n g).bridgeSeal (mkReadReq (s.readOpened e t n g).selfEp (winClass e) (winEnt e) (t / 64 * 64)
      ((s.readOpened e t n g).rd L.brgRetWin + 4096 * g) ((pad64 (t + n) - t / 64 * 64) / 64) g))
    (hw : r.2.bridgeIn (Fin.ofNat 4 (winDie e)) r.1 [] = .ok w) : s.hostRead o n = .ok (some w) := by
  subst hreq
  unfold Sw.hostRead
  dsimp only
  rw [← he, ← ht, if_pos hun]
  simp only [List.length_singleton, hg, hn, hen, Nat.not_le.mpr hfull, Nat.lt_irrefl, Bool.not_true, Bool.false_eq_true,
    or_self, if_false, List.zip_cons_cons, List.zip_nil_right, List.map_cons, List.map_nil, List.foldl_cons, List.foldl_nil]
  exact congrArg (Except.map some) hw

/-! ### Answers to host reads (13 R540, Table 13.4) -/

theorem execHostReadResp_cut (s : State) (h : Word256) (pay : Bytes) (hc : s.sw.svcCut h pay = true) :
    exec (.hostReadResp h pay) s = .next s := by
  change execHostReadResp h pay s = _
  simp [execHostReadResp, hc]

theorem execHostReadResp_does (s : State) (h : Word256) (pay : Bytes) (hk : pKind h = 2)
    (hlo : (s.sw.takeIn h pay).rd L.brgRetWin ≤ hOff h) (hhi : hOff h < (s.sw.takeIn h pay).rd L.brgRetWin + 4096 * 1024)
    (hc : s.sw.svcCut h pay = false) :
    Does (.hostReadResp h pay) s ((s.sw.takeIn h pay).readResp (s.sw.takeKeep h pay).1.die h pay) := by
  change execHostReadResp h pay s = _
  simp only [execHostReadResp]
  rw [if_neg (by simp [hk, hc]; omega)]
  rfl

/-- A READ_RESP that no host read awaits is counted late. -/
theorem readResp_late (s : Sw) (d : Nat) (h : Word256) (pay : Bytes) (hr : s.brg.reads = []) :
    (s.readResp d h pay).rd L.brgLate = (s.rd L.brgLate + 1) % 256 ^ L.brgLate.width ∧ (s.readResp d h pay).tx = s.tx ∧
      (s.readResp d h pay).brg.reads = [] := by
  have hl : s.readResp d h pay = (s.inc L.brgLate).updBrg (fun b => { b with
      late := b.late.filter (fun t => t != (hOff h - s.rd L.brgRetWin) / 4096) }) := by
    simp [Sw.readResp, hr]
  rw [hl]
  exact ⟨Sw.rd_wr_self .., rfl, hr⟩

theorem execHostReadTimeout_does (s : State) (g : Fin 1024) (r : HostRd) (p : HostPart) (t : Nat)
    (hr : s.sw.brg.reads.find? (fun r => r.waiting.contains g.val) = some r)
    (hp : r.parts.find? (fun p => p.tag == g.val) = some p) (ht : p.due = some t) :
    Does (.hostReadTimeout g) s ((s.sw.reach t).readTimeout r) := by
  change execHostReadTimeout g s = _
  simp only [execHostReadTimeout, hr, hp, Option.bind_some, ht]
  rfl

theorem mem_foldl_insertNat (x : Nat) (ts l : List Nat) (h : x ∈ l ∨ x ∈ ts) :
    x ∈ ts.foldl (fun l t => insertNat t l) l := by
  induction ts generalizing l with
  | nil => simpa using h
  | cons t ts ih =>
    rw [List.foldl_cons]
    refine ih _ ?_
    rcases h with h | h
    · exact .inl (mem_insertNat_of_mem _ _ _ h)
    · rcases List.mem_cons.mp h with rfl | h
      · exact .inl (mem_insertNat _ _)
      · exact .inr h

/-- A host read that times out abandons the tags that wait. -/
theorem readTimeout_late (s : Sw) (r : HostRd) (g : Nat) (h : r.waiting.contains g = true) : g ∈ (s.readTimeout r).brg.late :=
  mem_foldl_insertNat _ _ _ (.inr (by simpa using h))

/-! ### Reverse windows and MSI-X (13 R543 to R546) -/

theorem execReverseWindowRequest_cut (s : State) (h : Word256) (pay : Bytes) (hc : s.sw.svcCut h pay = true) :
    exec (.reverseWindowRequest h pay) s = .next s := by
  change execReverseWindowRequest h pay s = _
  simp [execReverseWindowRequest, hc]

theorem execReverseWindowRequest_does (s : State) (h : Word256) (pay : Bytes) (hk : pKind h ≤ 1)
    (hlo : (s.sw.takeIn h pay).rd L.brgRevWin ≤ hOff h) (hhi : hOff h < (s.sw.takeIn h pay).rd L.brgRevWin + 64 * 2 ^ 32)
    (hc : s.sw.svcCut h pay = false) :
    Does (.reverseWindowRequest h pay) s ((s.sw.takeIn h pay).revRequest (s.sw.takeKeep h pay).1.die h pay) := by
  change execReverseWindowRequest h pay s = _
  simp only [execReverseWindowRequest]
  rw [if_neg (by simp [hc]; omega)]
  rfl

/-- A request of another tenancy than the window's, or to a window of no length, is Denied. -/
theorem revRequest_denied (s : Sw) (d : Nat) (h : Word256) (pay : Bytes)
    (hd : fld (s.revEntry (hOff h)).1 48 8 ≠ hTen h ∨ fld (s.revEntry (hOff h)).1 0 20 = 0) :
    s.revRequest d h pay = s.revAnswer d h stDenied [] := by
  unfold Sw.revRequest
  dsimp only
  rw [if_pos]
  rcases hd with hd | hd
  · simp [Ne.symm hd]
  · simp [hd]

theorem execHostCompletionReceive_does (s : State) (i : Nat) (st : CplStatus) (bs : Bytes) (hu : s.sw.hostUp = true) :
    Does (.hostCompletionReceive i st bs) s (s.sw.hostCompletion i st bs) := by
  change execHostCompletionReceive i st bs s = _
  simp only [execHostCompletionReceive, hu, Bool.not_true, Bool.false_eq_true, if_false]
  rfl

/-- A completion that no reverse read awaits is unexpected. -/
theorem hostCompletion_late (s : Sw) (i : Nat) (st : CplStatus) (bs : Bytes) (hr : s.brg.revs = []) :
    s.hostCompletion i st bs = (s.inc L.brgLate).aerSet 0 16 := by
  simp [Sw.hostCompletion, hr]

theorem execReverseReadTimeout_does (s : State) (i t : Nat) (r : RevRd)
    (hr : s.sw.brg.revs.find? (fun r => r.parts.any (fun p => p.id == i)) = some r) (ht : r.due = some t) :
    Does (.reverseReadTimeout i) s (((((s.sw.reach t).updBrg (fun b => { b with revs := eraseOne r b.revs })).aerSet 0 14).revAnswer
      r.die r.req stTargetReset []).revNext) := by
  change execReverseReadTimeout i s = _
  simp only [execReverseReadTimeout, hr, ht]
  rfl

theorem hostRole_of_hostUp (s : Sw) (h : s.hostUp = true) : s.hostRole = true := (Bool.and_eq_true_iff.mp h).1

section
variable (s : State) (h : Word256) (pay : Bytes) (u : Sw) (o : Nat)
  (hpay : pay = ((s.sw.fab.svcIn.find? (fun x => decide (x.hdr = h))).map Stored.pay).getD []) (hu : u = s.sw.takeIn h pay)
  (ho : o = hOff h - u.rd L.brgMsiWin)
include hpay hu ho

/-- An MSI_WRITE, in the switch `u` that is left once its packet with payload `pay` is taken. -/
theorem exec_msiWrite : exec (.msiWrite h) s =
    if pKind h ≠ 0 ∨ hOff h < u.rd L.brgMsiWin ∨ 4096 ≤ o ∨ s.sw.svcCut h pay then .next s
    else if !u.hostRole ∨ o % 64 ≠ 0 ∨ o / 64 = 0 ∨ hPlen h ≠ 1 ∨ u.rd L.brgMsiTen (o / 64) ≠ hTen h then
      s.ends (u.revAnswer (s.sw.takeKeep h pay).1.die h stDenied [])
    else if !u.hostUp then s.ends u
    else s.ends ((u.msix (o / 64)).revAnswer (s.sw.takeKeep h pay).1.die h stOk []) := by
  subst hpay hu ho
  rfl

variable (hc : s.sw.svcCut h pay = false) (hk : pKind h = 0) (hlo : u.rd L.brgMsiWin ≤ hOff h) (hhi : o < 4096)
include hc hk hlo hhi

theorem msiWrite_denied (hd : o % 64 ≠ 0 ∨ o / 64 = 0 ∨ hPlen h ≠ 1 ∨ u.rd L.brgMsiTen (o / 64) ≠ hTen h) :
    Does (.msiWrite h) s (u.revAnswer (s.sw.takeKeep h pay).1.die h stDenied []) := by
  rw [Does, exec_msiWrite s h pay u o hpay hu ho, if_neg (by simp [hc, hk]; omega), if_pos (.inr hd)]
  rfl

theorem msiWrite_admitted (hup : u.hostUp = true) (hd : o % 64 = 0) (hv : o / 64 ≠ 0) (hp : hPlen h = 1)
    (ht : u.rd L.brgMsiTen (o / 64) = hTen h) :
    Does (.msiWrite h) s ((u.msix (o / 64)).revAnswer (s.sw.takeKeep h pay).1.die h stOk []) := by
  rw [Does, exec_msiWrite s h pay u o hpay hu ho, if_neg (by simp [hc, hk]; omega),
    if_neg (by simpa [hostRole_of_hostUp _ hup, hd, hp, ht] using hv), if_neg (by simp [hup])]
  rfl
end

/-! ### The configuration space (13 R534, R558) -/

theorem execHostConfigWrite_undefined (s : State) (a : BitVec 12) (v : BitVec 32) (hu : s.sw.hostUp = true)
    (ha : a.toNat / 4 * 4 = 0x10 ∨ a.toNat / 4 * 4 = 0x14) (hr : s.sw.brg.reads ≠ []) :
    exec (.hostConfigWrite a v) s = .fault (.undefinedUse 558) := by
  change execHostConfigWrite a v s = _
  simp only [execHostConfigWrite, hu, Bool.not_true, Bool.false_eq_true, if_false]
  rw [if_pos ⟨ha, hr⟩]

theorem execHostConfigWrite_does (s : State) (a : BitVec 12) (v : BitVec 32) (hu : s.sw.hostUp = true) (hr : s.sw.brg.reads = []) :
    Does (.hostConfigWrite a v) s (s.sw.cfgWrite (a.toNat / 4 * 4) v.toNat) := by
  change execHostConfigWrite a v s = _
  simp only [execHostConfigWrite, hu, Bool.not_true, Bool.false_eq_true, if_false]
  rw [if_neg (fun h => h.2 hr)]
  rfl

theorem execMsixTableWrite_does (s : State) (o : Nat) (v : BitVec 32) (hu : s.sw.hostUp = true) :
    Does (.msixTableWrite o v) s (s.sw.msixWrite o v.toNat) := by
  change execMsixTableWrite o v s = _
  simp only [execMsixTableWrite, hu, Bool.not_true, Bool.false_eq_true, if_false]
  rfl

end Sys2Proof.Machine

open Sys2Proof Sys2Proof.Machine

/-- Settles O51. The one deep part: a packet that the bridge makes for a window of a ruled class always enters its die, since no
step of its way in changes which classes are ruled (`hostRun_ok`, `readReq_ok`). -/
theorem hostAccesses : Obligations.HostAccesses := by
  intro s hu hr
  refine ⟨fun o bs => ?_, fun o n => ?_, ?_, ?_, ?_, fun i st bs => ?_, fun i t r hf ht => ?_, ?_, fun a v => ?_⟩
  · refine ⟨execHostWrite_beyond s o bs hu hr, fun hin =>
      ⟨fun h => ?_, fun h he => ?_, ?_, fun w => execHostWrite_does s o bs w hu hr hin⟩⟩
    · exact execHostWrite_does s o bs _ hu hr hin (hostWrite_none _ _ _ h)
    · exact execHostWrite_does s o bs _ hu hr hin (hostWrite_denied _ _ _ h he)
    · rintro e t d cs rfl rfl rfl rfl hcs - ho hen hro hc hcr
      obtain ⟨w, hw⟩ := hostRun_ok s.sw (o / s.sw.winSize) _ (o % s.sw.winSize) cs hc ho
      exact ⟨w, hw, execHostWrite_does s o _ w hu hr hin (hostWrite_run _ _ _ _ hcs hen hro hcr hw)⟩
  · refine ⟨execHostRead_beyond s o n hu hr, fun hin => ⟨?_, fun hn he => ?_, ?_, fun w => execHostRead_does s o n w hu hr hin⟩⟩
    · rintro rfl
      exact execHostRead_does s o 0 _ hu hr hin (hostRead_zero _ _)
    · exact execHostRead_does s o n _ hu hr hin (hostRead_disabled _ _ _ hn he)
    · rintro e t lo units g d he ht rfl rfl rfl hn hun hen hc hfull hg u r rfl rfl
      obtain ⟨w, hw⟩ := readReq_ok (s.sw.readOpened e t n g) (Fin.ofNat 4 (winDie e)) _ _ (winEnt e) (t / 64 * 64) _ _ g
        (winClass_lt e) hc
      exact ⟨w, hw, execHostRead_does s o n w hu hr hin (hostRead_piece _ _ _ _ _ _ _ he ht hn hun hen hfull hg _ rfl hw)⟩
  · rintro h pay u rfl hk hlo hhi
    refine ⟨execHostReadResp_cut s h pay, execHostReadResp_does s h pay hk hlo hhi, fun hc hn => ?_⟩
    exact ⟨_, execHostReadResp_does s h pay hk hlo hhi hc, readResp_late _ _ _ _ hn⟩
  · intro g r p t hf hp ht
    exact ⟨_, execHostReadTimeout_does s g r p t hf hp ht, rfl,
      readTimeout_late _ _ _ (List.find?_some (p := fun r : HostRd => r.waiting.contains g.val) hf), rfl, rfl⟩
  · rintro h pay u k rfl rfl hk hlo hhi
    refine ⟨execReverseWindowRequest_cut s h pay, fun hc => ⟨execReverseWindowRequest_does s h pay hk hlo hhi hc, fun hd => ?_⟩⟩
    rw [← revRequest_denied _ _ _ pay hd]
    exact execReverseWindowRequest_does s h pay hk hlo hhi hc
  · refine ⟨execHostCompletionReceive_does s i st bs hu, fun hn => ?_⟩
    rw [← hostCompletion_late _ i st bs hn]
    exact execHostCompletionReceive_does s i st bs hu
  · exact execReverseReadTimeout_does s i t r hf ht
  · rintro h pay u o v k hpay htake rfl hc hk hlo ho hhi rfl hup
    exact ⟨msiWrite_denied s h pay u o hpay htake ho hc hk hlo hhi, msiWrite_admitted s h pay u o hpay htake ho hc hk hlo hhi hup⟩
  · exact ⟨execHostConfigWrite_undefined s a v hu, execHostConfigWrite_does s a v hu, fun o => execMsixTableWrite_does s o v hu⟩
end

section
/-! SUPPORT. A packet's first word at an ingress (02 R52 to R54, R66): what a closed ingress, a failed check and CREDIT do, with
the theorems that settle O12, O13 and O14. -/

namespace Sys2Proof.Machine

/-! ### The first word (02 R52) -/

/-- Whichever of the two commands brings a first word, `ctl` says what it is. -/
theorem exec_word_does (s : State) (src : Ingress) (h : Word256) (w : Sw) (hw : s.sw.rxWord src h = .ok w) :
    Does (.controlPacketReceive src h) s w ∧ Does (.dataHeaderReceive src h) s w := by
  change s.endsOr (s.sw.rxWord src h) = _ ∧ s.endsOr (s.sw.rxWord src h) = _
  rw [hw]
  exact ⟨rfl, rfl⟩

theorem rxWord_ctl (s : Sw) (src : Ingress) (h : Word256) (hc : pCtl h = 1) : s.rxWord src h = .ok (s.rxCtl src h) := if_pos hc

theorem rxWord_data (s : Sw) (src : Ingress) (h : Word256) (hc : pCtl h ≠ 1) : s.rxWord src h = s.rxHeader src h := if_neg hc

theorem execDataEndWordReceive_does (s : State) (src : Ingress) (pay : Bytes) (e : BitVec 64) :
    Does (.dataEndWordReceive src pay e) s (s.sw.rxEnd src pay e) := rfl

theorem execCreditReceive_does (s : State) (p : Lane) (h : Word256) (hc : pCtl h = 1) (hk : pKind h = 0) :
    Does (.creditReceive p h) s (s.sw.rxCtl (.port p) h) := if_pos ⟨hc, hk⟩

theorem execCreditReceive_other (s : State) (p : Lane) (h : Word256) (hn : pCtl h ≠ 1 ∨ pKind h ≠ 0) :
    exec (.creditReceive p h) s = .next s := if_neg (fun e => hn.elim (· e.1) (· e.2))

/-! ### A closed ingress and a failed check (02 R54, R73) -/

theorem rxCtl_closed (s : Sw) (src : Ingress) (h : Word256) (ho : s.ingressOpen src = false) : s.rxCtl src h = s := by
  simp [Sw.rxCtl, ho]

theorem rxHeader_closed (s : Sw) (src : Ingress) (h : Word256) (ho : s.ingressOpen src = false) : s.rxHeader src h = .ok s := by
  simp [Sw.rxHeader, ho]

theorem rxWord_closed (s : Sw) (src : Ingress) (h : Word256) (ho : s.ingressOpen src = false) : s.rxWord src h = .ok s := by
  by_cases hc : pCtl h = 1
  · rw [rxWord_ctl _ _ _ hc, rxCtl_closed _ _ _ ho]
  · rw [rxWord_data _ _ _ hc, rxHeader_closed _ _ _ ho]

theorem rxCtl_failed (s : Sw) (src : Ingress) (h : Word256) (ho : s.ingressOpen src = true) (hk : checkOk h = false) :
    s.rxCtl src h = s.countRx (ingPort src) 32 := by simp [Sw.rxCtl, ho, hk]

theorem rxHeader_failed (s : Sw) (src : Ingress) (h : Word256) (ho : s.ingressOpen src = true) (hk : checkOk h = false) :
    s.rxHeader src h = .ok ((s.cutArriving (ingKey src)).countRx (ingPort src) (dataBytes (hPlen h))) := by
  simp [Sw.rxHeader, ho, hk]

/-! ### CREDIT (02 R66) -/

/-- The credit of a class after a CREDIT whose running total for it is `v`. -/
def Credit.add (x : Credit) (v : Nat) : Credit := { x with tx := x.tx + (v + 65536 - x.rxLast) % 65536, rxLast := v }

/-- The classes of a list take the totals `v` of a CREDIT at port `p`, one after another. -/
def Sw.addCredits (s : Sw) (p : Nat) (v : Nat → Nat) (l : List Nat) : Sw :=
  l.foldl (fun s c => s.setCredit p c ((s.credit p c).add (v c))) s

theorem rxCtl_credit (s : Sw) (p : Lane) (h : Word256) (ho : s.ingressOpen (.port p) = true) (hk : checkOk h = true)
    (hz : pKind h = 0) (hm : ctlMalformed h = false) :
    s.rxCtl (.port p) h = (s.countRx (some p.val) 32).addCredits p (fun c => hf h (64 + 16 * c) 16) (List.range 8) := by
  simp only [Sw.rxCtl, ho, hk, hz, hm, Bool.not_true, Bool.not_false, Bool.false_eq_true, if_false, and_self, if_true]
  rfl

theorem credit_setCredit_self (s : Sw) (p c : Nat) (x : Credit) : (s.setCredit p c x).credit p c = x := AMap.getD_put_self ..

/-- Each class of each port has its own credit. -/
theorem credit_setCredit_ne (s : Sw) (p q c b : Nat) (x : Credit) (hc : c < 8) (hb : b < 8) (h : q ≠ p ∨ b ≠ c) :
    (s.setCredit p c x).credit q b = s.credit q b := AMap.getD_put_ne _ _ _ _ _ _ (by omega)

theorem addCredits_cons (s : Sw) (p c : Nat) (v : Nat → Nat) (l : List Nat) :
    s.addCredits p v (c :: l) = (s.setCredit p c ((s.credit p c).add (v c))).addCredits p v l := rfl

theorem addCredits_port_ne (s : Sw) (p q : Nat) (v : Nat → Nat) (l : List Nat) (hl : ∀ c ∈ l, c < 8) (h : q ≠ p) (b : Nat)
    (hb : b < 8) : (s.addCredits p v l).credit q b = s.credit q b := by
  induction l generalizing s with
  | nil => rfl
  | cons c l ih =>
    obtain ⟨hc, hl⟩ := List.forall_mem_cons.mp hl
    rw [addCredits_cons, ih _ hl, credit_setCredit_ne _ _ _ _ _ _ hc hb (.inl h)]

/-- A class that the list leaves out keeps its credit. -/
theorem addCredits_not_mem (s : Sw) (p : Nat) (v : Nat → Nat) (l : List Nat) (hl : ∀ c ∈ l, c < 8) (b : Nat) (hb : b < 8)
    (h : b ∉ l) : (s.addCredits p v l).credit p b = s.credit p b := by
  induction l generalizing s with
  | nil => rfl
  | cons c l ih =>
    obtain ⟨hc, hl⟩ := List.forall_mem_cons.mp hl
    rw [addCredits_cons, ih _ hl (List.not_mem_of_not_mem_cons h),
      credit_setCredit_ne _ _ _ _ _ _ hc hb (.inr (List.ne_of_not_mem_cons h))]

/-- Each class of the list takes its own total, once. -/
theorem addCredits_mem (s : Sw) (p : Nat) (v : Nat → Nat) (l : List Nat) (hl : ∀ c ∈ l, c < 8) (hn : l.Nodup) (b : Nat)
    (hb : b ∈ l) : (s.addCredits p v l).credit p b = (s.credit p b).add (v b) := by
  induction l generalizing s with
  | nil => cases hb
  | cons c l ih =>
    have hb8 := hl b hb
    obtain ⟨hc, hl'⟩ := List.forall_mem_cons.mp hl
    obtain ⟨hcl, hn⟩ := List.nodup_cons.mp hn
    rcases List.mem_cons.mp hb with rfl | hb
    · rw [addCredits_cons, addCredits_not_mem _ _ _ _ hl' _ hc hcl, credit_setCredit_self]
    · have hbc : b ≠ c := fun e => hcl (e ▸ hb)
      rw [addCredits_cons, ih _ hl' hn hb, credit_setCredit_ne _ _ _ _ _ _ hc hb8 (.inr hbc)]

/-- Nothing but the credit changes. -/
theorem addCredits_frame (s : Sw) (p : Nat) (v : Nat → Nat) (l : List Nat) :
    s.addCredits p v l = { s with cred := (s.addCredits p v l).cred } := by
  induction l generalizing s with
  | nil => rfl
  | cons c l ih => exact ih _

@[simp] theorem addCredits_lex (s : Sw) (p : Nat) (v : Nat → Nat) (l : List Nat) : (s.addCredits p v l).lex = s.lex := by
  rw [addCredits_frame]

/-- One change of the Lexicon's store alone after another is one. -/
theorem Sw.lexAlone_trans {s t u : Sw} (ht : t = { s with lex := t.lex }) (hu : u = { t with lex := u.lex }) :
    u = { s with lex := u.lex } := hu.trans (congrArg (fun t : Sw => { t with lex := u.lex }) ht)

theorem Sw.wr_lexAlone (s : Sw) (r : Reg) (el v : Nat) : s.wr r el v = { s with lex := (s.wr r el v).lex } := rfl

theorem Sw.inc_lexAlone (s : Sw) (r : Reg) (el n : Nat) : s.inc r el n = { s with lex := (s.inc r el n).lex } := rfl

theorem Sw.inc96_lexAlone (s : Sw) (r : Reg) (n : Nat) : s.inc96 r n = { s with lex := (s.inc96 r n).lex } := by
  unfold Sw.inc96
  exact Sw.lexAlone_trans (Sw.lexAlone_trans (Sw.wr_lexAlone ..) (Sw.wr_lexAlone ..)) (Sw.wr_lexAlone ..)

/-- Counting received traffic changes its counters alone. -/
theorem Sw.countRx_lexAlone (s : Sw) (i : Option Nat) (n : Nat) : s.countRx i n = { s with lex := (s.countRx i n).lex } := by
  cases i with
  | none => rfl
  | some p => exact Sw.lexAlone_trans (Sw.lexAlone_trans (Sw.inc_lexAlone ..) (Sw.inc_lexAlone ..)) (Sw.inc96_lexAlone ..)

@[simp] theorem countRx_credit (s : Sw) (i : Option Nat) (n p c : Nat) : (s.countRx i n).credit p c = s.credit p c := by
  rw [s.countRx_lexAlone]
  rfl

/-- A CREDIT counts as received traffic and adds to the credit; nothing else changes. -/
theorem addCredits_countRx_frame (s : Sw) (i : Option Nat) (n p : Nat) (v : Nat → Nat) (l : List Nat) :
    (s.countRx i n).addCredits p v l =
      { s with cred := ((s.countRx i n).addCredits p v l).cred, lex := ((s.countRx i n).addCredits p v l).lex } := by
  have ht := s.countRx_lexAlone i n
  have hw := addCredits_frame (s.countRx i n) p v l
  have hl := addCredits_lex (s.countRx i n) p v l
  generalize (s.countRx i n).addCredits p v l = w at hw hl ⊢
  rw [hl]
  exact hw.trans (congrArg (fun t : Sw => { t with cred := w.cred }) ht)

end Sys2Proof.Machine

open Sys2Proof Sys2Proof.Machine

/-- Settles O12: both commands that bring a first word read it by its `ctl`. -/
theorem packetsComeIn : Obligations.PacketsComeIn := by
  intro s src
  refine ⟨fun h hc => exec_word_does _ _ _ _ (rxWord_ctl _ _ _ hc), fun h w hc hw => ?_, execDataEndWordReceive_does s src,
    fun p h => ⟨execCreditReceive_does s p h, execCreditReceive_other s p h⟩⟩
  exact (exec_word_does _ _ _ _ ((rxWord_data _ _ _ hc).trans hw)).symm

/-- Settles O13: the classes of a CREDIT are taken one after another, each its own total once. -/
theorem creditAddsTheDifference : Obligations.CreditAddsTheDifference := by
  intro s p h ho hk hc hz hm
  have h8 : ∀ c ∈ List.range 8, c < 8 := fun c => List.mem_range.mp
  refine ⟨_, execCreditReceive_does s p h hc hz, ?_⟩
  rw [rxCtl_credit _ _ _ ho hk hz hm]
  refine ⟨fun c => ?_, fun q c hq => ?_, addCredits_countRx_frame ..⟩
  · rw [addCredits_mem _ _ _ _ h8 List.nodup_range _ (List.mem_range.mpr c.isLt), countRx_credit]
    rfl
  · rw [addCredits_port_ne _ _ _ _ _ h8 (fun e => hq (Fin.ext e)) _ c.isLt, countRx_credit]

/-- Settles O14, for a control packet and for a data header in turn. -/
theorem failedCheckIsDiscarded : Obligations.FailedCheckIsDiscarded := by
  intro s src h
  refine ⟨fun ho => exec_word_does _ _ _ _ (rxWord_closed _ _ _ ho), fun ho hk => ⟨fun hc => ?_, fun hc => ?_⟩⟩
  · have hw := rxWord_ctl s.sw src h hc
    rw [rxCtl_failed _ _ _ ho hk] at hw
    exact (exec_word_does _ _ _ _ hw).1
  · have hw := rxWord_data s.sw src h hc
    rw [rxHeader_failed _ _ _ ho hk] at hw
    exact (exec_word_does _ _ _ _ hw).2
end

section
/-! SUPPORT. What taking billets leaves alone (04 R153, R162): an observation of the switch that sees no billet, no fault and no
memory error is the same after it. -/

namespace Sys2Proof.Machine

/-- `g` sees nothing of what the billet pools change: their own state, the bad lines known, the faults raised, and the counts of
handles lost and of lines found bad (04 R156, 08 R316). -/
structure BilletBlind {α : Type} (g : Sw → α) : Prop where
  bil    : ∀ (s : Sw) b, g { s with bil := b } = g s
  bad    : ∀ (s : Sw) l, g { s with hbmBad := l } = g s
  flt    : ∀ (s : Sw) f, g { s with flt := f } = g s
  lost   : ∀ (s : Sw) d n, g (s.inc (L.bilLost.at d) 0 n) = g s
  uncorr : ∀ (s : Sw) k, g (s.inc (L.hbmEccUncorr.at k)) = g s

/-- The packets and the other state of the fabric. -/
theorem billetBlind_fab : BilletBlind Sw.fab := ⟨fun _ _ => rfl, fun _ _ => rfl, fun _ _ => rfl, fun _ _ _ => rfl, fun _ _ => rfl⟩

/-- An element below entry 0x5000, where the entries of the pools begin. -/
theorem billetBlind_rd (r : Reg) (el : Nat) (h : r.key el < 0x500000 * 65536) : BilletBlind (fun s => s.rd r el) where
  bil _ _ := rfl
  bad _ _ := rfl
  flt _ _ := rfl
  lost _ _ _ := Sw.rd_wr_ne _ _ _ _ _ _ (by simp only [Reg.key, Reg.at, L.bilLost] at h ⊢; omega)
  uncorr _ _ := Sw.rd_wr_ne _ _ _ _ _ _ (by simp only [Reg.key, Reg.at, L.hbmEccUncorr] at h ⊢; omega)

/-- A loop changes nothing that none of its rounds changes. -/
theorem forN_keeps {α β : Type} (g : β → α) (n : Nat) (b : β) (f : Nat → β → β) (h : ∀ i b, g (f i b) = g b) :
    g (forN n b f) = g b :=
  List.foldlRecOn (motive := fun x => g x = g b) _ _ rfl (fun x hx i _ => (h i x).trans hx)

section
variable {α : Type} {g : Sw → α} (hg : BilletBlind g)
include hg

theorem BilletBlind.setStore (s : Sw) (d p : Nat) (x : Store) : g (s.setStore d p x) = g s := hg.bil _ _

theorem BilletBlind.fault (s : Sw) (code src : Nat) (t : Option Nat) (det aux : Nat) : g (s.fault code src t det aux) = g s :=
  hg.flt _ _

theorem BilletBlind.uncorrLine (s : Sw) (off reader : Nat) : g (s.uncorr off reader) = g s :=
  (hg.fault ..).trans (hg.uncorr _ _)

theorem BilletBlind.refill (s : Sw) (d p : Nat) (bad : List Nat) : g (s.refill d p bad) = g s := by
  unfold Sw.refill
  dsimp only
  split
  · rfl
  · rw [hg.setStore]
    refine forN_keeps (fun a : List (Nat × Nat) × List (Nat × Nat) × Sw => g a.2.2) 16 _ _ (fun i a => ?_)
    split
    · rfl
    · split
      · rw [hg.fault, hg.lost, hg.uncorrLine, hg.bad]
      · rfl

theorem BilletBlind.takeHandleN (n : Nat) (s t : Sw) (d p h : Nat) (e : Sw.takeHandleN n s d p = some (h, t)) : g t = g s := by
  induction n generalizing s with
  | zero =>
    unfold Sw.takeHandleN at e
    dsimp only at e
    split at e
    · cases e
    · cases e; exact hg.setStore ..
  | succ n ih =>
    unfold Sw.takeHandleN at e
    dsimp only at e
    split at e
    · split at e
      · cases e
      · exact (ih _ e).trans (hg.refill ..)
    · cases e; exact hg.setStore ..

theorem BilletBlind.grant (s t : Sw) (d q h : Nat) (o : Owner) (x : Option Ten) (e : s.grant d q o x = .got h t) : g t = g s := by
  unfold Sw.grant at e
  split at e
  · split at e <;> cases e
  · rename_i hs; cases e; exact (hg.bil _ _).trans (hg.takeHandleN _ _ _ _ _ _ hs)

theorem BilletBlind.allocate (s t : Sw) (d n h : Nat) (o : Owner) (x : Option Ten) (e : s.allocate d o x n = .got h t) :
    g t = g s := by
  unfold Sw.allocate at e
  dsimp only at e
  refine of_ite_eq (fun e => by cases e) (of_ite_eq (fun e => by cases e) (of_ite_eq (hg.grant _ _ _ _ _ _ _)
    (of_ite_eq (hg.grant _ _ _ _ _ _ _) (fun e => ?_)))) e
  split at e
  · cases e
  · exact hg.grant _ _ _ _ _ _ _ e

theorem BilletBlind.allocCells (n : Nat) (s : Sw) (d : Nat) (o : Owner) (x : Option Ten) (r : List Nat × Sw)
    (e : Sw.allocCells n s d o x = .ok r) : g r.2 = g s := by
  induction n generalizing s r with
  | zero => unfold Sw.allocCells at e; cases e; rfl
  | succ n ih =>
    unfold Sw.allocCells at e
    split at e
    · rename_i ha
      split at e
      · rename_i hr; cases e; exact (ih _ _ hr).trans (hg.allocate _ _ _ _ _ _ _ ha)
      · cases e
    · cases e
    · cases e
end

end Sys2Proof.Machine
end

section
/-! SUPPORT. A data packet of the bridge that is bound for the switch's own block (02 R79, R101, 14 R565), with the theorem that
settles O15. -/

namespace Sys2Proof.Machine

/-- The record of a packet of the bridge for the switch's own block: `s` as the packet joins, `v` as its header was numbered. -/
def Sw.bridgePkt (s v : Sw) (d : Die) (h : Word256) (x : Cells) : DPkt :=
  s.newPkt (.bridge d) h (v.ownOut d (hDst h % 32) h) 0 (118 + s.fab.nextId % 4) x

/-- It has joined with the billets of its cells, or without any, and waits for them. -/
def Sw.bridgeJoined (v : Sw) (d : Die) (h : Word256) : Grants → Sw
  | .ok (hs, u) => u.placeAs (u.bridgePkt v d h { hs := hs })
  | .error _ =>
    let k := v.bridgePkt v d h { wait := true }
    (v.placeAs k).addWait d (.bridge d) (some (BitVec.ofNat 8 (hTen h))) 256 (.cells k.id)

theorem admitData_bridge_own (v : Sw) (d : Die) (h : Word256) :
    v.admitData (.bridge d) h (v.ownOut d (hDst h % 32) h) 0 =
      .ok (v.bridgeJoined d h (Sw.allocCells (cellsOf (hPlen h)) v d (.bridge d) (some (BitVec.ofNat 8 (hTen h))))) := by
  cases hg : Sw.allocCells (cellsOf (hPlen h)) v d (.bridge d) (some (BitVec.ofNat 8 (hTen h))) <;>
    (simp only [Sw.admitData, ingDie, ingOwner, hg]; rfl)

theorem forwardData_bridge_own (v : Sw) (d : Die) (h : Word256) (ho : v.own (hDst h) = true)
    (hr : v.ruled (pClass h) = true ∨ v.guarding d = true) :
    v.forwardData (.bridge d) h = v.admitData (.bridge d) h (v.ownOut d (hDst h % 32) h) 0 := by
  have hroute : v.route d (hDst h) (pClass h) (pSrc h) (hEntropy h) true = (.own (hDst h % 32), v) := if_pos ho
  simp only [Sw.forwardData, ingDie, hroute]
  by_cases hc : v.ruled (pClass h) = true
  · rw [if_pos hc]
  · rw [if_neg hc, if_pos (hr.resolve_left hc)]

theorem checkData_bridge_ok (v : Sw) (d : Die) (h : Word256)
    (hk : v.checks d none (pSrc h) (hDst h) (hOff h) (touched h) (pKind h) (hTen h) true = .ok) :
    v.checkData (.bridge d) h = v.forwardData (.bridge d) h := by
  simp only [Sw.checkData, ingDie, ingPort, hk]

/-- Without a pattern session no packet of the bridge is copied: it comes in at no port (03 R138). -/
theorem mirror_bridge (s : Sw) (k : DPkt) (hm : ∀ i, i < 8 → s.rd (L.mirKind.atIdx i) ≠ 4) : s.mirror false none k = s := by
  unfold Sw.mirror
  refine List.foldlRecOn (motive := fun t => t = s) _ _ rfl (fun t ht i hi => ?_)
  subst ht
  simp [hm i (List.mem_range.mp hi)]

/-- No session's kind changes where billets are taken. -/
theorem bridgeJoined_mirKind (v : Sw) (d : Die) (h : Word256) (n : Nat) (o : Owner) (x : Option Ten) (i : Nat) (hi : i < 8) :
    (v.bridgeJoined d h (Sw.allocCells n v d o x)).rd (L.mirKind.atIdx i) = v.rd (L.mirKind.atIdx i) := by
  have hb := billetBlind_rd (L.mirKind.atIdx i) 0 (by simp only [Reg.key, Reg.atIdx, L.mirKind]; omega)
  cases hg : Sw.allocCells n v d o x with
  | ok r => exact hb.allocCells _ _ _ _ _ _ hg
  | error pend => rfl

/-- The header of a packet of the bridge that passes its check where none was arriving goes on as it is. -/
theorem rxHeader_bridge_in (s : Sw) (d : Die) (h : Word256) (ho : s.ingressOpen (.bridge d) = true)
    (ha : s.fab.arriving.get? (512 + d) = none) (hk : checkOk h = true) : s.rxHeader (.bridge d) h = s.headerIn (.bridge d) h := by
  simp [Sw.rxHeader, ho, hk, ingPort, ingKey, Sw.cutArriving, ha, Sw.countRx]

theorem headerIn_bridge_own (s v : Sw) (d : Die) (h : Word256) (got : Grants) (hv : v = s.beginRx (512 + d) h)
    (hf : hdrMalformed h = false) (hl : hOff h + 64 * hPlen h ≤ 2 ^ 40) (ho : v.own (hDst h) = true)
    (hm : ∀ i, i < 8 → v.rd (L.mirKind.atIdx i) ≠ 4) (hr : v.ruled (pClass h) = true ∨ v.guarding d = true)
    (hk : v.checks d none (pSrc h) (hDst h) (hOff h) (touched h) (pKind h) (hTen h) true = .ok)
    (hg : got = Sw.allocCells (cellsOf (hPlen h)) v d (.bridge d) (some (BitVec.ofNat 8 (hTen h)))) :
    s.headerIn (.bridge d) h = .ok (v.bridgeJoined d h got) := by
  have hc : v.checkData (.bridge d) h = .ok (v.bridgeJoined d h got) := by
    rw [checkData_bridge_ok _ _ _ hk, forwardData_bridge_own _ _ _ ho hr, admitData_bridge_own, hg]
  simp only [Sw.headerIn, ingPort, ingKey, ← hv, hf, Bool.false_eq_true, if_false, Nat.not_lt.mpr hl, hc, Except.map]
  rw [mirror_bridge]
  intro i hi
  rw [hg, bridgeJoined_mirKind _ _ _ _ _ _ _ hi]
  exact hm i hi

/-- The packet has the number its reception was given, and waits for its end word on its die. -/
theorem bridgePkt_spec (s v : Sw) (d : Die) (h : Word256) (x : Cells) (n : Nat) (ha : s.fab.arriving.get? (512 + d) = some n) :
    (s.bridgePkt v d h x).id = n ∧ (s.bridgePkt v d h x).hdr = h ∧ (s.bridgePkt v d h x).src = .bridge d ∧
      (s.bridgePkt v d h x).inDie = d ∧ (s.bridgePkt v d h x).out = v.ownOut d (hDst h % 32) h ∧
      (s.bridgePkt v d h x).stage = .voq ∧ (s.bridgePkt v d h x).fin = none := by
  have hid : s.fab.arriving.getD (512 + d) 0 = n := by rw [AMap.getD, ha]; rfl
  exact ⟨hid, rfl, rfl, Fin.ext (Nat.mod_eq_of_lt d.isLt), rfl, rfl, rfl⟩

theorem mem_placeAs (s : Sw) (k : DPkt) : k ∈ (s.placeAs k).fab.pkts := List.mem_append_right _ List.mem_cons_self

end Sys2Proof.Machine

open Sys2Proof Sys2Proof.Machine

/-- Settles O15: routed to the switch's own block, neither metered nor copied, the packet asks for its billets alone, and these
are taken without a change to the fabric (`billetBlind_fab`) or to a session's kind (`bridgeJoined_mirKind`). -/
theorem bridgePacketJoinsTheFabric : Obligations.BridgePacketJoinsTheFabric := by
  intro s d h v got hv ho ha hk hc hf hl hown hm hr hck hg
  have hw : s.sw.rxWord (.bridge d) h = .ok (v.bridgeJoined d h got) := by
    rw [rxWord_data _ _ _ hc, rxHeader_bridge_in _ _ _ ho ha hk]
    exact headerIn_bridge_own _ _ _ _ _ hv hf hl (hv ▸ hown) (hv ▸ hm) (hv ▸ hr) hck hg
  have hin : v.fab.arriving.get? (512 + d) = some (s.sw.fab.nextId + 1) := by
    rw [hv]
    exact AMap.get?_set_self ..
  have hdoes := (exec_word_does _ _ _ _ hw).2
  cases got with
  | ok r =>
    obtain ⟨hs, u⟩ := r
    have hfab : u.fab = v.fab := billetBlind_fab.allocCells _ _ _ _ _ _ hg.symm
    rw [← hfab] at hin
    obtain ⟨hid, hhdr, hsrc, hdie, hout, hstage, hfin⟩ := bridgePkt_spec u v d h { hs := hs } _ hin
    refine ⟨_, u.bridgePkt v d h { hs := hs }, hdoes, mem_placeAs _ _, hid, hhdr, hsrc, hdie, hout, hstage, hfin, hin, ?_, ?_⟩
    · rintro _ _ ⟨⟩
      exact ⟨rfl, rfl⟩
    · rintro _ ⟨⟩
  | error pend =>
    obtain ⟨hid, hhdr, hsrc, hdie, hout, hstage, hfin⟩ := bridgePkt_spec v v d h { wait := true } _ hin
    refine ⟨_, v.bridgePkt v d h { wait := true }, hdoes, mem_placeAs _ _, hid, hhdr, hsrc, hdie, hout, hstage, hfin, hin, ?_, ?_⟩
    · rintro _ _ ⟨⟩
    · exact fun _ _ => ⟨rfl, rfl, _, List.mem_append_right _ List.mem_cons_self, rfl⟩
end

section
/-! SUPPORT. Runs of handles and the free stores of the pools (04 R153, R154): how many handles a run, a store and a new store
hold. -/

namespace Sys2Proof.Machine

/-! ### Sums and runs -/

theorem sumBy_eq_sum {α : Type} (f : α → Nat) (l : List α) : sumBy f l = (l.map f).sum := by
  rw [List.sum_eq_foldl, List.foldl_map]; rfl

@[simp] theorem runLen_nil : runLen [] = 0 := rfl

@[simp] theorem runLen_cons (r : Nat × Nat) (l : List (Nat × Nat)) : runLen (r :: l) = r.2 + runLen l := by
  simp [runLen, sumBy_eq_sum]

@[simp] theorem runLen_append (l m : List (Nat × Nat)) : runLen (l ++ m) = runLen l + runLen m := by
  simp [runLen, sumBy_eq_sum]

@[simp] theorem runLen_runTake_fst (n : Nat) (l : List (Nat × Nat)) : runLen (runTake n l).1 = min n (runLen l) := by
  induction l generalizing n with
  | nil => simp [runTake]
  | cons r l ih =>
    obtain ⟨a, k⟩ := r
    unfold runTake
    split
    · simp [*]
    · split <;> simp [ih] <;> omega

@[simp] theorem runLen_runTake_snd (n : Nat) (l : List (Nat × Nat)) : runLen (runTake n l).2 = runLen l - n := by
  induction l generalizing n with
  | nil => simp [runTake]
  | cons r l ih =>
    obtain ⟨a, k⟩ := r
    unfold runTake
    split
    · simp [*]
    · split <;> simp [ih] <;> omega

/-- Only from an empty list is nothing taken. -/
theorem eq_nil_of_runTake_isEmpty (n : Nat) (l : List (Nat × Nat)) (hn : n ≠ 0) (h : (runTake n l).1.isEmpty = true) : l = [] := by
  cases l with
  | nil => rfl
  | cons r l =>
    obtain ⟨a, k⟩ := r
    unfold runTake at h
    rw [if_neg hn] at h
    split at h <;> cases h

/-- One handle taken is the first of the first run. -/
theorem runTake_one_head (i k : Nat) (l : List (Nat × Nat)) :
    ((runTake 1 ((i, k) :: l)).1.headD (0, 0)).1 = i := by
  unfold runTake
  rw [if_neg Nat.one_ne_zero]
  split <;> rfl

theorem forN_succ {α : Type} (n : Nat) (a : α) (f : Nat → α → α) : forN (n + 1) a f = f n (forN n a f) := by
  simp [forN, List.range_succ]

/-! ### Stores -/

@[simp] theorem store_setStore_self (s : Sw) (d p : Nat) (x : Store) : (s.setStore d p x).store d p = x := AMap.getD_set_self ..

theorem bilFree_of_store {s : Sw} {d p : Nat} {x : Store} (h : s.store d p = x) :
    s.bilFree d p = runLen x.cache + runLen x.ring := by rw [Sw.bilFree, h]

/-- Of a new store every handle is free (R155). -/
theorem runLen_freshStore (n : Nat) : runLen (freshStore n).cache + runLen (freshStore n).ring = n := by
  unfold freshStore
  dsimp only
  split <;> split <;> simp <;> omega

end Sys2Proof.Machine
end

section
/-! SUPPORT. Requests for billets (04 R162, R163), with the theorems that settle O19 and O20. -/

namespace Sys2Proof.Machine

/-! ### Taking a handle (R153) -/

/-- A cache that holds a handle gives its first one; the ring is not read. -/
theorem takeHandle_cached (s : Sw) (d p i k : Nat) (l : List (Nat × Nat)) (h : (s.store d p).cache = (i, k) :: l) :
    s.takeHandle d p = some (mkHandle d p i, s.setStore d p { s.store d p with
      cache := (runTake 1 ((i, k) :: l)).2
      low := min (s.store d p).low (runLen (runTake 1 ((i, k) :: l)).2 + runLen (s.store d p).ring) }) := by
  unfold Sw.takeHandle Sw.takeHandleN
  simp only [h, runTake_one_head]

/-- The switch once handle `h` of pool `q`, taken so as to leave `w`, is charged to its owner. -/
def Sw.charged (w : Sw) (h q : Nat) (o : Owner) (t : Option Ten) : Sw :=
  { w with bil := { w.bil with
    granted := w.bil.granted.set h ⟨o, t, bilSize q⟩
    freed := eraseOne h w.bil.freed
    data := if ownerCleared o then memZeroRange w.bil.data (65536 * h) (65536 * h + 65536) else w.bil.data } }

theorem grant_of_takeHandle (s w : Sw) (d q h : Nat) (o : Owner) (t : Option Ten) (e : s.takeHandle d q = some (h, w)) :
    s.grant d q o t = .got h (w.charged h q o t) := by
  rw [Sw.grant, e]
  rfl

theorem charged_granted (w : Sw) (h q : Nat) (o : Owner) (t : Option Ten) :
    (w.charged h q o t).bil.granted.get? h = some ⟨o, t, bilSize q⟩ := AMap.get?_set_self ..

@[simp] theorem charged_bilFree (w : Sw) (h q d p : Nat) (o : Owner) (t : Option Ten) :
    (w.charged h q o t).bilFree d p = w.bilFree d p := rfl

/-! ### The allocator's answers -/

theorem allocate_out_of_range (s : Sw) (d n : Nat) (o : Owner) (t : Option Ten) (h : n = 0 ∨ 65536 < n) :
    s.allocate d o t n = .null := if_pos h

theorem grant_ne_null (s : Sw) (d q : Nat) (o : Owner) (t : Option Ten) : s.grant d q o t ≠ .null := by
  unfold Sw.grant
  split
  · split <;> nofun
  · nofun

/-- The null handle answers a request outside the range of R163 alone. -/
theorem allocate_ne_null (s : Sw) (d n : Nat) (o : Owner) (t : Option Ten) (h0 : 0 < n) (hn : n ≤ 65536) :
    s.allocate d o t n ≠ .null := by
  have hg (q : Nat) (e : s.grant d q o t = .null) : False := grant_ne_null _ _ _ _ _ e
  intro e
  unfold Sw.allocate at e
  rw [if_neg (by omega)] at e
  refine of_ite_eq (fun e => by cases e) (of_ite_eq (hg _) (of_ite_eq (hg _) fun e => ?_)) e
  split at e
  · cases e
  · exact hg _ e

/-- The owner's reserve serves first (R162 step 1). -/
theorem allocate_reserve (s : Sw) (d n : Nat) (o : Owner) (t : Option Ten) (h0 : 0 < n) (hn : n ≤ 65536)
    (hb : s.bil.rebuild.contains d = false) (hq : (s.ownerQuota d o).home = poolFor n) (hu : 0 < s.ownerUnused d o) :
    s.allocate d o t n = s.grant d (poolFor n) o t := by
  unfold Sw.allocate
  rw [if_neg (by omega), hb, if_neg (by decide), if_pos ⟨hq, hu⟩]

/-- A request that its owner's reserve covers is no case of step 4. -/
theorem stepFour_of_reserve (s : Sw) (d n : Nat) (o : Owner) (t : Option Ten)
    (hq : (s.ownerQuota d o).home = poolFor n) (hu : 0 < s.ownerUnused d o) : s.stepFour d o t n = false := by
  simp [Sw.stepFour, hq, hu]

/-! ### What a request spills first (07 R291) -/

theorem spillsFor_other (s : Sw) (o : Owner) (n : Nat) (h : ∀ c, o ≠ .ctx c) : s.spillsFor o n = s := by
  unfold Sw.spillsFor
  split
  · exact absurd rfl (h _)
  · rfl

/-- A context that would not wait spills nothing. -/
theorem spillFor_of_not_stepFour (k : Nat) (s : Sw) (c n : Nat)
    (h : ∀ t, s.stepFour (c / 1024) (.ctx (Fin.ofNat 4096 c)) t n = false) : Sw.spillFor k s c n = s := by
  cases k with
  | zero => rfl
  | succ k =>
    unfold Sw.spillFor
    exact if_pos (.inl (by rw [h]; rfl))

theorem spillsFor_of_reserve (s : Sw) (d n : Nat) (o : Owner) (hc : ∀ c : CtxId, o = .ctx c → c.val / 1024 = d)
    (hq : (s.ownerQuota d o).home = poolFor n) (hu : 0 < s.ownerUnused d o) : s.spillsFor o n = s := by
  cases o with
  | ctx c =>
    refine spillFor_of_not_stepFour _ _ _ _ fun t => ?_
    rw [hc c rfl, show Fin.ofNat 4096 c.val = c from Fin.ext (Nat.mod_eq_of_lt c.isLt)]
    exact stepFour_of_reserve _ _ _ _ _ hq hu
  | _ => exact spillsFor_other _ _ _ nofun

/-! ### The command -/

section
variable (s : State) (d : Die) (o : Owner) (t : Option Ten) (n : Nat)

theorem execBilletAllocate_null (h : n = 0 ∨ 65536 < n) : exec (.billetAllocate d o t n) s = .next s := by
  change execBilletAllocate d o t n s = _
  simp only [execBilletAllocate, allocate_out_of_range _ _ _ _ _ h]

theorem execBilletAllocate_got (h : Nat) (w : Sw) (e : (s.sw.spillsFor o n).allocate d o t n = .got h w) :
    Does (.billetAllocate d o t n) s w := by
  change execBilletAllocate d o t n s = _
  simp only [execBilletAllocate, e]
  rfl

theorem execBilletAllocate_waits (h0 : 0 < n) (hn : n ≤ 65536)
    (e : ∀ h w, (s.sw.spillsFor o n).allocate d o t n ≠ .got h w) :
    Does (.billetAllocate d o t n) s ((s.sw.spillsFor o n).addWait d o t n .owner) := by
  change execBilletAllocate d o t n s = _
  unfold execBilletAllocate
  dsimp only
  split
  · rename_i h; exact absurd h (allocate_ne_null _ _ _ _ _ h0 hn)
  · rename_i h; exact absurd h (e _ _)
  · rfl
  · rfl
end

end Sys2Proof.Machine

open Sys2Proof Sys2Proof.Machine

/-- Settles O19: the command follows the allocator's answer, which is the null handle only outside the range of R163. -/
theorem billetRequests : Obligations.BilletRequests := fun s d o t n =>
  ⟨execBilletAllocate_null s d o t n, execBilletAllocate_got s d o t n, execBilletAllocate_waits s d o t n,
    spillsFor_other s.sw o n⟩

/-- Settles O20: nothing is spilled, and step 1 of R162 takes the cache's first handle and charges it to the owner. -/
theorem reserveServesFirst : Obligations.ReserveServesFirst := by
  intro s d o t n i k l h0 hn hb hc hq hu hl hk
  have hs : (s.sw.spillsFor o n).allocate d o t n = s.sw.grant d (poolFor n) o t := by
    rw [spillsFor_of_reserve _ _ _ _ hc hq hu, allocate_reserve _ _ _ _ _ h0 hn hb hq hu]
  have hg := grant_of_takeHandle _ _ _ _ _ o t (takeHandle_cached _ _ _ _ _ _ hl)
  refine ⟨_, execBilletAllocate_got s d o t n _ _ (hs.trans hg), charged_granted .., ?_, rfl, rfl⟩
  rw [charged_bilFree, bilFree_of_store (store_setStore_self ..), Sw.bilFree, hl, runLen_runTake_snd]
  simp only [runLen_cons]
  omega
end

section
/-! SUPPORT. Billets that come back (04 R153, R164), with the theorem that settles O21. -/

namespace Sys2Proof.Machine

/-! ### Writing back and putting back (R153) -/

theorem writeback_reset (s : Sw) (d p : Nat) (h : s.ringReset d p (s.store d p).head = true) : s.writeback d p = s := if_pos h

/-- A writeback moves the cache's first 256 handles behind those of the ring. -/
theorem writeback_store (s : Sw) (d p : Nat) (h : s.ringReset d p (s.store d p).head = false) :
    (s.writeback d p).store d p = { s.store d p with
      cache := (runTake 256 (s.store d p).cache).2
      ring := (s.store d p).ring ++ (runTake 256 (s.store d p).cache).1 } := by
  unfold Sw.writeback
  simp only [h, Bool.false_eq_true, if_false]
  exact store_setStore_self ..

/-- A writeback touches the free stores and the bad lines alone. -/
theorem writeback_frame (s : Sw) (d p : Nat) : s.writeback d p =
    { s with bil := { s.bil with stores := (s.writeback d p).bil.stores }, hbmBad := (s.writeback d p).hbmBad } := by
  unfold Sw.writeback
  dsimp only
  split <;> rfl

/-- None of the handles is lost. -/
theorem writeback_bilFree (s : Sw) (d p : Nat) : (s.writeback d p).bilFree d p = s.bilFree d p := by
  cases h : s.ringReset d p (s.store d p).head with
  | true => rw [writeback_reset _ _ _ h]
  | false =>
    rw [bilFree_of_store (writeback_store _ _ _ h), Sw.bilFree]
    simp only [runLen_append, runLen_runTake_fst, runLen_runTake_snd]
    omega

/-- The switch that a freed handle finds: a full cache has been written back. -/
def Sw.roomFor (s : Sw) (d p : Nat) : Sw := if 512 ≤ runLen (s.store d p).cache then s.writeback d p else s

theorem roomFor_bilFree (s : Sw) (d p : Nat) : (s.roomFor d p).bilFree d p = s.bilFree d p := by
  unfold Sw.roomFor
  split
  · exact writeback_bilFree ..
  · rfl

theorem roomFor_frame (s : Sw) (d p : Nat) : s.roomFor d p =
    { s with bil := { s.bil with stores := (s.roomFor d p).bil.stores }, hbmBad := (s.roomFor d p).hbmBad } := by
  unfold Sw.roomFor
  split
  · exact writeback_frame ..
  · rfl

/-- A cache of fewer than 512 handles has room, and one of fewer than 768 where its ring can be written. -/
theorem roomFor_room (s : Sw) (d p : Nat) (h : runLen (s.store d p).cache < 512 ∨
    runLen (s.store d p).cache < 768 ∧ s.ringReset d p (s.store d p).head = false) :
    runLen ((s.roomFor d p).store d p).cache < 512 := by
  unfold Sw.roomFor
  split
  · rename_i hf
    obtain ⟨hn, hr⟩ := h.resolve_left (by omega)
    rw [writeback_store _ _ _ hr, runLen_runTake_snd]
    omega
  · omega

theorem roomFor_full (s : Sw) (d p : Nat) (h : s.ringReset d p (s.store d p).head = true) : s.roomFor d p = s := by
  unfold Sw.roomFor
  split
  · exact writeback_reset _ _ _ h
  · rfl

theorem putHandle_eq (s : Sw) (h : Nat) : s.putHandle h =
    let w := s.roomFor (handleDie h) (handlePool h)
    let st := w.store (handleDie h) (handlePool h)
    w.setStore (handleDie h) (handlePool h)
      (if 512 ≤ runLen st.cache then { st with late := st.late ++ [h] } else { st with cache := st.cache ++ [(handleIdx h, 1)] }) := rfl

/-- A handle put back touches the free stores and the bad lines alone. -/
theorem putHandle_frame (s : Sw) (h : Nat) : s.putHandle h =
    { s with bil := { s.bil with stores := (s.putHandle h).bil.stores }, hbmBad := (s.putHandle h).hbmBad } := by
  rw [putHandle_eq]
  dsimp only
  rw [roomFor_frame]
  rfl

/-- Where there is room the pool has one free handle more. -/
theorem putHandle_bilFree (s : Sw) (h d p : Nat) (hd : d = handleDie h) (hp : p = handlePool h)
    (hr : runLen (s.store d p).cache < 512 ∨ runLen (s.store d p).cache < 768 ∧ s.ringReset d p (s.store d p).head = false) :
    (s.putHandle h).bilFree d p = s.bilFree d p + 1 := by
  have hroom := roomFor_room s d p hr
  have hfree := roomFor_bilFree s d p
  subst hd hp
  rw [putHandle_eq, bilFree_of_store (store_setStore_self ..), if_neg (by omega), ← hfree, Sw.bilFree]
  simp only [runLen_append, runLen_cons, runLen_nil]
  omega

/-- Where a full cache cannot be written back the handle waits beside it. -/
theorem putHandle_late (s : Sw) (h d p : Nat) (hd : d = handleDie h) (hp : p = handlePool h) (hf : 512 ≤ runLen (s.store d p).cache)
    (hr : s.ringReset d p (s.store d p).head = true) :
    (s.putHandle h).store d p = { s.store d p with late := (s.store d p).late ++ [h] } := by
  subst hd hp
  rw [putHandle_eq, store_setStore_self, roomFor_full _ _ _ hr, if_pos hf]

/-! ### Giving back (R164) -/

/-- The grant of a billet ends. -/
def Sw.ungrant (s : Sw) (h : Nat) : Sw := { s with bil := { s.bil with granted := s.bil.granted.del h } }

theorem ungrant_store (s : Sw) (h d p : Nat) : (s.ungrant h).store d p = s.store d p := rfl

theorem ungrant_bilFree (s : Sw) (h d p : Nat) : (s.ungrant h).bilFree d p = s.bilFree d p := rfl

theorem ungrant_ringReset (s : Sw) (h d p i : Nat) : (s.ungrant h).ringReset d p i = s.ringReset d p i := rfl

theorem release_granted (s : Sw) (h : Nat) (g : Grant) (hg : s.bil.granted.get? h = some g) :
    s.release h = (s.ungrant h).putHandle h := by
  rw [Sw.release, hg]
  rfl

theorem ungrant_putHandle_granted (s : Sw) (h : Nat) : ((s.ungrant h).putHandle h).bil.granted = s.bil.granted.del h := by
  rw [putHandle_frame]
  rfl

theorem execBilletFree_own (s : State) (d : Die) (o : Owner) (h : BitVec 32) (g : Grant)
    (hg : s.sw.bil.granted.get? h.toNat = some g) (ho : g.owner = o) :
    Does (.billetFree d o h) s ((s.sw.ungrant h.toNat).putHandle h.toNat).bilRetry := by
  change execBilletFree d o h s = _
  simp only [execBilletFree, hg, ho, if_true, release_granted _ _ _ hg]
  rfl

theorem execBilletFree_foreign (s : State) (d : Die) (o : Owner) (h : BitVec 32) (g : Grant)
    (hg : s.sw.bil.granted.get? h.toNat = some g) (ho : g.owner ≠ o) :
    exec (.billetFree d o h) s = .fault (.undefinedUse 178) := by
  change execBilletFree d o h s = _
  simp only [execBilletFree, hg, ho, if_false]

theorem execBilletFree_ungranted (s : State) (d : Die) (o : Owner) (h : BitVec 32) (hg : s.sw.bil.granted.get? h.toNat = none) :
    exec (.billetFree d o h) s = .fault (.undefinedUse 178) := by
  change execBilletFree d o h s = _
  simp only [execBilletFree, hg]

end Sys2Proof.Machine

open Sys2Proof Sys2Proof.Machine

/-- Settles O21: the grant ends and the handle is put back on the die it names (`putHandle_bilFree`, `putHandle_late`). -/
theorem billetsAreFreedByTheirOwner : Obligations.BilletsAreFreedByTheirOwner := by
  intro s d o h e p n he hp hn
  subst hn
  refine ⟨fun g hg => ⟨fun ho => ⟨_, execBilletFree_own s d o h g hg ho, ?_, ?_, ?_, ?_, ?_, ?_⟩, execBilletFree_foreign s d o h g hg⟩,
    execBilletFree_ungranted s d o h⟩
  · rw [ungrant_putHandle_granted, AMap.get?_del_self]
  · simpa only [ungrant_store, ungrant_bilFree, ungrant_ringReset] using putHandle_bilFree (s.sw.ungrant h.toNat) _ _ _ he hp
  · intro hf hr
    have hs := putHandle_late (s.sw.ungrant h.toNat) _ _ _ he hp hf hr
    exact ⟨(bilFree_of_store hs).trans rfl, congrArg Store.late hs⟩
  · intro k hk
    rw [ungrant_putHandle_granted, AMap.get?_del_ne _ _ _ hk.symm]
  · rw [putHandle_frame]
    rfl
  · rw [putHandle_frame]
    rfl
end

section
/-! SUPPORT. Refilling a cache from its ring line by line (04 R153, R156), with the theorem that settles O22. -/

namespace Sys2Proof.Machine

/-! ### One line of the ring -/

/-- Line `i` of a refill cannot be read: it turns out bad now, or was known to be (R156). -/
def Sw.refillBad (s : Sw) (d p : Nat) (bad : List Nat) (i : Nat) : Bool :=
  bad.contains i || s.lineBad (s.ringLineOf d p ((s.store d p).head + 16 * i) / 64)

/-- What a bad line at `off` that held `n` handles leaves: the line known as bad, the handles counted as lost, its two faults. -/
def Sw.loseLine (t : Sw) (d p off n : Nat) : Sw :=
  ((({ t with hbmBad := insertNat (off / 64) t.hbmBad } : Sw).uncorr off rdSystem).inc (L.bilLost.at d) 0 n).fault 0x14 d none p n

/-- Line `i` of a refill: handles kept, handles still to be read, the switch. -/
def Sw.refillLine (s : Sw) (d p : Nat) (bad : List Nat) (i : Nat) (a : List (Nat × Nat) × List (Nat × Nat) × Sw) :
    List (Nat × Nat) × List (Nat × Nat) × Sw :=
  if (runTake 16 a.2.1).1.isEmpty then a
  else if s.refillBad d p bad i then
    (a.1, (runTake 16 a.2.1).2,
      a.2.2.loseLine d p (s.ringLineOf d p ((s.store d p).head + 16 * i)) (runLen (runTake 16 a.2.1).1))
  else (a.1 ++ (runTake 16 a.2.1).1, (runTake 16 a.2.1).2, a.2.2)

/-- The first `n` lines of a refill. -/
def Sw.refillRead (s : Sw) (d p : Nat) (bad : List Nat) (n : Nat) : List (Nat × Nat) × List (Nat × Nat) × Sw :=
  forN n ([], (runTake 256 (s.store d p).ring).1, s) (s.refillLine d p bad)

theorem refill_reset (s : Sw) (d p : Nat) (bad : List Nat) (h : s.ringReset d p (s.store d p).head = true) :
    s.refill d p bad = s := if_pos h

/-- The store that a refill leaves, `kept` being what the cache took. -/
def Store.refilled (st : Store) (kept : List (Nat × Nat)) : Store :=
  { st with
    cache := st.cache ++ kept
    ring := (runTake 256 st.ring).2
    head := st.head + (runLen st.ring - runLen (runTake 256 st.ring).2)
    low := min st.low (runLen st.cache + runLen kept + runLen (runTake 256 st.ring).2) }

/-- A refill reads 16 lines. -/
theorem refill_eq (s : Sw) (d p : Nat) (bad : List Nat) (h : s.ringReset d p (s.store d p).head = false) :
    s.refill d p bad = (s.refillRead d p bad 16).2.2.setStore d p ((s.store d p).refilled (s.refillRead d p bad 16).1) := by
  unfold Sw.refill Sw.refillRead Sw.refillLine Sw.refillBad Sw.loseLine Store.refilled
  simp only [h, Bool.false_eq_true, if_false, Bool.or_eq_true]

/-! ### What a bad line does -/

section
variable (t : Sw) (d : Die) (p off n : Nat)

theorem loseLine_lost : (t.loseLine d p off n).rd (L.bilLost.at d) = (t.rd (L.bilLost.at d) + n) % 256 ^ L.bilLost.width := by
  refine (Sw.rd_wr_self ..).trans (congrArg (fun m => (m + n) % 256 ^ L.bilLost.width) ?_)
  refine Sw.rd_wr_ne _ (L.hbmEccUncorr.at _) (L.bilLost.at d) 0 0 _ ?_
  simp only [Reg.key, Reg.at, L.hbmEccUncorr, L.bilLost]
  omega

theorem loseLine_due : ∃ f : FaultInfo, f.code ≠ 0x14 ∧
    (t.loseLine d p off n).flt.due = t.flt.due ++ [f, ⟨0x14, d, none, BitVec.ofNat 64 p, BitVec.ofNat 64 n⟩] := by
  refine ⟨⟨0x41, 40 + (t.hbmStack off).1, none, BitVec.ofNat 64 (detM 0 (t.hbmStack off).1 (t.hbmStack off).2 off),
    BitVec.ofNat 64 rdSystem⟩, (by decide : 0x41 ≠ 0x14), List.append_assoc ..⟩
end

/-! ### What the lines read so far have lost -/

/-- The faults `fs` report `lost` handles of pool `p`, those of one line, at most 16, in a fault of its own (R156). -/
def LossReports (d : Die) (p lost : Nat) (fs : List FaultInfo) : Prop :=
  sumBy (fun f => f.aux.toNat) (fs.filter (fun f => f.code == 0x14)) = lost ∧
  ∀ f ∈ fs, f.code = 0x14 → f = ⟨0x14, d, none, BitVec.ofNat 64 p, f.aux⟩ ∧ f.aux.toNat ≤ 16

theorem LossReports.append {d : Die} {p m n : Nat} {fs gs : List FaultInfo} (hf : LossReports d p m fs) (hg : LossReports d p n gs) :
    LossReports d p (m + n) (fs ++ gs) := by
  obtain ⟨rfl, hf⟩ := hf
  obtain ⟨rfl, hg⟩ := hg
  refine ⟨by simp [sumBy_eq_sum], fun f h => ?_⟩
  exact (List.mem_append.mp h).elim (hf f) (hg f)

theorem lossReports_line (d : Die) (p n : Nat) (f : FaultInfo) (hf : f.code ≠ 0x14) (hn : n ≤ 16) :
    LossReports d p n [f, ⟨0x14, d, none, BitVec.ofNat 64 p, BitVec.ofNat 64 n⟩] := by
  have ha : (BitVec.ofNat 64 n).toNat = n := (BitVec.toNat_ofNat ..).trans (Nat.mod_eq_of_lt (by omega))
  refine ⟨by simp [hf, sumBy_eq_sum, ha], fun g hg hc => ?_⟩
  rcases List.mem_cons.mp hg with rfl | hg
  · exact absurd hc hf
  · rw [List.mem_singleton.mp hg]
    exact ⟨rfl, Nat.le_trans (Nat.le_of_eq ha) hn⟩

/-- From `s` to `t` bad lines of a ring have lost `lost` handles: counted and reported. -/
structure LostHandles (s : Sw) (d : Die) (p lost : Nat) (t : Sw) : Prop where
  count : t.rd (L.bilLost.at d) = (s.rd (L.bilLost.at d) + lost) % 256 ^ L.bilLost.width ∨
    lost = 0 ∧ t.rd (L.bilLost.at d) = s.rd (L.bilLost.at d)
  due : ∃ fs, t.flt.due = s.flt.due ++ fs ∧ LossReports d p lost fs

theorem LostHandles.refl (s : Sw) (d : Die) (p : Nat) : LostHandles s d p 0 s :=
  ⟨.inr ⟨rfl, rfl⟩, [], (List.append_nil _).symm, rfl, nofun⟩

theorem LostHandles.loseLine {s t : Sw} {d : Die} {p lost : Nat} (h : LostHandles s d p lost t) (off n : Nat) (hn : n ≤ 16) :
    LostHandles s d p (lost + n) (t.loseLine d p off n) where
  count := by
    left
    rw [loseLine_lost]
    rcases h.count with h | ⟨h0, h⟩
    · rw [h, Nat.mod_add_mod, Nat.add_assoc]
    · rw [h, h0, Nat.zero_add]
  due := by
    obtain ⟨fs, hd, hr⟩ := h.due
    obtain ⟨f, hf, hl⟩ := loseLine_due t d p off n
    exact ⟨_, by rw [hl, hd, List.append_assoc], hr.append (lossReports_line d p n f hf hn)⟩

/-- `a` stands after `n` lines of a refill, of which the bad ones have lost `lost` handles; the others are kept or still to be read. -/
structure RefillRead (s : Sw) (d : Die) (p : Nat) (bad : List Nat) (n lost : Nat) (a : List (Nat × Nat) × List (Nat × Nat) × Sw) :
    Prop where
  rest  : runLen a.2.1 = min 256 (runLen (s.store d p).ring) - 16 * n
  total : runLen a.1 + lost + runLen a.2.1 = min 256 (runLen (s.store d p).ring)
  told  : LostHandles s d p lost a.2.2
  clean : (∀ i, i < n → s.refillBad d p bad i = false) → lost = 0 ∧ a.2.2 = s

theorem RefillRead.line {s : Sw} {d : Die} {p n lost : Nat} {bad : List Nat} {a : List (Nat × Nat) × List (Nat × Nat) × Sw}
    (h : RefillRead s d p bad n lost a) : ∃ lost', RefillRead s d p bad (n + 1) lost' (s.refillLine d p bad n a) := by
  obtain ⟨hrest, htotal, hlost, hclean⟩ := h
  have htook := runLen_runTake_fst 16 a.2.1
  have hleft := runLen_runTake_snd 16 a.2.1
  have hclean' (hc : ∀ i, i < n + 1 → s.refillBad d p bad i = false) := hclean fun i hi => hc i (Nat.lt_succ_of_lt hi)
  unfold Sw.refillLine
  split
  · rename_i he
    have hnil : runLen a.2.1 = 0 := by rw [eq_nil_of_runTake_isEmpty 16 _ (by decide) he, runLen_nil]
    exact ⟨lost, by omega, htotal, hlost, hclean'⟩
  · split
    · rename_i hb
      refine ⟨_, by dsimp only; omega, ?_, hlost.loseLine _ _ (by omega), fun hc => ?_⟩
      · dsimp only; omega
      · rw [hc n (Nat.lt_succ_self n)] at hb; cases hb
    · refine ⟨lost, by dsimp only; omega, ?_, hlost, hclean'⟩
      rw [runLen_append]
      dsimp only
      omega

theorem refillRead_spec (s : Sw) (d : Die) (p : Nat) (bad : List Nat) (n : Nat) :
    ∃ lost, RefillRead s d p bad n lost (s.refillRead d p bad n) := by
  induction n with
  | zero =>
    refine ⟨0, ?_, ?_, LostHandles.refl s d p, fun _ => ⟨rfl, rfl⟩⟩
    · exact runLen_runTake_fst ..
    · exact (Nat.zero_add _).trans (runLen_runTake_fst ..)
  | succ n ih =>
    obtain ⟨lost, h⟩ := ih
    obtain ⟨lost', h'⟩ := h.line
    exact ⟨lost', by rwa [Sw.refillRead, forN_succ]⟩

/-- A refill keeps and loses together the handles it takes off the ring; with every line good it keeps them all. -/
theorem refill_spec (s : Sw) (d : Die) (p : Nat) (bad : List Nat) (h : s.ringReset d p (s.store d p).head = false) :
    ∃ lost kept t, s.refill d p bad = t.setStore d p ((s.store d p).refilled kept) ∧
      runLen kept + lost = min 256 (runLen (s.store d p).ring) ∧ LostHandles s d p lost t ∧
      ((∀ i, i < 16 → s.refillBad d p bad i = false) → lost = 0 ∧ t = s) := by
  obtain ⟨lost, hrest, htotal, htold, hclean⟩ := refillRead_spec s d p bad 16
  exact ⟨lost, _, _, refill_eq s d p bad h, by omega, htold, hclean⟩

/-! ### The commands (R153) -/

section
variable (s : State) (d : Die) (p : Fin 6) (bad : List (Fin 16))

theorem execFreeRingRefill_enough (h : 128 ≤ runLen (s.sw.store d p).cache) : exec (.freeRingRefill d p bad) s = .next s := by
  change execFreeRingRefill d p bad s = _
  exact if_pos h

theorem execFreeRingRefill_does (h : runLen (s.sw.store d p).cache < 128) :
    Does (.freeRingRefill d p bad) s (s.sw.refill d p (bad.map Fin.val)).bilRetry := by
  change execFreeRingRefill d p bad s = _
  exact if_neg (Nat.not_le.mpr h)

theorem execFreeRingWriteback_few (h : runLen (s.sw.store d p).cache ≤ 448) : exec (.freeRingWriteback d p) s = .next s := by
  change execFreeRingWriteback d p s = _
  exact if_pos h

theorem execFreeRingWriteback_does (h : 448 < runLen (s.sw.store d p).cache) :
    Does (.freeRingWriteback d p) s (s.sw.writeback d p) := by
  change execFreeRingWriteback d p s = _
  exact if_neg (Nat.not_le.mpr h)
end

end Sys2Proof.Machine

open Sys2Proof Sys2Proof.Machine

/-- Settles O22: a refill is 16 lines, each of which keeps or loses its handles (`RefillRead`); a writeback moves 256. -/
theorem ringsAndCaches : Obligations.RingsAndCaches := by
  intro s d p r bad hr
  refine ⟨execFreeRingRefill_enough s d p bad, fun hlow => ⟨fun h => ?_, fun h => ?_⟩, execFreeRingWriteback_few s d p,
    fun hhigh => ⟨fun h => ?_, fun h => ⟨_, execFreeRingWriteback_does s d p hhigh, ?_, writeback_bilFree .., writeback_frame ..⟩⟩⟩
  · have hdoes := execFreeRingRefill_does s d p bad hlow
    rwa [refill_reset _ _ _ _ (hr.symm.trans h)] at hdoes
  · obtain ⟨lost, kept, t, heq, htotal, htold, hclean⟩ := refill_spec s.sw d p (bad.map Fin.val) (hr.symm.trans h)
    have hdoes := execFreeRingRefill_does s d p bad hlow
    rw [heq] at hdoes
    refine ⟨_, lost, hdoes, ?_, ?_, fun h0 => htold.count.resolve_right fun h => h0 h.1, htold.due, fun hnil hgood => ?_⟩
    · rw [store_setStore_self, Store.refilled]
      simp only [runLen_append]
      omega
    · rw [bilFree_of_store (store_setStore_self ..), Store.refilled, Sw.bilFree]
      simp only [runLen_append, runLen_runTake_snd]
      omega
    · obtain ⟨h0, rfl⟩ := hclean fun i hi => by rw [Sw.refillBad, hgood i hi, hnil]; rfl
      exact ⟨h0, rfl⟩
  · have hdoes := execFreeRingWriteback_does s d p hhigh
    rwa [writeback_reset _ _ _ (hr.symm.trans h)] at hdoes
  · rw [writeback_store _ _ _ (hr.symm.trans h), runLen_runTake_snd]
    omega
end

section
/-! SUPPORT. Pool sizes, the deep buffer, quotas and starvation (04 R149, R155, R165, R169, R174), with the theorems that settle
O23 and O24. -/

namespace Sys2Proof.Machine

/-! ### A rebuild (R155) -/

/-- After a value of its own was stored for each key of a list, a key reads its value. -/
theorem getD_foldl_set_each {α : Type} (k : Nat → Nat) (f : Nat → α) (hk : ∀ i j, k i = k j → i = j) (l : List Nat) (m : AMap α) (p : Nat)
    (d : α) : (l.foldl (fun m p => AMap.set m (k p) (f p)) m).getD (k p) d = if p ∈ l then f p else m.getD (k p) d := by
  induction l generalizing m with
  | nil => simp
  | cons q l ih =>
    rw [List.foldl_cons, ih]
    by_cases hq : q = p
    · subst hq; simp [AMap.getD_set_self]
    · simp [AMap.getD_set_ne _ _ _ _ _ (fun h => hq (hk _ _ h)), Ne.symm hq]

theorem startRebuild_store (s : Sw) (d p : Nat) (hp : p < 6) : (s.startRebuild d).store d p = freshStore (s.bilCount d p) :=
  (getD_foldl_set_each (8 * d + ·) (fun p => freshStore (s.bilCount d p)) (fun _ _ => Nat.add_left_cancel) _ _ _ _).trans
    (if_pos (List.mem_range.mpr hp))

theorem startRebuild_bilFree (s : Sw) (d p : Nat) (hp : p < 6) : (s.startRebuild d).bilFree d p = s.bilCount d p := by
  rw [bilFree_of_store (startRebuild_store s d p hp), runLen_freshStore]

theorem mem_startRebuild (s : Sw) (d : Nat) : d ∈ (s.startRebuild d).bil.rebuild := mem_insertNat ..

/-! ### Writes while the core is quenched (15 R595, R630) -/

/-- The switch with these pool sizes stored. -/
def Sw.unitsStored (s : Sw) (d : Die) (us : List (Fin 5 × BitVec 16)) : Sw :=
  us.foldl (fun x u => x.wr (L.bilPoolUnits.at d) u.1.val u.2.toNat) s

section
variable (s : State) (d : Die) (us : List (Fin 5 × BitVec 16))

theorem exec_poolUnitsWrite (h : s.busyFor 0x5000 (1 + d) = false) : exec (.poolUnitsWrite d us) s =
    s.endsWr (s.sw.rwq (if 768 < sumBy (fun p => (s.sw.unitsStored d us).rd (L.bilPoolUnits.at d) p) (List.range 5) then wrRange s.sw
      else wrOk ((s.sw.unitsStored d us).startRebuild d))) := by
  change execPoolUnitsWrite d us s = _
  rw [execPoolUnitsWrite, s.written_ends _ _ _ h, Sw.wrPoolUnits, List.foldl_map]
  rfl

theorem execPoolUnitsWrite_undefined (h : s.busyFor 0x5000 (1 + d) = false) (hq : s.sw.coreQuenched = false) :
    exec (.poolUnitsWrite d us) s = .fault (.undefinedUse 630) := by
  rw [exec_poolUnitsWrite _ _ _ h, Sw.rwq, hq]
  rfl

theorem execPoolUnitsWrite_refused (h : s.busyFor 0x5000 (1 + d) = false) (hq : s.sw.coreQuenched = true)
    (hs : 768 < sumBy (fun p => (s.sw.unitsStored d us).rd (L.bilPoolUnits.at d) p) (List.range 5)) :
    Does (.poolUnitsWrite d us) s s.sw := by
  rw [Does, exec_poolUnitsWrite _ _ _ h, Sw.rwq, if_pos hq, if_pos hs]
  rfl

theorem execPoolUnitsWrite_does (h : s.busyFor 0x5000 (1 + d) = false) (hq : s.sw.coreQuenched = true)
    (hs : sumBy (fun p => (s.sw.unitsStored d us).rd (L.bilPoolUnits.at d) p) (List.range 5) ≤ 768) :
    Does (.poolUnitsWrite d us) s ((s.sw.unitsStored d us).startRebuild d) := by
  rw [Does, exec_poolUnitsWrite _ _ _ h, Sw.rwq, if_pos hq, if_neg (Nat.not_lt.mpr hs)]
  rfl
end

theorem execDeepGibWrite_does (s : State) (d : Die) (g : BitVec 8) (w : Sw) (hw : w = s.sw.wr (L.bilDeepGib.at d) 0 g.toNat)
    (h : s.busyFor 0x5008 (1 + d) = false) (hq : s.sw.coreQuenched = true) (hg : g.toNat ≤ 16)
    (hs : sumBy (fun k => w.rd (L.bilDeepGib.at k)) (List.range 4) ≤ 64) (hf : w.reservedFree d = true) :
    Does (.deepGibWrite d g) s (w.startRebuild d) := by
  subst hw
  change execDeepGibWrite d g s = _
  rw [execDeepGibWrite, s.written_ends _ _ _ h, Sw.wrDeepGib, Sw.rwq, if_pos hq]
  dsimp only
  rw [if_neg (by simp [hg, hs, hf])]
  rfl

theorem execBilletRebuildComplete_does (s : State) (d : Die) (h : s.sw.bil.rebuild.contains d.val = true) :
    Does (.billetRebuildComplete d) s
      ({ s.sw with bil := { s.sw.bil with rebuild := s.sw.bil.rebuild.filter (fun k => k != d.val) } }).bilRetry := by
  change execBilletRebuildComplete d s = _
  exact if_pos h

/-! ### Quotas (R160, R165) -/

/-- A quota whose home pool is one of the five and whose minima fit is stored; a larger reserve of a port is offered at once. -/
theorem wrQuota_fits (s w : Sw) (t : QuotaTable) (d el v : Nat) (hw : w = s.wr (quotaReg t d el).1 el (quotaMask t v))
    (he : el < quotaCount t) (hh : t = .portMin ∨ t = .portMax ∨ fld v 61 3 < 5)
    (hm : ∀ p, p < 5 → w.minima (quotaReg t d el).2 p ≤ w.bilCount (quotaReg t d el).2 p) :
    s.wrQuota t d el v = wrOk (if t = .portMin then w.reserveSync (el / 8) (el % 8) else w).bilRetry := by
  subst hw
  unfold Sw.wrQuota Sw.wrQuotas
  dsimp only
  refine (if_neg ?_).trans ?_
  · simp only [List.any_cons, List.any_nil, Bool.or_false, Bool.or_eq_true, List.any_eq_true, decide_eq_true_eq, List.mem_range,
      not_or, not_exists, not_and]
    refine ⟨⟨Nat.not_le.mpr he, ?_⟩, fun p hp hlt => absurd hlt (Nat.not_lt.mpr (hm p hp))⟩
    cases t with
    | portMin | portMax => nofun
    | ten | ctx | core => simpa using hh
  · cases t <;> rfl

theorem execQuotaWrite_does (s : State) (t : QuotaTable) (d : Die) (el : Nat) (v : BitVec 64) (w : Sw)
    (h : s.busyFor (quotaReg t d el).1.index 1 = false) (hw : s.sw.wrQuota t d el v.toNat = wrOk w) :
    Does (.quotaWrite t d el v) s w := by
  change execQuotaWrite t d el v s = _
  rw [execQuotaWrite, s.written_ends _ _ _ h, hw]
  rfl

/-! ### Starvation (R174) -/

/-- What the report of a starved request changes: time, the faults due, and that the request is marked. -/
def Sw.starved (s : Sw) (d : Die) (r : BilReq) : Sw :=
  { s with
    now := max s.now (deadline r.since (s.rd L.bilWaitNs))
    flt := { s.flt with due := s.flt.due ++ [⟨0x15, d, r.ten.map (fun t => BitVec.ofNat 8 t.toNat),
      BitVec.ofNat 64 (poolFor r.bytes), BitVec.ofNat 64 (ownerCode r.owner)⟩] }
    bil := { s.bil with waits := s.bil.waits.map (fun x => if x = r then { x with warned := true } else x) } }

theorem execBilletStarvationTimeout_does (s : State) (d : Die) (n : Nat) (r : BilReq)
    (hr : (s.sw.bil.waits.filter (fun r => r.die == d.val))[n]? = some r) (hn : s.sw.rd L.bilWaitNs ≠ 0) (hw : r.warned = false) :
    Does (.billetStarvationTimeout d n) s (s.sw.starved d r) := by
  change execBilletStarvationTimeout d n s = _
  simp only [execBilletStarvationTimeout, hr, hn, hw, Bool.false_eq_true, or_self, if_false, Sw.fault, Option.map_map]
  rfl

end Sys2Proof.Machine

open Sys2Proof Sys2Proof.Machine

/-- Settles O23: the write is decided on the sizes as they would stand, and a rebuilt store is a fresh one. -/
theorem poolSizes : Obligations.PoolSizes := by
  rintro s d us _ hb rfl
  exact ⟨execPoolUnitsWrite_undefined s d us hb, execPoolUnitsWrite_refused s d us hb, fun hq hs =>
    ⟨execPoolUnitsWrite_does s d us hb hq hs, mem_startRebuild .., fun p => startRebuild_bilFree _ _ _ p.isLt⟩⟩

/-- Settles O24: each command's checks pass, and its effect is the one stated (`wrQuota_fits`, `Sw.starved`). -/
theorem deepBufferQuotasStarvation : Obligations.DeepBufferQuotasStarvation := fun s d =>
  ⟨fun g => execDeepGibWrite_does s d g _ rfl, execBilletRebuildComplete_does s d,
    fun t el v _ hb he hh hw hm => execQuotaWrite_does s t d el v _ hb (wrQuota_fits _ _ _ _ _ _ hw he hh hm),
    fun n r hr hn hw => ⟨_, execBilletStarvationTimeout_does s d n r hr hn hw, rfl, rfl, rfl, rfl⟩⟩
end

section
/-! SUPPORT. How collectives go on and end (10 R426 to R430, R769), with the theorem that settles O30. -/

namespace Sys2Proof.Machine

/-- Where no root is formed there is nothing to hand on. -/
theorem rootFormed_none (s : Sw) (c i b : Nat) (h : s.rootOf c i b = none) : s.rootFormed c i b = s := by
  unfold Sw.rootFormed
  split
  · rename_i e; rw [h] at e; cases e
  · rfl

/-- A write to `coll.abort` that names no group of its tenancy is denied (R430). -/
theorem wrCollAbort_denied (s : Sw) (v : Nat)
    (h : gValid (s.group (fld v 32 12)) = false ∨ gTen (s.group (fld v 32 12)) ≠ fld v 44 8) :
    s.wrCollAbort v = s.inc (L.collDenied.at s.anvilLow) := by
  refine if_neg fun ⟨hv, ht⟩ => ?_
  exact h.elim (fun hf => Bool.false_ne_true (hf.symm.trans hv)) (fun hne => hne ht)

/-- One whose `cseq` is stale for its group is counted as stale (R419). -/
theorem wrCollAbort_stale (s : Sw) (v : Nat) (hv : gValid (s.group (fld v 32 12)) = true)
    (ht : gTen (s.group (fld v 32 12)) = fld v 44 8) (hs : s.collStaleFor (fld v 32 12) (fld v 0 32) = true) :
    s.wrCollAbort v = s.inc (L.collStale.at s.anvilLow) := (if_pos ⟨hv, ht⟩).trans (if_pos hs)

section
variable (s : State)

theorem execAnvilRootFormed_awake (c : CtxId) (i : Fin 2) (b : Nat) (h : s.sw.unitAwake (.anvil (Fin.ofNat 4 (c.val / 1024))) = true) :
    Does (.anvilRootFormed c i b) s (s.sw.rootFormed c i b) := by
  change execAnvilRootFormed c i b s = _
  rw [execAnvilRootFormed, h]
  rfl

theorem execAnvilRootFormed_parked (c : CtxId) (i : Fin 2) (b : Nat)
    (h : s.sw.unitAwake (.anvil (Fin.ofNat 4 (c.val / 1024))) = false) : exec (.anvilRootFormed c i b) s = .next s := by
  change execAnvilRootFormed c i b s = _
  rw [execAnvilRootFormed, h]
  rfl

theorem execCollAbortWrite_does (v : BitVec 64) (h : s.busyFor 0x7800 4 = false) :
    Does (.collAbortWrite v) s (s.sw.wrCollAbort v.toNat) := s.written_ends _ _ _ h

theorem execCrossDieAbort_waits (t : Ten) (g : Fin 4096) (q : BitVec 32) (h : s.sw.collWaits g = true) :
    exec (.crossDieAbort t g q) s = .next s := by
  change execCrossDieAbort t g q s = _
  simp only [execCrossDieAbort, h, Bool.not_true, Bool.false_eq_true, false_and, if_false]

/-- The abort reaches the live slots, with the lowest cause of those that aborted first, and is carried on (R769). -/
theorem execCrossDieAbort_does (t : Ten) (g : Fin 4096) (q : BitVec 32) (h : s.sw.collWaits g = false)
    (ha : (s.sw.collSlots t.toNat g q.toNat).any (fun cy => cy.2.st == .aborting) = true) :
    Does (.crossDieAbort t g q) s
      (((s.sw.liveSlots t.toNat g q.toNat).foldl (fun w cy =>
        w.slotAbort cy.1 q.toNat (s.sw.lowestCause t.toNat g q.toNat) false true .both) s.sw).aborted t.toNat g q.toNat).admitScan :=
  if_pos ⟨by rw [h]; rfl, ha⟩
end

end Sys2Proof.Machine

open Sys2Proof Sys2Proof.Machine

/-- Settles O30: each command has its effect exactly where its own guard lets it. -/
theorem collectivesEnd : Obligations.CollectivesEnd := by
  intro s
  refine ⟨fun c i b => ⟨fun h => ⟨execAnvilRootFormed_awake s c i b h, fun hn => ?_⟩, execAnvilRootFormed_parked s c i b⟩,
    fun t g q => ⟨fun h => if_pos h, fun h => if_neg (by rw [h]; decide)⟩, ?_,
    fun t g q => ⟨execCrossDieAbort_waits s t g q, execCrossDieAbort_does s t g q⟩⟩
  · exact rootFormed_none _ _ _ _ hn ▸ execAnvilRootFormed_awake s c i b h
  · rintro v t g hb rfl rfl
    have hw := execCollAbortWrite_does s v hb
    exact ⟨hw, fun h => wrCollAbort_denied _ _ h ▸ hw, fun hv ht hs => wrCollAbort_stale _ _ hv ht hs ▸ hw⟩
end

section
/-! SUPPORT. Slots, held values and whole lines of memory: what a read finds after a write, and what each write leaves alone. -/

namespace Sys2Proof.Machine

/-! ### Slots and held values -/

/-- A change of a slot changes the collective machinery alone. -/
theorem updSlot_spec (s : Sw) (c i : Nat) (f : Slot → Slot) : ∃ g : Anv → Anv, s.updSlot c i f = s.updAnv g := by
  unfold Sw.updSlot
  split
  · exact ⟨id, rfl⟩
  · exact ⟨_, rfl⟩

@[simp] theorem Ctx.slot_setSlot (x : Ctx) (i : Nat) (y : Slot) : (x.setSlot i y).slot i = y := by
  unfold Ctx.setSlot Ctx.slot
  split <;> simp [*]

theorem slot_of_ctx {s : Sw} {c : Nat} {x : Ctx} (h : s.anv.ctx.get? c = some x) (i : Nat) : s.slot c i = x.slot i := by
  rw [Sw.slot, h]; rfl

/-- A slot changed reads as changed. -/
theorem slot_updSlot {s : Sw} {c : Nat} {x : Ctx} (h : s.anv.ctx.get? c = some x) (i : Nat) (f : Slot → Slot) :
    (s.updSlot c i f).slot c i = f (s.slot c i) := by
  have hx : (s.updSlot c i f).anv.ctx.get? c = some (x.setSlot i (f (x.slot i))) := by
    simp only [Sw.updSlot, h]
    exact AMap.get?_set_self ..
  rw [slot_of_ctx hx, slot_of_ctx h, Ctx.slot_setSlot]

/-- Every held value of block `b` changed by `g`. -/
def Sw.mapItems (s : Sw) (c i b : Nat) (g : Item → Item) : Sw :=
  s.updSlot c i (fun y => { y with blocks := y.blocks.map (fun k => if k.num = b then { k with items := k.items.map g } else k) })

theorem updItem_eq_mapItems (s : Sw) (c i : Nat) (n : NodeId) (f : Item → Item) :
    s.updItem c i n f = s.mapItems c i n.block (fun it => if it.lo = n.lo ∧ it.hi = n.hi then f it else it) := rfl

theorem updItem_spec (s : Sw) (c i : Nat) (n : NodeId) (f : Item → Item) : ∃ g : Anv → Anv, s.updItem c i n f = s.updAnv g :=
  updSlot_spec ..

theorem ctx_of_nodeAt {s : Sw} {c i : Nat} {n : NodeId} {it : Item} (h : s.nodeAt c i n = some it) :
    ∃ x, s.anv.ctx.get? c = some x := by
  cases hx : s.anv.ctx.get? c with
  | some x => exact ⟨x, rfl⟩
  | none => simp [Sw.nodeAt, Sw.slot, hx] at h

/-- A held value has the node's ranks. -/
theorem lo_hi_of_nodeAt {s : Sw} {c i : Nat} {n : NodeId} {it : Item} (h : s.nodeAt c i n = some it) :
    it.lo = n.lo ∧ it.hi = n.hi := by
  obtain ⟨b, _, hb⟩ := Option.bind_eq_some_iff.mp h
  simpa using List.find?_some hb

/-- A change that keeps the ranks is seen at the node. -/
theorem nodeAt_mapItems {s : Sw} {c i : Nat} {n : NodeId} {it : Item} (h : s.nodeAt c i n = some it) (g : Item → Item)
    (hg : ∀ x, (g x).lo = x.lo ∧ (g x).hi = x.hi) : (s.mapItems c i n.block g).nodeAt c i n = some (g it) := by
  obtain ⟨x, hx⟩ := ctx_of_nodeAt h
  obtain ⟨b, hb, hit⟩ := Option.bind_eq_some_iff.mp h
  have hnum : b.num = n.block := by simpa using List.find?_some hb
  have hblk : ∀ k : Blk, (if k.num = n.block then { k with items := k.items.map g } else k).num = k.num := fun k => by
    split <;> rfl
  simp only [Sw.nodeAt, Sw.mapItems, slot_updSlot hx, List.find?_map, Function.comp_def, hblk, hb, Option.map_some,
    Option.bind_some, hnum, if_true, hg, hit]

/-- The node's value changed by `f` reads as changed. -/
theorem nodeAt_updItem {s : Sw} {c i : Nat} {n : NodeId} {it : Item} (h : s.nodeAt c i n = some it) (f : Item → Item)
    (hf : ∀ x, (f x).lo = x.lo ∧ (f x).hi = x.hi) : (s.updItem c i n f).nodeAt c i n = some (f it) := by
  rw [updItem_eq_mapItems, nodeAt_mapItems h, if_pos (lo_hi_of_nodeAt h)]
  intro x
  split
  · exact hf x
  · exact ⟨rfl, rfl⟩

theorem nodeAt_of_anv {s t : Sw} (h : t.anv = s.anv) (c i : Nat) (n : NodeId) : t.nodeAt c i n = s.nodeAt c i n := by
  rw [Sw.nodeAt, Sw.slot, h]; rfl

/-! ### Reading lines (08 R314 to R316) -/

/-- A loop changes nothing that none of its rounds changes. -/
theorem foldl_keeps {α β γ : Type} (g : β → γ) (f : β → α → β) (l : List α) (b : β) (h : ∀ b a, g (f b a) = g b) :
    g (l.foldl f b) = g b :=
  List.foldlRecOn (motive := fun x => g x = g b) _ _ rfl (fun x hx a _ => (h x a).trans hx)

/-- A chunk touched is noted as clear, and nothing else changes (08 R350). -/
theorem touchHbm_frame (s : Sw) (off : Nat) : s.touchHbm off = { s with clr := (s.touchHbm off).clr } := by
  unfold Sw.touchHbm
  split <;> rfl

/-- What a read of memory lines leaves alone: the collective machinery, and time. -/
def Sw.anvNow (s : Sw) : Anv × Nat := (s.anv, s.now)

@[simp] theorem anvNow_touchHbm (s : Sw) (off : Nat) : (s.touchHbm off).anvNow = s.anvNow := by
  rw [touchHbm_frame]; rfl

@[simp] theorem anvNow_uncorr (s : Sw) (off reader : Nat) : (s.uncorr off reader).anvNow = s.anvNow := rfl
@[simp] theorem anvNow_corrected (s : Sw) (off reader : Nat) : (s.corrected off reader).anvNow = s.anvNow := rfl

theorem anvNow_hbmWr_if (s : Sw) (p : Prop) [Decidable p] (off : Nat) (bs : Bytes) :
    (if p then s else s.hbmWr off bs).anvNow = s.anvNow := by
  split <;> rfl

theorem anvNow_lineFetch (s : Sw) (a reader : Nat) (es : LineErr) : (s.lineFetch a reader es).2.anvNow = s.anvNow := by
  unfold Sw.lineFetch
  split
  · rfl
  · dsimp only
    split
    · exact (anvNow_uncorr ..).trans (anvNow_touchHbm ..)
    · split
      · exact (anvNow_hbmWr_if ..).trans (anvNow_touchHbm ..)
      · exact (anvNow_corrected ..).trans ((anvNow_hbmWr_if ..).trans (anvNow_touchHbm ..))
      · exact (anvNow_uncorr ..).trans (anvNow_touchHbm ..)

theorem anvNow_readLines (s : Sw) (a n reader : Nat) : (s.readLines a n reader).2.anvNow = s.anvNow := by
  unfold Sw.readLines
  split
  · rfl
  · dsimp only
    rw [foldl_keeps Sw.anvNow _ _ _ fun _ _ => anvNow_uncorr .., forN_keeps Sw.anvNow _ _ _ fun _ _ => anvNow_touchHbm ..]

/-! ### Writing whole lines (08 R313) -/

theorem memWrs_append (m : List Host.Cell) (a : Nat) (xs ys : Bytes) :
    memWrs m a (xs ++ ys) = memWrs (memWrs m a xs) (a + xs.length) ys := by
  induction xs generalizing m a with
  | nil => rfl
  | cons b xs ih => rw [List.cons_append, memWrs, memWrs, ih, List.length_cons, Nat.add_assoc, Nat.add_comm 1]

/-- `t` is `s` with bytes written at `a`; but for them, only the bad lines known and the chunks clearing may differ. -/
def Sw.Wrote (s : Sw) (a : Nat) (bs : Bytes) (t : Sw) : Prop :=
  ∃ bad clr, t = { s with hbm := memWrs s.hbm a bs, hbmBad := bad, clr := clr }

theorem Sw.Wrote.append {s t u : Sw} {a : Nat} {xs ys : Bytes} (h : s.Wrote a xs t) (k : t.Wrote (a + xs.length) ys u) :
    s.Wrote a (xs ++ ys) u := by
  obtain ⟨_, _, rfl⟩ := h
  obtain ⟨bad, clr, rfl⟩ := k
  exact ⟨bad, clr, by rw [memWrs_append]⟩

/-- Which stacks are in reset is not changed by writing. -/
theorem Sw.Wrote.lineReset {s t : Sw} {a : Nat} {bs : Bytes} (h : s.Wrote a bs t) (off : Nat) : t.lineReset off = s.lineReset off := by
  obtain ⟨_, _, rfl⟩ := h
  rfl

/-- A whole line whose stack is not in reset is written without a read. -/
theorem writeLine_whole (s : Sw) (a : Nat) (bs : Bytes) (reader : Nat) (hr : s.lineReset a = false) (ha : a % 64 = 0)
    (hl : bs.length = 64) : s.Wrote a bs (s.writeLine a bs reader).2 := by
  rw [Sw.writeLine, hr, if_neg (by decide), if_pos ⟨ha, hl⟩, touchHbm_frame]
  exact ⟨_, _, rfl⟩

theorem writeLinesN_whole (n u : Nat) (s : Sw) (a : Nat) (bs : Bytes) (reader : Nat) (ha : a % 64 = 0) (hl : bs.length = 64 * u)
    (hn : u ≤ n) (hr : ∀ k, k < u → s.lineReset (a + 64 * k) = false) : s.Wrote a bs (Sw.writeLinesN n s a bs reader).2 := by
  induction u generalizing n s a bs with
  | zero =>
    obtain rfl : bs = [] := List.length_eq_zero_iff.mp hl
    cases n <;> exact ⟨_, _, rfl⟩
  | succ u ih =>
    obtain ⟨n, rfl⟩ : ∃ m, n = m + 1 := ⟨n - 1, by omega⟩
    have hne : bs.isEmpty = false := by
      rw [List.isEmpty_eq_false_iff, ← List.length_pos_iff]
      omega
    have ht : (bs.take 64).length = 64 := by rw [List.length_take]; omega
    have hw := writeLine_whole s a (bs.take 64) reader (hr 0 (Nat.succ_pos u)) ha ht
    have hrest := ih n (s.writeLine a (bs.take 64) reader).2 (a + (bs.take 64).length) (bs.drop 64) (by omega) (by rw [List.length_drop]; omega)
      (by omega) (fun k hk => by
        rw [hw.lineReset, ht, show a + 64 + 64 * k = a + 64 * (k + 1) by omega]
        exact hr _ (by omega))
    have h := hw.append hrest
    rw [List.take_append_drop, ht] at h
    rw [Sw.writeLinesN, hne, if_neg (by decide), ha]
    exact h

theorem lineReset_of_linesReset {s : Sw} {a u : Nat} (h : s.linesReset a u = false) (k : Nat) (hk : k < u) :
    s.lineReset (a + 64 * k) = false := by
  simpa using List.any_eq_false.mp h k (List.mem_range.mpr hk)

/-- Bytes filled up to whole lines. -/
theorem writeLines_padded (s : Sw) (a : Nat) (bs : Bytes) (reader : Nat) (ha : a % 64 = 0)
    (hr : s.linesReset a (cdiv bs.length 64) = false) :
    s.Wrote a (bs ++ zeros (pad64 bs.length - bs.length)) (s.writeLines a (bs ++ zeros (pad64 bs.length - bs.length)) reader).2 := by
  have hl : (bs ++ zeros (pad64 bs.length - bs.length)).length = 64 * cdiv bs.length 64 := by
    rw [List.length_append, zeros, List.length_replicate, pad64, cdiv]
    omega
  exact writeLinesN_whole _ _ _ _ _ _ ha hl (by rw [hl]; omega) (lineReset_of_linesReset hr)

/-- The bytes stand where they were written. -/
theorem Sw.Wrote.memRd {s t : Sw} {a : Nat} {bs ys : Bytes} (h : s.Wrote a (bs ++ ys) t) (k : Nat) (hk : k < bs.length) :
    memRd t.hbm (a + k) = bs.getD k 0 := by
  obtain ⟨_, _, rfl⟩ := h
  rw [memRd_memWrs_in _ _ _ _ (by rw [List.length_append]; omega), List.getD_eq_getElem?_getD, List.getElem?_append_left hk,
    ← List.getD_eq_getElem?_getD]

/-- A slot of the spill area starts at a whole line (08 R310). -/
theorem spillSlot_aligned {s : Sw} {d a : Nat} (h : s.spillSlot d = some a) : a % 64 = 0 := by
  obtain ⟨i, _, rfl⟩ := Option.map_eq_some_iff.mp h
  have hd : s.dieRegion % 64 = 0 := by
    unfold Sw.dieRegion
    split <;> rfl
  simp only [Sw.sysBase, gib]
  have := Nat.mul_mod d s.dieRegion 64
  simp only [hd, Nat.mul_zero, Nat.zero_mod] at this
  omega

end Sys2Proof.Machine
end

section
/-! SUPPORT. The timers of the collective machinery (07 R285, R291, R293, 10 R422, R435, R436), with the theorem that settles
O31. -/

namespace Sys2Proof.Machine

/-! ### The end of a linger time (07 R285, 10 R419) -/

/-- The `cseq`s that a context has closed. -/
def Ctx.closedSeqs (x : Ctx) : List Nat :=
  [x.slot0, x.slot1].filterMap (fun y => if y.st = .closed then some y.cseq else none)

/-- A closed `cseq` reaches the entry of its group, unless a later one stands there. -/
def Sw.handOver (s : Sw) (g q : Nat) : Sw :=
  if s.anv.closed.contains g ∧ !later32 (s.rd L.collClosed g) q then s
  else (s.wr L.collClosed g q).updAnv (fun a => { a with closed := if a.closed.contains g then a.closed else a.closed ++ [g] })

/-- What a context that returns to the free supply leaves. -/
def Sw.ctxFreed (s : Sw) (c : Nat) (x : Ctx) : Sw :=
  (x.closedSeqs.foldl (fun s q => s.handOver x.group q) s).updAnv (fun a => { a with ctx := AMap.del a.ctx c })

theorem freeCtx_eq {s : Sw} {c : Nat} {x : Ctx} (h : s.anv.ctx.get? c = some x) : s.freeCtx c = (s.ctxFreed c x).admitScan := by
  rw [Sw.freeCtx, h]; rfl

theorem handOver_frame (s : Sw) (g q : Nat) : s.handOver g q =
    { s with lex := (s.handOver g q).lex, anv := { s.anv with closed := (s.handOver g q).anv.closed } } := by
  unfold Sw.handOver
  split <;> rfl

theorem handOvers_frame (s : Sw) (g : Nat) (qs : List Nat) : ∃ lex closed,
    qs.foldl (fun s q => s.handOver g q) s = { s with lex := lex, anv := { s.anv with closed := closed } } := by
  induction qs generalizing s with
  | nil => exact ⟨_, _, rfl⟩
  | cons q qs ih =>
    obtain ⟨l, k, h⟩ := ih (s.handOver g q)
    exact ⟨l, k, by rw [List.foldl_cons, h, handOver_frame]⟩

theorem ctxFreed_frame (s : Sw) (c : Nat) (x : Ctx) : ∃ lex closed,
    s.ctxFreed c x = { s with lex := lex, anv := { s.anv with ctx := AMap.del s.anv.ctx c, closed := closed } } := by
  obtain ⟨l, k, h⟩ := handOvers_frame s x.group x.closedSeqs
  exact ⟨l, k, by rw [Sw.ctxFreed, h]; rfl⟩

/-- The one `cseq` closed reaches the entry of a group that had none. -/
theorem ctxFreed_closed (s : Sw) (c : Nat) (x : Ctx) (h0 : x.slot0.st = .closed) (h1 : x.slot1.st ≠ .closed)
    (hc : s.anv.closed.contains x.group = false) :
    (s.ctxFreed c x).rd L.collClosed x.group = x.slot0.cseq % 2 ^ 32 ∧ x.group ∈ (s.ctxFreed c x).anv.closed := by
  have hq : x.closedSeqs = [x.slot0.cseq] := by simp [Ctx.closedSeqs, h0, h1]
  have hh : s.handOver x.group x.slot0.cseq = (s.wr L.collClosed x.group x.slot0.cseq).updAnv
      (fun a => { a with closed := if a.closed.contains x.group then a.closed else a.closed ++ [x.group] }) :=
    if_neg (by rw [hc]; simp)
  rw [Sw.ctxFreed, hq, List.foldl_cons, List.foldl_nil, hh]
  refine ⟨Sw.rd_wr_self .., ?_⟩
  change x.group ∈ (if s.anv.closed.contains x.group then s.anv.closed else s.anv.closed ++ [x.group])
  rw [hc]
  exact List.mem_append_right _ List.mem_cons_self

/-! ### Held values (07 R291, R293) -/

/-- A held value written to the spill area: its bytes stand at `a`, and its block knows. -/
def Sw.spilled (s : Sw) (c i b : Nat) (it : Item) (a : Nat) (bs : Bytes) : Sw :=
  ((s.writeLines a (bs ++ zeros (pad64 bs.length - bs.length)) rdAnvil).2.mapItems c i b (fun x =>
    if x.lo = it.lo then { x with vals := none, spill := some a, due := none, bil := [] } else x)).inc (L.anvilSpills.at (c / 1024))

theorem spillItem_full {s : Sw} {c : Nat} (h : s.spillSlot (c / 1024) = none) (i b : Nat) (it : Item) : s.spillItem c i b it = s := by
  simp only [Sw.spillItem, h]

section
variable {s : Sw} {c i a w : Nat} {it : Item} {vs : List Nat} {bs : Bytes} (b : Nat) (ha : s.spillSlot (c / 1024) = some a)
  (hw : (s.slot c i).word = some w) (hv : it.vals = some vs)
  (hb : bs = vs.flatMap (fun v => leBytes (spillWidth (w % 2 ^ 128)) (spillEnc (w % 2 ^ 128) v)))
include ha hw hv hb

/-- Its stack in reset, a value cannot be written and its slot aborts (14 R586). -/
theorem spillItem_reset (hr : s.linesReset a (cdiv bs.length 64) = true) : s.spillItem c i b it = s.abortHere c i 5 := by
  subst hb
  simp only [Sw.spillItem, ha, hw, hv, hr, if_true]

theorem spillItem_written (hr : s.linesReset a (cdiv bs.length 64) = false) :
    s.spillItem c i b it = ((s.spilled c i b it a bs).releaseAll it.bil).bilRetry := by
  subst hb
  simp only [Sw.spillItem, ha, hw, hv, hr, Bool.false_eq_true, if_false]
  rfl
end

section
variable {s : Sw} {a : Nat} {bs : Bytes} (ha : a % 64 = 0) (hr : s.linesReset a (cdiv bs.length 64) = false)
include ha hr

theorem spilled_nodeAt {c i : Nat} {n : NodeId} {it : Item} (h : s.nodeAt c i n = some it) :
    (s.spilled c i n.block it a bs).nodeAt c i n = some { it with vals := none, spill := some a, due := none, bil := [] } := by
  obtain ⟨_, _, hw⟩ := writeLines_padded s a bs rdAnvil ha hr
  have h' : (s.writeLines a (bs ++ zeros (pad64 bs.length - bs.length)) rdAnvil).2.nodeAt c i n = some it :=
    (nodeAt_of_anv (by rw [hw]) c i n).trans h
  refine (nodeAt_mapItems h' _ fun x => ?_).trans (congrArg some (if_pos rfl))
  split <;> exact ⟨rfl, rfl⟩

/-- The bytes stand in the spill area, time has not moved and the spill is counted. -/
theorem spilled_spec (c i b : Nat) (it : Item) :
    (∀ k, k < bs.length → memRd (s.spilled c i b it a bs).hbm (a + k) = bs.getD k 0) ∧ (s.spilled c i b it a bs).now = s.now ∧
      (s.spilled c i b it a bs).rd (L.anvilSpills.at (c / 1024)) =
        (s.rd (L.anvilSpills.at (c / 1024)) + 1) % 256 ^ L.anvilSpills.width := by
  have hw := writeLines_padded s a bs rdAnvil ha hr
  obtain ⟨f, hf⟩ := updSlot_spec (s.writeLines a (bs ++ zeros (pad64 bs.length - bs.length)) rdAnvil).2 c i _
  rw [Sw.spilled, Sw.mapItems, hf]
  refine ⟨hw.memRd, ?_⟩
  obtain ⟨_, _, hw⟩ := hw
  rw [hw]
  exact ⟨rfl, Sw.rd_wr_self ..⟩
end

/-- A value read back to the state that reading its lines leaves, stands at its node as of now. -/
theorem nodeAt_readBack {s w : Sw} (h : w.anvNow = s.anvNow) {c i : Nat} {n : NodeId} {it : Item} (hn : s.nodeAt c i n = some it)
    (vs : List Nat) : (w.updItem c i n (fun x => { x with vals := some vs, spill := none, since := w.now })).nodeAt c i n =
      some { it with vals := some vs, spill := none, since := s.now } := by
  obtain ⟨hanv, hnow⟩ := Prod.mk.inj h
  exact hnow ▸ nodeAt_updItem ((nodeAt_of_anv hanv ..).trans hn) _ fun _ => ⟨rfl, rfl⟩

/-! ### The commands -/

section
variable (s : State)

theorem execAnvilLingerExpire_does (c : CtxId) (x : Ctx) (t : Nat) (h : s.sw.anv.ctx.get? c = some x) (hl : x.linger = some t) :
    Does (.anvilLingerExpire c) s ((s.sw.reach t).ctxFreed c x).admitScan := by
  change execAnvilLingerExpire c s = _
  have hf : (s.sw.reach t).freeCtx c = _ := freeCtx_eq h
  simp only [execAnvilLingerExpire, h, Option.bind_some, hl, hf]
  rfl

theorem execAnvilSpillTimeout_does (c : CtxId) (i : Fin 2) (n : NodeId) (it : Item) (t : Nat) (h : s.sw.nodeAt c i n = some it)
    (hd : it.due = some t) : Does (.anvilSpillTimeout c i n) s
      (((s.sw.reach t).updItem c i n (fun x => { x with due := none })).spillItem c i n.block { it with due := none }).admitScan := by
  change execAnvilSpillTimeout c i n s = _
  simp only [execAnvilSpillTimeout, h, hd]
  rfl

theorem execSpillReadbackComplete_early (c : CtxId) (i : Fin 2) (n : NodeId) (errs : LineErr) (h : s.sw.readsBack c i n = false) :
    exec (.spillReadbackComplete c i n errs) s = .next s := by
  change execSpillReadbackComplete c i n errs s = _
  simp only [execSpillReadbackComplete, h, Bool.not_false, if_true]
  split
  · split <;> rfl
  · rfl

section
variable {s} {c : CtxId} {i : Fin 2} {n : NodeId} (errs : LineErr) {it : Item} {a word : Nat} (hd : s.sw.readsBack c i n = true)
  (hn : s.sw.nodeAt c i n = some it) (hw : (s.sw.slot c i).word = some word) (ha : it.spill = some a)
include hd hn hw ha

theorem execSpillReadbackComplete_badFirst (hf : (s.sw.lineFetch a rdAnvil errs).1 = none) :
    Does (.spillReadbackComplete c i n errs) s ((s.sw.lineFetch a rdAnvil errs).2.abortHere c i 5).admitScan := by
  change execSpillReadbackComplete c i n errs s = _
  simp only [execSpillReadbackComplete, hn, hw, ha, hd, hf, Option.isNone_none, Bool.not_true, Bool.false_eq_true, if_false, if_true]
  rfl

theorem execSpillReadbackComplete_bad (l : Bytes) (v : Sw) (hf : (s.sw.lineFetch a rdAnvil errs).1 = some l)
    (hr : (s.sw.lineFetch a rdAnvil errs).2.readLines a
      (cdiv (elemsOf (dColl word) (word % 2 ^ 128) n.block * spillWidth (word % 2 ^ 128)) 64) rdAnvil = (none, v)) :
    Does (.spillReadbackComplete c i n errs) s (v.abortHere c i 5).admitScan := by
  change execSpillReadbackComplete c i n errs s = _
  simp only [execSpillReadbackComplete, hn, hw, ha, hd, hf, hr, Option.isNone_some, Bool.not_true, Bool.false_eq_true, if_false]
  rfl

theorem execSpillReadbackComplete_good (l bs : Bytes) (v : Sw) (hf : (s.sw.lineFetch a rdAnvil errs).1 = some l)
    (hr : (s.sw.lineFetch a rdAnvil errs).2.readLines a
      (cdiv (elemsOf (dColl word) (word % 2 ^ 128) n.block * spillWidth (word % 2 ^ 128)) 64) rdAnvil = (some bs, v)) :
    Does (.spillReadbackComplete c i n errs) s ((v.updItem c i n (fun x => { x with
      vals := some ((List.range (elemsOf (dColl word) (word % 2 ^ 128) n.block)).map (fun j => spillDec (word % 2 ^ 128)
        (leNat (slice bs (j * spillWidth (word % 2 ^ 128)) (spillWidth (word % 2 ^ 128))))))
      spill := none, since := v.now })).formAt c i n.block) := by
  change execSpillReadbackComplete c i n errs s = _
  simp only [execSpillReadbackComplete, hn, hw, ha, hd, hf, hr, Option.isNone_some, Bool.not_true, Bool.false_eq_true, if_false]
  rfl
end

/-- What the report of a packet that waits too long changes: time, that it has no more of it, the count and the faults due (R422). -/
def Sw.starvedAdm (w : Sw) (d : Die) (e : Adm) (t u g q : Nat) : Sw :=
  (((w.reach t).updAnv (fun a => { a with admq := a.admq.map (fun x => if x = e then { x with due := none } else x) })).inc
    (L.collStarved.at d)).fault 0x28 (8 + d) (some u) (detC g q) (auxC 0xFFFF 0 0)

theorem execContextStarvationTimeout_does (d : Die) (n : Nat) (e : Adm) (t : Nat)
    (h : (s.sw.anv.admq.filter (fun e => e.die == d.val))[n]? = some e) (hd : e.due = some t) :
    Does (.contextStarvationTimeout d n) s (s.sw.starvedAdm d e t (if e.ctl then cTen e.pkt.hdr else hTen e.pkt.hdr)
      (if e.ctl then (if pKind e.pkt.hdr = 5 then wGroup e.pkt.hdr else oGroup e.pkt.hdr) else kGroup e.pkt.hdr)
      (if e.ctl then (if pKind e.pkt.hdr = 5 then wCseq e.pkt.hdr else oCseq e.pkt.hdr) else kCseq e.pkt.hdr)) := by
  change execContextStarvationTimeout d n s = _
  simp only [execContextStarvationTimeout, h, hd]
  split
  · split <;> rfl
  · rfl

section
variable {s} {c : CtxId} {i : Fin 2} {x : Ctx} {t : Nat} (h : s.sw.anv.ctx.get? c = some x) (hs : (s.sw.slot c i).stallAt = some t)
include h hs

theorem execCollectiveStallTimeout_of_not_gathering (hg : (s.sw.slot c i).st ≠ .gathering) :
    exec (.collectiveStallTimeout c i) s = .next s := by
  change execCollectiveStallTimeout c i s = _
  simp only [execCollectiveStallTimeout, h, hs]
  exact if_pos hg

/-- The fault names the first missing member and their number (R435). -/
theorem execCollectiveStallTimeout_does (hg : (s.sw.slot c i).st = .gathering) (ms : List Member)
    (hm : ms = (s.sw.groupMembers (s.sw.group x.group)).filter (s.sw.missing c (s.sw.slot c i))) :
    Does (.collectiveStallTimeout c i) s (((s.sw.reach t).updSlot c i (fun y => { y with stallAt := none })).fault 0x29
      (8 + c.val / 1024) (some x.ten) (detC x.group (s.sw.slot c i).cseq) (auxC (((ms.head?).map Member.id).getD 0xFFFF) 0 ms.length)) := by
  subst hm
  change execCollectiveStallTimeout c i s = _
  simp only [execCollectiveStallTimeout, h, hs]
  exact if_neg (not_not_intro hg)
end

section
variable {s} {c : CtxId} {i : Fin 2} {b t : Nat} {x : Ctx} (h : s.sw.anv.ctx.get? c = some x)
  (hc : (s.sw.coll x.ten x.group (x.slot i).cseq).commitAt.find? (fun e => e.1 == b) = some (b, t)) (ht : t ≠ 0)
  (hs : (s.sw.coll x.ten x.group (x.slot i).cseq).staged.any (fun z => z.block == b) = false)
include h hc ht hs

theorem execResultStagingTimeout_idle
    (hl : (s.sw.reach t).blockResults (c.val / 1024) x.ten x.group (x.slot i).cseq b (x.slot i) = [] ∨
      (s.sw.reach t).spillSlot (c.val / 1024) = none) : Does (.resultStagingTimeout c i b) s (s.sw.reach t) := by
  change execResultStagingTimeout c i b s = _
  simp only [execResultStagingTimeout, h, hc, ht, hs, Bool.false_eq_true, or_self, if_false]
  split
  · rename_i hp ha
    rcases hl with hl | hl
    · rw [hl] at hp; cases hp
    · rw [hl] at ha; cases ha
  · rfl

section
variable {a : Nat} (hl : (s.sw.reach t).blockResults (c.val / 1024) x.ten x.group (x.slot i).cseq b (x.slot i) ≠ [])
  (ha : (s.sw.reach t).spillSlot (c.val / 1024) = some a)
include hl ha

theorem execResultStagingTimeout_reset (hr : (s.sw.reach t).linesReset a 1024 = true) :
    Does (.resultStagingTimeout c i b) s ((s.sw.reach t).abortHere c (x.slot i).cseq 5).admitScan := by
  change execResultStagingTimeout c i b s = _
  obtain ⟨p, ps, hp⟩ := List.exists_cons_of_ne_nil hl
  simp only [execResultStagingTimeout, h, hc, ht, hs, hp, ha, hr, Bool.false_eq_true, or_self, if_false, if_true]
  rfl

theorem execResultStagingTimeout_moves (hr : (s.sw.reach t).linesReset a 1024 = false) :
    Does (.resultStagingTimeout c i b) s ((Sw.stageParts 16 (s.sw.reach t) a
      ((s.sw.reach t).blockResults (c.val / 1024) x.ten x.group (x.slot i).cseq b (x.slot i))).updColl x.ten x.group (x.slot i).cseq
        (fun r => { r with staged := r.staged ++ [⟨c.val / 1024, b, a⟩] })) := by
  change execResultStagingTimeout c i b s = _
  obtain ⟨p, ps, hp⟩ := List.exists_cons_of_ne_nil hl
  simp only [execResultStagingTimeout, h, hc, ht, hs, hp, ha, hr, Bool.false_eq_true, or_self, if_false]
  rfl
end
end
end

end Sys2Proof.Machine

open Sys2Proof Sys2Proof.Machine

/-- Settles O31: each timer's command has its effect, whose reads are those of a context freed (`ctxFreed_frame`), a value spilled
(`spilled_spec`), one read back (`nodeAt_readBack`), a packet reported and a slot changed. -/
theorem collectiveTimers : Obligations.CollectiveTimers := by
  intro s
  refine ⟨?_, ?_, fun c i n errs => execSpillReadbackComplete_early s c i n errs, ?_, ?_, ?_, ?_⟩
  · intro c x t hx hl
    obtain ⟨lex, closed, hw⟩ := ctxFreed_frame (s.sw.reach t) c x
    refine ⟨_, execAnvilLingerExpire_does s c x t hx hl, ?_, ?_, fun k hk => ?_,
      ctxFreed_closed (s.sw.reach t) c x, ?_⟩
    · rw [hw]; exact AMap.get?_del_self ..
    · rw [hw]; rfl
    · rw [hw]; exact AMap.get?_del_ne _ _ _ hk.symm
    · rw [hw]; rfl
  · rintro c i n it t u hn hd rfl
    have hdo := execAnvilSpillTimeout_does s c i n it t hn hd
    have hn' := nodeAt_updItem (s := s.sw.reach t) hn (fun x => { x with due := none }) fun _ => ⟨rfl, rfl⟩
    refine ⟨fun ha => ?_, fun a word vs bs ha hw hv hb => ⟨fun hr => ?_, fun hr => ?_⟩⟩
    · rwa [spillItem_full ha] at hdo
    · rwa [spillItem_reset (it := { it with due := none }) _ ha hw hv hb hr] at hdo
    · rw [spillItem_written (it := { it with due := none }) _ ha hw hv hb hr] at hdo
      have hal := spillSlot_aligned ha
      obtain ⟨hmem, hnow, hcount⟩ := spilled_spec hal hr c i n.block { it with due := none }
      obtain ⟨f, hf⟩ := updItem_spec (s.sw.reach t) c i n (fun x => { x with due := none })
      exact ⟨_, hdo, spilled_nodeAt hal hr hn', hmem, hnow.trans (by rw [hf]; rfl), hcount.trans (by rw [hf]; rfl)⟩
  · rintro c i n errs it a word op len f hd hn hw ha rfl rfl rfl
    refine ⟨execSpillReadbackComplete_badFirst errs hd hn hw ha, fun l bs v hf =>
      ⟨execSpillReadbackComplete_bad errs hd hn hw ha l v hf, fun hr => ?_⟩⟩
    have hv : v.anvNow = s.sw.anvNow :=
      ((congrArg (fun r => r.2.anvNow) hr).symm.trans (anvNow_readLines ..)).trans (anvNow_lineFetch ..)
    exact ⟨_, execSpillReadbackComplete_good errs hd hn hw ha l bs v hf hr, nodeAt_readBack hv hn _⟩
  · rintro d n e t g q u he hd rfl rfl rfl
    exact ⟨_, execContextStarvationTimeout_does s d n e t he hd, rfl, Sw.rd_wr_self .., rfl, rfl⟩
  · intro c i x t hx hs
    refine ⟨execCollectiveStallTimeout_of_not_gathering hx hs, fun hg ms hm => ?_⟩
    obtain ⟨f, hf⟩ := updSlot_spec (s.sw.reach t) c i (fun y => { y with stallAt := none })
    exact ⟨_, execCollectiveStallTimeout_does hx hs hg ms hm, by rw [hf]; rfl, by rw [hf]; rfl,
      slot_updSlot (s := s.sw.reach t) hx i _⟩
  · rintro c i b t x q u l hx rfl hc ht hs rfl rfl
    exact ⟨execResultStagingTimeout_idle hx hc ht hs, fun a hl ha =>
      ⟨execResultStagingTimeout_reset hx hc ht hs hl ha, execResultStagingTimeout_moves hx hc ht hs hl ha⟩⟩
end

section
/-! SUPPORT. Lines of HBM as a line port reads and writes them (08 R309, R313 to R316, R321): the bytes of a line, what its decoder
gives, what is written back. -/

namespace Sys2Proof.Machine

/-- Dropping a key that a table does not have leaves the table. -/
theorem AMap.del_of_get?_none {α : Type} (m : AMap α) (q : Nat) (h : m.get? q = none) : m.del q = m := by
  induction m with
  | nil => rfl
  | cons kv m ih =>
    obtain ⟨k, v⟩ := kv
    simp only [AMap.get?] at h
    split at h
    · cases h
    · rename_i hk
      simp only [AMap.del, if_neg hk, ih h]

/-! ### Bytes laid over a line (08 R321) -/

@[simp] theorem overlay_length (base : Bytes) (o : Nat) (bs : Bytes) (h : o + bs.length ≤ base.length) :
    (overlay base o bs).length = base.length := by
  simp only [overlay, List.length_take, List.length_append, List.length_drop]
  omega

theorem getD_overlay (base : Bytes) (o : Nat) (bs : Bytes) (h : o + bs.length ≤ base.length) (i : Nat) :
    (overlay base o bs).getD i 0 = if o ≤ i ∧ i < o + bs.length then bs.getD (i - o) 0 else base.getD i 0 := by
  have ho : (base.take o).length = o := by rw [List.length_take]; omega
  have hx : overlay base o bs = base.take o ++ bs ++ base.drop (o + bs.length) := by
    refine List.take_of_length_le ?_
    simp only [List.length_append, List.length_take, List.length_drop]
    omega
  simp only [hx, List.getD_eq_getElem?_getD, List.append_assoc]
  by_cases h1 : i < o
  · rw [List.getElem?_append_left (by omega), List.getElem?_take_of_lt h1, if_neg (by omega)]
  · rw [List.getElem?_append_right (by omega), ho]
    by_cases h2 : i < o + bs.length
    · rw [List.getElem?_append_left (by omega), if_pos (by omega)]
    · rw [List.getElem?_append_right (by omega), List.getElem?_drop, if_neg (by omega)]
      congr 2
      omega

/-- A byte after a byte string was written. -/
theorem memRd_memWrs (m : List Host.Cell) (a x : Nat) (bs : Bytes) :
    memRd (memWrs m a bs) x = if a ≤ x ∧ x < a + bs.length then bs.getD (x - a) 0 else memRd m x := by
  by_cases h : a ≤ x ∧ x < a + bs.length
  · rw [if_pos h, ← memRd_memWrs_in m a (x - a) bs (by omega), Nat.add_sub_cancel' h.1]
  · rw [if_neg h, memRd_memWrs_out _ _ _ _ (by omega)]

@[simp] theorem memRds_length (m : List Host.Cell) (a n : Nat) : (memRds m a n).length = n := by simp [memRds]

theorem getD_memRds (m : List Host.Cell) (a n i : Nat) (h : i < n) : (memRds m a n).getD i 0 = memRd m (a + i) := by
  simp [memRds, List.getD_eq_getElem?_getD, h]

@[simp] theorem slice_length (bs : Bytes) (o n : Nat) : (slice bs o n).length = n := by
  simp only [slice, zeros, List.length_append, List.length_take, List.length_drop, List.length_replicate]
  omega

theorem slice_whole (bs : Bytes) (n : Nat) (h : bs.length = n) : slice bs 0 n = bs := by simp [slice, zeros, ← h]

/-! ### Lines (08 R308, R309) -/

/-- A line lies in one channel of one stack. -/
theorem hbmStack_line (s : Sw) (o : Nat) : s.hbmStack (64 * (o / 64)) = s.hbmStack o := by
  have hd : s.dieRegion = 64 * 1610612736 ∨ s.dieRegion = 64 * 2415919104 := by
    unfold Sw.dieRegion gib
    split
    · exact .inl rfl
    · exact .inr rfl
  have hdie : 64 * (o / 64) / s.dieRegion = o / s.dieRegion := by rcases hd with hd | hd <;> rw [hd] <;> omega
  have hmod : 64 * (o / 64) % s.dieRegion = 64 * (o % s.dieRegion / 64) := by rcases hd with hd | hd <;> rw [hd] <;> omega
  have hlt : 64 * (o % s.dieRegion / 64) < 96 * gib ↔ o % s.dieRegion < 96 * gib := by unfold gib; omega
  have hlow : 64 * (o % s.dieRegion / 64) / 256 = o % s.dieRegion / 256 := by omega
  have hhigh : (64 * (o % s.dieRegion / 64) - 96 * gib) / 256 = (o % s.dieRegion - 96 * gib) / 256 := by unfold gib; omega
  simp only [Sw.hbmStack, Sw.hbmDie, hdie, hmod, hlt, hlow, hhigh]

/-- Outside the free rings and the flow records a line holds the bytes of HBM (log 126). -/
theorem lineBytes_plain (s : Sw) (b : Nat) (h : 544 * 2 ^ 20 ≤ b % s.dieRegion) : s.lineBytes b = memRds s.hbm b 64 :=
  if_neg (Nat.not_lt.mpr h)

@[simp] theorem lineBytes_length (s : Sw) (b : Nat) : (s.lineBytes b).length = 64 := by
  unfold Sw.lineBytes
  split
  · simp
  · exact memRds_length ..

theorem lineBytes_touchHbm (s : Sw) (off b : Nat) : (s.touchHbm off).lineBytes b = s.lineBytes b := by
  rw [touchHbm_frame]; rfl

/-! ### The decoder (08 R314) -/

@[simp] theorem addErrs_length (w : List Nat) (es : LineErr) : (addErrs w es).length = w.length :=
  foldl_keeps List.length _ _ _ fun _ _ => List.length_set ..

@[simp] theorem lineCodeword_length (bs : Bytes) : (lineCodeword bs).length = 68 := by simp [lineCodeword, lineMessage, lineCheck]

/-- A corrected line has 64 bytes. -/
theorem length_of_lineRead_corrected {old bs : Bytes} {es : LineErr} (h : lineRead old es = .corrected bs) : bs.length = 64 := by
  unfold lineRead lineDecode at h
  dsimp only at h
  split at h
  · cases h
  · split at h
    · cases h
    · split at h
      · cases h
        simp [lineData]
      · cases h

/-! ### Reading a line (08 R314 to R316) -/

section
variable {s : Sw} {b : Nat} {es : LineErr} (reader : Nat) (hr : s.lineReset b = false)
include hr

theorem lineFetch_clean (hb : s.lineBad (b / 64) = false) (hc : lineRead (s.lineBytes b) es = .clean (s.lineBytes b)) :
    s.lineFetch b reader es = (some (s.lineBytes b), s.touchHbm b) := by
  have hb' : (s.touchHbm b).lineBad (b / 64) = false := by rw [touchHbm_frame]; exact hb
  simp [Sw.lineFetch, hr, hb', lineBytes_touchHbm, hc]

theorem lineFetch_corrected {bs : Bytes} (hb : s.lineBad (b / 64) = false) (hc : lineRead (s.lineBytes b) es = .corrected bs) :
    s.lineFetch b reader es =
      (some bs, (if bs = s.lineBytes b then s.touchHbm b else (s.touchHbm b).hbmWr b bs).corrected b reader) := by
  have hb' : (s.touchHbm b).lineBad (b / 64) = false := by rw [touchHbm_frame]; exact hb
  simp [Sw.lineFetch, hr, hb', lineBytes_touchHbm, hc]

/-- An uncorrectable line is not read, and is known as such. -/
theorem lineFetch_bad (hb : s.lineBad (b / 64) = true ∨ lineRead (s.lineBytes b) es = .bad) :
    ∃ bad, b / 64 ∈ bad ∧ s.lineFetch b reader es = (none, ({ s.touchHbm b with hbmBad := bad } : Sw).uncorr b reader) := by
  have hbad : (s.touchHbm b).hbmBad = s.hbmBad := by rw [touchHbm_frame]
  by_cases hk : s.lineBad (b / 64) = true
  · have hk' : (s.touchHbm b).lineBad (b / 64) = true := by rw [touchHbm_frame]; exact hk
    have hf : s.lineFetch b reader es = (none, (s.touchHbm b).uncorr b reader) := by simp [Sw.lineFetch, hr, hk']
    exact ⟨(s.touchHbm b).hbmBad, hbad ▸ List.contains_iff_mem.mp hk, hf⟩
  · have hk' : (s.touchHbm b).lineBad (b / 64) = false := by rw [touchHbm_frame]; exact eq_false_of_ne_true hk
    exact ⟨_, mem_insertNat .., by simp [Sw.lineFetch, hr, hk', lineBytes_touchHbm, hb.resolve_left hk]; rfl⟩
end

/-! ### One access (08 R313 to R316, R321) -/

/-- Bytes written at `a` show there and nowhere else. -/
theorem memRd_hbmWr (s : Sw) (a : Nat) (bs : Bytes) (x : Nat) :
    memRd (s.hbmWr a bs).hbm x = if a ≤ x ∧ x < a + bs.length then bs.getD (x - a) 0 else memRd s.hbm x := memRd_memWrs ..

/-- A line written with bytes laid over what it held. -/
theorem memRd_hbmWr_overlay (s : Sw) (b o : Nat) (old bs : Bytes) (h : o + bs.length ≤ old.length) (a : Nat) :
    memRd (s.hbmWr b (overlay old o bs)).hbm a = if b + o ≤ a ∧ a < b + o + bs.length then bs.getD (a - (b + o)) 0
      else if b ≤ a ∧ a < b + old.length then old.getD (a - b) 0 else memRd s.hbm a := by
  rw [memRd_hbmWr, overlay_length _ _ _ h, getD_overlay _ _ _ h]
  by_cases hl : b ≤ a ∧ a < b + old.length
  · by_cases hi : b + o ≤ a ∧ a < b + o + bs.length
    · rw [if_pos hl, if_pos hi, if_pos (by omega), Nat.sub_sub]
    · rw [if_pos hl, if_neg hi, if_neg (by omega), if_pos hl]
  · rw [if_neg hl, if_neg (by omega), if_neg hl]

/-- A whole line written afresh is no bad line. -/
theorem not_mem_hbmBad_hbmWr (s : Sw) (l : Nat) (bs : Bytes) (h : bs.length = 64) : l ∉ (s.hbmWr (64 * l) bs).hbmBad := by
  simp [Sw.hbmWr, h]

/-- The effect of a read that corrects a line: the line corrected, counted, a corrected fault raised (08 R315). -/
structure CorrectsLine (s : Sw) (b reader : Nat) (bs : Bytes) (w : Sw) : Prop where
  others : ∀ a, a < b ∨ b + 64 ≤ a → memRd w.hbm a = memRd s.hbm a
  line   : 544 * 2 ^ 20 ≤ b % s.dieRegion → ∀ a, a < 64 → memRd w.hbm (b + a) = bs.getD a 0
  count  : w.rd (L.hbmEccCorr.at (s.hbmStack b).1) =
    (s.rd (L.hbmEccCorr.at (s.hbmStack b).1) + 1) % 256 ^ (L.hbmEccCorr.at (s.hbmStack b).1).width
  raised : w.flt.due = s.flt.due ++ [⟨0x40, 40 + (s.hbmStack b).1, none, BitVec.ofNat 64 (detM 0 (s.hbmStack b).1 (s.hbmStack b).2 b),
    BitVec.ofNat 64 reader⟩]
  frame  : w = { s with hbm := w.hbm, hbmBad := w.hbmBad, clr := w.clr, lex := w.lex, flt := { s.flt with due := w.flt.due } }

/-- Writing a corrected line back: memory may change in the line alone, and only memory, the lines known bad and the chunks cleared do. -/
theorem writeBack_spec (s : Sw) (b : Nat) (bs : Bytes) (hl : bs.length = 64) :
    ∃ m bad clr, (if bs = s.lineBytes b then s.touchHbm b else (s.touchHbm b).hbmWr b bs) =
        { s with hbm := m, hbmBad := bad, clr := clr } ∧
      (∀ a, a < b ∨ b + 64 ≤ a → memRd m a = memRd s.hbm a) ∧
      (544 * 2 ^ 20 ≤ b % s.dieRegion → ∀ a, a < 64 → memRd m (b + a) = bs.getD a 0) := by
  rw [touchHbm_frame]
  split
  · rename_i he
    refine ⟨_, _, _, rfl, fun _ _ => rfl, fun hp a ha => ?_⟩
    rw [he, lineBytes_plain s b hp, getD_memRds _ _ _ _ ha]
  · exact ⟨_, _, _, rfl, fun a ha => memRd_memWrs_out _ _ _ _ (by rwa [hl]), fun _ a ha => memRd_memWrs_in _ _ _ _ (by rwa [hl])⟩

theorem linePort_read_corrected {s : Sw} {o : Nat} {es : LineErr} {bs : Bytes} (reader : Nat) (hr : s.lineReset (64 * (o / 64)) = false)
    (hb : s.lineBad (o / 64) = false) (hc : lineRead (s.lineBytes (64 * (o / 64))) es = .corrected bs) :
    CorrectsLine s (64 * (o / 64)) reader bs (s.linePort o .read es reader) := by
  obtain ⟨m, bad, clr, hw, hout, hin⟩ := writeBack_spec s (64 * (o / 64)) bs (length_of_lineRead_corrected hc)
  have h : s.linePort o .read es reader = ({ s with hbm := m, hbmBad := bad, clr := clr } : Sw).corrected (64 * (o / 64)) reader :=
    (congrArg Prod.snd (lineFetch_corrected reader hr (by rwa [Nat.mul_div_cancel_left _ (by decide)]) hc)).trans
      (congrArg (fun t : Sw => t.corrected (64 * (o / 64)) reader) hw)
  rw [h]
  exact ⟨hout, hin, Sw.rd_wr_self .., rfl, rfl⟩

/-- A whole line is written without a read. -/
theorem linePort_write (s : Sw) (o : Nat) (bs : Bytes) (es : LineErr) (reader : Nat) (hl : bs.length = 64) :
    s.linePort o (.write bs) es reader = (s.touchHbm (64 * (o / 64))).hbmWr (64 * (o / 64)) bs :=
  congrArg (Sw.hbmWr _ _) (slice_whole bs 64 hl)

theorem linePort_merge {s : Sw} {o : Nat} {es : LineErr} (k : Fin 64) (bs : Bytes) (reader : Nat)
    (hr : s.lineReset (64 * (o / 64)) = false) (hb : s.lineBad (o / 64) = false)
    (hc : lineRead (s.lineBytes (64 * (o / 64))) es = .clean (s.lineBytes (64 * (o / 64)))) :
    s.linePort o (.merge k bs) es reader =
      (s.touchHbm (64 * (o / 64))).hbmWr (64 * (o / 64)) (overlay (s.lineBytes (64 * (o / 64))) k bs) := by
  have hf := lineFetch_clean reader hr (by rwa [Nat.mul_div_cancel_left _ (by decide)]) hc
  simp only [Sw.linePort, hf, lineResult]

/-- Nothing is read of an uncorrectable line, and nothing merged into it (08 R316). -/
theorem linePort_bad {s : Sw} {o : Nat} {es : LineErr} (acc : LineAccess) (reader : Nat) (ha : ∀ bs, acc ≠ .write bs)
    (hr : s.lineReset (64 * (o / 64)) = false)
    (hb : s.lineBad (o / 64) = true ∨ lineRead (s.lineBytes (64 * (o / 64))) es = .bad) :
    ∃ bad, o / 64 ∈ bad ∧
      s.linePort o acc es reader = ({ s.touchHbm (64 * (o / 64)) with hbmBad := bad } : Sw).uncorr (64 * (o / 64)) reader := by
  have hq : 64 * (o / 64) / 64 = o / 64 := Nat.mul_div_cancel_left _ (by decide)
  obtain ⟨bad, hm, hf⟩ := lineFetch_bad reader hr (by rwa [hq])
  refine ⟨bad, hq ▸ hm, ?_⟩
  cases acc with
  | write bs => exact absurd rfl (ha bs)
  | read => exact congrArg Prod.snd hf
  | merge k bs => simp only [Sw.linePort, hf]
  | add f el ts => simp only [Sw.linePort, hf]

/-! ### The commands (08 R314, R318, R349) -/

/-- Pass `p` is the one in which line port `u` reads. -/
def Sw.inPass (s : Sw) (u : Nat) (p : Nat × Nat) : Sw := { s with scrub := AMap.set s.scrub u p }

/-- What a patrol read leaves of the switch (08 R318, R351, R352): in a pass the line is read, else none is under way. -/
def Sw.patrolled (s : Sw) (o : Nat) (es : LineErr) : Sw :=
  match s.patrolPass (s.portOfLine o) with
  | none => { s with scrub := AMap.del s.scrub (s.portOfLine o) }
  | some p => (s.inPass (s.portOfLine o) p).linePort o .read es rdPatrol

section
variable {s : State} {o : BitVec 40} (acc : LineAccess) (es : LineErr) (ho : o.toNat < s.sw.hbmSize)
  (hk : s.sw.stackOk (s.sw.hbmStack o.toNat).1 = true) (hr : s.sw.lineReset o.toNat = false)
include ho hk

include hr in
theorem execLinePortAccess_does : Does (.linePortAccess o acc es) s (s.sw.linePort o.toNat acc es rdPacket) := by
  change execLinePortAccess o acc es s = _
  have hr' : s.sw.blkRst.contains (.stack (Fin.ofNat 6 (s.sw.hbmStack o.toNat).1)) = false := hr
  simp only [execLinePortAccess, Nat.not_le.mpr ho, hk, hr', Bool.not_true, Bool.false_eq_true, or_self, if_false]
  rfl

include hr in
theorem execPatrolRead_does (hp : s.sw.parkedNow = false) (hc : s.sw.clearsStack (s.sw.hbmStack o.toNat).1 = false) :
    Does (.patrolRead o es) s (s.sw.patrolled o.toNat es) := by
  change execPatrolRead o es s = _
  have hr' : s.sw.blkRst.contains (.stack (Fin.ofNat 6 (s.sw.hbmStack o.toNat).1)) = false := hr
  simp only [execPatrolRead, Sw.patrolled, Nat.not_le.mpr ho, hk, hr', hp, hc, Bool.not_true, Bool.false_eq_true, or_self, if_false]
  cases s.sw.patrolPass (s.sw.portOfLine o.toNat) <;> rfl

theorem execPatrolRead_none (h : s.sw.parkedNow = true ∨ s.sw.clearsStack (s.sw.hbmStack o.toNat).1 = true) :
    exec (.patrolRead o es) s = .next s := by
  change execPatrolRead o es s = _
  have h' : s.sw.parkedNow = true ∨ s.sw.blkRst.contains (.stack (Fin.ofNat 6 (s.sw.hbmStack o.toNat).1)) = true ∨
    s.sw.clearsStack (s.sw.hbmStack o.toNat).1 = true := h.imp_right .inr
  simp only [execPatrolRead, Nat.not_le.mpr ho, hk, h', Bool.not_true, Bool.false_eq_true, or_self, if_false, if_true]
end

theorem patrolled_running {s : Sw} {o : Nat} {p : Nat × Nat} (es : LineErr) (h : s.scrub.get? (s.portOfLine o) = some p)
    (ht : s.now < p.1 + p.2 * 10 ^ 9) : s.patrolled o es = (s.inPass (s.portOfLine o) p).linePort o .read es rdPatrol := by
  simp only [Sw.patrolled, Sw.patrolPass, h, ht, if_true]

theorem patrolled_off {s : Sw} {o : Nat} (es : LineErr) (h : s.scrub.get? (s.portOfLine o) = none) (hs : s.rd L.hbmScrubS = 0) :
    s.patrolled o es = s := by
  simp only [Sw.patrolled, Sw.patrolPass, h, hs, if_true, AMap.del_of_get?_none _ _ h]

end Sys2Proof.Machine

open Sys2Proof Sys2Proof.Machine

/-- Settles O40: each access is one of `linePort_write`, `linePort_merge`, `linePort_read_corrected` and `linePort_bad`; a patrol read
is a read by its own reader in the pass under way. -/
theorem linePorts : Obligations.LinePorts := by
  rintro s o errs st ch b u old plain rfl rfl rfl hplain rfl rfl ho hk hr hb
  refine ⟨fun bs hl => ?_, fun k bs hl hg hc => ?_, fun bs hg hc => ⟨?_, fun p hs ht hp hcl => ?_⟩, fun acc ha hbad => ?_,
    fun h => ?_, fun hp hcl hs h0 => ?_⟩
  · refine ⟨_, execLinePortAccess_does _ _ ho hk hr, ?_⟩
    rw [linePort_write _ _ _ _ _ hl, touchHbm_frame]
    exact ⟨fun a => by rw [memRd_hbmWr, hl], not_mem_hbmBad_hbmWr _ _ _ hl, rfl⟩
  · refine ⟨_, execLinePortAccess_does _ _ ho hk hr, ?_⟩
    rw [linePort_merge k bs _ hb hg hc, touchHbm_frame]
    exact ⟨fun a => by rw [memRd_hbmWr_overlay _ _ _ _ _ (by rwa [lineBytes_length]), lineBytes_length], rfl⟩
  · obtain ⟨hout, hin, hcount, hdue, hframe⟩ := linePort_read_corrected rdPacket hb hg hc
    exact ⟨_, execLinePortAccess_does _ _ ho hk hr, hout, hin ∘ hplain.mp, hcount, hdue, hframe⟩
  · have hdo := execPatrolRead_does errs ho hk hr hp (by rwa [hbmStack_line] at hcl)
    rw [patrolled_running errs hs ht] at hdo
    obtain ⟨hout, hin, hcount, hdue, hframe⟩ :=
      linePort_read_corrected (s := s.sw.inPass (s.sw.portOfLine o.toNat) p) rdPatrol hb hg hc
    exact ⟨_, hdo, by rw [hframe]; exact AMap.get?_set_self .., hout, hin ∘ hplain.mp, hcount, hdue, by rw [hframe]; rfl⟩
  · obtain ⟨bad, hm, hw⟩ := linePort_bad acc rdPacket ha hb hbad
    refine ⟨_, execLinePortAccess_does _ _ ho hk hr, ?_⟩
    rw [hw, touchHbm_frame]
    exact ⟨rfl, hm, Sw.rd_wr_self .., rfl, rfl⟩
  · rw [hbmStack_line] at h
    exact execPatrolRead_none _ ho hk h
  · have hdo := execPatrolRead_does errs ho hk hr hp (by rwa [hbmStack_line] at hcl)
    rwa [patrolled_off errs hs h0] at hdo
end

section
/-! SUPPORT. Hearth jobs (08 R324 to R333, R345): what leaves the list of jobs alone, how a job is found and changed, with the theorems
that settle O37 and O38. -/

namespace Sys2Proof.Machine

/-! ### What leaves the jobs alone -/

@[simp] theorem jobs_uncorr (s : Sw) (off reader : Nat) : (s.uncorr off reader).jobs = s.jobs := rfl

@[simp] theorem jobs_touchHbm (s : Sw) (off : Nat) : (s.touchHbm off).jobs = s.jobs := by rw [touchHbm_frame]

@[simp] theorem jobs_touchCxl (s : Sw) (p a : Nat) : (s.touchCxl p a).jobs = s.jobs := by
  unfold Sw.touchCxl; dsimp only; split <;> rfl

@[simp] theorem jobs_readLines (s : Sw) (off n reader : Nat) : (s.readLines off n reader).2.jobs = s.jobs := by
  unfold Sw.readLines
  split
  · rfl
  · exact (foldl_keeps Sw.jobs _ _ _ fun _ _ => jobs_uncorr ..).trans (forN_keeps Sw.jobs _ _ _ fun _ _ => jobs_touchHbm ..)

@[simp] theorem jobs_writeLine (s : Sw) (off : Nat) (bs : Bytes) (reader : Nat) : (s.writeLine off bs reader).2.jobs = s.jobs := by
  unfold Sw.writeLine
  split
  · rfl
  · dsimp only
    split
    · exact jobs_touchHbm ..
    · split <;> exact jobs_touchHbm ..

@[simp] theorem jobs_writeLinesN (n : Nat) (s : Sw) (off : Nat) (bs : Bytes) (reader : Nat) :
    (Sw.writeLinesN n s off bs reader).2.jobs = s.jobs := by
  induction n generalizing s off bs with
  | zero => rfl
  | succ n ih =>
    unfold Sw.writeLinesN
    split
    · rfl
    · exact (ih ..).trans (jobs_writeLine ..)

@[simp] theorem jobs_writeLines (s : Sw) (off : Nat) (bs : Bytes) (reader : Nat) : (s.writeLines off bs reader).2.jobs = s.jobs :=
  jobs_writeLinesN ..

@[simp] theorem jobs_cxlKnow (s : Sw) (p l : Nat) : (s.cxlKnow p l).jobs = s.jobs := by
  unfold Sw.cxlKnow; split <;> rfl

@[simp] theorem jobs_cxlWr (s : Sw) (p a : Nat) (bs : Bytes) : (s.cxlWr p a bs).jobs = s.jobs :=
  (jobs_cxlKnow ..).trans (jobs_cxlKnow ..)

@[simp] theorem jobs_applyHeld (s : Sw) (j : Job) (lo n : Nat) (h : Nat × Nat × List Val) : (s.applyHeld j lo n h).1.jobs = s.jobs := by
  unfold Sw.applyHeld
  dsimp only
  split
  · dsimp only
    split <;> simp
  · exact jobs_writeLines ..

/-! ### What the recorder leaves alone: its ring, its comparisons and its digests are no jobs (18 R696 to R704) -/

@[simp] theorem jobs_ringMeets (s : Sw) (d a b : Nat) : (s.ringMeets d a b).jobs = s.jobs :=
  foldl_keeps Sw.jobs _ _ _ fun _ _ => jobs_uncorr ..

@[simp] theorem jobs_ringFree (s : Sw) (d n : Nat) : (s.ringFree d n).jobs = s.jobs := by
  unfold Sw.ringFree; dsimp only; split <;> rfl

@[simp] theorem jobs_ringPut (s : Sw) (d : Nat) (first : Bytes) (m : RecMeta) (pay : List Bytes) :
    (s.ringPut d first m pay).2.jobs = s.jobs := by
  unfold Sw.ringPut
  dsimp only
  split
  · rfl
  · simp only [apply_ite Sw.jobs, Sw.updRec_jobs, Sw.wr_jobs, ite_self]
    exact (foldl_keeps Sw.jobs _ _ _ fun _ _ => jobs_writeLine ..).trans (jobs_ringFree ..)

@[simp] theorem jobs_record (s : Sw) (d : Nat) (first : Bytes) (m : RecMeta) (pay : List Bytes) :
    (s.record d first m pay).jobs = s.jobs := by
  unfold Sw.record Sw.recordAt
  split
  · rfl
  split
  · rfl
  · dsimp only
    split
    · simp
    · split <;> simp

@[simp] theorem jobs_diverge (s : Sw) (a b c d e : Nat) : (s.diverge a b c d e).jobs = s.jobs := by
  rw [Sw.diverge, apply_ite Sw.jobs, Sw.inc_jobs, Sw.updRec_jobs, Sw.wr_jobs, ite_self]

@[simp] theorem jobs_consumed (s : Sw) : s.consumed.jobs = s.jobs := by
  unfold Sw.consumed Sw.recLast; split <;> rfl

@[simp] theorem jobs_recDigest (s : Sw) (d kind tag : Nat) (out : Bytes) : (s.recDigest d kind tag out).jobs = s.jobs := by
  unfold Sw.recDigest
  split
  · rfl
  dsimp only
  split
  · exact jobs_record ..
  split
  · split
    · rw [jobs_diverge]
      exact foldl_keeps Sw.jobs _ _ _ fun _ _ => jobs_ringMeets ..
    · rw [jobs_consumed]
      simp only [apply_ite Sw.jobs, jobs_diverge, Sw.updRec_jobs, ite_self]
      refine foldl_keeps Sw.jobs _ _ _ fun s k => ?_
      simp only [apply_ite Sw.jobs, jobs_ringMeets, ite_self]
  · rfl

/-! ### A job found and changed -/

@[simp] theorem Job.step_no (j : Job) (n : Nat) (bad : Bool) : (j.step n bad).no = j.no := by unfold Job.step; cases bad <;> rfl
@[simp] theorem Job.step_stack (j : Job) (n : Nat) (bad : Bool) : (j.step n bad).stack = j.stack := by
  unfold Job.step; cases bad <;> rfl
@[simp] theorem Job.step_st (j : Job) (n : Nat) (bad : Bool) : (j.step n bad).st = j.st := by unfold Job.step; cases bad <;> rfl
@[simp] theorem Job.step_done (j : Job) (n : Nat) (bad : Bool) : (j.step n bad).done = j.done ++ [n] := by
  unfold Job.step; cases bad <;> rfl

/-- `t` comes of `s` by counting step or line `i` of the jobs numbered `no` as done, these staying what and where they are; what else
it changes is no job. -/
def CountsUnit (s : Sw) (no i : Nat) (t : Sw) : Prop :=
  ∃ f : Job → Job, t.jobs = s.jobs.map (fun y => if y.no = no then f y else y) ∧
    ∀ y, (f y).no = y.no ∧ (f y).stack = y.stack ∧ (f y).st = y.st ∧ (f y).done = y.done ++ [i]

theorem countsUnit_updJob {s t : Sw} (no i : Nat) (f : Job → Job) (ht : t.jobs = s.jobs)
    (hf : ∀ y, (f y).no = y.no ∧ (f y).stack = y.stack ∧ (f y).st = y.st ∧ (f y).done = y.done ++ [i]) :
    CountsUnit s no i (t.updJob no f) := ⟨f, by rw [Sw.updJob, ht], hf⟩

theorem CountsUnit.job? {s t : Sw} {n i : Nat} {j : Job} (h : CountsUnit s j.no i t) (hj : s.job? n j.no = some j)
    (hr : j.st = .running) : ∃ k, t.job? n j.no = some k ∧ k.st = .running ∧ k.done = j.done ++ [i] := by
  obtain ⟨f, ht, hf⟩ := h
  obtain ⟨-, -, hst, hdone⟩ := hf j
  have hsame : ∀ y : Job, ((if y.no = j.no then f y else y).no == j.no && (if y.no = j.no then f y else y).stack == n) =
      (y.no == j.no && y.stack == n) := fun y => by
    obtain ⟨hno, hstack, -, -⟩ := hf y
    split
    · rw [hno, hstack]
    · rfl
  refine ⟨f j, ?_, hst.trans hr, hdone⟩
  rw [Sw.job?] at hj ⊢
  rw [ht, List.find?_map]
  simp only [Function.comp_def, hsame, hj, Option.map_some, if_true]

/-! ### One step, one line -/

/-- A recipe step, applied or skipped, counts as done. -/
theorem countsUnit_recipeStep (s : Sw) (j : Job) (i : Nat) : CountsUnit s j.no i (s.recipeStep j i) := by
  unfold Sw.recipeStep
  extract_lets
  split
  · exact countsUnit_updJob _ _ _ (foldl_keeps Sw.jobs _ _ _ fun _ _ => jobs_uncorr ..) fun y => by simp
  · refine countsUnit_updJob _ _ _ ?_ fun y => by simp
    exact foldl_keeps (fun a : Sw × List Nat × Bool × List (Nat × List (Bool × Bool)) => a.1.jobs) _ _ _ fun _ _ => jobs_applyHeld ..

theorem copyLine_stopped {s : Sw} {j : Job} (i : Nat) (h : s.pins.d2dFatal.contains (s.copyLink j) = true) : s.copyLine j i = s :=
  if_pos h

/-- Over a link that runs a line, copied or skipped, counts as done. -/
theorem countsUnit_copyLine {s : Sw} {j : Job} (i : Nat) (h : s.pins.d2dFatal.contains (s.copyLink j) = false) :
    CountsUnit s j.no i (s.copyLine j i) := by
  unfold Sw.copyLine
  extract_lets h' g pa k b served s' r
  rw [h, if_neg (by decide)]
  have hr : r.2.jobs = s.jobs := (jobs_readLines ..).trans (jobs_touchCxl ..)
  split
  · exact countsUnit_updJob _ _ _ rfl fun y => by simp
  split
  · split
    · exact countsUnit_updJob _ _ _ hr fun y => by simp
    · exact countsUnit_updJob _ _ _ ((jobs_cxlWr ..).trans hr) fun y => by simp [Job.at]
  split
  · exact countsUnit_updJob _ _ _ (jobs_touchCxl ..) fun y => by simp
  · exact countsUnit_updJob _ _ _ ((jobs_writeLine ..).trans (jobs_touchCxl ..)) fun y => by simp [Job.at]

/-! ### The end of a job (08 R331 to R333) -/

/-- Where no record is asked for and no core told, a job that is Done leaves the jobs, and they are as before. -/
theorem jobs_jobDone {s : Sw} {j : Job} (status : Nat) (ck : Checks) (inc : Nat) (h : jCgfa j.desc % 64 ≠ 0) (hc : j.core = none) :
    (s.jobDone j status ck inc).jobs = s.jobs.filter (fun y => y.no != j.no) := by
  simp [Sw.jobDone, h, hc]

/-- Where no job waits none is released. -/
theorem jobRelease_of_none_waits {s : Sw} (h : ∀ y ∈ s.jobs, y.st ≠ .waiting) : s.jobRelease = s := by
  have hnone : s.jobs.find? (fun j => j.st == .waiting && s.jobClear j) = none :=
    List.find?_eq_none.mpr fun y hy => by simp [h y hy]
  refine List.foldlRecOn (motive := fun t => t = s) _ _ rfl fun t ht _ _ => ?_
  simp only [ht, hnone]

/-! ### The commands -/

/-- A job more in the queue of stack `n`, with the next number (08 R328). -/
def Sw.jobQueued (s : Sw) (n t cls d : Nat) : Sw :=
  { s with jobs := s.jobs ++ [{ no := s.jobNo, stack := n, ten := t, desc := d, cls := cls, core := none }], jobNo := s.jobNo + 1 }

/-- The answer of stack `n` to the WRITE `h` of descriptor `d`: the WRITE's length is looked at first, then the stack's reset, then
Parked, then its queue. -/
def Sw.jobAnswered (s : Sw) (h : Word256) (d n : Nat) : Sw :=
  let ans (w : Sw) (status : Nat) := w.answer (s.hbmDie (jPblk d)) h status (s.incOf (incStack n)) [] .both
  if hPlen h ≠ 1 ∨ hTail h ≠ 0 then ans s stDenied
  else if s.blkRst.contains (.stack (Fin.ofNat 6 n)) then ans s stTargetReset
  else if s.parkedNow then ans s stBusy
  else if 256 ≤ s.jobsQueued n then ans (s.inc (L.hearthJobBusy.at n)) stBusy
  else ans (s.jobQueued n (hTen h) (pClass h) d) stOk

theorem execHearthJobSubmit_does (s : State) {h : Word256} {pay : Bytes} {u : Sw} {d n : Nat} (hu : u = s.sw.takeIn h pay)
    (hd : d = leNat (pay.take 64)) (hn : n = (u.hbmStack (jPblk d)).1) (hk : pKind h = 0) (hw : hOff h = u.rd L.hearthJobWin) :
    Does (.hearthJobSubmit h pay) s (u.jobAnswered h d n) := by
  have hg : ¬(pKind h ≠ 0 ∨ hOff h ≠ (s.sw.takeIn h pay).rd L.hearthJobWin) := by simp [hk, hw, hu]
  change execHearthJobSubmit h pay s = s.ends (u.jobAnswered h d n)
  rw [execHearthJobSubmit, if_neg hg, ← hu, ← hd, ← hn]
  simp only [Sw.jobAnswered, apply_ite s.ends]
  refine ite_congr rfl (fun _ => rfl) fun _ => ite_congr rfl (fun _ => rfl) fun _ => ite_congr rfl (fun _ => rfl) fun _ => ?_
  by_cases hf : 256 ≤ u.jobsQueued n
  · rw [Sw.jobSubmit, ← hn, if_pos hf, if_pos hf]
  · rw [Sw.jobSubmit, ← hn, if_neg hf, if_neg hf, Sw.jobQueued]

section
variable {s : State} {n : Stack} {j : Job}

theorem execHearthJobStart_waits (h : s.sw.jobs.find? (fun y => y.stack == n.val && y.st == .queued) = some j)
    (ha : jAfter j.desc = true) (hc : s.sw.jobClear j = false) :
    Does (.hearthJobStart n) s (s.sw.updJob j.no (fun j => { j with st := .waiting })) := by
  change s.ends (s.sw.jobStart n) = _
  simp only [Sw.jobStart, h, ha, hc, Bool.not_false, Bool.and_self, if_true]
  rfl

theorem execHearthJobStart_validates (h : s.sw.jobs.find? (fun y => y.stack == n.val && y.st == .queued) = some j)
    (hc : jAfter j.desc = false ∨ s.sw.jobClear j = true) : Does (.hearthJobStart n) s (s.sw.jobValidate j).jobRelease := by
  change s.ends (s.sw.jobStart n) = _
  have hc' : (jAfter j.desc && !s.sw.jobClear j) = false := by rcases hc with hc | hc <;> simp [hc]
  simp only [Sw.jobStart, h, hc', Bool.false_eq_true, if_false]
  rfl

variable (h : s.sw.job? n j.no = some j) (hr : j.st = .running)
include h

theorem execRecipeStep_done (i : Nat) (hi : i ∈ j.done) : exec (.recipeStep n j.no i) s = .next s := by
  change execRecipeStep n j.no i s = _
  simp [execRecipeStep, h, hi]

include hr

theorem execRecipeStep_awake (i : Nat) (hk : jKind j.desc = 0) (hi : i < jobUnits j) (hd : i ∉ j.done)
    (hw : s.sw.engineAwake n j.ten = true) : exec (.recipeStep n j.no i) s =
      if jobAliases j then .fault (.undefinedUse 353) else s.ends (s.sw.recipeStep j i) := by
  change execRecipeStep n j.no i s = _
  simp [execRecipeStep, h, hr, hk, Nat.not_le.mpr hi, hd, hw]

theorem execCopyLine_does (i : Nat) (hk : jKind j.desc ≠ 0) (hi : i < jobUnits j) (hd : i ∉ j.done) :
    Does (.copyLine n j.no i) s (s.sw.copyLine j i) := by
  change execCopyLine n j.no i s = _
  simp [execCopyLine, h, hr, hk, Nat.not_le.mpr hi, hd, State.ends]

theorem execHearthJobComplete_does (hd : jobUnits j ≤ j.done.length) :
    Does (.hearthJobComplete n j.no) s (s.sw.jobDone j (if j.nfail = 0 then 0 else 3) .both).jobRelease := by
  change execHearthJobComplete n j.no s = _
  simp [execHearthJobComplete, h, hr, Nat.not_lt.mpr hd, State.ends]

omit hr in
theorem execHearthJobComplete_early (hd : j.done.length < jobUnits j) : exec (.hearthJobComplete n j.no) s = .next s := by
  change execHearthJobComplete n j.no s = _
  simp [execHearthJobComplete, h, hd]
end

end Sys2Proof.Machine

open Sys2Proof Sys2Proof.Machine

/-- Settles O37, by the order in which a descriptor is looked at (`Sw.jobAnswered`, `execHearthJobSubmit_does`). -/
theorem hearthJobsAreSubmitted : Obligations.HearthJobsAreSubmitted := by
  rintro s h pay u d n inc hu hd hn rfl hk hw
  have hdo := execHearthJobSubmit_does s hu hd hn hk hw
  rw [Sw.jobAnswered] at hdo
  refine ⟨fun hl => ?_, fun hp ht hb => ?_, fun hp ht hb hpk => ?_, fun hp ht hb hpk => ⟨fun hf => ?_, fun hf => ?_⟩⟩
  · rwa [if_pos hl] at hdo
  all_goals rw [if_neg (by omega), hb] at hdo
  · exact hdo
  all_goals rw [if_neg (by decide), hpk] at hdo
  · exact hdo
  all_goals rw [if_neg (by decide)] at hdo
  · rwa [if_pos hf] at hdo
  · rwa [if_neg (Nat.not_le.mpr hf)] at hdo

/-- Settles O38: a step or line counts as done (`countsUnit_recipeStep`, `countsUnit_copyLine`), and a job that is Done leaves the jobs
(`jobs_jobDone`). -/
theorem hearthJobsRun : Obligations.HearthJobsRun := by
  intro s n j
  refine ⟨fun h => ⟨execHearthJobStart_waits h, execHearthJobStart_validates h⟩, fun h hr => ⟨fun i hk hi hd hw ha => ?_,
    fun i hk hi hd hw ha => ?_, execRecipeStep_done h, fun i hk hi hd => ?_, fun hd => ?_, execHearthJobComplete_early h⟩⟩
  · exact ⟨(execRecipeStep_awake h hr i hk hi hd hw).trans (if_neg (by rw [ha]; decide)), (countsUnit_recipeStep s.sw j i).job? h hr⟩
  · exact (execRecipeStep_awake h hr i hk hi hd hw).trans (if_pos ha)
  · exact ⟨execCopyLine_does h hr i hk hi hd, copyLine_stopped i, fun hl => (countsUnit_copyLine i hl).job? h hr⟩
  · refine ⟨execHearthJobComplete_does h hr hd, fun hg hc hn => ?_⟩
    have hj := jobs_jobDone (s := s.sw) (if j.nfail = 0 then 0 else 3) .both (s.sw.incOf (incStack j.stack)) hg hc
    rw [jobRelease_of_none_waits, hj]
    rw [hj]
    exact fun y hy => hn y (List.mem_filter.mp hy).1
end

section
/-! SUPPORT. The bytes of a CXL port after a write and after a line of a copy (08 R345, 13 R549, Table 13.6), with the theorem that
settles O39. -/

namespace Sys2Proof.Machine

/-! ### What a port's byte depends on -/

/-- The memory holds line `l` of port `p`: the line is not one whose bytes are unknown since the device came back (Table 13.6). -/
def Sw.cxlHolds (s : Sw) (p l : Nat) : Prop := ∀ u ∈ s.brg.unk.get? p, l ∈ u.lines

theorem cxlByte_of_holds {s : Sw} {p a : Nat} (h : s.cxlHolds p (a / 64)) : s.cxlByte p a = memRd s.cxl (p * 2 ^ 42 + a) := by
  unfold Sw.cxlByte
  split
  · rename_i u hu
    rw [if_pos (by simp [h u hu])]
  · rfl

theorem cxlByte_congr {s t : Sw} {p a : Nat} (hm : memRd t.cxl (p * 2 ^ 42 + a) = memRd s.cxl (p * 2 ^ 42 + a))
    (hu : t.brg.unk.get? p = s.brg.unk.get? p) : t.cxlByte p a = s.cxlByte p a := by
  simp only [Sw.cxlByte, hm, hu]

/-! ### A line that is about to be written (Table 13.6) -/

theorem mem_insertNat_iff (x y : Nat) (l : List Nat) : y ∈ insertNat x l ↔ y = x ∨ y ∈ l := by
  refine ⟨fun h => ?_, fun h => h.elim (fun e => e ▸ mem_insertNat x l) (mem_insertNat_of_mem x y l)⟩
  induction l with
  | nil => simpa [insertNat] using h
  | cons a l ih =>
    unfold insertNat at h
    split at h
    · exact .inr h
    · split at h
      · exact List.mem_cons.mp h
      · rcases List.mem_cons.mp h with h | h
        · exact .inr (h ▸ List.mem_cons_self)
        · exact (ih h).imp_right (List.mem_cons_of_mem _)

theorem learn_unk_self (b : Brg) (p : Nat) (f : Unknown → Unknown) : (b.learn p f).unk.get? p = (b.unk.get? p).map f := by
  unfold Brg.learn
  split
  · rename_i u hu
    rw [hu]
    exact AMap.get?_set_self ..
  · rename_i hu
    rw [hu]
    rfl

theorem learn_unk_ne (b : Brg) {p q : Nat} (f : Unknown → Unknown) (h : q ≠ p) : (b.learn p f).unk.get? q = b.unk.get? q := by
  unfold Brg.learn
  split
  · exact AMap.get?_set_ne _ _ _ _ h.symm
  · rfl

/-- `t` is `s` but for the bytes of the ports and what is known of them. -/
def Sw.CxlOnly (s t : Sw) : Prop := ∃ m unk, t = { s with cxl := m, brg := { s.brg with unk := unk } }

theorem Sw.CxlOnly.trans {s t u : Sw} (h : s.CxlOnly t) (k : t.CxlOnly u) : s.CxlOnly u := by
  obtain ⟨_, _, rfl⟩ := h
  obtain ⟨m, unk, rfl⟩ := k
  exact ⟨m, unk, rfl⟩

theorem cxlOnly_cxlKnow (s : Sw) (p l : Nat) : s.CxlOnly (s.cxlKnow p l) := by
  unfold Sw.cxlKnow Brg.learn
  split
  · exact ⟨_, _, rfl⟩
  · split <;> exact ⟨_, _, rfl⟩

/-- From now on the memory holds the line. -/
theorem cxlHolds_cxlKnow (s : Sw) (p l : Nat) : (s.cxlKnow p l).cxlHolds p l := by
  unfold Sw.cxlHolds Sw.cxlKnow
  split
  · rename_i h
    simp [List.isEmpty_iff.mp h, AMap.get?]
  · dsimp only
    rw [learn_unk_self]
    intro u hu
    obtain ⟨v, -, rfl⟩ := Option.map_eq_some_iff.mp hu
    exact mem_insertNat ..

/-- A line the memory holds it goes on holding. -/
theorem Sw.cxlHolds.cxlKnow {s : Sw} {p l : Nat} (h : s.cxlHolds p l) (l' : Nat) : (s.cxlKnow p l').cxlHolds p l := by
  unfold Sw.cxlHolds Sw.cxlKnow
  split
  · exact h
  · dsimp only
    rw [learn_unk_self]
    intro u hu
    obtain ⟨v, hv, rfl⟩ := Option.map_eq_some_iff.mp hu
    exact mem_insertNat_of_mem _ _ _ (h v hv)

@[simp] theorem cxlRd_length (s : Sw) (p a n : Nat) : (s.cxlRd p a n).length = n := by simp [Sw.cxlRd]

theorem getD_cxlRd (s : Sw) (p a n i : Nat) (h : i < n) : (s.cxlRd p a n).getD i 0 = s.cxlByte p (a + i) := by
  simp [Sw.cxlRd, List.getD_eq_getElem?_getD, h]

theorem memRd_cxlKnow_out {s : Sw} {p l x : Nat} (h : x < p * 2 ^ 42 + 64 * l ∨ p * 2 ^ 42 + 64 * l + 64 ≤ x) :
    memRd (s.cxlKnow p l).cxl x = memRd s.cxl x := by
  unfold Sw.cxlKnow
  split
  · rfl
  · exact memRd_memWrs_out _ _ _ _ (by rwa [cxlRd_length])

/-- No byte of the port changes by it. -/
theorem cxlByte_cxlKnow_self (s : Sw) (p l a : Nat) : (s.cxlKnow p l).cxlByte p a = s.cxlByte p a := by
  by_cases he : s.brg.unk.isEmpty = true
  · rw [Sw.cxlKnow, if_pos he]
  · by_cases ha : a / 64 = l
    · rw [cxlByte_of_holds (ha ▸ cxlHolds_cxlKnow s p l), Sw.cxlKnow, if_neg he, memRd_memWrs,
        if_pos (by rw [cxlRd_length]; omega), getD_cxlRd _ _ _ _ _ (by omega)]
      congr 1
      omega
    · have hm : memRd (s.cxlKnow p l).cxl (p * 2 ^ 42 + a) = memRd s.cxl (p * 2 ^ 42 + a) := memRd_cxlKnow_out (by omega)
      have hu : (s.cxlKnow p l).brg.unk.get? p = (s.brg.unk.get? p).map (fun u => { u with lines := insertNat l u.lines }) := by
        rw [Sw.cxlKnow, if_neg he]
        exact learn_unk_self ..
      simp only [Sw.cxlByte, hm, hu]
      cases s.brg.unk.get? p with
      | none => rfl
      | some u => simp [mem_insertNat_iff, ha]

/-- The bytes of two ports stand apart. -/
theorem apart_of_ne {p q a x n : Nat} (h : q ≠ p) (hx : x < 2 ^ 42) (ha : a + n ≤ 2 ^ 42) :
    q * 2 ^ 42 + x < p * 2 ^ 42 + a ∨ p * 2 ^ 42 + a + n ≤ q * 2 ^ 42 + x := by
  rcases Nat.lt_or_gt_of_ne h with h | h <;>
  · have := Nat.mul_le_mul_right (2 ^ 42) h
    omega

/-- Nor does one of another port, where the line lies inside its own. -/
theorem cxlByte_cxlKnow_ne (s : Sw) {p q l a : Nat} (hq : q ≠ p) (ha : a < 2 ^ 42) (hl : 64 * l + 64 ≤ 2 ^ 42) :
    (s.cxlKnow p l).cxlByte q a = s.cxlByte q a := by
  refine cxlByte_congr (memRd_cxlKnow_out (apart_of_ne hq ha hl)) ?_
  unfold Sw.cxlKnow
  split
  · rfl
  · exact learn_unk_ne _ _ hq

/-! ### A write of a port (13 R549) -/

section
variable (s : Sw) (p a : Nat) (bs : Bytes)

/-- The state in which a write of a port lays down its bytes: both lines it touches are held. -/
def Sw.cxlReady (n : Nat) : Sw := (s.cxlKnow p (a / 64)).cxlKnow p ((a + n - 1) / 64)

theorem cxlWr_eq : s.cxlWr p a bs = { s.cxlReady p a bs.length with cxl := memWrs (s.cxlReady p a bs.length).cxl (p * 2 ^ 42 + a) bs } :=
  rfl

theorem cxlOnly_cxlWr : s.CxlOnly (s.cxlWr p a bs) :=
  ((cxlOnly_cxlKnow ..).trans (cxlOnly_cxlKnow ..)).trans ⟨_, _, cxlWr_eq ..⟩

/-- The bytes written stand where they were written, the others of the port are as before. -/
theorem cxlByte_cxlWr_self (hl : bs.length ≤ 64) (x : Nat) :
    (s.cxlWr p a bs).cxlByte p x = if a ≤ x ∧ x < a + bs.length then bs.getD (x - a) 0 else s.cxlByte p x := by
  split
  · rename_i hx
    have hholds : (s.cxlWr p a bs).cxlHolds p (x / 64) := by
      rcases (show x / 64 = a / 64 ∨ x / 64 = (a + bs.length - 1) / 64 by omega) with h | h
      · exact h ▸ (cxlHolds_cxlKnow s p (a / 64)).cxlKnow _
      · exact h ▸ cxlHolds_cxlKnow (s.cxlKnow p (a / 64)) p _
    rw [cxlByte_of_holds hholds, cxlWr_eq, memRd_memWrs, if_pos (by omega), Nat.add_sub_add_left]
  · rename_i hx
    refine (cxlByte_congr (s := s.cxlReady p a bs.length) (t := s.cxlWr p a bs) ?_ rfl).trans
      ((cxlByte_cxlKnow_self ..).trans (cxlByte_cxlKnow_self ..))
    exact memRd_memWrs_out _ _ _ _ (by omega)

/-- No byte of another port changes, where the write lies inside its own. -/
theorem cxlByte_cxlWr_ne {q x : Nat} (hq : q ≠ p) (hx : x < 2 ^ 42) (ha : a + bs.length ≤ 2 ^ 42) (h0 : 0 < bs.length) :
    (s.cxlWr p a bs).cxlByte q x = s.cxlByte q x := by
  refine (cxlByte_congr (s := s.cxlReady p a bs.length) (t := s.cxlWr p a bs) (memRd_memWrs_out _ _ _ _ ?_) rfl).trans
    ((cxlByte_cxlKnow_ne _ hq hx (by omega)).trans (cxlByte_cxlKnow_ne _ hq hx (by omega)))
  exact apart_of_ne hq hx ha
end

/-! ### One line of a copy (08 R345) -/

/-- A chunk touched is noted as clear, and nothing else changes (08 R350). -/
theorem touchCxl_frame (s : Sw) (p a : Nat) : s.touchCxl p a = { s with clr := (s.touchCxl p a).clr } := by
  unfold Sw.touchCxl
  dsimp only
  split <;> rfl

/-- A good line of HBM, its stack not in reset, is read as it stands. -/
theorem readLines_one {s : Sw} {h : Nat} (reader : Nat) (hr : s.lineReset h = false) (hb : s.hbmBad.contains (h / 64) = false) :
    s.readLines h 1 reader = (some (memRds s.hbm h 64), s.touchHbm h) := by
  have hrs : s.linesReset h 1 = false := by simp [Sw.linesReset, hr]
  have hgood : (s.touchHbm h).lineBad (h / 64) = false := by rw [touchHbm_frame]; exact hb
  have hrd : (s.touchHbm h).hbmRd h 64 = memRds s.hbm h 64 := by rw [touchHbm_frame]; rfl
  simp [Sw.readLines, hrs, forN, hgood, hrd]

/-- A line of a copy from HBM to a port that serves it, over a link that runs. -/
theorem copyLine_toCxl {s : Sw} {j : Job} {i h off : Nat} {pa : Nat × Nat} (hk : jKind j.desc = 1)
    (hh : h = stBase (streamEntry j.pblk 0) + 64 * i) (ho : off = fld (streamEntry j.pblk 1) 0 40 + 64 * i)
    (hpa : pa = cxlOf (fld (streamEntry j.pblk 1) 40 16 % 32) off)
    (hst : (s.bport pa.1).st = .ready) (hcap : pa.2 + 64 ≤ (s.bport pa.1).cap) (hrole : pa.1 = 0 → s.hostRole = false)
    (hb : s.hbmBad.contains (h / 64) = false) (hr : s.lineReset h = false) (hl : s.pins.d2dFatal.contains (s.copyLink j) = false) :
    ∃ clr, s.copyLine j i = ({ (({ s with clr := clr } : Sw).cxlWr pa.1 pa.2 (memRds s.hbm h 64)) with
      cxlBad := s.cxlBad.filter (fun l => l != pa.1 * 2 ^ 36 + pa.2 / 64) } : Sw).updJob j.no (fun j => (j.at s.now).step i false) := by
  have hserved : ((s.bport pa.1).st == .ready && decide (pa.2 + 64 ≤ (s.bport pa.1).cap) && !(pa.1 == 0 && s.hostRole)) = true := by
    simpa [hst, hcap] using Decidable.imp_iff_not_or.mp hrole
  have hread : (s.touchCxl pa.1 pa.2).readLines h 1 rdHearth = (some (memRds s.hbm h 64), (s.touchCxl pa.1 pa.2).touchHbm h) := by
    rw [readLines_one, touchCxl_frame]
    · rw [touchCxl_frame]; exact hr
    · rw [touchCxl_frame]; exact hb
  subst hh ho hpa
  rw [Sw.copyLine, hl, if_neg (by decide), hserved, if_neg (by decide), if_pos hk, hread]
  dsimp only
  rw [touchHbm_frame, touchCxl_frame]
  exact ⟨_, rfl⟩

end Sys2Proof.Machine

open Sys2Proof Sys2Proof.Machine

/-- Settles O39: the line is written to the port as it is read of HBM (`copyLine_toCxl`), which shows there (`cxlByte_cxlWr_self`) and
nowhere else (`cxlByte_cxlWr_ne`). -/
theorem copyMovesOneLine : Obligations.CopyMovesOneLine := by
  intro s n j i h off pa hj hst hk hi hd hh ho hpa hready hcap hrole hb hr hl
  have hdo := execCopyLine_does hj hst i (by rw [hk]; decide) hi hd
  obtain ⟨clr, hcopy⟩ := copyLine_toCxl hk hh ho hpa hready hcap hrole hb hr hl
  have hlen : (memRds s.sw.hbm h 64).length = 64 := memRds_length ..
  have hself := cxlByte_cxlWr_self { s.sw with clr := clr } pa.1 pa.2 (memRds s.sw.hbm h 64) (Nat.le_of_eq hlen)
  have hne := @cxlByte_cxlWr_ne { s.sw with clr := clr } pa.1 pa.2 (memRds s.sw.hbm h 64)
  obtain ⟨m, unk, hw⟩ := cxlOnly_cxlWr { s.sw with clr := clr } pa.1 pa.2 (memRds s.sw.hbm h 64)
  generalize Sw.cxlWr _ _ _ _ = v at hcopy hself hne hw
  rw [hlen] at hself hne
  rw [hcopy] at hdo
  refine ⟨_, hdo, fun a => (hself a).trans (ite_congr rfl (fun ha => getD_memRds _ _ _ _ (by omega)) fun _ => rfl),
    fun q a hq ha hp => hne hq ha hp (by decide), fun hm => ?_, by rw [hw]; rfl⟩
  simpa using (List.mem_filter.mp hm).2
end

section
/-! SUPPORT. Swage descriptors and stream WRITEs at the service ID (09 R360, R363, R379, R381), with the theorems that settle O41 and
O43. -/

namespace Sys2Proof.Machine

/-- An operation more in the queue of its array, with the next number (09 R360). -/
def Sw.opQueued (s : Sw) (t cls d : Nat) : Sw :=
  { s with ops := s.ops ++ [{ no := s.opNo, array := wArray d, ten := t, desc := d, cls := cls, core := none }], opNo := s.opNo + 1 }

/-- The answer of its array to the WRITE `h` of descriptor `d`: the WRITE's length is looked at first, then the array's reset, then its
queue. -/
def Sw.opAnswered (s : Sw) (h : Word256) (d : Nat) : Sw :=
  let a := wArray d
  let ans (w : Sw) (status : Nat) := w.answer (a / 4) h status (s.arrInc a) [] .both
  if hPlen h ≠ 1 ∨ hTail h ≠ 0 then ans s stDenied
  else if s.blkRst.contains (.array (Fin.ofNat 16 a)) then ans s stTargetReset
  else if 16 ≤ s.opsQueued a then ans (s.inc (L.swageBusy.at a)) stBusy
  else ans (s.opQueued (hTen h) (pClass h) d) stOk

theorem opSubmit_full {s : Sw} {d : Nat} (t cls : Nat) (core : Option (Nat × Nat)) (hf : 16 ≤ s.opsQueued (wArray d)) :
    s.opSubmit t cls d core = none := if_pos hf

theorem opSubmit_room {s : Sw} {d : Nat} (t cls : Nat) (hf : ¬16 ≤ s.opsQueued (wArray d)) :
    s.opSubmit t cls d none = some (s.opQueued t cls d) := if_neg hf

theorem execSwageOpSubmit_does (s : State) {h : Word256} {pay : Bytes} {u : Sw} {d : Nat} (hu : u = s.sw.takeIn h pay)
    (hd : d = leNat (pay.take 64)) (hk : pKind h = 0) (hw : hOff h = u.rd L.swageJobWin) :
    Does (.swageOpSubmit h pay) s (u.opAnswered h d) := by
  have hg : ¬(pKind h ≠ 0 ∨ hOff h ≠ (s.sw.takeIn h pay).rd L.swageJobWin) := by simp [hk, hw, hu]
  change execSwageOpSubmit h pay s = s.ends (u.opAnswered h d)
  rw [execSwageOpSubmit, if_neg hg, ← hu, ← hd]
  simp only [Sw.opAnswered, apply_ite s.ends]
  refine ite_congr rfl (fun _ => rfl) fun _ => ite_congr rfl (fun _ => rfl) fun _ => ?_
  by_cases hf : 16 ≤ u.opsQueued (wArray d)
  · rw [opSubmit_full _ _ _ hf, if_pos hf]
  · rw [opSubmit_room _ _ hf, if_neg hf]

/-- A WRITE inside the stream windows, not of an array in reset, is that array's (09 R378). -/
theorem execSwageStreamWrite_does (s : State) {h : Word256} {pay : Bytes} {a : Nat} {p : Stored} {u : Sw}
    (hu : (p, u) = s.sw.takeKeep h pay) (ha : a = (hOff h - u.rd L.swageStreamWin) / 2 ^ 32) (hk : pKind h = 0)
    (hw : u.rd L.swageStreamWin ≤ hOff h) (h16 : a < 16) :
    Does (.swageStreamWrite h pay) s (if u.blkRst.contains (.array (Fin.ofNat 16 a)) then
        (u.freeBil p.bil).answer (a / 4) h stTargetReset (u.arrInc a) [] .both
      else u.streamWrite (a / 4) a ((hOff h - u.rd L.swageStreamWin) % 2 ^ 32) p) := by
  change execSwageStreamWrite h pay s = s.ends _
  rw [execSwageStreamWrite, ← hu, apply_ite s.ends]
  dsimp only
  rw [← ha, if_neg (by omega)]

/-- Where no operation of the array takes stream data a stream WRITE is an orphan (09 R379). -/
theorem streamWrite_orphan {s : Sw} {a : Nat} (d o : Nat) (p : Stored)
    (h : s.opIn a (fun st => st == .loading || st == .running) = none) : s.streamWrite d a o p = s.streamOrphan a .both p := by
  rw [Sw.streamWrite, h]

theorem execSwageStreamTimeout_does {s : State} {a : ArrayId} {x : SwOp} {t : Nat}
    (h : s.sw.opIn a (fun st => st == .running) = some x) (hd : x.due = some t) :
    Does (.swageStreamTimeout a) s ((s.sw.reach t).opTimeout x) := by
  change execSwageStreamTimeout a s = _
  rw [execSwageStreamTimeout, h]
  dsimp only
  rw [hd]
  rfl

end Sys2Proof.Machine

open Sys2Proof Sys2Proof.Machine

/-- Settles O41, by the order in which a descriptor is looked at (`Sw.opAnswered`, `execSwageOpSubmit_does`). -/
theorem swageOperationsAreSubmitted : Obligations.SwageOperationsAreSubmitted := by
  rintro s h pay u d a hu hd rfl hk hw
  have hdo := execSwageOpSubmit_does s hu hd hk hw
  rw [Sw.opAnswered] at hdo
  refine ⟨fun hl => ?_, fun hp ht hb => ?_, fun hp ht hb => ⟨fun hf => ?_, fun hf => ?_⟩⟩
  · rwa [if_pos hl] at hdo
  all_goals rw [if_neg (by omega), hb] at hdo
  · exact hdo
  all_goals rw [if_neg (by decide)] at hdo
  · rwa [if_pos hf] at hdo
  · rwa [if_neg (Nat.not_le.mpr hf)] at hdo

/-- Settles O43: a stream WRITE is its array's (`execSwageStreamWrite_does`), an orphan where no operation takes it
(`streamWrite_orphan`). -/
theorem swageStreams : Obligations.SwageStreams := by
  refine fun s => ⟨fun h pay a p u hu ha hk hw h16 => ?_, fun a x t => execSwageStreamTimeout_does⟩
  have hdo := execSwageStreamWrite_does s hu ha hk hw h16
  refine ⟨fun hb => ?_, fun hb => ?_⟩ <;> rw [hb] at hdo
  · exact hdo
  refine ⟨hdo, ?_⟩
  rintro hnone v rfl
  rwa [if_neg (by decide), streamWrite_orphan _ _ _ hnone] at hdo
end

section
/-! SUPPORT. What the line ports and the recorder leave alone (08 R313 to R316, 18 R696 to R704): everything but the memory's bytes, its
bad lines, the chunks clearing, the Lexicon, the faults and the recorder itself. -/

namespace Sys2Proof.Machine

/-- The switch without what a line port or the recorder may change. -/
def Sw.bare (s : Sw) : Sw := { s with hbm := [], hbmBad := [], clr := [], lex := [], flt := {}, recd := {} }

@[simp] theorem bare_inc (s : Sw) (r : Reg) (el n : Nat) : (s.inc r el n).bare = s.bare := rfl
@[simp] theorem bare_wr (s : Sw) (r : Reg) (el v : Nat) : (s.wr r el v).bare = s.bare := rfl
@[simp] theorem bare_fault (s : Sw) (c src : Nat) (t : Option Nat) (d a : Nat) : (s.fault c src t d a).bare = s.bare := rfl
@[simp] theorem bare_updRec (s : Sw) (f : Recd → Recd) : (s.updRec f).bare = s.bare := rfl

/-- The operations are among what stays. -/
theorem ops_of_bare {s t : Sw} (h : t.bare = s.bare) : t.ops = s.ops := by
  change t.bare.ops = s.bare.ops
  rw [h]

/-! ### Lines -/

@[simp] theorem bare_uncorr (s : Sw) (off reader : Nat) : (s.uncorr off reader).bare = s.bare := rfl

@[simp] theorem bare_touchHbm (s : Sw) (off : Nat) : (s.touchHbm off).bare = s.bare := by rw [touchHbm_frame]; rfl

@[simp] theorem bare_readAll (s : Sw) (ls : List Nat) : (s.readAll ls).2.bare = s.bare :=
  (foldl_keeps Sw.bare _ _ _ fun _ _ => bare_uncorr ..).trans (foldl_keeps Sw.bare _ _ _ fun _ _ => bare_touchHbm ..)

@[simp] theorem bare_writeLine (s : Sw) (off : Nat) (bs : Bytes) (reader : Nat) : (s.writeLine off bs reader).2.bare = s.bare := by
  unfold Sw.writeLine
  split
  · rfl
  · dsimp only
    split
    · exact bare_touchHbm ..
    · split <;> exact bare_touchHbm ..

@[simp] theorem bare_writeLines (s : Sw) (off : Nat) (bs : Bytes) (reader : Nat) : (s.writeLines off bs reader).2.bare = s.bare := by
  unfold Sw.writeLines
  generalize bs.length / 64 + 2 = n
  induction n generalizing s off bs with
  | zero => rfl
  | succ n ih =>
    unfold Sw.writeLinesN
    split
    · rfl
    · exact (ih ..).trans (bare_writeLine ..)

/-! ### The recorder -/

@[simp] theorem bare_ringMeets (s : Sw) (d a b : Nat) : (s.ringMeets d a b).bare = s.bare :=
  foldl_keeps Sw.bare _ _ _ fun _ _ => bare_uncorr ..

@[simp] theorem bare_ringFree (s : Sw) (d n : Nat) : (s.ringFree d n).bare = s.bare := by
  unfold Sw.ringFree; dsimp only; split <;> rfl

@[simp] theorem bare_ringPut (s : Sw) (d : Nat) (first : Bytes) (m : RecMeta) (pay : List Bytes) :
    (s.ringPut d first m pay).2.bare = s.bare := by
  unfold Sw.ringPut
  dsimp only
  split
  · rfl
  · simp only [apply_ite Sw.bare, bare_updRec, bare_wr, ite_self]
    exact (foldl_keeps Sw.bare _ _ _ fun _ _ => bare_writeLine ..).trans (bare_ringFree ..)

@[simp] theorem bare_record (s : Sw) (d : Nat) (first : Bytes) (m : RecMeta) (pay : List Bytes) :
    (s.record d first m pay).bare = s.bare := by
  unfold Sw.record Sw.recordAt
  split
  · rfl
  split
  · rfl
  · dsimp only
    split
    · simp
    · split <;> simp

@[simp] theorem bare_diverge (s : Sw) (a b c d e : Nat) : (s.diverge a b c d e).bare = s.bare := by
  rw [Sw.diverge, apply_ite Sw.bare, bare_inc, bare_updRec, bare_wr, ite_self]

@[simp] theorem bare_consumed (s : Sw) : s.consumed.bare = s.bare := by
  unfold Sw.consumed Sw.recLast; split <;> rfl

@[simp] theorem bare_recDigest (s : Sw) (d kind tag : Nat) (out : Bytes) : (s.recDigest d kind tag out).bare = s.bare := by
  unfold Sw.recDigest
  split
  · rfl
  dsimp only
  split
  · exact bare_record ..
  split
  · split
    · rw [bare_diverge]
      exact foldl_keeps Sw.bare _ _ _ fun _ _ => bare_ringMeets ..
    · rw [bare_consumed]
      simp only [apply_ite Sw.bare, bare_diverge, bare_updRec, ite_self]
      refine foldl_keeps Sw.bare _ _ _ fun s k => ?_
      simp only [apply_ite Sw.bare, bare_ringMeets, ite_self]
  · rfl

end Sys2Proof.Machine
end

section
/-! SUPPORT. Swage operations (09 R354 to R390): what each step of an operation does to the list of operations, with the theorem that
settles O42. -/

namespace Sys2Proof.Machine

/-! ### An operation found and changed -/

/-- `t` has the operations of `s`, those numbered `no` changed by `f`. -/
def Sw.ChangesOp (s : Sw) (no : Nat) (f : SwOp → SwOp) (t : Sw) : Prop :=
  t.ops = s.ops.map (fun y => if y.no = no then f y else y)

theorem changesOp_updOp {s t : Sw} (no : Nat) (f : SwOp → SwOp) (h : t.ops = s.ops) : s.ChangesOp no f (t.updOp no f) := by
  rw [Sw.ChangesOp, Sw.updOp, h]

section
variable {s t : Sw} {no : Nat} {f : SwOp → SwOp} (h : s.ChangesOp no f t)
include h

/-- The operation changed is the one found under its number. -/
theorem Sw.ChangesOp.op? (hf : ∀ y, (f y).no = y.no) : t.op? no = (s.op? no).map f := by
  have hno : ∀ y : SwOp, (if y.no = no then f y else y).no = y.no := fun y => by
    split
    · exact hf y
    · rfl
  rw [Sw.op?, h, List.find?_map]
  simp only [Function.comp_def, hno]
  exact Option.map_congr fun y hy => if_pos (by simpa using List.find?_some hy)

/-- Where neither array nor state changes, each array has an operation in the same states as before. -/
theorem Sw.ChangesOp.opIn_isSome (hf : ∀ y, (f y).array = y.array ∧ (f y).st = y.st) (a : Nat) (p : SwSt → Bool) :
    (t.opIn a p).isSome = (s.opIn a p).isSome := by
  have hsame : ∀ y : SwOp, (if y.no = no then f y else y).array = y.array ∧ (if y.no = no then f y else y).st = y.st := fun y => by
    split
    · exact hf y
    · exact ⟨rfl, rfl⟩
  rw [Sw.opIn, h, List.find?_map, Option.isSome_map]
  simp only [Function.comp_def, hsame]
  rfl

/-- The operations of other numbers stay. -/
theorem Sw.ChangesOp.filter_ne (hf : ∀ y, (f y).no = y.no) :
    t.ops.filter (fun y => y.no != no) = s.ops.filter (fun y => y.no != no) := by
  rw [h]
  induction s.ops with
  | nil => rfl
  | cons y l ih => by_cases hy : y.no = no <;> simp [hy, hf, ih]
end

theorem op?_updOp (s : Sw) (no : Nat) (f : SwOp → SwOp) (hf : ∀ y, (f y).no = y.no) : (s.updOp no f).op? no = (s.op? no).map f :=
  (changesOp_updOp no f rfl).op? hf

theorem op?_updOp_some {s : Sw} {no : Nat} {x : SwOp} {f : SwOp → SwOp} (h : s.op? no = some x) (hf : ∀ y, (f y).no = y.no) :
    (s.updOp no f).op? no = some (f x) := by rw [op?_updOp s no f hf, h, Option.map_some]

theorem st_of_opIn {s : Sw} {a : Nat} {k : SwSt} {x : SwOp} (h : s.opIn a (fun st => st == k) = some x) : x.array = a ∧ x.st = k := by
  simpa using List.find?_some h

theorem linesReach_append (s : Sw) (a : Nat) (l m : List Nat) :
    s.linesReach a (l ++ m) = (s.linesReach a l && s.linesReach a m) := List.all_append

theorem Does.trans_eq {c : Instr} {s : State} {v w : Sw} (h : Does c s v) (e : v = w) : Does c s w := e ▸ h

/-! ### Validation (R364, R386 to R388) -/

theorem execSwageOpValidate_waits {s : State} {a : ArrayId} {x : SwOp} (h : s.sw.opHead a = some x)
    (hu : s.sw.unitAwake (.swage a) = true) (ha : wAfter x.desc = true) (hc : s.sw.opClear x = false) :
    Does (.swageOpValidate a) s (s.sw.updOp x.no (fun y => { y with st := .waiting })) := by
  change execSwageOpValidate a s = _
  simp only [execSwageOpValidate, h, hu, ha, hc, Bool.not_true, Bool.not_false, Bool.and_self, Bool.false_eq_true, if_false, if_true]
  rfl

theorem execSwageOpValidate_leaves {s : State} {a : ArrayId} {x : SwOp} (h : s.sw.opHead a = some x)
    (hu : s.sw.unitAwake (.swage a) = true) (hc : wAfter x.desc = false ∨ s.sw.opClear x = true) :
    exec (.swageOpValidate a) s =
      if (!swFormat x.desc && !s.sw.swDenied x && wM x.desc != 0 && wN x.desc != 0 && s.sw.swUndefined x) = true then
        .fault (.undefinedUse 401)
      else s.ends (s.sw.opValidate x) := by
  have hc' : (wAfter x.desc && !s.sw.opClear x) = false := by rcases hc with hc | hc <;> simp [hc]
  change execSwageOpValidate a s = _
  simp only [execSwageOpValidate, h, hu, hc', Bool.not_true, Bool.false_eq_true, if_false]

/-- The order in which an operation is looked at, with what it takes down as its validation starts (R364, R399). -/
theorem opValidate_eq {s : Sw} {x y : SwOp} (hy : y = { x with tstart := s.now, ns := s.rd L.swageStreamNs, tol := s.rd L.swageChkTol }) :
    s.opValidate x =
      if swFormat x.desc then s.opDone y 2 .both
      else if s.swDenied x then s.opDone y 1 .both
      else if wM x.desc = 0 ∨ wN x.desc = 0 then s.opDone y 0 .both
      else s.updOp x.no (fun _ => { y with st := .loading, shadow := some (0, 0) }) := by
  subst hy
  rfl

/-! ### The sets (R356, R367) -/

/-- Exchanging the sets changes what they hold and whether the exchange waits, no more. -/
theorem SwOp.turn_frame (x : SwOp) : x.turn = { x with
    active := x.turn.active, shadow := x.turn.shadow, loaded := x.turn.loaded, swap := x.turn.swap
    badAct := x.turn.badAct, badSh := x.turn.badSh } := by
  unfold SwOp.turn
  split
  · rfl
  · split <;> rfl

@[simp] theorem SwOp.turn_no (x : SwOp) : x.turn.no = x.no := by rw [turn_frame]
@[simp] theorem SwOp.turn_st (x : SwOp) : x.turn.st = x.st := by rw [turn_frame]
@[simp] theorem SwOp.turn_wreg (x : SwOp) : x.turn.wreg = x.wreg := by rw [turn_frame]
@[simp] theorem SwOp.turn_pass (x : SwOp) : x.turn.pass = x.pass := by rw [turn_frame]
@[simp] theorem SwOp.turn_tile (x : SwOp) : x.turn.tile = x.tile := by rw [turn_frame]

/-- A loaded shadow set that holds the stationary tile needed becomes the active one. -/
theorem SwOp.turn_loaded {x : SwOp} (hl : x.loaded = true) (hs : x.shadow = some x.needs) :
    x.turn.active = some x.needs ∧ x.turn.swap = false := by
  unfold SwOp.turn
  split
  · exact ⟨‹_›, rfl⟩
  · simp [hl, hs]

/-! ### Loading (R356, R386) -/

theorem execSwageLoadComplete_eq {s : State} {a : ArrayId} {x : SwOp} (h : s.sw.opIn a (fun st => st == .loading) = some x) :
    exec (.swageLoadComplete a) s = if s.sw.linesReach a (loadLines x) = true then s.ends (s.sw.opLoaded x) else .next s := by
  change execSwageLoadComplete a s = _
  rw [execSwageLoadComplete, h]

/-- What an operation holds of its stationary matrix, and its state: nothing that a tile's start or a stream changes. -/
def SwOp.sets (x : SwOp) : SwSt × List Host.Cell × Option (Nat × Nat) × Bool := (x.st, x.wreg, x.active, x.swap)

theorem sets_updOp {s t : Sw} (no : Nat) (f : SwOp → SwOp) (h : t.ops = s.ops) (hf : ∀ y, (f y).no = y.no ∧ (f y).sets = y.sets) :
    ((t.updOp no f).op? no).map SwOp.sets = (s.op? no).map SwOp.sets := by
  rw [(changesOp_updOp no f h).op? fun y => (hf y).1, Option.map_map]
  exact congrArg (Option.map · (s.op? no)) (funext fun y => (hf y).2)

@[simp] theorem sets_tileStart (s : Sw) (no : Nat) : ((s.tileStart no).op? no).map SwOp.sets = (s.op? no).map SwOp.sets := by
  unfold Sw.tileStart
  split
  · rfl
  · exact sets_updOp _ _ (ops_of_bare (bare_readAll ..)) fun _ => ⟨rfl, rfl⟩

@[simp] theorem sets_streamTimer (s : Sw) (no : Nat) : ((s.streamTimer no).op? no).map SwOp.sets = (s.op? no).map SwOp.sets :=
  sets_updOp _ _ rfl fun _ => ⟨rfl, rfl⟩

@[simp] theorem sets_tryBegin (s : Sw) (no : Nat) : ((s.tryBegin no).op? no).map SwOp.sets = (s.op? no).map SwOp.sets := by
  refine sets_updOp _ _ rfl fun y => ?_
  dsimp only
  split
  · split <;> exact ⟨rfl, rfl⟩
  · exact ⟨rfl, rfl⟩

/-- An operation with a pass to come runs, its first stationary tile in the active sets. -/
theorem sets_opLoaded {s : Sw} {x : SwOp} (h : s.op? x.no = some x) (hq : passesQ x.desc ≠ 0) (hs : x.shadow = some x.needs) :
    ((s.opLoaded x).op? x.no).map SwOp.sets = some (.running, s.wRegion x.desc, some x.needs, false) := by
  unfold Sw.opLoaded
  extract_lets d r fr t
  have hr : r.2.ops = s.ops := ops_of_bare (foldl_keeps (fun a : List (Nat × Nat) × Sw => a.2.bare) _ _ _ fun _ _ => bare_readAll ..)
  rw [Sw.opGoOn, if_neg hq, sets_tryBegin, sets_streamTimer, sets_tileStart]
  simp only [t]
  rw [(changesOp_updOp _ _ hr).op? fun y => by simp only [d, if_neg hq, SwOp.turn_no], h]
  simp only [Option.map_some, d, if_neg hq, SwOp.sets, SwOp.turn_st, SwOp.turn_wreg]
  obtain ⟨hact, hswap⟩ := SwOp.turn_loaded (x := { x with
    st := .running, badW := r.1, badSh := r.1.contains (0, 0), wreg := s.wRegion x.desc, loaded := true, fr := fr }) rfl hs
  rw [hact, hswap]
  rfl

/-! ### Passes (R366 to R377) -/

theorem execSwagePassComplete_does (s : State) (a : ArrayId) : Does (.swagePassComplete a) s (s.sw.passComplete a) := by
  change execSwagePassComplete a s = _
  rfl

theorem execShadowLoadComplete_does (s : State) (a : ArrayId) : Does (.shadowLoadComplete a) s (s.sw.shadowLoaded a) := by
  change execShadowLoadComplete a s = _
  rfl

/-- A pass reaches the frame of its operation: it counts, and the operation stays what and where it is. -/
theorem passAdd_changesOp (s : Sw) (x : SwOp) : ∃ f : SwOp → SwOp, s.ChangesOp x.no f (s.passAdd x) ∧
    ∀ y, (f y).no = y.no ∧ (f y).array = y.array ∧ (f y).st = y.st ∧ (f y).desc = y.desc ∧ (f y).tile = y.tile ∧
      (f y).pass = y.pass + 1 :=
  ⟨_, changesOp_updOp _ _ (ops_of_bare (bare_readAll ..)), fun _ => ⟨rfl, rfl, rfl, rfl, rfl, rfl⟩⟩

theorem op?_passAdd {s : Sw} {x : SwOp} (hx : s.op? x.no = some x) : ∃ y, (s.passAdd x).op? x.no = some y ∧
    y.no = x.no ∧ y.array = x.array ∧ y.st = x.st ∧ y.desc = x.desc ∧ y.tile = x.tile ∧ y.pass = x.pass + 1 := by
  obtain ⟨f, hch, hf⟩ := passAdd_changesOp s x
  exact ⟨f x, by rw [hch.op? fun y => (hf y).1, hx, Option.map_some], hf x⟩

theorem opIn_passAdd_isSome (s : Sw) (x : SwOp) (a : Nat) (p : SwSt → Bool) :
    ((s.passAdd x).opIn a p).isSome = (s.opIn a p).isSome := by
  obtain ⟨f, hch, hf⟩ := passAdd_changesOp s x
  refine hch.opIn_isSome (fun y => ?_) a p
  obtain ⟨-, harray, hst, -⟩ := hf y
  exact ⟨harray, hst⟩

/-- The last tile of an operation is complete: it drains, or waits where another operation of the array drains (R386, R387). -/
theorem op?_tileEnd_last {s : Sw} {x : SwOp} (hx : s.op? x.no = some x) (hl : tilesU x.desc * slicesV x.desc ≤ x.tile + 1) :
    (s.tileEnd x).op? x.no = some (if (s.opIn x.array (fun st => st == .draining)).isSome = true then { x with wait := true }
      else { x with st := .draining, wait := false, due := none }) := by
  rw [Sw.tileEnd, if_neg (Nat.not_lt.mpr hl)]
  split
  · exact op?_updOp_some hx fun _ => rfl
  · rw [Sw.tileNext, hx]
    dsimp only
    rw [if_neg (Nat.not_lt.mpr hl)]
    exact op?_updOp_some hx fun _ => rfl

section
variable {s : Sw} {a : Nat} {x y : SwOp} (h : s.opIn a (fun st => st == .running) = some x)
include h

/-- No pass is under way, or it would read over a stopped link (01 R27). -/
theorem passComplete_idle
    (hc : x.swap = true ∨ x.wait = true ∨ x.begun = false ∨ s.linesReach a (passLines x) = false) : s.passComplete a = s := by
  rw [Sw.passComplete, h]
  dsimp only
  rw [if_pos]
  rw [linesReach_append]
  rcases hc with hc | hc | hc | hc <;> simp [hc]

section
variable (hs : x.swap = false) (hw : x.wait = false) (hb : x.begun = true) (hr : s.linesReach a (passLines x) = true)
include hs hw hb hr

/-- A pass that reads nothing of a next tile. -/
theorem passComplete_goes (hy : (s.passAdd x).op? x.no = some y)
    (hlast : passesQ x.desc ≤ x.pass + 1 → tilesU x.desc * slicesV x.desc ≤ x.tile + 1) :
    s.passComplete a =
      if passesQ x.desc ≤ x.pass + 1 then (s.passAdd x).tileEnd y else (s.passAdd x).updOp x.no SwOp.turn := by
  have hmore : (decide (passesQ x.desc ≤ x.pass + 1) && decide (x.tile + 1 < tilesU x.desc * slicesV x.desc)) = false := by
    simpa using hlast
  rw [Sw.passComplete, h]
  dsimp only
  rw [if_neg (by simp [hmore, hs, hw, hb, hr])]
  by_cases hq : passesQ x.desc ≤ x.pass + 1
  · rw [if_pos (decide_eq_true hq), if_pos hq, hy]
  · rw [if_neg (by simpa using hq), if_neg hq]

/-- After a pass that is not the tile's last the sets turn. -/
theorem passComplete_turns (hx : s.op? x.no = some x) (hlt : x.pass + 1 < passesQ x.desc) :
    s.passComplete a = (s.passAdd x).updOp x.no SwOp.turn ∧ ∃ y, ((s.passAdd x).updOp x.no SwOp.turn).op? x.no = some y ∧
      y.st = .running ∧ y.pass = x.pass + 1 ∧ y.tile = x.tile := by
  obtain ⟨y, hy, -, -, hst, -, htile, hpass⟩ := op?_passAdd hx
  refine ⟨?_, y.turn, op?_updOp_some hy SwOp.turn_no, ?_⟩
  · rw [passComplete_goes h hs hw hb hr hy (by omega), if_neg (by omega)]
  · rw [y.turn_st, y.turn_pass, y.turn_tile]
    exact ⟨hst.trans (st_of_opIn h).2, hpass, htile⟩

/-- After the last pass of the last tile the operation drains, or waits where another of the array drains. -/
theorem op?_passComplete_last (hx : s.op? x.no = some x) (hq : passesQ x.desc ≤ x.pass + 1)
    (hl : tilesU x.desc * slicesV x.desc ≤ x.tile + 1) : ∃ y, (s.passComplete a).op? x.no = some y ∧ y.tile = x.tile ∧
      ((s.opIn a (fun st => st == .draining)).isSome = false → y.st = .draining) ∧
      ((s.opIn a (fun st => st == .draining)).isSome = true → y.st = .running ∧ y.wait = true) := by
  obtain ⟨y, hy, hno, harray, hst, hdesc, htile, -⟩ := op?_passAdd hx
  have hend := op?_tileEnd_last (hno.symm ▸ hy) (by rwa [hdesc, htile])
  rw [hno, harray, (st_of_opIn h).1, opIn_passAdd_isSome] at hend
  rw [passComplete_goes h hs hw hb hr hy fun _ => hl, if_pos hq]
  refine ⟨_, hend, ?_⟩
  split
  · rename_i hd
    exact ⟨htile, fun hn => absurd hd (by rw [hn]; decide), fun _ => ⟨hst.trans (st_of_opIn h).2, rfl⟩⟩
  · rename_i hd
    exact ⟨htile, fun _ => rfl, fun hn => absurd hn hd⟩
end

theorem shadowLoaded_none (hn : x.shadow = none) : s.shadowLoaded a = s := by
  rw [Sw.shadowLoaded, h]
  dsimp only
  rw [hn]
  rfl

/-- The shadow set is loaded, with a word that is uncorrectable where its tile has one (R389); a waiting swap takes place. -/
theorem op?_shadowLoaded {t : Nat × Nat} (hx : s.op? x.no = some x) (ht : x.shadow = some t)
    (hy : y = { x with loaded := true, badSh := x.badSh || x.badW.contains t }) :
    (s.shadowLoaded a).op? x.no = some (if x.swap = true then y.turn else y) := by
  rw [Sw.shadowLoaded, h]
  dsimp only
  rw [ht, if_neg (by simp), op?_updOp_some hx]
  · simp only [hy, ht, Option.map_some, Option.getD_some]
  · intro y
    split
    · exact SwOp.turn_no _
    · rfl
end

/-! ### The end of an operation (R382 to R386) -/

theorem execSwageDrainComplete_does (s : State) (a : ArrayId) : Does (.swageDrainComplete a) s (s.sw.opDrained a) := by
  change execSwageDrainComplete a s = _
  rfl

/-- The lines that a drain writes: those of the spill buffer (R373). -/
def drainLines (x : SwOp) : List Nat := if wSpill x.desc then linesOf (wSbase x.desc, 8 * wM x.desc * wN x.desc) else []

theorem opDrained_stopped {s : Sw} {a : Nat} {x : SwOp} (h : s.opIn a (fun st => st == .draining) = some x)
    (hr : s.linesReach a (drainLines x) = false) :
    s.opDrained a = s := by
  rw [Sw.opDrained, h]
  dsimp only
  rw [← drainLines, hr]
  rfl

/-- Where no operation of the array waits for the frame. -/
theorem opDrained_done {s v : Sw} {a : Nat} {x : SwOp} {r : Sw × SwOp} (h : s.opIn a (fun st => st == .draining) = some x)
    (hr : s.linesReach a (drainLines x) = true)
    (hl : r = s.lastDrain x .both) (hv : v = r.1.opDone r.2 r.2.status .both)
    (hw : ∀ y, v.opIn a (fun st => st == .running) = some y → y.wait = false) : s.opDrained a = v := by
  rw [Sw.opDrained, h]
  dsimp only
  rw [← drainLines, hr, if_neg (by decide), ← hl, ← hv]
  split
  · rw [hw _ ‹_›, if_neg (by decide)]
  · rfl

/-- What the end of an operation still has to do besides its tiles. -/
def SwOp.owed (x : SwOp) : Nat × Nat × List Stored × List Host.Cell × Option (Nat × Nat) := (x.no, x.desc, x.held, x.rest, x.core)

/-- `t` has the operations of `s`, but for what those numbered `no` say of their tiles. -/
def Sw.KeepsOwed (s : Sw) (no : Nat) (t : Sw) : Prop := ∃ f : SwOp → SwOp, s.ChangesOp no f t ∧ ∀ y, (f y).owed = y.owed

theorem keepsOwed_of_ops {s t : Sw} (no : Nat) (h : t.ops = s.ops) : s.KeepsOwed no t :=
  ⟨id, by rw [Sw.ChangesOp, h]; simp, fun _ => rfl⟩

/-- A further change of the operation, with what leaves the operations alone before it. -/
theorem Sw.KeepsOwed.updOp {s t u : Sw} {no : Nat} (h : s.KeepsOwed no t) (hu : u.ops = t.ops) (g : SwOp → SwOp)
    (hg : ∀ y, (g y).owed = y.owed) : s.KeepsOwed no (u.updOp no g) := by
  obtain ⟨f, ht, hf⟩ := h
  refine ⟨g ∘ f, ?_, fun y => (hg _).trans (hf y)⟩
  have hno : ∀ y, (f y).no = y.no := fun y => congrArg Prod.fst (hf y)
  rw [Sw.ChangesOp, Sw.updOp, hu, ht, List.map_map]
  refine List.map_congr_left fun y _ => ?_
  by_cases hy : y.no = no <;> simp [hy, hno]

theorem Sw.KeepsOwed.of_ops {s t u : Sw} {no : Nat} (h : s.KeepsOwed no t) (hu : u.ops = t.ops) : s.KeepsOwed no u := by
  obtain ⟨f, ht, hf⟩ := h
  exact ⟨f, hu.trans ht, hf⟩

theorem Sw.KeepsOwed.tileFails {s t u : Sw} {x : SwOp} (h : s.KeepsOwed x.no t) (hu : u.ops = t.ops) :
    s.KeepsOwed x.no (u.tileFails x) := by
  have hc := h.updOp hu (fun y => { y with nfail := y.nfail + 1, ffail := min y.ffail x.tile }) fun _ => rfl
  unfold Sw.tileFails
  dsimp only
  split
  · exact hc.of_ops rfl
  · exact hc

/-- A tile spilled sends nothing of C (R373). -/
theorem keepsOwed_tileDrain (s : Sw) (x : SwOp) (ck : Checks) (h : wSpill x.desc = true) : s.KeepsOwed x.no (s.tileDrain x ck) := by
  unfold Sw.tileDrain
  extract_lets d acc u v n rows counted missed vals pos kinds es r written
  have hm : s.KeepsOwed x.no missed := by
    have hc : s.KeepsOwed x.no counted := (keepsOwed_of_ops x.no (Sw.inc_ops ..)).updOp rfl _ fun _ => rfl
    simp only [missed]
    split
    · split
      · exact hc.of_ops rfl
      · exact hc
    · exact keepsOwed_of_ops _ rfl
  have hw : written.ops = missed.ops :=
    ops_of_bare (foldl_keeps (fun a : Bool × Sw => a.2.bare) _ _ _ fun _ _ => bare_writeLines ..)
  rw [if_pos h]
  split
  · exact hm.tileFails rfl
  split
  · exact hm.tileFails hw
  · exact hm.updOp hw _ fun _ => rfl

/-- Where nothing waits for it, no record is asked for and no core is told, an operation that is Done leaves the operations and no more of
them changes. -/
theorem ops_opDone {s : Sw} {x : SwOp} (status : Nat) (ck : Checks) (inc : Nat) (hg : wCgfa x.desc % 64 ≠ 0) (hh : x.held = [])
    (hr : x.rest = []) (hc : x.core = none) : (s.opDone x status ck inc).ops = s.ops.filter (fun y => y.no != x.no) := by
  simp only [Sw.opDone, hh, hr, hc, Sw.sendC, runsOf, List.foldl_nil, hg, false_and, if_false, Sw.inc_ops]
  exact ops_of_bare (bare_recDigest ..)

/-- The spilled operation is gone, the others are as before. -/
theorem ops_lastDrain_opDone {s : Sw} {x : SwOp} (hx : s.op? x.no = some x) (hs : wSpill x.desc = true)
    (hg : wCgfa x.desc % 64 ≠ 0) (hh : x.held = []) (hr : x.rest = []) (hc : x.core = none) (status : Nat) (ck : Checks) (inc : Nat) :
    ((s.lastDrain x ck).1.opDone (s.lastDrain x ck).2 status ck inc).ops = s.ops.filter (fun y => y.no != x.no) := by
  obtain ⟨f, hch, hf⟩ := keepsOwed_tileDrain s x ck hs
  have hno : ∀ y, (f y).no = y.no := fun y => congrArg Prod.fst (hf y)
  have hop : (s.lastDrain x ck).2 = f x := by
    rw [Sw.lastDrain, hch.op? hno, hx]
    rfl
  have hx' := hf x
  simp only [SwOp.owed, Prod.mk.injEq] at hx'
  obtain ⟨hxno, hdesc, hheld, hrest, hcore⟩ := hx'
  rw [hop, ops_opDone _ _ _ (by rwa [hdesc]) (hheld.trans hh) (hrest.trans hr) (hcore.trans hc), hxno]
  exact hch.filter_ne hno

end Sys2Proof.Machine

open Sys2Proof Sys2Proof.Machine

/-- Settles O42, step by step: validation (`execSwageOpValidate_leaves`, `opValidate_eq`), loading (`sets_opLoaded`), passes
(`passComplete_turns`, `op?_passComplete_last`), the shadow load (`op?_shadowLoaded`) and the drain (`opDrained_done`,
`ops_lastDrain_opDone`). -/
theorem swageOperationsRun : Obligations.SwageOperationsRun := by
  intro s a x
  refine ⟨fun h hu => ⟨execSwageOpValidate_waits h hu, fun hc y hy => ?_⟩,
    fun h => ⟨fun hr => ?_, fun hr => ⟨?_, fun hx hq _ hs => ?_⟩⟩,
    fun h hx => ⟨fun hc => ?_, fun hs hw hb hr => ⟨fun hlt => ?_, fun hq hl => ?_⟩, fun hn => ?_, fun t y ht hy => ?_⟩, ?_⟩
  · have hdo := execSwageOpValidate_leaves h hu hc
    rw [opValidate_eq hy] at hdo
    refine ⟨fun hf => ?_, fun hf hd => ?_, fun hf hd => ⟨fun h0 => ?_, fun hm hn hun => ?_, fun hm hn hun => ?_⟩⟩
    · rwa [if_neg (by simp [hf]), if_pos hf] at hdo
    · rwa [if_neg (by simp [hd]), if_neg (by simp [hf]), if_pos hd] at hdo
    · rwa [if_neg (by rcases h0 with h0 | h0 <;> simp [h0]), if_neg (by simp [hf]), if_neg (by simp [hd]), if_pos h0] at hdo
    · rwa [if_pos (by simp [hf, hd, hm, hn, hun])] at hdo
    · rwa [if_neg (by simp [hun]), if_neg (by simp [hf]), if_neg (by simp [hd]), if_neg (by simp [hm, hn])] at hdo
  · exact (execSwageLoadComplete_eq h).trans (if_neg (by simp [hr]))
  · exact (execSwageLoadComplete_eq h).trans (if_pos hr)
  · obtain ⟨y, hy, hsets⟩ := Option.map_eq_some_iff.mp (sets_opLoaded hx hq hs)
    simp only [SwOp.sets, Prod.mk.injEq] at hsets
    exact ⟨y, hy, hsets⟩
  · exact (execSwagePassComplete_does s a).trans_eq (passComplete_idle h hc)
  · obtain ⟨hgoes, y, hy⟩ := passComplete_turns h hs hw hb hr hx hlt
    exact ⟨y, (execSwagePassComplete_does s a).trans_eq hgoes, hy⟩
  · obtain ⟨y, hy⟩ := op?_passComplete_last h hs hw hb hr hx hq hl
    exact ⟨_, y, execSwagePassComplete_does s a, hy⟩
  · exact (execShadowLoadComplete_does s a).trans_eq (shadowLoaded_none h hn)
  · have hop := op?_shadowLoaded h hx ht hy
    refine ⟨_, execShadowLoadComplete_does s a, fun hs => ?_, fun hs => ?_, fun _ hn => ?_⟩
    · rwa [if_neg (by simp [hs])] at hop
    · rwa [if_pos hs] at hop
    · subst hy hn
      exact SwOp.turn_loaded rfl ht
  · rintro h ls rfl
    refine ⟨fun hr => (execSwageDrainComplete_does s a).trans_eq (opDrained_stopped h hr), ?_⟩
    rintro hr r v hl hv
    refine ⟨fun hw => (execSwageDrainComplete_does s a).trans_eq (opDrained_done h hr hl hv hw), fun hs hg hh hre hc hx => ?_⟩
    rw [hv, hl]
    exact ops_lastDrain_opDone hx hs hg hh hre hc _ _ _
end

section
/-! SUPPORT. Clause cores (10 R441 to R446): what a core's state reads as after a change, base instructions and the halt, with the
theorem that settles O33. -/

namespace Sys2Proof.Machine

/-! ### The state of a core -/

/-- The value set last at a key is the one kept. -/
theorem AMap.set_set {α : Type} (m : AMap α) (q : Nat) (x y : α) : (m.set q x).set q y = m.set q y := by
  induction m with
  | nil => simp [AMap.set]
  | cons kv m ih =>
    obtain ⟨k, v⟩ := kv
    by_cases hk : k = q
    · simp [AMap.set, hk]
    · by_cases hlt : q < k <;> simp [AMap.set, hk, hlt, ih]

@[simp] theorem core_setCore_self (s : Sw) (j : Nat) (c : Core) : (s.setCore j c).core j = c := AMap.getD_put_self ..

theorem core_setCore_ne (s : Sw) {j k : Nat} (c : Core) (h : j ≠ k) : (s.setCore j c).core k = s.core k :=
  AMap.getD_put_ne _ _ _ _ _ _ h

/-- Of two changes of a core that runs the second one counts. -/
theorem setCore_setCore (s : Sw) (j : Nat) {c e : Core} (hc : c.running = true) (he : e.running = true) :
    (s.setCore j c).setCore j e = s.setCore j e := by
  have hne {x : Core} (hx : x.running = true) : x ≠ {} := fun h => by rw [h] at hx; cases hx
  simp only [Sw.setCore, AMap.put, if_neg (hne hc), if_neg (hne he), AMap.set_set]

@[simp] theorem Core.setReg_pc (c : Core) (r v : Nat) : (c.setReg r v).pc = c.pc := by unfold Core.setReg; split <;> rfl
@[simp] theorem Core.setReg_mem (c : Core) (r v : Nat) : (c.setReg r v).mem = c.mem := by unfold Core.setReg; split <;> rfl
@[simp] theorem Core.setReg_evq (c : Core) (r v : Nat) : (c.setReg r v).evq = c.evq := by unfold Core.setReg; split <;> rfl
@[simp] theorem Core.setReg_running (c : Core) (r v : Nat) : (c.setReg r v).running = c.running := by unfold Core.setReg; split <;> rfl

/-- Register x0 stays 0 (10 R441). -/
theorem Core.reg_setReg_self (c : Core) (r v : Nat) : (c.setReg r v).reg r = if r = 0 then 0 else v % 2 ^ 32 := by
  by_cases h : r = 0 <;> simp [Core.reg, Core.setReg, h]

/-- The same for a register given as the operand bits of an instruction. -/
theorem Core.reg_setReg_operand (c : Core) (rd : BitVec 5) (v : Nat) :
    (c.setReg rd.toNat v).reg rd.toNat = if rd = 0 then 0 else v % 2 ^ 32 :=
  (Core.reg_setReg_self ..).trans (ite_congr (propext (BitVec.toNat_eq (y := 0)).symm) (fun _ => rfl) fun _ => rfl)

theorem Core.reg_setReg_ne (c : Core) {r q : Nat} (v : Nat) (h : q ≠ r) : (c.setReg r v).reg q = c.reg q := by
  by_cases hr : r = 0
  · rw [Core.setReg, if_pos hr]
  · simp [Core.reg, Core.setReg, hr, AMap.getD_put_ne _ _ _ _ _ _ h.symm]

@[simp] theorem Core.adv_reg (c : Core) (n r : Nat) : (c.adv n).reg r = c.reg r := rfl
@[simp] theorem Core.adv_pc (c : Core) (n : Nat) : (c.adv n).pc = (c.pc + n) % 2 ^ 32 := rfl
@[simp] theorem Core.adv_mem (c : Core) (n : Nat) : (c.adv n).mem = c.mem := rfl
@[simp] theorem Core.adv_evq (c : Core) (n : Nat) : (c.adv n).evq = c.evq := rfl
@[simp] theorem Core.adv_running (c : Core) (n : Nat) : (c.adv n).running = c.running := rfl

theorem core_coreGoes (s : Sw) (j : CoreId) (rd v : Nat) : (s.coreGoes j rd v).core j = ((s.core j).setReg rd v).adv 4 :=
  core_setCore_self ..

/-- An extension that ends after it has changed the core. -/
theorem coreGoes_setCore (s : Sw) (j : CoreId) {c : Core} (rd v : Nat) (hc : c.running = true) :
    (s.setCore j c).coreGoes j rd v = s.setCore j ((c.setReg rd v).adv 4) := by
  rw [Sw.coreGoes, core_setCore_self, setCore_setCore _ _ hc (by simpa using hc)]

theorem coreReady_running {s : Sw} {j : CoreId} (h : s.coreReady j = true) : (s.core j).running = true := by
  simp only [Sw.coreReady, Bool.and_eq_true] at h
  exact h.1.1.1

/-! ### Base instructions (10 R441, R446) -/

/-- The admission queues are scanned in vain where they are empty (10 R421). -/
theorem admitScan_empty {s : Sw} (h : s.anv.admq = []) : s.admitScan = s := by
  simp [Sw.admitScan, h, forN]

section
variable {s : State} {j : CoreId}

theorem execRv32imcInstruction_idle (h : s.sw.coreReady j = false) : exec (.rv32imcInstruction j) s = .next s := by
  change execRv32imcInstruction j s = _
  rw [execRv32imcInstruction, h]
  rfl

theorem execRv32imcInstruction_go {c : Core} (h : s.sw.coreReady j = true) (hc : (s.sw.core j).step = .go c) :
    Does (.rv32imcInstruction j) s (s.sw.setCore j c) := by
  change execRv32imcInstruction j s = _
  rw [execRv32imcInstruction, h, hc]
  rfl

theorem execRv32imcInstruction_halt (h : s.sw.coreReady j = true) (hc : (s.sw.core j).step = .halt) :
    Does (.rv32imcInstruction j) s (s.sw.coreHalts j) := by
  change execRv32imcInstruction j s = _
  rw [execRv32imcInstruction, h, hc]
  rfl
end

theorem leNat_replicate_zero (n : Nat) : leNat (List.replicate n 0) = 0 := by
  induction n with
  | zero => rfl
  | succ n ih => rw [List.replicate_succ, leNat, ih]; rfl

theorem leNat_memRds_zero {m : List Host.Cell} (h : ∀ a, memRd m a = 0) (a n : Nat) : leNat (memRds m a n) = 0 := by
  simp only [memRds, h, List.map_const', List.length_range, leNat_replicate_zero]

/-- An instruction of zero bytes is illegal, wherever the pc stands (10 R446). -/
theorem Core.step_zero {c : Core} (h : ∀ a, memRd c.mem a = 0) : c.step = .halt := by
  have hf : c.fetch = none ∨ c.fetch = some 0 := by
    simp only [Core.fetch, leNat_memRds_zero h]
    split
    · exact .inl rfl
    · exact .inr rfl
  rcases hf with hf | hf <;> rw [Core.step, hf]
  rfl

/-- The part of a halt that is there whatever the core serves: the core stops, and its fault is due. -/
def Sw.coreStops (s : Sw) (j : CoreId) : Sw :=
  (s.setCore j { s.core j with running := false, halted := true, wait := .run }).fault 0x30 (12 + j / 16) (some (s.coreTen j)) (detC 0 0)
    (auxC 0xFFFF j (s.core j).pc)

/-- Where no group entry is in use and no packet waits, nothing else follows. -/
theorem coreHalts_alone {s : Sw} (j : CoreId) (hg : s.elems L.collGroup = []) (hq : s.anv.admq = []) :
    s.coreHalts j = s.coreStops j := by
  have hf : (s.coreStops j).coreFails j = s.coreStops j := by
    have hg' : (s.coreStops j).elems L.collGroup = [] := hg
    simp [Sw.coreFails, hg']
  exact (congrArg Sw.admitScan hf).trans (admitScan_empty hq)

end Sys2Proof.Machine

open Sys2Proof Sys2Proof.Machine

/-- Settles O33: the command follows the step of the core, which of zero bytes is a halt (`Core.step_zero`) that stops this core alone
(`coreHalts_alone`). -/
theorem clauseCoresRun : Obligations.ClauseCoresRun := by
  refine fun s j => ⟨execRv32imcInstruction_idle, fun c => execRv32imcInstruction_go, execRv32imcInstruction_halt, fun h hg hq hz => ?_⟩
  have hdo := execRv32imcInstruction_halt h (Core.step_zero hz)
  rw [coreHalts_alone j hg hq] at hdo
  have hcore : (s.sw.coreStops j).core j = { s.sw.core j with running := false, halted := true, wait := .run } := core_setCore_self ..
  refine ⟨_, hdo, ?_, ?_, ?_, rfl, rfl, fun k hk => core_setCore_ne _ _ fun e => hk (Fin.ext e.symm)⟩ <;> rw [hcore]
end

section
/-! SUPPORT. The extensions of Table 10.6: what each answers, case by case, with the theorems that settle O34 and O35. -/

namespace Sys2Proof.Machine

/-! ### Local memory (10 R441, R446) -/

section
variable {s : Sw} {j : CoreId} {a n : Nat} {f : Bytes → Except Nat Sw}

theorem withLocal_inside (h : a + n ≤ 65536) : s.withLocal j a n f = f (memRds (s.core j).mem a n) := if_pos (decide_eq_true h)

theorem withLocal_outside (h : 65536 < a + n) : s.withLocal j a n f = .ok (s.coreHalts j) :=
  if_neg fun hl => Nat.not_le.mpr h (of_decide_eq_true hl)

/-- An access completes that completes inside local memory: outside it the core halts. -/
theorem withLocal_completes (h : a + n ≤ 65536 → ∃ w, f (memRds (s.core j).mem a n) = .ok w) :
    ∃ w, s.withLocal j a n f = .ok w := by
  by_cases hl : a + n ≤ 65536
  · rw [withLocal_inside hl]
    exact h hl
  · exact ⟨_, withLocal_outside (Nat.not_le.mp hl)⟩
end

/-! ### Events (10 R444) -/

/-- The core with its oldest event, `e`, in local memory at `a` and its kind in `rd`. -/
def Core.eventTaken (c : Core) (rd a : Nat) (e : Bytes) : Core :=
  ({ c with evq := c.evq.drop 1, mem := memWrs c.mem a e }.setReg rd (byteAt e 6).toNat).adv 4

/-- A core that takes an event makes room for one that waited (10 R444). -/
theorem takeEvent_eq {s : Sw} {j : CoreId} (h : s.coreReady j = true) (rd a : Nat) (e : Bytes) :
    s.takeEvent j rd a e = (s.setCore j ((s.core j).eventTaken rd a e)).evFlush.admitScan :=
  congrArg (fun w : Sw => w.evFlush.admitScan) (coreGoes_setCore s j _ _ (coreReady_running h))

/-- What the core reads of the event: a kind is one byte. -/
theorem eventTaken_kind (c : Core) (rd : BitVec 5) (a : Nat) (e : Bytes) :
    (c.eventTaken rd.toNat a e).reg rd.toNat = if rd = 0 then 0 else (byteAt e 6).toNat := by
  rw [Core.eventTaken, Core.adv_reg, Core.reg_setReg_operand, Nat.mod_eq_of_lt (by omega)]

section
variable {s : Sw} {j : CoreId} {a : Nat} {e : Bytes} {es : List Bytes} (rd : Nat)

theorem opEvwait_event (ha : a + 16 ≤ 65536) (he : (s.core j).evq = e :: es) : s.opEvwait j rd a = .ok (s.takeEvent j rd a e) := by
  rw [Sw.opEvwait, withLocal_inside ha, he]

theorem opEvwait_empty (ha : a + 16 ≤ 65536) (he : (s.core j).evq = []) :
    s.opEvwait j rd a = .ok (s.setCore j { (s.core j).adv 4 with wait := .event a rd }) := by
  rw [Sw.opEvwait, withLocal_inside ha, he]

theorem opEvpoll_event (ha : a + 16 ≤ 65536) (he : (s.core j).evq = e :: es) : s.opEvpoll j rd a = .ok (s.takeEvent j rd a e) := by
  rw [Sw.opEvpoll, he]
  exact withLocal_inside ha

theorem opEvpoll_empty (he : (s.core j).evq = []) : s.opEvpoll j rd a = .ok (s.coreGoes j rd 0) := by
  rw [Sw.opEvpoll, he]
end

theorem opEvwait_completes (s : Sw) (j : CoreId) (rd a : Nat) : ∃ w, s.opEvwait j rd a = .ok w := by
  refine withLocal_completes fun _ => ?_
  split <;> exact ⟨_, rfl⟩

theorem opEvpoll_completes (s : Sw) (j : CoreId) (rd a : Nat) : ∃ w, s.opEvpoll j rd a = .ok w := by
  unfold Sw.opEvpoll
  split
  · exact ⟨_, rfl⟩
  · exact withLocal_completes fun _ => ⟨_, rfl⟩

/-! ### Packets -/

/-- A control packet of the core's tenancy that is well formed leaves (log 46). -/
theorem opPktsend_control {s : Sw} {j : CoreId} {a : Nat} {w : Word256} (rd : Nat) (ha : a + 32 ≤ 65536)
    (hw : w = BitVec.ofNat 256 (leNat (memRds (s.core j).mem a 32))) (hc : pCtl w = 1) (hm : ctlMalformed w = false)
    (ht : cTen w = s.coreTen j) :
    s.opPktsend j rd a = .ok ((s.sendCtl (j.val / 16) (sealPkt w) .both).coreGoes j rd 0) := by
  have hfit : s.pktFits j w = true := by simp [Sw.pktFits, hc, hm, ht]
  rw [Sw.opPktsend, withLocal_inside ha]
  simp only [← hw, hfit, hc, Bool.not_true, Bool.false_eq_true, if_false, if_true]

theorem opPktsend_completes (s : Sw) (j : CoreId) (rd a : Nat) : ∃ w, s.opPktsend j rd a = .ok w := by
  refine withLocal_completes fun _ => ?_
  dsimp only
  split
  · exact ⟨_, rfl⟩
  split
  · exact ⟨_, rfl⟩
  · refine withLocal_completes fun _ => ?_
    split <;> exact ⟨_, rfl⟩

/-! ### Billets (04 R162, R163, R178) -/

section
variable (s : Sw) (j : CoreId) (rd n : Nat)

theorem opBalloc_completes : ∃ w, s.opBalloc j rd n = .ok w := by
  unfold Sw.opBalloc
  dsimp only
  split <;> exact ⟨_, rfl⟩

theorem opBallocn_completes : ∃ w, s.opBallocn j rd n = .ok w := by
  unfold Sw.opBallocn
  dsimp only
  split <;> exact ⟨_, rfl⟩

variable {s j n}

/-- Both requests give the null handle outside the range of R163. -/
theorem opBalloc_out_of_range (h : n = 0 ∨ 65536 < n) :
    s.opBalloc j rd n = .ok (s.coreGoes j rd nullHandle) ∧ s.opBallocn j rd n = .ok (s.coreGoes j rd nullHandle) := by
  simp only [Sw.opBalloc, Sw.opBallocn, allocate_out_of_range _ _ _ _ _ h, and_self]

/-- Both give the handle of a billet that is served. -/
theorem opBalloc_got {h : Nat} {w : Sw} (e : s.allocate (j.val / 16) (.core j) (some (BitVec.ofNat 8 (s.coreTen j))) n = .got h w) :
    s.opBalloc j rd n = .ok (w.coreGoes j rd h) ∧ s.opBallocn j rd n = .ok (w.coreGoes j rd h) := by
  simp only [Sw.opBalloc, Sw.opBallocn, e, and_self]
end

/-! ### MOVE (04 R178; log 45, log 131) -/

theorem hbmCopy_completes (s : Sw) (j : CoreId) (rd o a n : Nat) (toLocal : Bool) : ∃ w, s.hbmCopy j rd o a n toLocal = .ok w := by
  unfold Sw.hbmCopy
  dsimp only
  split
  · exact ⟨_, rfl⟩
  split
  · split <;> exact ⟨_, rfl⟩
  · exact ⟨_, rfl⟩

theorem bilCopy_completes {s : Sw} {h : Nat} (j : CoreId) (rd o a n : Nat) (toLocal : Bool) (hf : s.bil.freed.contains h = false) :
    ∃ w, s.bilCopy j rd h o a n toLocal = .ok w := by
  unfold Sw.bilCopy
  rw [hf, if_neg (by decide)]
  split
  · exact ⟨_, rfl⟩
  dsimp only
  split <;> exact ⟨_, rfl⟩

section
variable {s : Sw} {j : CoreId} {a r : Nat} (rd : Nat) (hr : r = leNat (memRds (s.core j).mem a 16))
include hr

/-- Only a billet that a core has freed leaves MOVE without a meaning. -/
theorem opMove_completes (hf : Config.moveField 1 r % 2 = 1 → s.bil.freed.contains (Config.moveField 3 r) = false) :
    ∃ w, s.opMove j rd a = .ok w := by
  refine withLocal_completes fun _ => ?_
  rw [← hr]
  refine withLocal_completes fun _ => ?_
  by_cases hb : Config.moveField 1 r % 2 = 1
  · rw [if_pos hb]
    exact bilCopy_completes j _ _ _ _ _ (hf hb)
  · rw [if_neg hb]
    exact hbmCopy_completes ..

theorem opMove_freed (ha : a + 16 ≤ 65536) (hl : Config.moveField 2 r + Config.moveField 5 r ≤ 65536)
    (hb : Config.moveField 1 r % 2 = 1) (hf : s.bil.freed.contains (Config.moveField 3 r) = true) : s.opMove j rd a = .error 178 := by
  rw [Sw.opMove, withLocal_inside ha, ← hr]
  dsimp only
  rw [withLocal_inside hl, if_pos hb]
  exact if_pos hf
end

/-! ### Jobs (08 R324, R328; 09 R360, R363) -/

/-- A job of core `j` more in the queue of stack `n`, with the next number and the index to post. -/
def Sw.coreJobQueued (s : Sw) (j : CoreId) (n d index : Nat) : Sw :=
  { s with
    jobs := s.jobs ++ [{ no := s.jobNo, stack := n, ten := s.coreTen j, desc := d, cls := 0, core := some (j.val, index) }]
    jobNo := s.jobNo + 1 }

/-- The same for an operation of array `n`. -/
def Sw.coreOpQueued (s : Sw) (j : CoreId) (n d index : Nat) : Sw :=
  { s with
    ops := s.ops ++ [{ no := s.opNo, array := n, ten := s.coreTen j, desc := d, cls := 0, core := some (j.val, index) }]
    opNo := s.opNo + 1 }

/-- A core that serves no group with update entries submits its descriptors as they are (10 R437). -/
theorem listJob_alone {s : Sw} {j : CoreId} (hu : ∀ e ∈ s.elems L.collGroup, gCore e.2 ≠ j.val ∨ gUcount e.2 = 0) (d : Bytes) :
    s.listJob j d = (leNat d, s) := by
  have hnone : (s.elems L.collGroup).filter
      (fun e => gValid e.2 && gProg e.2 != 0 && gCore e.2 == j && decide (0 < gUcount e.2)) = [] :=
    List.filter_eq_nil_iff.mpr fun e he => by rcases hu e he with h | h <;> simp [h]
  simp [Sw.listJob, hnone]

section
variable {s : Sw} {j : CoreId} {a d n : Nat} (rd b : Nat) (ha : a + 64 ≤ 65536) (hd : d = leNat (memRds (s.core j).mem a 64))
include ha hd

theorem opHjob_full (hn : n = (s.hbmStack (jPblk d)).1) (hu : ∀ e ∈ s.elems L.collGroup, gCore e.2 ≠ j.val ∨ gUcount e.2 = 0)
    (hf : 256 ≤ s.jobsQueued n) : s.opHjob j rd a b = .ok (s.coreGoes j rd 5) := by
  rw [Sw.opHjob, withLocal_inside ha]
  simp only [listJob_alone hu, ← hd, Sw.jobSubmit, ← hn, if_pos hf]

theorem opHjob_room (hn : n = (s.hbmStack (jPblk d)).1) (hu : ∀ e ∈ s.elems L.collGroup, gCore e.2 ≠ j.val ∨ gUcount e.2 = 0)
    (hf : s.jobsQueued n < 256) (hb : s.blkRst.contains (.stack (Fin.ofNat 6 n)) = false) :
    s.opHjob j rd a b = .ok ((s.coreJobQueued j n d b).coreGoes j rd 0) := by
  rw [Sw.opHjob, withLocal_inside ha]
  simp only [listJob_alone hu, ← hd, Sw.jobSubmit, ← hn, if_neg (Nat.not_le.mpr hf), hb]
  rfl

theorem opSjob_full (hn : n = wArray d) (hf : 16 ≤ s.opsQueued n) : s.opSjob j rd a b = .ok (s.coreGoes j rd 5) := by
  rw [Sw.opSjob, withLocal_inside ha, ← hd, opSubmit_full _ _ _ (hn ▸ hf)]

theorem opSjob_room (hn : n = wArray d) (hf : s.opsQueued n < 16) (hb : s.blkRst.contains (.array (Fin.ofNat 16 n)) = false) :
    s.opSjob j rd a b = .ok ((s.coreOpQueued j n d b).coreGoes j rd 0) := by
  rw [Sw.opSjob, withLocal_inside ha]
  simp only [← hd, Sw.opSubmit, ← hn, if_neg (Nat.not_le.mpr hf), hb]
  rfl
end

theorem opHjob_completes (s : Sw) (j : CoreId) (rd a b : Nat) : ∃ w, s.opHjob j rd a b = .ok w := by
  refine withLocal_completes fun _ => ?_
  dsimp only
  split <;> exact ⟨_, rfl⟩

theorem opSjob_completes (s : Sw) (j : CoreId) (rd a b : Nat) : ∃ w, s.opSjob j rd a b = .ok w := by
  refine withLocal_completes fun _ => ?_
  split <;> exact ⟨_, rfl⟩

/-! ### CABORT, GATHER, TIME (10 R430, R438, R441) -/

theorem opCabort_denied {s : Sw} {j : CoreId} {a : Nat} (b : Nat) (h : s.coreGroup j (fld a 0 12) = false) :
    s.opCabort j a b = .ok ((s.inc (L.collDenied.at s.anvilLow)).coreGoes j 0 0) := by
  simp only [Sw.opCabort, h, Bool.false_eq_true, if_false]

theorem opGather_completes (s : Sw) (j : CoreId) (a b : Nat) : ∃ w, s.opGather j a b = .ok w := by
  unfold Sw.opGather
  dsimp only
  split <;> exact ⟨_, rfl⟩

/-! ### The commands -/

/-- An extension of a core that executes ends with what the extension makes of the switch. -/
theorem coreDoesSw_ok {s : State} {j : CoreId} {r : Except Nat Sw} {w : Sw} (h : s.sw.coreReady j = true) (hr : r = .ok w) :
    s.coreDoesSw j r = s.ends w := by
  rw [State.coreDoesSw, if_pos h, hr]
  rfl

theorem coreDoesSw_error {s : State} {j : CoreId} {r : Except Nat Sw} {n : Nat} (h : s.sw.coreReady j = true) (hr : r = .error n) :
    s.coreDoesSw j r = .fault (.undefinedUse n) := by
  rw [State.coreDoesSw, if_pos h, hr]
  rfl

/-- The command `c` of an extension that completes does what the extension makes of the switch. -/
theorem does_of_completes {c : Instr} {s : State} {j : CoreId} {r : Except Nat Sw} (hc : exec c s = s.coreDoesSw j r)
    (h : s.sw.coreReady j = true) (hr : ∃ w, r = .ok w) : ∃ w, r = .ok w ∧ Does c s w := by
  obtain ⟨w, hw⟩ := hr
  exact ⟨w, hw, hc.trans (coreDoesSw_ok h hw)⟩

end Sys2Proof.Machine

open Sys2Proof Sys2Proof.Machine

/-- Settles O34: every extension completes (`does_of_completes`) but for the two uses of a billet that R178 leaves undefined. -/
theorem clauseExtensionsComplete : Obligations.ClauseExtensionsComplete := by
  rintro s j rd a b A B h rfl rfl
  refine ⟨does_of_completes rfl h (opEvwait_completes ..), does_of_completes rfl h (opEvpoll_completes ..),
    does_of_completes rfl h (opPktsend_completes ..), does_of_completes rfl h (opBalloc_completes ..),
    does_of_completes rfl h (opBallocn_completes ..), does_of_completes rfl h (opHjob_completes ..),
    does_of_completes rfl h (opSjob_completes ..), does_of_completes rfl h ⟨_, rfl⟩, does_of_completes rfl h (opGather_completes ..),
    does_of_completes rfl h ⟨_, rfl⟩, ?_, fun hb => coreDoesSw_error h (if_neg (by rw [hb]; decide)),
    fun r hr => ⟨fun hf => does_of_completes rfl h (opMove_completes _ hr hf),
      fun ha hl hb hf => coreDoesSw_error h (opMove_freed _ hr ha hl hb hf)⟩⟩
  rintro u rfl hb
  exact coreDoesSw_ok h (if_pos hb)

/-- Settles O35, extension by extension: what it answers (`opEvwait_event` and the others) is what its command does (`coreDoesSw_ok`). -/
theorem clauseExtensionResults : Obligations.ClauseExtensionResults := by
  rintro s j rd a b A B t h rfl rfl rfl
  have hdo {r : Except Nat Sw} {w : Sw} (hr : r = .ok w) : s.coreDoesSw j r = s.ends w := coreDoesSw_ok h hr
  refine ⟨?time, fun ha => ⟨?event, fun he => hdo (opEvwait_empty _ ha he)⟩, fun he => hdo (opEvpoll_empty _ he),
    fun w ha hw hc hm ht => hdo (opPktsend_control _ ha hw hc hm ht), fun ha => ?null, fun k w hk => ?got,
    fun d n ha hd => ⟨fun hn hu => ?hjob, fun hn => ?sjob⟩, fun hg => hdo (opCabort_denied _ hg),
    fun ha => ⟨hdo (withLocal_outside ha), hdo (withLocal_outside ha)⟩, fun ha => hdo (withLocal_outside ha),
    fun ha => ⟨hdo (withLocal_outside ha), hdo (withLocal_outside ha)⟩⟩
  case time =>
    refine ⟨_, hdo rfl, ?_, ?_, ?_, fun r hr => ?_⟩
    · rw [core_coreGoes]; rfl
    · rw [core_coreGoes, Core.adv_pc, Core.setReg_pc]
    · rw [core_coreGoes, Core.adv_reg, Core.reg_setReg_operand, apply_ite (· % 2 ^ 32)]
    · rw [core_coreGoes, Core.adv_reg, Core.reg_setReg_ne _ _ hr]
  case event =>
    intro e es he
    have hc := core_setCore_self s.sw j ((s.sw.core j).eventTaken rd.toNat (s.xreg j a) e)
    refine ⟨_, takeEvent_eq h _ _ _ ▸ hdo (opEvwait_event _ ha he), takeEvent_eq h _ _ _ ▸ hdo (opEvpoll_event _ ha he),
      ?_, ?_, ?_, ?_, ?_⟩ <;> rw [hc]
    · simp [Core.eventTaken, he]
    · simp [Core.eventTaken]
    · exact eventTaken_kind ..
    · simp [Core.eventTaken]
  case null =>
    obtain ⟨hw, hn⟩ := opBalloc_out_of_range rd.toNat ha
    exact ⟨hdo hw, hdo hn⟩
  case got =>
    obtain ⟨hw, hn⟩ := opBalloc_got rd.toNat hk
    exact ⟨hdo hw, hdo hn⟩
  case hjob => exact ⟨fun hf => hdo (opHjob_full _ _ ha hd hn hu hf), fun hf hb => hdo (opHjob_room _ _ ha hd hn hu hf hb)⟩
  case sjob => exact ⟨fun hf => hdo (opSjob_full _ _ ha hd hn hf), fun hf hb => hdo (opSjob_room _ _ ha hd hn hf hb)⟩
end

section
/-! SUPPORT. Packets of a collective at the service ID (10 R411 to R439): which are taken, what a packet from the parent must pass, and
what a denied or stale one leaves, with the theorems that settle O27, O28 and O29. -/

namespace Sys2Proof.Machine

/-! ### Packets of members -/

section
variable {s : State} {h : Word256} {pay : Bytes}

/-- What a packet of a collective finds at the service ID: bound for it, waiting there, its group's machinery free (10 R444). -/
def State.takesColl (s : State) (h : Word256) (pay : Bytes) : Prop :=
  hDst h = s.sw.svcEp ∧ s.sw.svcHas h pay = true ∧ s.sw.collWaits (kGroup h) = false

theorem execCollDescriptorReceive_does (ht : s.takesColl h pay) (hl : kLevel h = 1) (hk : pKind h = 4 ∨ pKind h = 5) :
    Does (.collDescriptorReceive h pay) s ((s.sw.takeKeep h pay).2.rxDescriptor (s.sw.takeKeep h pay).1).admitScan := by
  obtain ⟨hd, hs, hw⟩ := ht
  exact if_pos ⟨hl, hk, hd, hs, by rw [hw]; rfl⟩

theorem execAnvilContribution_taken (ht : s.takesColl h pay) (hk : pKind h = 4 ∨ pKind h = 5) :
    exec (.anvilContribution h pay) s =
      if kLevel h = 0 then s.ends ((s.sw.takeKeep h pay).2.rxContrib (s.sw.takeKeep h pay).1).admitScan
      else if kLevel h = 2 ∧ pKind h = 5 then s.ends ((s.sw.takeKeep h pay).2.rxGathered (s.sw.takeKeep h pay).1).admitScan
      else .next s := by
  obtain ⟨hd, hs, hw⟩ := ht
  refine if_neg ?_
  rw [hs, hw]
  rintro (hn | hn | hn | hn)
  · exact hk.elim hn.1 hn.2
  · exact hn hd
  · cases hn
  · cases hn

theorem execAnvilContribution_contrib (ht : s.takesColl h pay) (hl : kLevel h = 0) (hk : pKind h = 4 ∨ pKind h = 5) :
    Does (.anvilContribution h pay) s ((s.sw.takeKeep h pay).2.rxContrib (s.sw.takeKeep h pay).1).admitScan :=
  (execAnvilContribution_taken ht hk).trans (if_pos hl)

theorem execAnvilContribution_gathered (ht : s.takesColl h pay) (hl : kLevel h = 2) (hk : pKind h = 5) :
    Does (.anvilContribution h pay) s ((s.sw.takeKeep h pay).2.rxGathered (s.sw.takeKeep h pay).1).admitScan :=
  (execAnvilContribution_taken ht (.inr hk)).trans ((if_neg (by omega)).trans (if_pos ⟨hl, hk⟩))

/-- A packet bound elsewhere, not there, or whose group's machinery waits is taken by neither command (log 135). -/
theorem exec_coll_of_not_takes (hn : hDst h ≠ s.sw.svcEp ∨ s.sw.svcHas h pay = false ∨ s.sw.collWaits (kGroup h) = true) :
    exec (.anvilContribution h pay) s = .next s ∧ exec (.collDescriptorReceive h pay) s = .next s := by
  constructor
  · refine if_pos (.inr ?_)
    rcases hn with hd | hs | hw
    · exact .inl hd
    · exact .inr (.inl (by rw [hs]; rfl))
    · exact .inr (.inr hw)
  · refine if_neg fun ⟨_, _, hd, hs, hw⟩ => ?_
    rcases hn with hn | hn | hn
    · exact hn hd
    · rw [hn] at hs; cases hs
    · rw [hn] at hw; cases hw

theorem execWithdrawReceive_waits (hw : s.sw.collWaits (wGroup h) = true) : exec (.withdrawReceive h) s = .next s := if_pos (.inr hw)

/-- A WITHDRAW that is neither denied nor stale aborts on every die, and is carried on where a slot aborts (07 R288, R295). -/
theorem execWithdrawReceive_does (hk : pKind h = 5) (hw : s.sw.collWaits (wGroup h) = false)
    (hd : (s.sw.takeCtl h).collDenied (wGroup h) (cTen h) (pSrc h) none = false)
    (hs : (s.sw.takeCtl h).collStaleFor (wGroup h) (wCseq h) = false) {u : Sw}
    (hu : u = (s.sw.takeCtl h).abortAll (cTen h) (wGroup h) (wCseq h) 4 h) :
    Does (.withdrawReceive h) s
      (if (u.collSlots (cTen h) (wGroup h) (wCseq h)).any (fun cy => cy.2.st == .aborting)
       then u.aborted (cTen h) (wGroup h) (wCseq h) else u).admitScan := by
  subst hu
  change execWithdrawReceive h s = _
  simp only [execWithdrawReceive, hk, hw, hd, hs, ne_eq, not_true_eq_false, Bool.false_eq_true, or_self, if_false]
  rfl

theorem execCollAbortReceive_does (hk : pKind h = 4) (ho : oOp h = 2) (hw : s.sw.collWaits (oGroup h) = false)
    (hd : (s.sw.takeCtl h).collDenied (oGroup h) (cTen h) (pSrc h) none = false) :
    Does (.collAbortReceive h) s ((s.sw.takeCtl h).abortColl (cTen h) (oGroup h) (oCseq h) (oStatus h) h) := by
  change execCollAbortReceive h s = _
  simp only [execCollAbortReceive, hk, ho, hw, hd, ne_eq, not_true_eq_false, Bool.false_eq_true, or_self, if_false]
  rfl
end

/-! ### Packets from the parent -/

/-- A packet of tenancy `t`, of collective `q` of group `g`, from `src`, as one from the parent: counted at die `d` where it is denied or
stale, else acted on, which makes `w` (10 R411, R419). -/
def Sw.parentTakes (v : Sw) (g t src q d : Nat) (w : Sw) : Sw :=
  if v.fromParent g t src = false then v.inc (L.collDenied.at d)
  else if v.collStaleFor g q = true then v.inc (L.collStale.at d)
  else w

/-- A block from the parent at the live slot of its collective, if there is one: a digest that differs aborts the slot (10 R415), else
the slot's part is `f`. -/
def Sw.slotTakes (u : Sw) (d t g q : Nat) (h : Word256) (f : Nat → Sw) : Sw :=
  match u.liveSlot d t g q with
  | none => u
  | some x => if u.digestDiffers x q h = true then (u.abortHere x q 1).admitScan else f x

section
variable {v w : Sw} {g t src q d : Nat}

theorem parentTakes_denied (hp : v.fromParent g t src = false) : v.parentTakes g t src q d w = v.inc (L.collDenied.at d) := if_pos hp

theorem parentTakes_stale (hp : v.fromParent g t src = true) (hs : v.collStaleFor g q = true) :
    v.parentTakes g t src q d w = v.inc (L.collStale.at d) := (if_neg (by rw [hp]; decide)).trans (if_pos hs)

theorem parentTakes_acts (hp : v.fromParent g t src = true) (hs : v.collStaleFor g q = false) : v.parentTakes g t src q d w = w :=
  (if_neg (by rw [hp]; decide)).trans (if_neg (by rw [hs]; decide))

/-- The checks as a command makes them, where it ends in each case. -/
theorem ends_parentTakes {s : State} {o : Host.Outcome State Fault Refusal} (ho : o = s.ends w) :
    (if (!v.fromParent g t src) = true then s.ends (v.inc (L.collDenied.at d))
      else if v.collStaleFor g q = true then s.ends (v.collStaleAt d) else o) = s.ends (v.parentTakes g t src q d w) := by
  simp only [ho, Sw.parentTakes, apply_ite s.ends, Bool.not_eq_true']
  rfl

/-- The three cases of a command that takes a packet so. -/
theorem does_of_parentTakes {c : Instr} {s : State} (h : Does c s (v.parentTakes g t src q d w)) :
    (v.fromParent g t src = false → Does c s (v.inc (L.collDenied.at d))) ∧
    (v.fromParent g t src = true → v.collStaleFor g q = true → Does c s (v.inc (L.collStale.at d))) ∧
    (v.fromParent g t src = true → v.collStaleFor g q = false → Does c s w) :=
  ⟨fun hp => by rwa [parentTakes_denied hp] at h, fun hp hs => by rwa [parentTakes_stale hp hs] at h,
    fun hp hs => by rwa [parentTakes_acts hp hs] at h⟩

variable {h : Word256} {f : Nat → Sw} {x : Nat}

theorem slotTakes_none (hx : v.liveSlot d t g q = none) : v.slotTakes d t g q h f = v := by
  rw [Sw.slotTakes, hx]

theorem slotTakes_some (hx : v.liveSlot d t g q = some x) :
    v.slotTakes d t g q h f = if v.digestDiffers x q h = true then (v.abortHere x q 1).admitScan else f x := by
  rw [Sw.slotTakes, hx]

/-- The three cases of a command that brings a block so. -/
theorem does_of_slotTakes {c : Instr} {s : State} (hdo : Does c s (v.slotTakes d t g q h f)) :
    (v.liveSlot d t g q = none → Does c s v) ∧
    (∀ x, v.liveSlot d t g q = some x →
      (v.digestDiffers x q h = true → Does c s (v.abortHere x q 1).admitScan) ∧
      (v.digestDiffers x q h = false → Does c s (f x))) := by
  refine ⟨fun hx => by rwa [slotTakes_none hx] at hdo, fun x hx => ?_⟩
  rw [slotTakes_some hx] at hdo
  exact ⟨fun hd => by rwa [if_pos hd] at hdo, fun hd => by rwa [if_neg (by rw [hd]; decide)] at hdo⟩
end

/-- COMMIT goes on to the child switches (10 R424). -/
def Sw.commitOn (v : Sw) (h : Word256) : Sw :=
  ((v.groupMembers (v.group (oGroup h))).filter Member.child).foldl
    (fun w m => w.sendColl w.anvilLow m.id (cTen h) (oGroup h) (oCseq h) 1 0 0 .both (oDigest h)) v

section
variable {s : State} {h : Word256} {pay : Bytes}

theorem execCollCommitReceive_does {v : Sw} (hv : v = s.sw.takeCtl h) (hk : pKind h = 4) (ho : oOp h = 1)
    (hw : s.sw.collWaits (oGroup h) = false) : Does (.collCommitReceive h) s
      (v.parentTakes (oGroup h) (cTen h) (pSrc h) (oCseq h) v.anvilLow (v.commitOn h)) := by
  subst hv
  exact (if_neg (by simp [hk, ho, hw])).trans (ends_parentTakes rfl)

theorem execCollCompleteReceive_does {v : Sw} (hv : v = s.sw.takeCtl h) (hk : pKind h = 4) (ho : oOp h = 3)
    (hw : s.sw.collWaits (oGroup h) = false) : Does (.collCompleteReceive h) s
      (v.parentTakes (oGroup h) (cTen h) (pSrc h) (oCseq h) v.anvilLow
        (v.rxComplete (cTen h) (oGroup h) (oCseq h) (oStatus h) (oLevel h) (oDigest h))) := by
  subst hv
  exact (if_neg (by simp [hk, ho, hw])).trans (ends_parentTakes rfl)

theorem execCollCommitReceive_waits (hw : s.sw.collWaits (oGroup h) = true) : exec (.collCommitReceive h) s = .next s :=
  if_pos (.inr (.inr hw))

theorem execCollCompleteReceive_waits (hw : s.sw.collWaits (oGroup h) = true) : exec (.collCompleteReceive h) s = .next s :=
  if_pos (.inr (.inr hw))

/-- A block from the parent that is not there, or whose group's machinery waits, is not taken (10 R444). -/
theorem exec_block_of_not_takes (hn : s.sw.svcHas h pay = false ∨ s.sw.collWaits (kGroup h) = true) :
    exec (.resultReceive h pay) s = .next s ∧ exec (.updateBlockReceive h pay) s = .next s := by
  have hn' : (!s.sw.svcHas h pay) = true ∨ s.sw.collWaits (kGroup h) = true := by rwa [Bool.not_eq_true']
  exact ⟨if_pos (.inr (.inr hn')), if_pos (.inr (.inr hn'))⟩

variable {u : Sw} {d : Nat}

theorem execResultReceive_does (hu : u = s.sw.takeIn h pay) (hd : d = u.blockDie (bNum h)) (hk : pKind h = 6) (hl : kLevel h = 0)
    (hs : s.sw.svcHas h pay = true) (hw : s.sw.collWaits (kGroup h) = false) : Does (.resultReceive h pay) s
      (u.parentTakes (kGroup h) (hTen h) (pSrc h) (kCseq h) d
        (u.slotTakes d (hTen h) (kGroup h) (kCseq h) h
          fun x => u.sendResults x (kCseq h) (bNum h) [(bPart h, pay.take (validLen h))])) := by
  subst hu hd
  refine (if_neg (by simp [hk, hl, hs, hw])).trans (ends_parentTakes ?_)
  rw [Sw.slotTakes]
  cases Sw.liveSlot _ _ _ _ _ with
  | none => rfl
  | some x => exact (apply_ite s.ends ..).symm

theorem execUpdateBlockReceive_does (hu : u = s.sw.takeIn h pay) (hd : d = u.blockDie (bNum h)) (hk : pKind h = 6) (hl : kLevel h = 2)
    (hs : s.sw.svcHas h pay = true) (hw : s.sw.collWaits (kGroup h) = false) : Does (.updateBlockReceive h pay) s
      (u.parentTakes (kGroup h) (hTen h) (pSrc h) (kCseq h) d
        (u.slotTakes d (hTen h) (kGroup h) (kCseq h) h
          fun x => u.updateBlock x (kCseq h) (bNum h) [(bPart h, pay.take (validLen h))])) := by
  subst hu hd
  refine (if_neg (by simp [hk, hl, hs, hw])).trans (ends_parentTakes ?_)
  rw [Sw.slotTakes]
  cases Sw.liveSlot _ _ _ _ _ with
  | none => rfl
  | some x => exact (apply_ite s.ends ..).symm
end

/-! ### Denied and stale packets (10 R411, R419) -/

/-- The packet taken is the one asked for. -/
theorem takeKeep_hdr (s : Sw) (h : Word256) (pay : Bytes) : (s.takeKeep h pay).1.hdr = h := by
  unfold Sw.takeKeep
  split
  next x hx =>
    have hx := List.find?_some hx
    exact (of_decide_eq_true hx).1
  · rfl

section
variable {s : Sw} {k : Stored} {h : Word256} (hh : k.hdr = h)
include hh

theorem rxDescriptor_denied (hd : s.collDenied (kGroup h) (hTen h) (pSrc h) (some (pClass h)) = true) :
    s.rxDescriptor k = (s.freeBil k.bil).collDeny s.anvilLow (pSrc h) (hTen h) (kGroup h) (kCseq h) (kDigest h) := by
  subst hh
  exact if_pos hd

theorem rxDescriptor_stale (hd : s.collDenied (kGroup h) (hTen h) (pSrc h) (some (pClass h)) = false)
    (hs : s.collStaleFor (kGroup h) (kCseq h) = true) : s.rxDescriptor k = (s.freeBil k.bil).inc (L.collStale.at s.anvilLow) := by
  subst hh
  exact (if_neg (by rw [hd]; decide)).trans (if_pos hs)

theorem rxContrib_denied (hd : s.collDenied (kGroup h) (hTen h) (pSrc h) (some (pClass h)) = true) :
    s.rxContrib k = (s.freeBil k.bil).collDeny (s.blockDie (bNum h)) (pSrc h) (hTen h) (kGroup h) (kCseq h) (kDigest h) := by
  subst hh
  exact if_pos hd

theorem rxContrib_stale (hd : s.collDenied (kGroup h) (hTen h) (pSrc h) (some (pClass h)) = false)
    (hs : s.collStaleFor (kGroup h) (kCseq h) = true) :
    s.rxContrib k = (s.freeBil k.bil).inc (L.collStale.at (s.blockDie (bNum h))) := by
  subst hh
  exact (if_neg (by rw [hd]; decide)).trans (if_pos hs)
end

/-- The dies of `anvil.dies` are Forge dies. -/
theorem anvilDies_lt {s : Sw} {d : Nat} (h : d ∈ s.anvilDies) : d < 4 := List.mem_range.mp (List.mem_filter.mp h).1

theorem blockDie_lt (s : Sw) (b : Nat) : s.blockDie b < 4 := by
  unfold Sw.blockDie
  rw [List.getD_eq_getElem?_getD]
  cases hx : s.anvilDies[b % s.anvilDies.length]? with
  | none => decide
  | some d => exact anvilDies_lt (List.mem_of_getElem? hx)

theorem anvilLow_lt (s : Sw) : s.anvilLow < 4 := by
  unfold Sw.anvilLow
  cases hx : s.anvilDies with
  | nil => decide
  | cons d ds => exact anvilDies_lt (hx ▸ List.mem_cons_self)

/-- The count of denied packets stands apart from the entries that say what an ID is (14 R564). -/
theorem epKind_inc_collDenied (s : Sw) {d : Nat} (hd : d < 4) (id : Nat) : (s.inc (L.collDenied.at d)).epKind id = s.epKind id := by
  have hself : (s.inc (L.collDenied.at d)).rd L.fabSelfEp = s.rd L.fabSelfEp := Sw.rd_wr_ne _ _ _ _ _ _ (by
    simp only [Reg.key, Reg.at, L.collDenied, L.fabSelfEp]
    omega)
  have hep : (s.inc (L.collDenied.at d)).rd L.tenEp id = s.rd L.tenEp id := Sw.rd_wr_ne _ _ _ _ _ _ (by
    simp only [Reg.key, Reg.at, L.collDenied, L.tenEp]
    omega)
  unfold Sw.epKind Sw.own Sw.selfEp Sw.rdf
  rw [hself, hep]

/-- Only an endpoint is told that its packet is denied (10 R411). -/
theorem collDeny_not_endpoint {s : Sw} {d src : Nat} (hd : d < 4) (he : s.epKind src ≠ 1) (t g q dig : Nat) :
    s.collDeny d src t g q dig = s.inc (L.collDenied.at d) :=
  if_neg (by rwa [epKind_inc_collDenied s hd])

end Sys2Proof.Machine

open Sys2Proof Sys2Proof.Machine

/-- Settles O27: a packet that waits here with its group's machinery free (`State.takesColl`) goes to the part its `level` names, any other
stays (`exec_coll_of_not_takes`); WITHDRAW and COLL ABORT pass their own checks. -/
theorem collectivePacketsComeIn : Obligations.CollectivePacketsComeIn := by
  rintro s h pay k rfl
  refine ⟨fun hd hs hw => ?_, exec_coll_of_not_takes, fun _ => execWithdrawReceive_waits,
    fun u hk hw hd hs => execWithdrawReceive_does hk hw hd hs, execCollAbortReceive_does⟩
  have ht : s.takesColl h pay := ⟨hd, hs, hw⟩
  exact ⟨execCollDescriptorReceive_does ht, execAnvilContribution_contrib ht, execAnvilContribution_gathered ht⟩

/-- Settles O28: each command takes its packet as one from the parent (`does_of_parentTakes`), and a block of RESULT or UPDATE at the
live slot of its collective (`does_of_slotTakes`). -/
theorem parentPacketsComeIn : Obligations.ParentPacketsComeIn := by
  intro s h pay v u d hv hu hd
  refine ⟨?control, ?block⟩
  case control =>
    intro hk ho c hc
    rcases ho with ho | ho
    · rw [if_pos ho] at hc ⊢
      subst hc
      exact ⟨execCollCommitReceive_waits, fun hw => does_of_parentTakes (execCollCommitReceive_does hv hk ho hw)⟩
    · have ho' : oOp h ≠ 1 := by omega
      rw [if_neg ho'] at hc ⊢
      subst hc
      exact ⟨execCollCompleteReceive_waits, fun hw => does_of_parentTakes (execCollCompleteReceive_does hv hk ho hw)⟩
  case block =>
    intro hk hl c hc
    rcases hl with hl | hl
    · simp only [if_pos hl] at hc ⊢
      subst hc
      refine ⟨fun hn => (exec_block_of_not_takes hn).1, fun hs hw => ?_⟩
      obtain ⟨hden, hstale, hacts⟩ := does_of_parentTakes (execResultReceive_does hu hd hk hl hs hw)
      exact ⟨hden, hstale, fun hp hq => does_of_slotTakes (hacts hp hq)⟩
    · have hl' : kLevel h ≠ 0 := by omega
      simp only [if_neg hl'] at hc ⊢
      subst hc
      refine ⟨fun hn => (exec_block_of_not_takes hn).2, fun hs hw => ?_⟩
      obtain ⟨hden, hstale, hacts⟩ := does_of_parentTakes (execUpdateBlockReceive_does hu hd hk hl hs hw)
      exact ⟨hden, hstale, fun hp hq => does_of_slotTakes (hacts hp hq)⟩

/-- Settles O29: both commands look at the packet alike, at the die that their own kind of packet is counted at. -/
theorem deniedAndStalePackets : Obligations.DeniedAndStalePackets := by
  rintro s h pay k u d rfl rfl hd hdst hsvc hw
  have ht : s.takesColl h pay := ⟨hdst, hsvc, hw⟩
  have hh := takeKeep_hdr s.sw h pay
  have hd4 : d < 4 := by
    rw [hd]
    split
    · exact anvilLow_lt _
    · exact blockDie_lt ..
  refine ⟨?_, fun src t g q dig he => collDeny_not_endpoint hd4 he t g q dig, fun r hq => admitScan_empty hq⟩
  rintro hk c (⟨hl, rfl⟩ | ⟨hl, rfl⟩)
  · have hdo := execCollDescriptorReceive_does ht hl hk
    rw [if_pos hl] at hd
    subst hd
    exact ⟨fun hden => by rwa [rxDescriptor_denied hh hden] at hdo, fun hden hs => by rwa [rxDescriptor_stale hh hden hs] at hdo⟩
  · have hdo := execAnvilContribution_contrib ht hl hk
    rw [if_neg (by omega)] at hd
    subst hd
    exact ⟨fun hden => by rwa [rxContrib_denied hh hden] at hdo, fun hden hs => by rwa [rxContrib_stale hh hden hs] at hdo⟩
end

section
/-! SUPPORT. Writes of group entries (10 R407, R443, R451, R484), with the theorem that settles O32. -/

namespace Sys2Proof.Machine

/-! ### The start of a program (10 R443) -/

/-- A core as a program leaves it that starts at address 0 for group `g`. -/
def Core.started (p : Lib) (slot g : Nat) : Core :=
  { regs := [(10, g)], pc := 0, mem := memWrs [] 0 (p.code.take 65536), running := true, prog := slot }

section
variable {s : Sw} {j slot : Nat} (g : Nat)

/-- A core in reset takes no request (14 R583). -/
theorem startCore_reset (hb : s.blkRst.contains (.core (Fin.ofNat 64 j)) = true) : s.startCore j slot g = s := if_pos (.inr hb)

theorem startCore_starts {p : Lib} (hr : (s.core j).running = false) (hb : s.blkRst.contains (.core (Fin.ofNat 64 j)) = false)
    (hp : s.lib.get? slot = some p) : s.startCore j slot g = s.setCore j (Core.started p slot g) := by
  simp only [Sw.startCore, hr, hb, hp, Bool.false_eq_true, false_and, or_self, if_false]
  rfl
end

/-! ### What a write answers -/

section
variable {s : Sw} {g v w : Nat} (hb : s.groupBusy g = false) (ha : s.agrHolds g = false)

theorem wrGroup_busy (h : s.groupBusy g = true) : s.wrGroup g v = .error 451 := if_pos h

include hb in
theorem wrGroup_holds (h : s.agrHolds g = true) : s.wrGroup g v = .error 484 := (if_neg (by rw [hb]; decide)).trans (if_pos h)

variable (hw : w = groupMask v)
include hb ha hw

theorem wrGroup_refused (h : gClass w = 7 ∨ 6 < gUcount w) : s.wrGroup g v = wrRange s := by
  simp only [Sw.wrGroup, ← hw, hb, ha, h, Bool.false_eq_true, if_false, if_true]

variable (hc : gClass w ≠ 7) (hu : gUcount w ≤ 6)
include hc hu

/-- An entry of a range that names no program, or is not valid, is stored and no more. -/
theorem wrGroup_stored (h : gValid w = false ∨ gReg w = false ∧ gProg w = 0) : s.wrGroup g v = wrOk (s.wr L.collGroup g w) := by
  have hu' := Nat.not_lt.mpr hu
  rcases h with h | ⟨hr, hp⟩
  · simp [Sw.wrGroup, ← hw, hb, ha, hc, hu', h]
  · simp [Sw.wrGroup, ← hw, hb, ha, hc, hu', hr, hp]

/-- A valid entry, not registered, with a program that its core may load, starts the core. -/
theorem wrGroup_starts {p : Lib} (hv : gValid w = true) (hr : gReg w = false) (hp : gProg w ≠ 0) (hi : (s.core (gCore w)).running = false)
    (ht : boundTo (s.rd L.tenCore (gCore w)) (gTen w) = true) (hl : s.lib.get? (gProg w) = some p) :
    s.wrGroup g v = wrOk ((s.wr L.collGroup g w).startCore (gCore w) (gProg w) g) := by
  simp [Sw.wrGroup, ← hw, hb, ha, hc, Nat.not_lt.mpr hu, hv, hr, hp, hi, ht, hl]
end

/-! ### The command -/

section
variable {s : State} {g : Fin 4096} {v : BitVec 512} (hb : s.busyFor 0x7803 1 = false)
include hb

theorem execGroupEntryWrite_error {n : Nat} (h : s.sw.wrGroup g v.toNat = .error n) :
    exec (.groupEntryWrite g v) s = .fault (.undefinedUse n) := by
  refine (s.written_ends _ _ _ hb).trans ?_
  rw [h]
  rfl

theorem execGroupEntryWrite_does {k : Nat} {w : Sw} (h : s.sw.wrGroup g v.toNat = .ok (k, w)) : Does (.groupEntryWrite g v) s w := by
  refine (s.written_ends _ _ _ hb).trans ?_
  rw [h]
  rfl
end

end Sys2Proof.Machine

open Sys2Proof Sys2Proof.Machine

/-- Settles O32, by the order in which a write is looked at (`wrGroup_busy` to `wrGroup_starts`). -/
theorem groupEntries : Obligations.GroupEntries := by
  intro s g v w hw hb
  refine ⟨fun h => execGroupEntryWrite_error hb (wrGroup_busy h), fun hn h => execGroupEntryWrite_error hb (wrGroup_holds hn h),
    fun hn ha => ⟨fun h => execGroupEntryWrite_does hb (wrGroup_refused hn ha hw h),
      fun hc hu h => execGroupEntryWrite_does hb (wrGroup_stored hn ha hw hc hu h), fun p hc hu hv hr hp hi ht hl => ?_⟩⟩
  have hdo := execGroupEntryWrite_does hb (wrGroup_starts hn ha hw hc hu hv hr hp hi ht hl)
  refine ⟨fun hrst => ?_, fun hrst => ?_⟩
  · rwa [startCore_reset (s := s.sw.wr L.collGroup g w) _ hrst] at hdo
  · rw [startCore_starts (s := s.sw.wr L.collGroup g w) _ hi hrst hl] at hdo
    exact ⟨_, hdo, core_setCore_self .., rfl⟩
end

section
/-! SUPPORT. Agreement counters (11 R452 to R469): how a counter is found and changed, what leaves it alone, and each row of Table 11.1,
with the theorems that settle O44, O45 and O46. -/

namespace Sys2Proof.Machine

/-! ### A counter found and changed -/

@[simp] theorem agrCtr_setAgr_self (s : Sw) (c : Nat) (x : Agr) : (s.setAgr c x).agrCtr c = x := AMap.getD_put_self ..

theorem agrCtr_setAgr_ne (s : Sw) {c k : Nat} (x : Agr) (h : k ≠ c) : (s.setAgr c x).agrCtr k = s.agrCtr k :=
  AMap.getD_put_ne _ _ _ _ _ _ h.symm

theorem agrCtr_of_agr {s t : Sw} (h : t.agr = s.agr) (c : Nat) : t.agrCtr c = s.agrCtr c := by rw [Sw.agrCtr, h]; rfl

/-- Whether a counter is complete says its own map of E, against the members that its binding names. -/
@[simp] theorem agrComplete_setAgr (s : Sw) (c : Nat) (x : Agr) :
    (s.setAgr c x).agrComplete c = (s.agrMembers c).all (fun m => x.cur.marked.contains m.id) := by
  rw [Sw.agrComplete, agrCtr_setAgr_self]; rfl

/-! ### What a send leaves alone: no packet that the part makes changes a counter (R458) -/

@[simp] theorem agr_report (s : Sw) (d p c : Nat) : (s.report d p c).2.agr = s.agr := by
  unfold Sw.report
  exact (apply_ite Sw.agr _ _ _).trans (ite_self _)

@[simp] theorem agr_spray (s : Sw) (d c : Nat) (ms : List Nat) : (s.spray d c ms).2.agr = s.agr := by
  unfold Sw.spray
  dsimp only
  split
  · simp only [agr_report]; rfl
  · rfl

@[simp] theorem agr_route (s : Sw) (d id c src ent : Nat) (ok : Bool) (near : List Nat) :
    (s.route d id c src ent ok near).2.agr = s.agr := by
  unfold Sw.route
  dsimp only
  split
  · rfl
  split
  · split <;> rfl
  · split
    · rfl
    · split
      · exact agr_spray ..
      · rfl
  · rfl

@[simp] theorem agr_ownFail (s : Sw) (d t src dst c ent chk : Nat) : (s.ownFail d t src dst c ent chk).agr = s.agr := by
  unfold Sw.ownFail; split <;> rfl

@[simp] theorem agr_sendCtl (s : Sw) (d : Nat) (w : Word256) (ck : Checks) : (s.sendCtl d w ck).agr = s.agr := by
  unfold Sw.sendCtl
  dsimp only
  split
  · exact agr_ownFail ..
  split
  · exact agr_ownFail ..
  split <;> exact agr_route ..

@[simp] theorem agr_sendAgree (s : Sw) (c dst op e v l : Nat) (ck : Checks) : (s.sendAgree c dst op e v l ck).agr = s.agr := by
  unfold Sw.sendAgree
  exact agr_sendCtl ..

@[simp] theorem agr_agrReleaseAll (s : Sw) (c e v l : Nat) : (s.agrReleaseAll c e v l).agr = s.agr := by
  unfold Sw.agrReleaseAll
  generalize s.agrMembers c = ms
  induction ms generalizing s with
  | nil => rfl
  | cons m ms ih => rw [List.foldl_cons, ih, agr_sendAgree]

/-! ### The end of a round (R462) -/

/-- A counter that advances with no arrival held for the next epoch. -/
def Agr.advanced (x : Agr) : Agr :=
  { st := .waiting, epoch := (x.epoch + 1) % 65536, cur := x.nxt, nxt := {}, forced := x.nxt.forced, lending := false }

section
variable {s : Sw} {c : Nat}

theorem agrTest_not_gathering (n : Nat) (h : (s.agrCtr c).st ≠ .gathering) : Sw.agrTest n s c = s := by
  cases n with
  | zero => rfl
  | succ n => exact if_neg fun hg => h hg.1

theorem agrTest_incomplete (n : Nat) (h : s.agrComplete c = false) : Sw.agrTest n s c = s := by
  cases n with
  | zero => rfl
  | succ n => exact if_neg fun hg => Bool.false_ne_true (h.symm.trans hg.2)

/-- Members are released and the counter advances: it then waits, and every other counter is as before. -/
theorem agrCtr_roundEnd_self (hn : (s.agrCtr c).nxt.marked = []) (e v l : Nat) :
    ((s.agrReleaseAll c e v l).agrAdvance c).agrCtr c = (s.agrCtr c).advanced := by
  simp [Sw.agrAdvance, agrCtr_of_agr (agr_agrReleaseAll s c e v l), hn, Agr.advanced]

theorem agrCtr_roundEnd_ne {k : Nat} (hk : k ≠ c) (e v l : Nat) :
    ((s.agrReleaseAll c e v l).agrAdvance c).agrCtr k = s.agrCtr k :=
  (agrCtr_setAgr_ne _ _ hk).trans (agrCtr_of_agr (agr_agrReleaseAll ..) k)

/-- The next round then has nothing to test. -/
theorem agrTest_roundEnd (hn : (s.agrCtr c).nxt.marked = []) (n e v l : Nat) :
    Sw.agrTest n ((s.agrReleaseAll c e v l).agrAdvance c) c = (s.agrReleaseAll c e v l).agrAdvance c :=
  agrTest_not_gathering n (by rw [agrCtr_roundEnd_self hn]; exact AgrSt.noConfusion)
end

/-! ### The completion rows of Table 11.1 -/

section
variable {s : Sw} {c : Nat} {x : Agr} (n : Nat) (hg : x.st = .gathering)
  (hc : (s.agrMembers c).all (fun m => x.cur.marked.contains m.id) = true)
include hg hc

/-- Below the top one ARRIVE goes to the parent, and the counter is Up. -/
theorem agrTest_below (ht : gTop (s.group (bGroup (s.agrBind c))) = false) :
    Sw.agrTest (n + 1) (s.setAgr c x) c =
      ((s.setAgr c x).sendAgree c (gParent (s.group (bGroup (s.agrBind c)))) 0 x.epoch x.cur.value (b2n x.forced) .both).setAgr c
        { x with st := .up } := by
  rw [Sw.agrTest, agrCtr_setAgr_self, agrComplete_setAgr]
  exact (if_pos ⟨hg, hc⟩).trans (if_neg (Bool.eq_false_iff.mp ht))

/-- At the top the members are released and the counter advances. -/
theorem agrTest_top (ht : gTop (s.group (bGroup (s.agrBind c))) = true) (hn : x.nxt.marked = []) :
    Sw.agrTest (n + 1) (s.setAgr c x) c =
      ((s.setAgr c x).agrReleaseAll c x.epoch x.cur.value (b2n x.forced)).agrAdvance c := by
  rw [Sw.agrTest, agrCtr_setAgr_self, agrComplete_setAgr]
  refine ((if_pos ⟨hg, hc⟩).trans (if_pos ht)).trans (agrTest_roundEnd ?_ n ..)
  rwa [agrCtr_setAgr_self]

theorem agrCtr_agrTest_below (ht : gTop (s.group (bGroup (s.agrBind c))) = false) :
    (Sw.agrTest (n + 1) (s.setAgr c x) c).agrCtr c = { x with st := .up } := by
  rw [agrTest_below n hg hc ht, agrCtr_setAgr_self]

theorem agrCtr_agrTest_top (ht : gTop (s.group (bGroup (s.agrBind c))) = true) (hn : x.nxt.marked = []) :
    (Sw.agrTest (n + 1) (s.setAgr c x) c).agrCtr c = x.advanced := by
  rw [agrTest_top n hg hc ht hn, agrCtr_roundEnd_self (by rwa [agrCtr_setAgr_self]), agrCtr_setAgr_self]

theorem agrCtr_agrTest_top_ne (ht : gTop (s.group (bGroup (s.agrBind c))) = true) (hn : x.nxt.marked = []) {k : Nat} (hk : k ≠ c) :
    (Sw.agrTest (n + 1) (s.setAgr c x) c).agrCtr k = s.agrCtr k := by
  rw [agrTest_top n hg hc ht hn, agrCtr_roundEnd_ne hk, agrCtr_setAgr_ne _ _ hk]
end

/-! ### Arrivals (R457, R462) -/

/-- The counter that an ARRIVE names once its member is marked in the map of E. -/
def Sw.agrMarked (s : Sw) (w : Word256) : Agr :=
  let x := s.agrCtr (gCtr w)
  { x with st := .gathering, cur := s.mark (gCtr w) x.cur (pSrc w) (gCount w), forced := x.forced || gLevel w == 1 }

/-- The members marked then are those marked before and the one that arrives. -/
theorem agrMarked_all (s : Sw) (w : Word256) (ms : List Member) :
    ms.all (fun m => (s.agrMarked w).cur.marked.contains m.id) =
      ms.all (fun m => (pSrc w :: (s.agrCtr (gCtr w)).cur.marked).contains m.id) := by
  simp [Sw.agrMarked, Sw.mark, Bool.or_comm]

theorem agrArrive_empty {s : Sw} {w : Word256} (hc : gCount w = 0) (hl : gLevel w = 0) : s.agrArrive w = s := if_pos ⟨hc, hl⟩

section
variable {s : Sw} {w : Word256} {x : Agr} (hx : s.agrCtr (gCtr w) = x) (hw : gCount w ≠ 0 ∨ gLevel w ≠ 0)
include hx hw

/-- An ARRIVE of epoch E: a second one of its member is a repeat, and in Up the round is not open here any more. -/
theorem agrArrive_current (he : gEpoch w = x.epoch) :
    s.agrArrive w =
      if x.cur.marked.contains (pSrc w) then (s.inc (L.agrDup.at (gCtr w / 512))).agrFault 0x2B w
      else if x.st = .up then s
      else Sw.agrTest 3 (s.setAgr (gCtr w) (s.agrMarked w)) (gCtr w) := by
  subst hx
  exact (if_neg (by omega)).trans (if_pos he)

/-- One of epoch E + 1 is kept in its own map, forced or not as it comes (R461, R466). -/
theorem agrArrive_next (hn : gEpoch w ≠ x.epoch) (he : gEpoch w = (x.epoch + 1) % 65536) :
    s.agrArrive w =
      if x.nxt.marked.contains (pSrc w) then (s.inc (L.agrDup.at (gCtr w / 512))).agrFault 0x2B w
      else s.setAgr (gCtr w) { x with
        nxt := { s.mark (gCtr w) x.nxt (pSrc w) (gCount w) with forced := x.nxt.forced || gLevel w == 1 } } := by
  subst hx
  exact (if_neg (by omega)).trans ((if_neg hn).trans (if_pos he))

theorem agrArrive_stale (hn : gEpoch w ≠ x.epoch) (he : gEpoch w ≠ (x.epoch + 1) % 65536)
    (hl : later 65536 ((x.epoch + 65535) % 65536) (gEpoch w) = false) :
    s.agrArrive w = s.inc (L.agrStale.at (gCtr w / 512)) := by
  subst hx
  exact (if_neg (by omega)).trans ((if_neg hn).trans ((if_neg he).trans (if_pos (congrArg not hl))))

theorem agrArrive_ahead (hn : gEpoch w ≠ x.epoch) (he : gEpoch w ≠ (x.epoch + 1) % 65536)
    (hl : later 65536 ((x.epoch + 65535) % 65536) (gEpoch w) = true) :
    s.agrArrive w = (s.inc (L.agrAhead.at (gCtr w / 512))).agrFault 0x2C w := by
  subst hx
  exact (if_neg (by omega)).trans ((if_neg hn).trans ((if_neg he).trans (if_neg (by rw [hl]; decide))))

theorem agrArrive_marks (he : gEpoch w = x.epoch) (hm : pSrc w ∉ x.cur.marked) (hu : x.st ≠ .up) :
    s.agrArrive w = Sw.agrTest 3 (s.setAgr (gCtr w) (s.agrMarked w)) (gCtr w) := by
  rw [agrArrive_current hx hw he, if_neg (by simpa using hm), if_neg hu]
end

/-! ### The commands that bring an AGREE -/

section
variable {s : State} {w : Word256} (hk : pKind w = 3)
include hk

theorem execAgreeArrive_ends (ho : gOp w = 0) :
    Does (.agreeArrive w) s
      (if (s.sw.takeCtl w).agrDenied w then (s.sw.takeCtl w).agrDeny w else (s.sw.takeCtl w).agrArrive w) :=
  if_neg (by omega)

theorem execAgreeRelease_ends (ho : gOp w = 1) :
    Does (.agreeRelease w) s
      (if (s.sw.takeCtl w).agrDenied w then (s.sw.takeCtl w).agrDeny w else (s.sw.takeCtl w).agrRelease w) :=
  if_neg (by omega)

theorem execAgreeArrive_does (ho : gOp w = 0) (hd : (s.sw.takeCtl w).agrDenied w = false) :
    Does (.agreeArrive w) s ((s.sw.takeCtl w).agrArrive w) := by
  simpa [hd] using execAgreeArrive_ends (s := s) hk ho

theorem execAgreeRelease_does (ho : gOp w = 1) (hd : (s.sw.takeCtl w).agrDenied w = false) :
    Does (.agreeRelease w) s ((s.sw.takeCtl w).agrRelease w) := by
  simpa [hd] using execAgreeRelease_ends (s := s) hk ho
end

/-! ### Releases and forces (R462, R465) -/

section
variable {s : Sw} {w : Word256} {x : Agr} (hx : s.agrCtr (gCtr w) = x)
include hx

theorem agrRelease_up (hu : x.st = .up) (he : gEpoch w = x.epoch) (hn : x.nxt.marked = []) :
    s.agrRelease w = (s.agrReleaseAll (gCtr w) x.epoch (gCount w) (gLevel w)).agrAdvance (gCtr w) := by
  subst hx
  exact (if_pos ⟨hu, he⟩).trans (agrTest_roundEnd hn 3 ..)

theorem agrRelease_stale (h : x.st ≠ .up ∨ gEpoch w ≠ x.epoch) : s.agrRelease w = s.inc (L.agrStale.at (gCtr w / 512)) := by
  subst hx
  exact if_neg fun ⟨hu, he⟩ => h.elim (· hu) (· he)
end

/-- A counter as a force leaves it that is not in Up: every missing member marked, the round forced. -/
def Agr.forceAll (x : Agr) (ms : List Member) : Agr :=
  { x with
    st := .gathering, forced := true
    cur := { x.cur with marked := x.cur.marked ++ (ms.map Member.id).filter (fun id => !x.cur.marked.contains id) } }

theorem forceAll_complete (x : Agr) (ms : List Member) : ms.all (fun m => (x.forceAll ms).cur.marked.contains m.id) = true := by
  refine List.all_eq_true.mpr fun m hm => ?_
  have hid : m.id ∈ ms.map Member.id := List.mem_map_of_mem hm
  by_cases h : m.id ∈ x.cur.marked
  · simp [Agr.forceAll, h]
  · simp only [Agr.forceAll, List.contains_eq_mem, List.mem_append, List.mem_filter]
    simp [h, hid]

section
variable {s : Sw} {v c : Nat} {x : Agr} (hc : fld v 0 11 = c) (hx : s.agrCtr c = x)
include hc hx

theorem wrAgrForce_refused (h : bValid (s.agrBind c) = false ∨ x.epoch ≠ fld v 16 16) : s.wrAgrForce v = none := by
  subst hc hx
  exact if_pos (by simpa using h)

variable (hb : bValid (s.agrBind c) = true) (he : x.epoch = fld v 16 16)
include hb he

theorem wrAgrForce_up (hu : x.st = .up) (hn : x.nxt.marked = []) :
    s.wrAgrForce v = some ((s.agrReleaseAll c x.epoch x.cur.value 1).agrAdvance c) := by
  subst hc hx
  rw [← agrTest_roundEnd hn 3]
  exact (if_neg (by simp [hb, he])).trans (if_pos hu)

theorem wrAgrForce_not_up (hu : x.st ≠ .up) :
    s.wrAgrForce v = some (Sw.agrTest 3 (s.setAgr c (x.forceAll (s.agrMembers c))) c) := by
  subst hc hx
  exact (if_neg (by simp [hb, he])).trans (if_neg hu)
end

section
variable {s : State} {v : BitVec 32} (hb : s.busyFor 0x8000 3 = false)
include hb

theorem execAgrForce_refused (h : s.sw.wrAgrForce v.toNat = none) : exec (.agrForce v) s = .next s := by
  refine (s.written_ends _ _ _ hb).trans ?_
  rw [h]

theorem execAgrForce_does {w : Sw} (h : s.sw.wrAgrForce v.toNat = some w) : Does (.agrForce v) s w := by
  refine (s.written_ends _ _ _ hb).trans ?_
  rw [h]
  rfl
end

/-! ### Bindings and lending reports (R455, R469) -/

/-- The reserved bits of a binding are cut off; what is left fits its entry. -/
theorem rd_wrAgrBind (s : Sw) (c : Nat) (v : BitVec 32) : (s.wrAgrBind c v.toNat).rd L.agrBind c = Nat.land v.toNat 0xCFF00FFF :=
  (Sw.rd_wr_self ..).trans (Nat.mod_eq_of_lt (Nat.lt_of_le_of_lt Nat.and_le_left v.isLt))

/-- The counter of a binding that is written is cleared, every other is as before. -/
theorem agrCtr_wrAgrBind (s : Sw) (c v k : Nat) : (s.wrAgrBind c v).agrCtr k = (s.setAgr c {}).agrCtr k := rfl

theorem execLendReportStart_does {s : State} {c : Fin 2048} {x : Agr} {t : Nat} (hx : s.sw.agrCtr c = x) (ht : x.cur.lendAt = some t)
    (hw : x.st ≠ .waiting) (hl : x.lending = false) :
    Does (.lendReportStart c) s
      (if s.sec.busy = some 3 then ((s.sw.reach t).setAgr c { x with lending := true }).lendPark (bTen (s.sw.agrBind c))
       else ((s.sw.reach t).setAgr c { x with lending := true }).lendStart (bTen (s.sw.agrBind c))) := by
  subst hx
  change execLendReportStart c s = _
  rw [execLendReportStart, ht]
  exact if_neg (by simp [hw, hl])

end Sys2Proof.Machine

open Sys2Proof Sys2Proof.Machine

/-- Settles O44: the count and the fault are all that a denied AGREE leaves (R454). -/
theorem deniedAgreements : Obligations.DeniedAgreements := by
  rintro s w u rfl hk hd
  refine ⟨fun ho => ?arrive, fun ho => ?release, rfl, rfl, rfl, Sw.rd_wr_self ..⟩
  case arrive => simpa [hd] using execAgreeArrive_ends (s := s) hk ho
  case release => simpa [hd] using execAgreeRelease_ends (s := s) hk ho

/-- Settles O45: an arrival by its epoch (`agrArrive_current`, `agrArrive_next`, `agrArrive_stale`, `agrArrive_ahead`), and for the last
one of a round the completion rows (`agrTest_below`, `agrTest_top`). -/
theorem arrivalsMakeRounds : Obligations.ArrivalsMakeRounds := by
  rintro s w u c x rfl hk ho hd rfl hx
  have hdo := execAgreeArrive_does hk ho hd
  refine ⟨fun hc hl => by rwa [agrArrive_empty hc hl] at hdo, fun hw => ⟨fun he hm => ?dup, fun he hm hu => ?up, fun he hm hu => ?marks,
    fun hn he hm => ?next, fun hn he hm => ?nextDup, fun hn he hl => ?stale, fun hn he hl => ?ahead⟩⟩
  case dup => rwa [agrArrive_current hx.symm hw he, if_pos (by simpa using hm)] at hdo
  case up => rwa [agrArrive_current hx.symm hw he, if_neg (by simpa using hm), if_pos hu] at hdo
  case next => rwa [agrArrive_next hx.symm hw hn he, if_neg (by simpa using hm)] at hdo
  case nextDup => rwa [agrArrive_next hx.symm hw hn he, if_pos (by simpa using hm)] at hdo
  case stale => exact agrArrive_stale hx.symm hw hn he hl ▸ hdo
  case ahead => exact agrArrive_ahead hx.symm hw hn he hl ▸ hdo
  case marks =>
    rw [agrArrive_marks hx.symm hw he hm hu] at hdo
    subst hx
    rw [← agrMarked_all]
    refine ⟨fun hc => ?_, fun hc ht y hy => ?_, fun hc ht hn => ⟨_, hdo, agrCtr_agrTest_top 2 rfl hc ht hn, fun k hk => ?_⟩⟩
    · rwa [agrTest_incomplete 3 ((agrComplete_setAgr ..).trans hc)] at hdo
    · subst hy
      rwa [agrTest_below 2 rfl hc ht] at hdo
    · exact agrCtr_agrTest_top_ne 2 rfl hc ht hn hk

/-- Settles O46: a RELEASE and a force in Up end the round (`agrCtr_roundEnd_self`), a force outside Up makes the counter complete
(`forceAll_complete`) and takes the completion rows. -/
theorem releasesForcesBindings : Obligations.ReleasesForcesBindings := by
  rintro s c x rfl
  refine ⟨?release, ?force, fun v hb => ?bind, fun t ht hw hl w hw' => ?lend⟩
  case release =>
    rintro w u rfl hk ho hc hd
    have hdo := execAgreeRelease_does hk ho hd
    rw [← hc]
    refine ⟨fun hu he hn => ⟨_, hdo, ?_⟩, fun h => ?_⟩
    · rw [agrRelease_up (s := s.sw.takeCtl w) rfl hu he hn, agrCtr_roundEnd_self (s := s.sw.takeCtl w) hn]
      exact ⟨rfl, rfl⟩
    · rwa [agrRelease_stale (s := s.sw.takeCtl w) rfl h] at hdo
  case force =>
    intro v hb hc
    refine ⟨fun h => execAgrForce_refused hb (wrAgrForce_refused hc rfl h), fun hv he hu hn =>
      ⟨_, execAgrForce_does hb (wrAgrForce_up hc rfl hv he hu hn), ?_⟩, fun hv he hu hn =>
      ⟨_, execAgrForce_does hb (wrAgrForce_not_up hc rfl hv he hu), fun ht => ?_, fun ht => ?_⟩⟩
    · rw [agrCtr_roundEnd_self hn]
      exact ⟨rfl, rfl⟩
    · rw [agrCtr_agrTest_top 2 rfl (forceAll_complete ..) ht hn]
      exact ⟨rfl, rfl⟩
    · rw [agrCtr_agrTest_below 2 rfl (forceAll_complete ..) ht]
      exact ⟨rfl, rfl, rfl⟩
  case bind =>
    exact ⟨s.sw.wrAgrBind c v.toNat, s.written_ends _ _ _ hb, (agrCtr_wrAgrBind ..).trans (agrCtr_setAgr_self ..),
      rd_wrAgrBind .., fun k hk => (agrCtr_wrAgrBind ..).trans (agrCtr_setAgr_ne _ _ hk), rfl⟩
  case lend =>
    subst hw'
    have hdo := execLendReportStart_does rfl ht hw hl
    exact ⟨fun hn => by rwa [if_neg hn] at hdo, fun hy => by rwa [if_pos hy] at hdo⟩
end

section
/-! SUPPORT. Ports and lanes (12): what reads of a port and of a lane return after an update, what the native transmitter leaves of the
switch, and entry to electrical idle. -/

namespace Sys2Proof.Machine

/-! ### One port, one lane -/

section
variable (s : Sw) (p : Nat)

@[simp] theorem port_setPort_self (x : PortSt) : (s.setPort p x).port p = x := AMap.getD_put_self ..

theorem port_setPort_ne {q : Nat} (x : PortSt) (h : q ≠ p) : (s.setPort p x).port q = s.port q :=
  AMap.getD_put_ne _ _ _ _ _ _ h.symm

@[simp] theorem port_updPort_self (f : PortSt → PortSt) : (s.updPort p f).port p = f (s.port p) := port_setPort_self ..

theorem port_updPort_ne {q : Nat} (f : PortSt → PortSt) (h : q ≠ p) : (s.updPort p f).port q = s.port q :=
  port_setPort_ne _ _ _ h

@[simp] theorem lane_setLane_self (x : LaneSt) : (s.setLane p x).lane p = x := AMap.getD_put_self ..

theorem lane_setLane_ne {k : Nat} (x : LaneSt) (h : k ≠ p) : (s.setLane p x).lane k = s.lane k :=
  AMap.getD_put_ne _ _ _ _ _ _ h.symm

@[simp] theorem port_inc (r : Reg) (el n : Nat) : (s.inc r el n).port p = s.port p := rfl
@[simp] theorem port_reach (t : Nat) : (s.reach t).port p = s.port p := rfl
@[simp] theorem port_send (t : Tx) : (s.send t).port p = s.port p := rfl
@[simp] theorem port_restore (sl : Slice) : (s.restore sl).port p = s.port p := rfl
@[simp] theorem lane_updPort (q : Nat) (f : PortSt → PortSt) : (s.updPort q f).lane p = s.lane p := rfl

end

theorem portUp_of_st {s : Sw} {p : Nat} (h : (s.port p).st = .up) : s.portUp p = true := by simp [Sw.portUp, h]

theorem portUp_of_st_ne {s : Sw} {p : Nat} (h : (s.port p).st ≠ .up) : s.portUp p = false := by simp [Sw.portUp, h]

/-- A port runs on the lanes from its own number on, as many as its width. -/
theorem mem_portLanes {s : Sw} {p n : Nat} : n ∈ s.portLanes p ↔ p ≤ n ∧ n < p + (s.port p).width := by
  simp only [Sw.portLanes, List.mem_map, List.mem_range]
  exact ⟨fun ⟨i, hi, e⟩ => by omega, fun h => ⟨n - p, by omega, by omega⟩⟩

theorem portLanes_of_port {s t : Sw} {p : Nat} (h : (t.port p).width = (s.port p).width) : t.portLanes p = s.portLanes p := by
  rw [Sw.portLanes, h, Sw.portLanes]

/-! ### Loops over lanes -/

/-- A loop that sets lanes changes the lanes alone. -/
theorem setLane_foldl_frame {α : Type} (k : α → Nat) (f : Sw → α → LaneSt) (l : List α) (s : Sw) :
    ∃ L, l.foldl (fun s i => s.setLane (k i) (f s i)) s = { s with lanes := L } :=
  List.foldlRecOn (motive := fun t => ∃ L, t = { s with lanes := L }) _ _ ⟨_, rfl⟩ (fun _ ⟨_, e⟩ _ _ => ⟨_, by rw [e]; rfl⟩)

@[simp] theorem port_setLane_foldl {α : Type} (k : α → Nat) (f : Sw → α → LaneSt) (l : List α) (s : Sw) (q : Nat) :
    (l.foldl (fun s i => s.setLane (k i) (f s i)) s).port q = s.port q :=
  foldl_keeps (fun t : Sw => t.port q) (fun s i => s.setLane (k i) (f s i)) l s (fun _ _ => rfl)

/-- Where each round changes its own lane by `g`, which doing it again does not change, the loop changes the lanes of its list by `g`. -/
theorem lane_foldl {f : Sw → Nat → Sw} {g : LaneSt → LaneSt} (hg : ∀ x, g (g x) = g x) (l : List Nat) (s : Sw)
    (hf : ∀ t n, t.now = s.now → (f t n).now = t.now ∧ ∀ k, (f t n).lane k = if k = n then g (t.lane k) else t.lane k) (k : Nat) :
    (l.foldl f s).lane k = if k ∈ l then g (s.lane k) else s.lane k := by
  induction l generalizing s with
  | nil => simp
  | cons n l ih =>
    obtain ⟨hn, hl⟩ := hf s n rfl
    rw [List.foldl_cons, ih _ (fun t m ht => hf t m (ht.trans hn)), hl]
    by_cases hk : k = n
    · simp [hk, hg]
    · simp [hk]

/-! ### What changes ports, lanes and what was sent, alone -/

/-- Nothing but ports, lanes and what was sent differs. -/
def Sw.LinkOnly (s t : Sw) : Prop := t = { s with ports := t.ports, lanes := t.lanes, tx := t.tx }

theorem Sw.LinkOnly.eq {s t : Sw} (h : s.LinkOnly t) : t = { s with ports := t.ports, lanes := t.lanes, tx := t.tx } := h

theorem Sw.LinkOnly.refl (s : Sw) : s.LinkOnly s := rfl

theorem Sw.LinkOnly.trans {s t u : Sw} (ht : s.LinkOnly t) (hu : t.LinkOnly u) : s.LinkOnly u :=
  Eq.trans hu (congrArg (fun t : Sw => { t with ports := u.ports, lanes := u.lanes, tx := u.tx }) ht)

theorem linkOnly_updPort (s : Sw) (p : Nat) (f : PortSt → PortSt) : s.LinkOnly (s.updPort p f) := rfl
theorem linkOnly_send (s : Sw) (t : Tx) : s.LinkOnly (s.send t) := rfl

theorem Sw.LinkOnly.now {s t : Sw} (h : s.LinkOnly t) : t.now = s.now := by rw [h.eq]
theorem Sw.LinkOnly.lex {s t : Sw} (h : s.LinkOnly t) : t.lex = s.lex := by rw [h.eq]

/-! ### The native transmitter (12 R494 to R500) -/

/-- What a lane carries: codewords, commas and lane tags. -/
def Tx.onLane : Tx → Bool
  | .codeword _ _ _ _ => true
  | .comma _ _ _ _ => true
  | _ => false

/-- `t` is `s` after port `p` has sent on its lanes: these alone differ, and what was sent. -/
structure Sw.Transmits (p : Nat) (s t : Sw) : Prop where
  frame : t = { s with lanes := t.lanes, tx := t.tx }
  sent : ∃ l, t.tx = l ++ s.tx ∧ ∀ x ∈ l, x.onLane = true
  other : ∀ k, k < p ∨ p + (s.port p).width ≤ k → t.lane k = s.lane k

namespace Sw.Transmits
variable {p : Nat} {s t u : Sw}

theorem refl (p : Nat) (s : Sw) : s.Transmits p s := ⟨rfl, ⟨[], rfl, by simp⟩, fun _ _ => rfl⟩

theorem port (h : s.Transmits p t) (q : Nat) : t.port q = s.port q := by rw [h.frame]; rfl

theorem linkOnly (h : s.Transmits p t) : s.LinkOnly t :=
  h.frame.trans (congrArg (fun P => { s with ports := P, lanes := t.lanes, tx := t.tx }) (congrArg Sw.ports h.frame).symm)

theorem trans (h : s.Transmits p t) (k : t.Transmits p u) : s.Transmits p u where
  frame := k.frame.trans (congrArg (fun t : Sw => { t with lanes := u.lanes, tx := u.tx }) h.frame)
  sent := by
    obtain ⟨l, hl, hx⟩ := h.sent
    obtain ⟨m, hm, hy⟩ := k.sent
    exact ⟨m ++ l, by rw [hm, hl, List.append_assoc], fun x hxm => (List.mem_append.mp hxm).elim (hy x) (hx x)⟩
  other n hn := (k.other n (by rwa [h.port])).trans (h.other n hn)

theorem mem_tx (h : s.Transmits p t) {x : Tx} (hx : x ∈ s.tx) : x ∈ t.tx := by
  obtain ⟨l, hl, _⟩ := h.sent
  exact hl ▸ List.mem_append_right l hx

end Sw.Transmits

theorem transmits_send (p : Nat) (s : Sw) {x : Tx} (h : x.onLane = true) : s.Transmits p (s.send x) :=
  ⟨rfl, ⟨[x], rfl, by simp [h]⟩, fun _ _ => rfl⟩

theorem transmits_setLane {p n : Nat} {s : Sw} (h : n ∈ s.portLanes p) (x : LaneSt) : s.Transmits p (s.setLane n x) :=
  ⟨rfl, ⟨[], rfl, by simp⟩, fun k hk => lane_setLane_ne _ _ _ (by have := mem_portLanes.mp h; omega)⟩

theorem transmits_commas (s : Sw) (p lane n : Nat) : s.Transmits p (s.commas p lane n) := by
  unfold Sw.commas
  split
  · exact .refl ..
  · exact transmits_send _ _ rfl

/-- Idle codewords, commas and tags up to now (R503). -/
theorem transmits_linesTo (s : Sw) (p : Nat) : s.Transmits p (s.linesTo p) := by
  unfold Sw.linesTo
  split
  · exact .refl ..
  · refine List.foldlRecOn (motive := s.Transmits p) _ _ (.refl ..) (fun t ht i hi => ?_)
    have hm : p + i ∈ t.portLanes p := mem_portLanes.mpr ⟨by omega, by rw [ht.port]; have := List.mem_range.mp hi; omega⟩
    exact (ht.trans (transmits_setLane hm _)).trans (transmits_commas ..)

/-- The lanes of a port begin to send (R494, R500). -/
theorem transmits_linesBegin (s : Sw) (p : Nat) : s.Transmits p (s.linesBegin p) :=
  List.foldlRecOn (motive := s.Transmits p) _ _ (.refl ..) fun t ht i hi =>
    ht.trans (transmits_setLane (mem_portLanes.mpr ⟨by omega, by rw [ht.port]; have := List.mem_range.mp hi; omega⟩) _)

@[simp] theorem minBy_eq_none {α : Type} (f : α → Nat) (l : List α) : minBy f l = none ↔ l = [] := by
  cases l with
  | nil => simp [minBy]
  | cons a l =>
    unfold minBy
    cases minBy f l with
    | none => simp
    | some b => dsimp only; split <;> simp

theorem mem_of_minBy {α : Type} {f : α → Nat} {l : List α} {a : α} (h : minBy f l = some a) : a ∈ l := by
  induction l generalizing a with
  | nil => simp [minBy] at h
  | cons b l ih =>
    unfold minBy at h
    cases hm : minBy f l with
    | none => rw [hm] at h; cases h; simp
    | some c =>
      rw [hm] at h
      rcases ite_eq_iff.mp h with ⟨_, e⟩ | ⟨_, e⟩
      · exact Option.some.inj e ▸ List.mem_cons_self
      · exact Option.some.inj e ▸ List.mem_cons_of_mem b (ih hm)

theorem transmits_putWord (s : Sw) (p : Nat) (long : Bool) (msg : Nat) : s.Transmits p (s.putWord p long msg) := by
  unfold Sw.putWord
  dsimp only
  split
  · exact transmits_linesTo ..
  · rename_i n hn
    have hl := transmits_setLane (mem_of_minBy hn) (((s.linesTo p).lane n).sends 1 (if long then 16 else 1))
    exact (((transmits_linesTo s p).trans hl).trans (transmits_send _ _ rfl)).trans (transmits_commas ..)

/-- A port of some width has a lane on which the codeword leaves (R499). -/
theorem codeword_mem_putWord (s : Sw) (p : Nat) (long : Bool) (msg : Nat) (h : (s.port p).width ≠ 0) :
    ∃ n b, Tx.codeword p n msg b ∈ (s.putWord p long msg).tx := by
  unfold Sw.putWord
  dsimp only
  split
  · rename_i hn
    rw [minBy_eq_none, (transmits_linesTo s p).port] at hn
    simp [h] at hn
  · exact ⟨_, _, (transmits_commas ..).mem_tx List.mem_cons_self⟩

/-- The port after a block of it has left: a `nak` that was due has gone with it (R505). -/
def PortSt.said (x : PortSt) : PortSt := { x with nakDue := false }

theorem putIdle_eq (s : Sw) (p : Nat) (e : Bool) : s.putIdle p e =
    (s.putWord p false (shortMsg (s.port p).nakDue true e 0 (s.port p).aseq 0)).updPort p PortSt.said := rfl

@[simp] theorem port_putIdle_self (s : Sw) (p : Nat) (e : Bool) : (s.putIdle p e).port p = (s.port p).said := by
  rw [putIdle_eq, port_updPort_self, (transmits_putWord ..).port]

theorem port_putIdle_ne (s : Sw) {p q : Nat} (e : Bool) (h : q ≠ p) : (s.putIdle p e).port q = s.port q := by
  rw [putIdle_eq, port_updPort_ne _ _ _ h, (transmits_putWord ..).port]

theorem linkOnly_putIdle (s : Sw) (p : Nat) (e : Bool) : s.LinkOnly (s.putIdle p e) :=
  (transmits_putWord s p false _).linkOnly.trans (linkOnly_updPort _ p PortSt.said)

theorem mem_tx_putIdle (s : Sw) (p : Nat) (e : Bool) {x : Tx} (h : x ∈ s.tx) : x ∈ (s.putIdle p e).tx := (transmits_putWord ..).mem_tx h

theorem codeword_mem_putIdle (s : Sw) (p : Nat) (e : Bool) (h : (s.port p).width ≠ 0) :
    ∃ n b, Tx.codeword p n (shortMsg (s.port p).nakDue true e 0 (s.port p).aseq 0) b ∈ (s.putIdle p e).tx :=
  codeword_mem_putWord s p false _ h

/-! ### Electrical idle (12 R520, R521) -/

/-- Entry to electrical idle with no `nak` due: the last codeword says `eidle`. -/
theorem goIdle_spec (s : Sw) (p : Nat) (hn : (s.port p).nakDue = false) :
    ((s.goIdle p).port p).eidleTx = true ∧ ((s.goIdle p).port p).wantIdle = false ∧
    ((s.port p).width ≠ 0 → ∃ n b, Tx.codeword p n (shortMsg false true true 0 (s.port p).aseq 0) b ∈ (s.goIdle p).tx) ∧
    (∀ q, q ≠ p → (s.goIdle p).port q = s.port q) ∧ s.LinkOnly (s.goIdle p) := by
  refine ⟨?_, ?_, fun hw => hn ▸ codeword_mem_putIdle s p true hw, fun q hq => ?_,
    (linkOnly_putIdle s p true).trans (linkOnly_updPort ..)⟩
  · rw [Sw.goIdle, port_updPort_self]
  · rw [Sw.goIdle, port_updPort_self]
  · rw [Sw.goIdle, port_updPort_ne _ _ _ hq, port_putIdle_ne _ _ hq]

theorem nakDue_of_not_hasToSend {s : Sw} {p : Nat} (h : s.hasToSend p = false) : (s.port p).nakDue = false := by
  simp only [Sw.hasToSend, Bool.or_eq_false_iff] at h
  exact h.1.1.1

theorem canIdle_iff {s : Sw} {p : Nat} : s.canIdle p = true ↔ (s.port p).st = .up ∧ (s.port p).mode = 1 ∧
    (s.port p).eidleTx = false ∧ (s.port p).kept = [] ∧ s.hasToSend p = false := by
  simp [Sw.canIdle, and_assoc]

end Sys2Proof.Machine
end

section
/-! SUPPORT. The port commands (12 Table 12.7), with the theorem that settles O47. -/

namespace Sys2Proof.Machine

/-! ### Entry to Negotiating (12 R491, R523, R527) -/

/-- The port as it enters Negotiating at width `w`. -/
def Sw.negStart (s : Sw) (p w : Nat) : PortSt :=
  { (s.port p).quiet with
    st := .negotiating, mode := 0, width := w, plain := false, partner := 0, negAt := s.now
    modes := s.rd L.linkPortModes p, medium := s.rd L.linkPortMedium p, dmac := s.rd L.linkEthDmac p }

/-- A port enters Negotiating: its lanes start anew, its guard marker is brought up, its base page is sent. -/
theorem enterNeg_eq (s : Sw) (p w : Nat) : ∃ L, s.enterNeg p w =
    ({ s.guardUp p with lanes := L }.setPort p (s.negStart p w)).send (.basePage p true (s.negStart p w).phys) := by
  obtain ⟨L, hL⟩ := setLane_foldl_frame (p + ·) (fun s i => { s.lane (p + i) with
    below := none, locked := false, commas := 0, misses := 0, tagPort := 0, offset := 0, unlocked := none, inv := false
    asleep := false }) (List.range ((s.guardUp p).rd L.linkPortWidth p)) (s.guardUp p)
  refine ⟨L, ?_⟩
  rw [Sw.enterNeg]
  simp only [hL, port_updPort_self]
  rfl

theorem enterNeg_spec (s : Sw) (p w : Nat) : (s.enterNeg p w).port p = s.negStart p w ∧
    (s.enterNeg p w).tx = .basePage p true (s.negStart p w).phys :: s.tx ∧
    (∀ q, q ≠ p → (s.enterNeg p w).port q = s.port q) ∧
    s.enterNeg p w = { s with
      ports := (s.enterNeg p w).ports, lanes := (s.enterNeg p w).lanes, tx := (s.enterNeg p w).tx
      bel := { s.bel with gTc := (s.enterNeg p w).bel.gTc, gTp := (s.enterNeg p w).bel.gTp } } := by
  obtain ⟨L, hL⟩ := enterNeg_eq s p w
  rw [hL]
  exact ⟨by rw [port_send, port_setPort_self], rfl, fun q hq => by rw [port_send, port_setPort_ne _ _ _ hq]; rfl, rfl⟩

/-! ### The commands (12 Table 12.7) -/

section
variable {s : State} {p : Lane} (hb : s.busyFor 0x3000 4 = false)
include hb

theorem execPortEnable_does : Does (.portEnable p) s (s.sw.portEnable p) := s.written_ends _ _ _ hb
theorem execPortDisable_does : Does (.portDisable p) s (s.sw.portDisable p) := s.written_ends _ _ _ hb
theorem execPortRetrain_does : Does (.portRetrain p) s (s.sw.portRetrain p) := s.written_ends _ _ _ hb
theorem execPortEnterIdle_does : Does (.portEnterIdle p) s (s.sw.portEnterIdle p) := s.written_ends _ _ _ hb

end

section
variable {s : Sw} {p : Nat}

theorem portEnable_starts (hc : s.portCfg p = true) (hs : (s.port p).st = .disabled) (hr : (s.port p).reduced = false) :
    s.portEnable p = s.enterNeg p (s.rd L.linkPortWidth p) := by simp [Sw.portEnable, hc, hs, hr]

theorem portEnable_other (h : s.portCfg p = false ∨ (s.port p).st ≠ .disabled) : s.portEnable p = s :=
  if_neg (fun e => h.elim (by simp [e.1]) (· e.2))

theorem portDisable_down (hc : s.portCfg p = true) (hs : (s.port p).st ≠ .up) : s.portDisable p =
    (s.updPort p (fun x => { x.quiet with st := .disabled, mode := 0, oos := false })).restore (.port p) := by
  simp [Sw.portDisable, hc, portUp_of_st_ne hs]

theorem portDisable_up (hc : s.portCfg p = true) (hs : (s.port p).st = .up) : s.portDisable p =
    ((s.goDown p 9).updPort p (fun x => { x.quiet with st := .disabled, mode := 0, oos := false })).restore (.port p) := by
  simp [Sw.portDisable, hc, portUp_of_st hs]

theorem portRetrain_down (hc : s.portCfg p = true) (hd : (s.port p).st ≠ .disabled) (hs : (s.port p).st ≠ .up) : s.portRetrain p =
    ((s.updPort p (fun x => { x with reduced := false, oos := false })).restore (.port p)).enterNeg p (s.rd L.linkPortWidth p) := by
  simp [Sw.portRetrain, hc, hd, portUp_of_st_ne hs]

section
variable (hs : (s.port p).st = .up) (hm : (s.port p).mode = 1) (he : (s.port p).eidleTx = false)
include hs hm he

theorem portEnterIdle_abandons (hh : s.hasToSend p = true) : s.portEnterIdle p = s.updPort p (fun x => { x with wantIdle := false }) := by
  simp [Sw.portEnterIdle, hs, hm, he, hh]

theorem portEnterIdle_waits (hh : s.hasToSend p = false) (hk : (s.port p).kept ≠ []) :
    s.portEnterIdle p = s.updPort p (fun x => { x with wantIdle := true }) := by
  have hc : s.canIdle p = false := by simp [Sw.canIdle, hk]
  simp [Sw.portEnterIdle, hs, hm, he, hh, hc]

theorem portEnterIdle_enters (hh : s.hasToSend p = false) (hk : (s.port p).kept = []) : s.portEnterIdle p = s.goIdle p := by
  have hc : s.canIdle p = true := canIdle_iff.mpr ⟨hs, hm, he, hk, hh⟩
  simp [Sw.portEnterIdle, hs, hm, he, hh, hc]

end

theorem portEnterIdle_other (h : (s.port p).st ≠ .up ∨ (s.port p).mode ≠ 1) : s.portEnterIdle p = s :=
  if_pos (h.elim .inl (.inr ∘ .inl))

end

end Sys2Proof.Machine

open Sys2Proof Sys2Proof.Machine

/-- Settles O47: each command is its own function of the switch, and entry to Negotiating is `enterNeg_spec`, entry to electrical idle
`goIdle_spec`. -/
theorem portCommands : Obligations.PortCommands := by
  rintro s p x rfl hb
  refine ⟨fun hc hd hr => ?enable, fun h => ?notEnabled, fun hc hu => ?disable, fun hc hu => ?disableUp, fun hc hd hu => ?retrain,
    fun hu hm he => ⟨fun hh => ?abandons, fun hh hk => ?waits, fun hh hk => ?enters⟩, fun h => ?notIdle⟩
  case enable =>
    have hdo := execPortEnable_does (p := p) hb
    rw [portEnable_starts hc hd hr] at hdo
    obtain ⟨hp, htx, hne, hframe⟩ := enterNeg_spec s.sw p (s.sw.rd L.linkPortWidth p)
    exact ⟨_, hdo, by rw [hp]; rfl, by rw [hp]; rfl, by rw [hp]; rfl, by rw [hp]; rfl, by rw [hp, htx], hne, hframe⟩
  case notEnabled => exact portEnable_other h ▸ execPortEnable_does (p := p) hb
  case disable =>
    have hdo := execPortDisable_does (p := p) hb
    rw [portDisable_down hc hu] at hdo
    refine ⟨_, hdo, ?_, ?_, ?_, fun q hq => by rw [port_restore, port_updPort_ne _ _ _ hq], rfl⟩
    all_goals rw [port_restore, port_updPort_self]
  case disableUp => exact portDisable_up hc hu ▸ execPortDisable_does (p := p) hb
  case retrain =>
    have hdo := execPortRetrain_does (p := p) hb
    rw [portRetrain_down hc hd hu] at hdo
    obtain ⟨hp, -, hne, -⟩ := enterNeg_spec
      ((s.sw.updPort p (fun x => { x with reduced := false, oos := false })).restore (.port p)) p (s.sw.rd L.linkPortWidth p)
    refine ⟨_, hdo, by rw [hp]; rfl, by rw [hp]; rfl, ?_, ?_, fun q hq => by rw [hne q hq, port_restore, port_updPort_ne _ _ _ hq]⟩
    · simp [hp, Sw.negStart, PortSt.quiet]
    · simp [hp, Sw.negStart, PortSt.quiet]
  case abandons => exact portEnterIdle_abandons hu hm he hh ▸ execPortEnterIdle_does (p := p) hb
  case waits => exact portEnterIdle_waits hu hm he hh hk ▸ execPortEnterIdle_does (p := p) hb
  case enters =>
    have hdo := execPortEnterIdle_does (p := p) hb
    rw [portEnterIdle_enters hu hm he hh hk] at hdo
    obtain ⟨hi, hw, htx, hne, hframe⟩ := goIdle_spec s.sw p (nakDue_of_not_hasToSend hh)
    exact ⟨_, hdo, hi, hw, htx, hne, hframe⟩
  case notIdle => exact portEnterIdle_other h ▸ execPortEnterIdle_does (p := p) hb
end

section
/-! SUPPORT. Link-level retry and electrical idle (12 R495 to R507, R520 to R522), with the theorem that settles O49. -/

namespace Sys2Proof.Machine

/-! ### Asking for a replay (12 R505, R521) -/

/-- The port that asks for a replay at `now`. -/
def PortSt.asks (x : PortSt) (now : Nat) : PortSt :=
  { x with nakDue := true, skip := true, stash := [], exitAt := if x.eidleTx && x.exitAt.isNone then some now else x.exitAt }

/-- Once the codewords stashed are discarded the port asks, by the next block where its transmitter is idle. -/
theorem askReplay_eq (s : Sw) (p : Nat) : ∃ t : Sw, ((s.port p).stash = [] → t = s) ∧
    s.askReplay p = if (t.port p).eidleTx then t.updPort p (·.asks t.now) else (t.updPort p (·.asks t.now)).putIdle p false := by
  refine ⟨(s.port p).stash.foldl (fun s c => s.discardCw p c.1) s, fun h => by rw [h]; rfl, ?_⟩
  rw [Sw.askReplay, port_updPort_self]
  rfl

/-- A receiver that asks for a replay skips, and keeps nothing stashed. -/
theorem askReplay_skips (s : Sw) (p : Nat) : ((s.askReplay p).port p).skip = true ∧ ((s.askReplay p).port p).stash = [] := by
  obtain ⟨t, -, h⟩ := askReplay_eq s p
  rw [h]
  split
  · rw [port_updPort_self]; exact ⟨rfl, rfl⟩
  · rw [port_putIdle_self, port_updPort_self]; exact ⟨rfl, rfl⟩

section
variable {s : Sw} {p : Nat} (hs : (s.port p).stash = [])
include hs

theorem askReplay_rxNext : ((s.askReplay p).port p).rxNext = (s.port p).rxNext := by
  obtain ⟨t, ht, h⟩ := askReplay_eq s p
  obtain rfl := ht hs
  rw [h]
  split
  · rw [port_updPort_self]; rfl
  · rw [port_putIdle_self, port_updPort_self]; rfl

/-- An idle transmitter leaves electrical idle for the `nak`. -/
theorem askReplay_wakes (he : (s.port p).eidleTx = true) :
    ((s.askReplay p).port p).nakDue = true ∧ ((s.askReplay p).port p).exitAt.isSome = true := by
  obtain ⟨t, ht, h⟩ := askReplay_eq s p
  obtain rfl := ht hs
  rw [h, if_pos he, port_updPort_self]
  refine ⟨rfl, ?_⟩
  cases hx : (t.port p).exitAt <;> simp [PortSt.asks, he, hx]

/-- Any other says `nak` in a codeword at once. -/
theorem askReplay_says (he : (s.port p).eidleTx = false) (hw : (s.port p).width ≠ 0) :
    ∃ n b, Tx.codeword p n (shortMsg true true false 0 (s.port p).aseq 0) b ∈ (s.askReplay p).tx := by
  obtain ⟨t, ht, h⟩ := askReplay_eq s p
  obtain rfl := ht hs
  have hc := codeword_mem_putIdle (t.updPort p (·.asks t.now)) p false
  rw [port_updPort_self] at hc
  rw [h, if_neg (by simp [he])]
  exact hc hw

end

/-- A codeword discarded while no packet's flits arrive leaves but a note of whether it opened a packet. -/
theorem discardCw_of_none {s : Sw} {p : Nat} (c : Codeword) (h : (s.port p).rxLeft = 0) :
    s.discardCw p c = s.updPort p (fun y => { y with rxOther := y.rxOther || cwOpens c }) := by simp [Sw.discardCw, h]

/-! ### What a codeword says (12 R506, R520) -/

theorem rxIdle_lane (s : Sw) (p k : Nat) :
    ((s.rxIdle p).lane k).asleep = ((s.lane k).asleep || decide (k ∈ s.portLanes p)) := by
  unfold Sw.rxIdle
  rw [lane_foldl (g := fun x => { x with asleep := true }) (fun _ => rfl), lane_updPort]
  · by_cases h : k ∈ s.portLanes p <;> simp [h]
  · refine fun t n _ => ⟨rfl, fun k => ?_⟩
    by_cases h : k = n
    · subst h; simp
    · simp [h, lane_setLane_ne]

/-- The receiver of every lane freezes, and the port notes it. -/
theorem rxIdle_eq (s : Sw) (p : Nat) : ∃ L, s.rxIdle p = { s.updPort p (fun x => { x with eidleRx := true }) with lanes := L } :=
  setLane_foldl_frame id (fun (s : Sw) n => { s.lane n with asleep := true }) _ _

theorem rxIdle_port (s : Sw) (p : Nat) : (s.rxIdle p).port p = { s.port p with eidleRx := true } := by
  rw [Sw.rxIdle, port_setLane_foldl, port_updPort_self]

/-- The port once a codeword has acknowledged what was kept up to `a`, and said, or not, that the partner goes idle. -/
def PortSt.hears (x : PortSt) (a : Nat) (idle : Bool) : PortSt :=
  let rest := x.kept.filter (fun k => later 65536 a k.lseq)
  { x with kept := rest, resends := if rest.length < x.kept.length then 0 else x.resends, eidleRx := x.eidleRx || idle }

/-- What is taken of a codeword that its code corrects and that asks for no replay, before its packet. -/
def Sw.hears (s : Sw) (p : Nat) (c : Codeword) : Sw :=
  let t := (s.inc L.linkCntCorr p c.errs).acked p (cwAseq c)
  if cwEidle c then t.rxIdle p else t

section
variable (s : Sw) (p : Nat) (c : Codeword)

theorem hears_port : (s.hears p c).port p = (s.port p).hears (cwAseq c) (cwEidle c) := by
  unfold Sw.hears Sw.acked
  split
  · rename_i h; rw [rxIdle_port, port_updPort_self, h]; simp [PortSt.hears]
  · rename_i h; rw [port_updPort_self]; simp [PortSt.hears, h]

theorem hears_lane {n : Nat} (hn : n ∈ s.portLanes p) : ((s.hears p c).lane n).asleep = ((s.lane n).asleep || cwEidle c) := by
  unfold Sw.hears
  split
  · rename_i h
    rw [rxIdle_lane, portLanes_of_port (s := s) (by rw [Sw.acked, port_updPort_self]; rfl)]
    simp [hn, h]
  · rename_i h; simp [h]; rfl

theorem hears_frame : s.hears p c = { s with
    lex := (s.inc L.linkCntCorr p c.errs).lex, ports := (s.hears p c).ports, lanes := (s.hears p c).lanes } := by
  unfold Sw.hears
  split
  · obtain ⟨L, h⟩ := rxIdle_eq ((s.inc L.linkCntCorr p c.errs).acked p (cwAseq c)) p
    rw [h]
    rfl
  · rfl

theorem hears_quiet {c : Codeword} (h : cwEidle c = false) : s.hears p c = (s.inc L.linkCntCorr p c.errs).acked p (cwAseq c) :=
  if_neg (by simp [h])

theorem hears_now : (s.hears p c).now = s.now := by rw [hears_frame]

theorem hears_corr : (s.hears p c).rd L.linkCntCorr p = (s.rd L.linkCntCorr p + c.errs) % 256 ^ L.linkCntCorr.width := by
  rw [hears_frame]
  exact Sw.rd_wr_self ..

end

/-! ### The outcomes of a codeword (12 R501, R502, R505) -/

/-- A sequenced codeword ahead of the expected one waits, unless it is not later or waits already. -/
def Sw.stashes (s : Sw) (p : Nat) (c : Codeword) : Sw :=
  if cwIdle c = false ∧ later 65536 (s.port p).rxNext (cwLseq c) = true ∧
      (s.port p).stash.any (fun d => cwLseq d.1 == cwLseq c) = false then
    s.updPort p (fun y => { y with stash := y.stash ++ [(c, s.now)] })
  else s

theorem stashes_stash {s : Sw} {p : Nat} {c : Codeword} (hi : cwIdle c = false) (hl : later 65536 (s.port p).rxNext (cwLseq c) = true)
    (ha : (s.port p).stash.any (fun d => cwLseq d.1 == cwLseq c) = false) :
    ((s.stashes p c).port p).stash = (s.port p).stash ++ [(c, s.now)] := by
  rw [Sw.stashes, if_pos ⟨hi, hl, ha⟩, port_updPort_self]

/-- Nothing but what is stashed at the port changes. -/
theorem stashes_spec (s : Sw) (p : Nat) (c : Codeword) : ((s.stashes p c).port p).kept = (s.port p).kept ∧
    ((s.stashes p c).port p).rxNext = (s.port p).rxNext ∧ ((s.stashes p c).port p).eidleRx = (s.port p).eidleRx ∧
    s.stashes p c = { s with ports := (s.stashes p c).ports } := by
  unfold Sw.stashes
  split
  · rw [port_updPort_self]; exact ⟨rfl, rfl, rfl, rfl⟩
  · exact ⟨rfl, rfl, rfl, rfl⟩

/-- What is taken of a codeword and stashed changes no more than a counter, ports and lanes. -/
theorem hears_stashes_frame (s : Sw) (p : Nat) (c : Codeword) : (s.hears p c).stashes p c = { s with
    lex := ((s.hears p c).stashes p c).lex, ports := ((s.hears p c).stashes p c).ports
    lanes := ((s.hears p c).stashes p c).lanes } := by
  obtain ⟨-, -, -, h⟩ := stashes_spec (s.hears p c) p c
  have hlex : ((s.hears p c).stashes p c).lex = (s.hears p c).lex := by rw [h]
  have hlanes : ((s.hears p c).stashes p c).lanes = (s.hears p c).lanes := by rw [h]
  rw [hlex, hlanes]
  refine h.trans ?_
  generalize ((s.hears p c).stashes p c).ports = P
  rw [hears_frame]

section
variable {s : Sw} {p : Lane} {c : Codeword}

theorem codeword_unheard (h : (s.portLanes p).contains c.lane.val = false ∨ (s.lane c.lane).locked = false ∨
    (s.lane c.lane).asleep = true) : s.codeword p c = .ok s := if_pos (by simpa using h)

variable (hl : (s.portLanes p).contains c.lane.val = true) (hk : (s.lane c.lane).locked = true) (ha : (s.lane c.lane).asleep = false)
include hl hk ha

theorem codeword_lost (hw : cwWhole (s.lane c.lane).inv c = false) : s.codeword p c = .ok ((s.discardCw p c).askReplay p) := by
  simp only [Sw.codeword, hl, hk, ha, hw, Bool.not_true, Bool.not_false, Bool.false_eq_true, or_self, if_false, if_true]

variable (hw : cwWhole (s.lane c.lane).inv c = true)
include hw

theorem codeword_uncorrectable (hc : cwCorrectable c = false) :
    s.codeword p c = .ok (((s.inc L.linkCntUncorr p).discardCw p c).askReplay p) := by
  simp only [Sw.codeword, hl, hk, ha, hw, hc, Bool.not_true, Bool.not_false, Bool.false_eq_true, or_self, if_false, if_true]

variable (hc : cwCorrectable c = true) (hn : cwNak c = false) (hu : (s.port p).st = .up)
include hc hn hu

/-- One that is whole is taken note of, and what else it does depends on its place in the order. -/
theorem codeword_heard : s.codeword p c =
    if cwIdle c then .ok (s.hears p c)
    else if cwLseq c = (s.port p).rxNext then Sw.deliverCw ((s.port p).stash.length + 1) (s.hears p c) p c
    else if !later 65536 (s.port p).rxNext (cwLseq c) ∨ (s.port p).stash.any (fun d => cwLseq d.1 == cwLseq c) then .ok (s.hears p c)
    else if (s.port p).skip then .ok ((s.hears p c).discardCw p c)
    else .ok ((s.hears p c).updPort p (fun y => { y with stash := y.stash ++ [(c, (s.hears p c).now)] })) := by
  have ht : (if cwEidle c = true then ((s.inc L.linkCntCorr p c.errs).acked p (cwAseq c)).rxIdle p
    else (s.inc L.linkCntCorr p c.errs).acked p (cwAseq c)) = s.hears p c := rfl
  have hup : ((s.port p).hears (cwAseq c) (cwEidle c)).st = .up := hu
  simp only [Sw.codeword, hl, hk, ha, hw, hc, hn, Bool.not_true, Bool.false_eq_true, or_self, if_false]
  rw [ht, hears_port]
  simp only [hup, ne_eq, not_true, false_or]
  rfl

theorem codeword_early (h : cwIdle c = true ∨ cwLseq c ≠ (s.port p).rxNext ∧ (s.port p).skip = false) :
    s.codeword p c = .ok ((s.hears p c).stashes p c) := by
  rw [codeword_heard hl hk ha hw hc hn hu, Sw.stashes]
  by_cases hi : cwIdle c = true
  · simp only [hi, if_true, Bool.true_eq_false, false_and, if_false]
  · obtain ⟨hne, hs⟩ := h.resolve_left hi
    rw [if_neg hi, if_neg hne, hs, if_neg Bool.false_ne_true, hears_port, apply_ite Except.ok]
    simp only [← ite_not (p := _ ∨ _), not_or, Bool.not_eq_true', Bool.not_eq_true, Bool.not_eq_false, hi, true_and]
    rfl

theorem codeword_expected (hi : cwIdle c = false) (he : cwLseq c = (s.port p).rxNext) :
    s.codeword p c = Sw.deliverCw ((s.port p).stash.length + 1) (s.hears p c) p c := by
  rw [codeword_heard hl hk ha hw hc hn hu, hi, if_neg Bool.false_ne_true, if_pos he]

end

/-- The port once the expected codeword is accepted (R505, R521). -/
def PortSt.accepts (x : PortSt) (now : Nat) : PortSt :=
  { x with rxNext := (x.rxNext + 1) % 65536, skip := false, rxOther := false
           ackFrom := if x.eidleTx && x.ackFrom.isNone then some now else x.ackFrom }

section
variable {s : Sw} {p : Lane} {c : Codeword} (n : Nat)

theorem deliverCw_failed (h : cwChecked c = false) : Sw.deliverCw (n + 1) s p c = .ok ((s.discardCw p c).askReplay p) := by
  simp [Sw.deliverCw, h]

/-- A control packet is delivered; with nothing stashed no other codeword follows. -/
theorem deliverCw_ctl (h : cwChecked c = true) (hi : cwIdle c = false) (hs : cwShort c = true) (hp : pCtl (cwPkt c) = 1)
    (he : (s.port p).stash = []) :
    Sw.deliverCw (n + 1) s p c = .ok ((s.updPort p (·.accepts s.now)).rxCtl (.port p) (cwPkt c)) := by
  have hd : (s.updPort p (·.accepts s.now)).deliverBody p c = .ok ((s.updPort p (·.accepts s.now)).rxCtl (.port p) (cwPkt c)) := by
    simp [Sw.deliverBody, hi, hs, rxWord_ctl, hp]
  have hd' : Sw.deliverBody (s.updPort p (fun x => { x with
      rxNext := (x.rxNext + 1) % 65536, skip := false, rxOther := false
      ackFrom := if x.eidleTx && x.ackFrom.isNone then some s.now else x.ackFrom })) p c = _ := hd
  simp only [Sw.deliverCw, h, hd', he, Bool.not_true, Bool.false_eq_true, if_false, List.find?_nil, ite_self]

end

/-! ### Replay (12 R506) -/

/-- A kept codeword is sent again. -/
def Tx.isResend : Tx → Bool
  | .resend _ _ => true
  | _ => false

theorem isResend_of_onLane {x : Tx} (h : x.onLane = true) : x.isResend = false := by
  cases x with
  | codeword => rfl
  | comma => rfl
  | _ => cases h

/-- One kept codeword leaves again. -/
def Sw.resendOne (s : Sw) (p : Nat) (k : Kept) : Sw := (s.send (.resend p k.lseq)).putLoad p k.lseq k.load

/-- What kept codewords sent again leave: of the port all but the `nak` that was due, and one resend for each, in order. -/
structure Sw.Resends (p : Nat) (s : Sw) (l : List Kept) (t : Sw) : Prop where
  linkOnly : s.LinkOnly t
  resends : (t.port p).resends = (s.port p).resends
  sent : ∃ m, t.tx = m ++ s.tx ∧ m.filter Tx.isResend = (l.map (fun k => Tx.resend p k.lseq)).reverse

theorem resends_one (s : Sw) (p : Nat) (k : Kept) : s.Resends p [k] (s.resendOne p k) := by
  have ht := transmits_putWord (s.send (.resend p k.lseq)) p k.load.long (k.load.msg (s.port p).nakDue k.lseq (s.port p).aseq)
  have hp : (s.resendOne p k).port p = (s.port p).said := (port_updPort_self _ p PortSt.said).trans (congrArg PortSt.said (ht.port p))
  refine ⟨(linkOnly_send ..).trans (ht.linkOnly.trans (linkOnly_updPort _ p PortSt.said)), by rw [hp]; rfl, ?_⟩
  · obtain ⟨m, hm, hx⟩ := ht.sent
    refine ⟨m ++ [.resend p k.lseq], hm.trans (by simp), ?_⟩
    rw [List.filter_append, List.filter_eq_nil_iff.mpr (fun x h => by simp [isResend_of_onLane (hx x h)])]
    rfl

theorem resends_all (p : Nat) (l : List Kept) (s : Sw) : s.Resends p l (l.foldl (fun s k => s.resendOne p k) s) := by
  induction l generalizing s with
  | nil => exact ⟨.refl s, rfl, [], rfl, rfl⟩
  | cons k l ih =>
    have h1 := resends_one s p k
    have h2 := ih (s.resendOne p k)
    obtain ⟨m, hm, hmr⟩ := h1.sent
    obtain ⟨n, hn, hnr⟩ := h2.sent
    refine ⟨h1.linkOnly.trans h2.linkOnly, h2.resends.trans h1.resends, n ++ m, ?_, ?_⟩
    · rw [List.foldl_cons, hn, hm, List.append_assoc]
    · rw [List.filter_append, hnr, hmr, ← List.reverse_append, ← List.map_append]; rfl

section
variable {s : Sw} {p : Nat} (hk : (s.port p).kept ≠ [])
include hk

theorem resend_limit (h0 : s.rd L.linkRetryMax ≠ 0) (hl : s.rd L.linkRetryMax ≤ (s.port p).resends) :
    s.resend p = s.downAndBack p 5 := by simp [Sw.resend, hk, h0, hl]

theorem resend_below (h : s.rd L.linkRetryMax = 0 ∨ (s.port p).resends < s.rd L.linkRetryMax) :
    ((s.resend p).port p).resends = (s.port p).resends + 1 ∧ (s.inc L.linkCntRetries p).LinkOnly (s.resend p) ∧
    ∃ m, (s.resend p).tx = m ++ s.tx ∧ m.filter Tx.isResend = ((s.port p).kept.map (fun k => Tx.resend p k.lseq)).reverse := by
  obtain ⟨hf, hr, hm⟩ := resends_all p (s.port p).kept (s.inc L.linkCntRetries p)
  have hlim : ¬(s.rd L.linkRetryMax ≠ 0 ∧ s.rd L.linkRetryMax ≤ (s.port p).resends) := by omega
  rw [Sw.resend, if_neg (by simpa using hk), if_neg hlim]
  refine ⟨?_, hf.trans (linkOnly_updPort ..), hm⟩
  rw [port_updPort_self]
  exact congrArg (· + 1) hr

end

/-! ### What takes a port down first (12 R524) -/

theorem downFirst_none {s : Sw} {p : Nat} (f : Sw → Sw) (h : s.downDue p = none) : s.downFirst p f = f s := by rw [Sw.downFirst, h]

theorem downFirst_some {s : Sw} {p c : Nat} (f : Sw → Sw) (h : s.downDue p = some c) : s.downFirst p f = s.downAndBack p c := by
  rw [Sw.downFirst, h]

/-- A port that keeps nothing and has lost the lock of no lane is taken down by neither timer. -/
theorem downDue_none {s : Sw} {p : Nat} (hk : (s.port p).kept = []) (hl : ∀ n, n ∈ s.portLanes p → (s.lane n).unlocked = none) :
    s.downDue p = none := by
  rw [Sw.downDue, hk]
  by_cases hx : (s.port p).st ≠ .up ∨ (s.port p).mode ≠ 1
  · exact if_pos hx
  · refine (if_neg hx).trans ((if_neg ?_).trans (if_neg (by simp)))
    rw [List.any_eq_true]
    rintro ⟨n, hm, h⟩
    rw [hl n hm] at h
    cases h

/-! ### Exit from electrical idle (12 R521, R522) -/

theorem mem_tx_commas_foldl {p : Nat} {x : Tx} (l : List Nat) (s : Sw)
    (h : x ∈ s.tx ∨ ∃ n ∈ l, x = .comma p n (laneTag p (n - p)) 1) : x ∈ (l.foldl (fun s n => s.commas p n 1) s).tx := by
  induction l generalizing s with
  | nil => simpa using h
  | cons n l ih =>
    refine ih _ ?_
    rcases h with h | ⟨m, hm, rfl⟩
    · exact .inl (List.mem_cons_of_mem _ h)
    · rcases List.mem_cons.mp hm with rfl | hm
      · exact .inl List.mem_cons_self
      · exact .inr ⟨m, hm, rfl⟩

/-- The port whose transmitter drives its lanes again. -/
def PortSt.leaves (x : PortSt) (now : Nat) : PortSt := { x with eidleTx := false, exitAt := none, ackFrom := none, quietAt := now }

/-- Its lanes begin to send, a comma and a lane tag on each. -/
def Sw.wakes (s : Sw) (p : Nat) : Sw :=
  let t := (s.updPort p (·.leaves s.now)).linesBegin p
  (t.portLanes p).foldl (fun s n => s.commas p n 1) t

theorem transmits_wakes (s : Sw) (p : Nat) : (s.updPort p (·.leaves s.now)).Transmits p (s.wakes p) :=
  (transmits_linesBegin ..).trans (List.foldlRecOn (motive := Sw.Transmits p _) _ _ (.refl ..)
    (fun t h n _ => h.trans (transmits_commas t p n 1)))

theorem wakes_port (s : Sw) (p : Nat) : (s.wakes p).port p = (s.port p).leaves s.now :=
  ((transmits_wakes s p).port p).trans (port_updPort_self ..)

theorem comma_mem_wakes {s : Sw} {p n : Nat} (h : n ∈ s.portLanes p) : Tx.comma p n (laneTag p (n - p)) 1 ∈ (s.wakes p).tx := by
  refine mem_tx_commas_foldl _ _ (.inr ⟨n, ?_, rfl⟩)
  rwa [portLanes_of_port (s := s) (by rw [(transmits_linesBegin ..).port, port_updPort_self]; rfl)]

/-- A `nak` that is due follows the lane tags. -/
theorem leaveIdle_eq (s : Sw) (p : Nat) :
    s.leaveIdle p = if (s.port p).nakDue then (s.wakes p).putIdle p false else s.wakes p := by
  have h : s.leaveIdle p = if ((s.wakes p).port p).nakDue then (s.wakes p).putIdle p false else s.wakes p := rfl
  rw [h, wakes_port]
  rfl

theorem leaveIdle_spec (s : Sw) (p : Nat) : ((s.leaveIdle p).port p).eidleTx = false ∧ ((s.leaveIdle p).port p).exitAt = none ∧
    (∀ n, n ∈ s.portLanes p → Tx.comma p n (laneTag p (n - p)) 1 ∈ (s.leaveIdle p).tx) ∧
    ((s.port p).nakDue = true → (s.port p).width ≠ 0 →
      ∃ n b, Tx.codeword p n (shortMsg true true false 0 (s.port p).aseq 0) b ∈ (s.leaveIdle p).tx) ∧
    s.LinkOnly (s.leaveIdle p) := by
  have hf := (linkOnly_updPort s p (·.leaves s.now)).trans (transmits_wakes s p).linkOnly
  rw [leaveIdle_eq]
  by_cases hn : (s.port p).nakDue = true
  · have hc := codeword_mem_putIdle (s.wakes p) p false
    have hx : ((s.wakes p).port p).nakDue = true := by rw [wakes_port]; exact hn
    rw [hx, wakes_port] at hc
    rw [if_pos hn, port_putIdle_self, wakes_port]
    exact ⟨rfl, rfl, fun n h => mem_tx_putIdle _ _ _ (comma_mem_wakes h), fun _ => hc, hf.trans (linkOnly_putIdle ..)⟩
  · rw [if_neg hn, wakes_port]
    exact ⟨rfl, rfl, fun n h => comma_mem_wakes h, fun h => absurd h hn, hf⟩

/-! ### The commands of a native port that is Up -/

section
variable {s : State} {p : Lane}

theorem execCodewordReceive_does {c : Codeword} {w : Sw} (hu : (s.sw.port p).st = .up) (hm : (s.sw.port p).mode = 1)
    (h : s.sw.codeword p c = .ok w) : Does (.codewordReceive p c) s w := by
  change execCodewordReceive p c s = _
  simp only [execCodewordReceive, portUp_of_st hu, hm, h, Bool.not_true, Bool.false_eq_true, ne_eq, not_true, or_self, if_false]
  rfl

theorem execSkewAllowanceExpire_does {t : Nat} (h : (s.sw.port p).skewAt = some t) :
    Does (.skewAllowanceExpire p) s ((s.sw.reach t).askReplay p) := by
  change execSkewAllowanceExpire p s = _
  rw [execSkewAllowanceExpire, h]
  rfl

theorem execReplayTimeout_does {k : Kept} {ks : List Kept} (hu : (s.sw.port p).st = .up) (h : (s.sw.port p).kept = k :: ks) :
    Does (.replayTimeout p) s
      ((s.sw.reach (deadline k.since (if s.sw.rd L.linkRetryNs = 0 then 1000 else s.sw.rd L.linkRetryNs))).resend p) := by
  change execReplayTimeout p s = _
  simp only [execReplayTimeout, h, portUp_of_st hu, Bool.not_true, Bool.false_eq_true, if_false]
  rfl

theorem execEidleAutoEntry_asked (hc : s.sw.canIdle p = true) (hw : (s.sw.port p).wantIdle = true) :
    Does (.eidleAutoEntry p) s (s.sw.downFirst p (fun w => w.goIdle p)) := by
  change execEidleAutoEntry p s = _
  simp only [execEidleAutoEntry, hc, hw, Bool.true_or, Bool.not_true, Bool.false_eq_true, false_and, or_self, if_false, if_true]
  rfl

theorem execEidleAutoEntry_quiet (hc : s.sw.canIdle p = true) (hw : (s.sw.port p).wantIdle = false) (ha : s.sw.pwr.state = .active)
    (hn : s.sw.rd L.linkIdleNs ≠ 0) : Does (.eidleAutoEntry p) s
      ((s.sw.reach (deadline (s.sw.port p).quietAt (s.sw.rd L.linkIdleNs))).downFirst p (fun w => w.goIdle p)) := by
  change execEidleAutoEntry p s = _
  simp [execEidleAutoEntry, hc, hw, ha, hn]
  rfl

/-- Entry on request, or once nothing has been sent for `link.idle.ns`, at time `t`. -/
theorem execEidleAutoEntry_does {t : Nat} (hc : s.sw.canIdle p = true)
    (hl : ∀ n, n ∈ s.sw.portLanes p → (s.sw.lane n).unlocked = none)
    (ht : ((s.sw.port p).wantIdle = true ∧ t = s.sw.now) ∨
      ((s.sw.port p).wantIdle = false ∧ s.sw.pwr.state = .active ∧ s.sw.rd L.linkIdleNs ≠ 0 ∧
        t = max s.sw.now (deadline (s.sw.port p).quietAt (s.sw.rd L.linkIdleNs)))) :
    Does (.eidleAutoEntry p) s (Sw.goIdle { s.sw with now := t } p) := by
  obtain ⟨-, -, -, hk, -⟩ := canIdle_iff.mp hc
  rcases ht with ⟨hw, rfl⟩ | ⟨hw, ha, hn, rfl⟩
  · have hdo := execEidleAutoEntry_asked hc hw
    rwa [downFirst_none _ (downDue_none hk hl)] at hdo
  · have hdo := execEidleAutoEntry_quiet hc hw ha hn
    rwa [downFirst_none _ (downDue_none (s := s.sw.reach _) hk hl)] at hdo

theorem execEidleAckWaitTimeout_does {t : Nat} (h : (s.sw.port p).ackFrom = some t) (he : (s.sw.port p).eidleTx = true)
    (hx : (s.sw.port p).exitAt = none) : Does (.eidleAckWaitTimeout p) s
      ((s.sw.reach (deadline t 500)).downFirst p (fun w => w.updPort p (fun x => { x with exitAt := some w.now }))) := by
  change execEidleAckWaitTimeout p s = _
  simp only [execEidleAckWaitTimeout, h, he, hx, Bool.not_true, Bool.false_eq_true, Option.isSome_none, or_self, if_false]
  rfl

theorem execEidleExitComplete_does {t : Nat} (h : (s.sw.port p).exitAt = some t) : Does (.eidleExitComplete p) s
    ((s.sw.reach (t + if s.sw.exitTrains p then 0 else 110)).downFirst p (fun w => w.leaveIdle p)) := by
  change execEidleExitComplete p s = _
  rw [execEidleExitComplete, h]
  rfl

end

end Sys2Proof.Machine

open Sys2Proof Sys2Proof.Machine

/-- Settles O49. A codeword is decided by where it came, what was lost of it and its place in the order (`codeword_unheard` to
`codeword_expected`); a replay sends all that is kept (`resends_all`); idle is entered by `goIdle_spec` and left by `leaveIdle_spec`. -/
theorem retryAndElectricalIdle : Obligations.RetryAndElectricalIdle := by
  rintro s p x rfl hu hm
  refine ⟨?codeword, fun t ht => execSkewAllowanceExpire_does ht, fun k ks hk => ?replay, fun hc hl t ht => ?entry,
    fun t ht he hx => ?ackWait, fun t u ht huv hd => ?exit⟩
  case codeword =>
    rintro c l rfl
    refine ⟨fun h => execCodewordReceive_does hu hm (codeword_unheard h), fun hl hk ha => ⟨fun u hcase => ?lost, fun hw hc hn =>
      ⟨fun h => ?early, fun hi he hch => ?failed, fun hi hsh hei he hch hp hst => ?control⟩,
      fun w h => execCodewordReceive_does hu hm h⟩⟩
    case lost =>
      have hdo : Does (.codewordReceive p c) s ((u.discardCw p c).askReplay p) := by
        rcases hcase with ⟨hw, rfl⟩ | ⟨hw, hc, rfl⟩
        · exact execCodewordReceive_does hu hm (codeword_lost hl hk ha hw)
        · exact execCodewordReceive_does hu hm (codeword_uncorrectable hl hk ha hw hc)
      have hup : u.port p = s.sw.port p := by
        rcases hcase with ⟨_, rfl⟩ | ⟨_, _, rfl⟩
        · rfl
        · rfl
      obtain ⟨hskip, hstash⟩ := askReplay_skips (u.discardCw p c) p
      refine ⟨_, hdo, rfl, hskip, hstash, fun hs h0 => ?_⟩
      have hd : (u.discardCw p c).port p = { s.sw.port p with rxOther := (s.sw.port p).rxOther || cwOpens c } := by
        rw [discardCw_of_none c (hup ▸ h0), port_updPort_self, hup]
      have hsd : ((u.discardCw p c).port p).stash = [] := by rw [hd]; exact hs
      refine ⟨(askReplay_rxNext hsd).trans (by rw [hd]), fun he => askReplay_wakes hsd (by rw [hd]; exact he), fun he hw => ?_⟩
      have hsay := askReplay_says hsd (by rw [hd]; exact he) (by rw [hd]; exact hw)
      rw [hd] at hsay
      exact hsay
    case early =>
      obtain ⟨hkept, hnext, hidle, hframe⟩ := stashes_spec (s.sw.hears p c) p c
      have hp := hears_port s.sw p c
      refine ⟨_, execCodewordReceive_does hu hm (codeword_early hl hk ha hw hc hn hu h), ?_, ?_, ?_, ?_, ?_, ?_, ?_⟩
      · rw [hkept, hp]; rfl
      · rw [hnext, hp]; rfl
      · rw [hidle, hp]; rfl
      · intro n hm
        rw [hframe]
        exact hears_lane s.sw p c hm
      · rw [hframe]; exact hears_corr s.sw p c
      · intro hi hlat hany
        rw [stashes_stash hi (by rw [hp]; exact hlat) (by rw [hp]; exact hany), hp, hears_now]
        rfl
      · exact hears_stashes_frame s.sw p c
    case failed =>
      exact ⟨_, execCodewordReceive_does hu hm ((codeword_expected hl hk ha hw hc hn hu hi he).trans (deliverCw_failed _ hch)),
        askReplay_skips _ p⟩
    case control =>
      have hst' : ((s.sw.hears p c).port p).stash = [] := by rw [hears_port]; exact hst
      have hcw := (codeword_expected hl hk ha hw hc hn hu hi he).trans (deliverCw_ctl _ hch hi hsh hp hst')
      rw [hears_quiet _ _ hei] at hcw
      exact execCodewordReceive_does hu hm hcw
  case replay =>
    have hdo := execReplayTimeout_does hu hk
    have hk' : (s.sw.port p).kept ≠ [] := by simp [hk]
    refine ⟨fun h => ?_, fun h0 hlim => ?_⟩
    · obtain ⟨hr, hf, hm⟩ := resend_below (s := s.sw.reach _) hk' h
      exact ⟨_, hdo, hr, hf.now, hm, by rw [hf.now, hf.lex]; exact hf⟩
    · rwa [resend_limit (s := s.sw.reach _) hk' h0 hlim] at hdo
  case entry =>
    obtain ⟨-, -, -, -, hh⟩ := canIdle_iff.mp hc
    obtain ⟨hi, hw, htx, -, hf⟩ := goIdle_spec { s.sw with now := t } p (nakDue_of_not_hasToSend hh)
    exact ⟨_, execEidleAutoEntry_does hc hl ht, hi, hw, htx, hf⟩
  case ackWait =>
    have hdo := execEidleAckWaitTimeout_does ht he hx
    refine ⟨fun h => ?_, fun c h => ?_⟩
    · rw [downFirst_none _ h] at hdo
      exact ⟨_, hdo, by rw [port_updPort_self]; rfl, rfl⟩
    · rwa [downFirst_some _ h] at hdo
  case exit =>
    subst huv
    have hdo := execEidleExitComplete_does ht
    rw [downFirst_none _ hd] at hdo
    exact ⟨_, hdo, leaveIdle_spec (s.sw.reach _) p⟩
end

section
/-! SUPPORT. Ethernet ports (12 R490, R509 to R512), with the theorem that settles O50. -/

namespace Sys2Proof.Machine

/-! ### FEC and frames (12 R490, R509, R510) -/

section
variable (s : Sw) (p : Nat) (fec : List Nat)

theorem fecCount_uncorr : (s.fecCount p fec).rd L.linkCntUncorr p =
    (s.rd L.linkCntUncorr p + (fec.filter (fun n => decide (15 < n))).length) % 256 ^ L.linkCntUncorr.width := by
  refine (Sw.rd_wr_self ..).trans ?_
  rw [Sw.inc, Sw.rd_wr_ne _ _ _ _ _ _ (by simp only [Reg.key, L.linkCntCorr, L.linkCntUncorr]; omega)]

theorem fecCount_port (q : Nat) : (s.fecCount p fec).port q = s.port q := rfl

end

/-- The counters are not the part's EtherType. -/
theorem fecCount_etherType (s : Sw) (p : Lane) (fec : List Nat) : (s.fecCount p fec).rd L.fabEthEthertype = s.rd L.fabEthEthertype := by
  refine (Sw.rd_wr_ne _ _ _ _ _ _ ?_).trans (Sw.rd_wr_ne _ _ _ _ _ _ ?_)
  · simp only [Reg.key, L.linkCntUncorr, L.fabEthEthertype]; omega
  · simp only [Reg.key, L.linkCntCorr, L.fabEthEthertype]; omega

section
variable {s : Sw} {p : Lane} {fec : List Nat} {f : Bytes}

theorem ethIn_lost (h : fecOk fec = false ∨ fcsOk f = false) : s.ethIn p fec f = .ok ((s.fecCount p fec).cutArriving p) :=
  if_pos (by simpa using h)

variable (hfec : fecOk fec = true) (hfcs : fcsOk f = true)
include hfec hfcs

/-- A whole frame is taken by its EtherType. -/
theorem ethIn_whole : s.ethIn p fec f =
    if etherType f = s.rd L.fabEthEthertype then
      if (s.port p).plain ∧ 4158 < f.length then .error 529 else (s.fecCount p fec).framePacket p (frameBody f)
    else if (s.port p).plain ∧ isPfc f then
      .ok ((s.fecCount p fec).pfcIn p (beNat (slice (frameBody f) 2 2) % 256)
        ((List.range 8).map (fun c => beNat (slice (frameBody f) (4 + 2 * c) 2))))
    else .ok ((s.fecCount p fec).inc L.linkEthOther p) := by
  simp only [Sw.ethIn, hfec, hfcs, fecCount_etherType, fecCount_port, Bool.not_true, Bool.false_eq_true, or_self, if_false]
  rfl

theorem ethIn_other (ht : etherType f ≠ s.rd L.fabEthEthertype) (h : (s.port p).plain = false ∨ isPfc f = false) :
    s.ethIn p fec f = .ok ((s.fecCount p fec).inc L.linkEthOther p) := by
  rw [ethIn_whole hfec hfcs, if_neg ht, if_neg (by rintro ⟨hp, hf⟩; simp [hp, hf] at h)]

theorem ethIn_pfc (ht : etherType f ≠ s.rd L.fabEthEthertype) (hp : (s.port p).plain = true) (h : isPfc f = true) :
    s.ethIn p fec f = .ok ((s.fecCount p fec).pfcIn p (beNat (slice (frameBody f) 2 2) % 256)
      ((List.range 8).map (fun c => beNat (slice (frameBody f) (4 + 2 * c) 2)))) := by
  rw [ethIn_whole hfec hfcs, if_neg ht, if_pos ⟨hp, h⟩]

variable (ht : etherType f = s.rd L.fabEthEthertype)
include ht

theorem ethIn_long (hp : (s.port p).plain = true) (hl : 4158 < f.length) : s.ethIn p fec f = .error 529 := by
  rw [ethIn_whole hfec hfcs, if_pos ht, if_pos ⟨hp, hl⟩]

theorem ethIn_packet (h : (s.port p).plain = false ∨ f.length ≤ 4158) :
    s.ethIn p fec f = (s.fecCount p fec).framePacket p (frameBody f) := by
  rw [ethIn_whole hfec hfcs, if_pos ht, if_neg (by rintro ⟨hp, hl⟩; simp [hp] at h; omega)]

end

theorem framePacket_ctl (s : Sw) (p : Lane) {bs : Bytes} (h : pCtl (firstWord bs) = 1) :
    s.framePacket p bs = .ok (s.rxCtl (.port p) (firstWord bs)) := by
  simp [Sw.framePacket, rxWord_ctl, h]

theorem framePacket_data {s w : Sw} {p : Lane} {bs : Bytes} (h : pCtl (firstWord bs) ≠ 1)
    (hw : s.rxHeader (.port p) (firstWord bs) = .ok w) :
    s.framePacket p bs = .ok (w.rxEnd (.port p) (slice bs 32 (64 * hPlen (firstWord bs)))
      (BitVec.ofNat 64 (leNat (slice bs (32 + 64 * hPlen (firstWord bs)) 8)))) := by
  simp only [Sw.framePacket, rxWord_data _ _ _ h, hw, if_neg h]

/-! ### PFC (12 R512) -/

section
variable (classes : Nat) (quanta : List Nat) (d : Nat → Nat)

/-- The pauses after class `c` of a PFC frame whose quanta end at `d`: as before where it is not named, and without it where it
resumes. -/
def pauseStep (m : AMap Nat) (c : Nat) : AMap Nat :=
  if bit classes c = false then m else if quanta.getD c 0 = 0 then m.del c else m.set c (d (quanta.getD c 0))

/-- The pause of class `c` after it, `v` before. -/
def pauseOf (c : Nat) (v : Option Nat) : Option Nat :=
  if bit classes c = false then v else if quanta.getD c 0 = 0 then none else some (d (quanta.getD c 0))

theorem pauseStep_get?_self (m : AMap Nat) (c : Nat) :
    (pauseStep classes quanta d m c).get? c = pauseOf classes quanta d c (m.get? c) := by
  unfold pauseStep pauseOf
  split
  · rfl
  · split
    · exact AMap.get?_del_self ..
    · exact AMap.get?_set_self ..

theorem pauseStep_get?_ne (m : AMap Nat) {c k : Nat} (h : k ≠ c) : (pauseStep classes quanta d m c).get? k = m.get? k := by
  unfold pauseStep
  split
  · rfl
  · split
    · exact AMap.get?_del_ne _ _ _ h.symm
    · exact AMap.get?_set_ne _ _ _ _ h.symm

/-- Each class of a list is paused or resumed by its own quanta. -/
theorem pauseSteps_get? (l : List Nat) (m : AMap Nat) (k : Nat) : (l.foldl (pauseStep classes quanta d) m).get? k =
    if k ∈ l then pauseOf classes quanta d k (m.get? k) else m.get? k := by
  induction l generalizing m with
  | nil => simp
  | cons c l ih =>
    rw [List.foldl_cons, ih]
    by_cases hk : k = c
    · subst hk
      rw [pauseStep_get?_self, if_pos List.mem_cons_self, ite_eq_right_iff]
      intro _
      unfold pauseOf
      split <;> rfl
    · simp [pauseStep_get?_ne _ _ _ _ hk, hk]

end

/-- When the quanta of a PFC frame that comes now end at a port. -/
def Sw.pauseEnd (s : Sw) (p q : Nat) : Nat := deadline s.now (s.pauseNs p q)

/-- One class of a PFC frame at a port. -/
def Sw.pfcClass (s : Sw) (p classes : Nat) (quanta : List Nat) (c : Nat) : Sw :=
  if !bit classes c then s
  else s.updPort p (fun x => { x with
    pause := if quanta.getD c 0 = 0 then AMap.del x.pause c else AMap.set x.pause c (s.pauseEnd p (quanta.getD c 0)) })

/-- `t` is `s` but for the pauses of port `p`, which are `m`. -/
structure Sw.Paused (p : Nat) (s : Sw) (m : AMap Nat) (t : Sw) : Prop where
  frame : t = { s with ports := t.ports }
  self : t.port p = { s.port p with pause := m }
  other : ∀ q, q ≠ p → t.port q = s.port q

/-- The length of a quantum depends on the port's width and mode alone. -/
theorem Sw.Paused.pauseEnd {p : Nat} {s t : Sw} {m : AMap Nat} (h : s.Paused p m t) : t.pauseEnd p = s.pauseEnd p := by
  funext q
  rw [Sw.pauseEnd, Sw.pauseNs, Sw.lineRate, h.self, h.frame]
  rfl

theorem Sw.Paused.trans {p : Nat} {s t u : Sw} {m n : AMap Nat} (h : s.Paused p m t) (k : t.Paused p n u) : s.Paused p n u where
  frame := k.frame.trans (congrArg (fun t : Sw => { t with ports := u.ports }) h.frame)
  self := by rw [k.self, h.self]
  other q hq := (k.other q hq).trans (h.other q hq)

theorem paused_pfcClass (s : Sw) (p classes : Nat) (quanta : List Nat) (c : Nat) :
    s.Paused p (pauseStep classes quanta (s.pauseEnd p) (s.port p).pause c) (s.pfcClass p classes quanta c) := by
  by_cases h : bit classes c = false
  · rw [Sw.pfcClass, if_pos (by simp [h]), pauseStep, if_pos h]
    exact ⟨rfl, rfl, fun _ _ => rfl⟩
  · rw [Sw.pfcClass, if_neg (c := (!bit classes c) = true) (by simpa using h), pauseStep, if_neg h]
    exact ⟨rfl, port_updPort_self .., fun q hq => port_updPort_ne _ _ _ hq⟩

theorem paused_pfcClasses (p classes : Nat) (quanta : List Nat) (l : List Nat) (s : Sw) :
    s.Paused p (l.foldl (pauseStep classes quanta (s.pauseEnd p)) (s.port p).pause)
      (l.foldl (fun w c => w.pfcClass p classes quanta c) s) := by
  induction l generalizing s with
  | nil => exact ⟨rfl, rfl, fun _ _ => rfl⟩
  | cons c l ih =>
    have h1 := paused_pfcClass s p classes quanta c
    have h2 := ih (s.pfcClass p classes quanta c)
    rw [h1.pauseEnd, h1.self] at h2
    exact h1.trans h2

theorem paused_pfcIn (s : Sw) (p classes : Nat) (quanta : List Nat) :
    s.Paused p ((List.range 8).foldl (pauseStep classes quanta (s.pauseEnd p)) (s.port p).pause) (s.pfcIn p classes quanta) :=
  paused_pfcClasses p classes quanta (List.range 8) s

/-! #### The part's own PFC -/

section
variable {s : Sw} {p c : Nat} (hp : (s.port p).plain = true) (hu : (s.port p).st = .up) (hr : s.ruled c = false)
  (hs : (s.port p).pfcSent.get? c ≠ none)
include hp hu hr hs

/-- Cells short of both thresholds leave the PFC in force. -/
theorem pfcCheck_short (h : s.unusedCredit p c < max (s.rd L.linkPfcXoff) (s.rd L.linkPfcXon)) : s.pfcCheck p c = s := by
  simp [Sw.pfcCheck, hp, hu, hr, hs, Nat.not_le.mpr h]

theorem pfcCheck_ends (h : max (s.rd L.linkPfcXoff) (s.rd L.linkPfcXon) ≤ s.unusedCredit p c) : s.pfcCheck p c =
    (s.send (.pfc p c 0)).updPort p (fun y => { y with pfcSent := AMap.del y.pfcSent c }) := by
  simp [Sw.pfcCheck, hp, hu, hr, hs, h, Option.isSome_iff_ne_none]

end

/-! ### The commands of an Ethernet port that is Up -/

theorem ethUp_of_st {s : Sw} {p : Nat} (hu : (s.port p).st = .up) (hm : (s.port p).mode ≠ 1) : s.ethUp p = true := by
  simp [Sw.ethUp, Sw.portUp, hu, hm]

section
variable {s : State} {p : Lane} (hu : (s.sw.port p).st = .up) (hm : (s.sw.port p).mode ≠ 1)

section
include hu hm

theorem execEthFrameReceive_ends (fec : List Nat) (b : Bytes) (k : BitVec 32) :
    exec (.ethFrameReceive p fec b k) s = s.endsOr (s.sw.ethIn p fec (withFcs b k)) := by
  change execEthFrameReceive p fec b k s = _
  simp [execEthFrameReceive, ethUp_of_st hu hm]

theorem execEthFrameReceive_does {fec : List Nat} {b : Bytes} {k : BitVec 32} {w : Sw} (h : s.sw.ethIn p fec (withFcs b k) = .ok w) :
    Does (.ethFrameReceive p fec b k) s w := by
  rw [Does, execEthFrameReceive_ends hu hm, h]
  rfl

theorem execPfcReceive_does (cs : BitVec 8) (qs : List (BitVec 16)) : Does (.pfcReceive p cs qs) s
    (if (s.sw.port p).plain then s.sw.pfcIn p cs.toNat (qs.map BitVec.toNat) else s.sw.inc L.linkEthOther p) := by
  change execPfcReceive p cs qs s = _
  rw [execPfcReceive]
  cases (s.sw.port p).plain <;> simp [ethUp_of_st hu hm] <;> rfl

end

theorem execPfcPauseExpire_does {c : Fin 8} {t : Nat} (h : (s.sw.port p).pause.get? c = some t) : Does (.pfcPauseExpire p c) s
    ((s.sw.reach t).updPort p (fun x => { x with pause := AMap.del x.pause c })) := by
  change execPfcPauseExpire p c s = _
  rw [execPfcPauseExpire, h]
  rfl

section
variable {c : Fin 8} {t : Nat} (h : (s.sw.port p).pfcSent.get? c = some t) (hp : (s.sw.port p).plain = true)
  (hr : s.sw.ruled c = false)
include hu h hp hr

theorem execPfcRepeat_again (hx : s.sw.rd L.linkPfcXoff ≠ 0)
    (hc : s.sw.unusedCredit p c < max (s.sw.rd L.linkPfcXoff) (s.sw.rd L.linkPfcXon)) : Does (.pfcRepeat p c) s
      (((s.sw.reach t).send (.pfc p c 0xFFFF)).updPort p (fun x => { x with
        pfcSent := AMap.set x.pfcSent c (deadline (s.sw.reach t).now 20000) })) := by
  change execPfcRepeat p c s = _
  have hs : (s.sw.port p).pfcSent.get? c ≠ none := by simp [h]
  rw [execPfcRepeat, h]
  dsimp only
  rw [pfcCheck_short (s := s.sw.reach t) hp hu hr hs hc]
  refine if_neg ?_
  rintro (hn | hn)
  · simp [h] at hn
  · exact hx hn

theorem execPfcRepeat_ends (hc : max (s.sw.rd L.linkPfcXoff) (s.sw.rd L.linkPfcXon) ≤ s.sw.unusedCredit p c) :
    Does (.pfcRepeat p c) s
      (((s.sw.reach t).send (.pfc p c 0)).updPort p (fun y => { y with pfcSent := AMap.del y.pfcSent c })) := by
  change execPfcRepeat p c s = _
  have hs : (s.sw.port p).pfcSent.get? c ≠ none := by simp [h]
  rw [execPfcRepeat, h]
  dsimp only
  rw [pfcCheck_ends (s := s.sw.reach t) hp hu hr hs hc]
  refine if_pos (.inl ?_)
  simp [AMap.get?_del_self]

end
end

end Sys2Proof.Machine

open Sys2Proof Sys2Proof.Machine

/-- Settles O50: a frame is decided by its FEC and FCS, then its EtherType (`ethIn_lost` to `ethIn_packet`); each class of a PFC frame
by its own bit and quanta (`pauseSteps_get?`); the part's own PFC by the cells set aside (`pfcCheck_short`, `pfcCheck_ends`). -/
theorem ethernetPorts : Obligations.EthernetPorts := by
  rintro s p x rfl hu hm
  refine ⟨?frame, fun cs qs => ⟨fun hp => ?other, fun hp => ?pfc⟩, fun c t => ⟨fun h => ?expire, fun h hp hr hx hc => ?again,
    fun h hp hr hc => ?ends⟩⟩
  case frame =>
    rintro fec b k f u rfl rfl
    refine ⟨fecCount_uncorr .., fun h => execEthFrameReceive_does hu hm (ethIn_lost h), fun hfec hfcs =>
      ⟨fun ht => ⟨fun h => execEthFrameReceive_does hu hm (ethIn_other hfec hfcs ht h), fun hp h =>
        execEthFrameReceive_does hu hm (ethIn_pfc hfec hfcs ht hp h)⟩, fun ht hp hl => ?_, ?_⟩⟩
    · rw [execEthFrameReceive_ends hu hm, ethIn_long hfec hfcs ht hp hl]
      rfl
    · rintro h rfl ht hlen
      have hin := ethIn_packet hfec hfcs ht hlen
      exact ⟨fun hc => execEthFrameReceive_does hu hm (hin.trans (framePacket_ctl _ _ hc)),
        fun w hc hw => execEthFrameReceive_does hu hm (hin.trans (framePacket_data hc hw))⟩
  case other => simpa [hp] using execPfcReceive_does hu hm cs qs
  case pfc =>
    have hdo := execPfcReceive_does hu hm cs qs
    rw [if_pos hp] at hdo
    obtain ⟨hframe, hself, hother⟩ := paused_pfcIn s.sw p cs.toNat (qs.map BitVec.toNat)
    refine ⟨_, hdo, fun c hc => ?_, hother, hframe⟩
    have hq : (qs.map BitVec.toNat).getD c 0 = (qs.getD c 0).toNat := List.getD_map qs 0 BitVec.toNat
    rw [hself, pauseSteps_get?, if_pos (List.mem_range.mpr hc), pauseOf, hq]
    rfl
  case expire => exact ⟨_, execPfcPauseExpire_does h, by rw [port_updPort_self]; exact AMap.get?_del_self .., rfl⟩
  case again => exact ⟨_, execPfcRepeat_again hu h hp hr hx hc, rfl, by rw [port_updPort_self]; exact AMap.get?_set_self .., rfl⟩
  case ends => exact ⟨_, execPfcRepeat_ends hu h hp hr hc, rfl, by rw [port_updPort_self]; exact AMap.get?_del_self .., rfl⟩
end

section
/-! SUPPORT. The way of a port from Negotiating to Up, and its failures (12 R488 to R494, R500 to R502, R514 to R516, R523), with the
theorem that settles O48. -/

namespace Sys2Proof.Machine

/-! ### Failure (12 R523, Table 12.8) -/

/-- A port fails with its cause, and a contained fault names it. -/
theorem failPort_spec (s : Sw) (p cause : Nat) : ((s.failPort p cause).port p).st = .failed ∧
    ((s.failPort p cause).port p).cause = cause ∧ (s.failPort p cause).now = s.now ∧
    ∃ f, (s.failPort p cause).flt.due = s.flt.due ++ [f] ∧ f.code = 0x48 ∧ f.source = 32 + p / 64 := by
  have hc : (((s.updPort p (fun x => { x with cause := cause })).portFault p 0x48).port p).cause = cause :=
    congrArg PortSt.cause (port_updPort_self s p (fun x => { x with cause := cause }))
  refine ⟨?_, ?_, rfl, _, rfl, rfl, rfl⟩
  · rw [Sw.failPort, port_updPort_self]
  · rw [Sw.failPort, port_updPort_self]; exact hc

/-! ### Negotiation (12 R491 to R494) -/

theorem forN_send (n : Nat) (s : Sw) (x : Tx) : forN n s (fun _ s => s.send x) = { s with tx := List.replicate n x ++ s.tx } := by
  induction n with
  | zero => rfl
  | succ n ih => rw [forN_succ, ih, List.replicate_succ]; rfl

/-- What answers the next pages of the partner. -/
def Sw.pagesTx (s : Sw) (p : Nat) (g : PartnerPages) : List Tx :=
  if g.nextPage then List.replicate g.others (.nullPage p) ++ .nextPages p (s.rd L.linkAnOui) (s.capWord p) :: s.tx else s.tx

/-- The switch once they are answered and the partner's capability is known. -/
def Sw.paged (s : Sw) (p : Nat) (g : PartnerPages) : Sw :=
  Sw.updPort { s with tx := s.pagesTx p g } p (fun x => { x with
    plain := !s.hokuell g, partner := if s.hokuell g then g.cap.toNat else 0 })

theorem negotiated_eq (s : Sw) (p : Nat) (g : PartnerPages) : s.negotiated p g =
    if s.settleMode p g = 0 then (s.paged p g).failPort p 1
    else if s.pins.noClk.contains (p / 64) then (s.paged p g).failPort p 2
    else (s.paged p g).updPort p (fun x => { x with st := .training, mode := s.settleMode p g, trainAt := s.now }) := by
  unfold Sw.negotiated Sw.paged Sw.pagesTx
  cases g.nextPage with
  | false => rfl
  | true => simp only [forN_send, if_true]; rfl

theorem paged_port (s : Sw) (p : Nat) (g : PartnerPages) : (s.paged p g).port p = { s.port p with
    plain := !s.hokuell g, partner := if s.hokuell g then g.cap.toNat else 0 } := port_updPort_self ..

theorem paged_port_ne (s : Sw) {p q : Nat} (g : PartnerPages) (h : q ≠ p) : (s.paged p g).port q = s.port q := port_updPort_ne _ _ _ h

/-! ### Training and alignment (12 R494, R500, R501, R515) -/

/-- A lane that begins to send at this instant: nothing since the last tag. -/
def LaneSt.begins (x : LaneSt) (now : Nat) : LaneSt := { x with freeAt := lineBits * now, sent := 0, scr := 0 }

theorem linesBegin_eq (s : Sw) (p : Nat) : ∃ L, s.linesBegin p = { s with lanes := L } :=
  setLane_foldl_frame (p + ·) (fun (s : Sw) i => (s.lane (p + i)).begins s.now) _ _

theorem linesBegin_lane (s : Sw) (p k : Nat) (h : k ∈ s.portLanes p) : (s.linesBegin p).lane k = (s.lane k).begins s.now := by
  have hl : s.linesBegin p = (s.portLanes p).foldl (fun s n => s.setLane n ((s.lane n).begins s.now)) s := by
    rw [Sw.portLanes, List.foldl_map]; rfl
  rw [hl, lane_foldl (g := (·.begins s.now)) (fun _ => rfl), if_pos h]
  refine fun t n ht => ⟨rfl, fun k => ?_⟩
  by_cases hk : k = n
  · subst hk; simp [ht]
  · simp [hk, lane_setLane_ne]

/-- The lanes of a port that begins to align send from this instant on. -/
theorem beginAlign_spec (s : Sw) (p : Nat) : ((s.beginAlign p).port p).st = .aligning ∧
    (∀ i, i < (s.port p).width → ((s.beginAlign p).lane (p + i)).freeAt = lineBits * s.now ∧
      ((s.beginAlign p).lane (p + i)).sent = 0 ∧ ((s.beginAlign p).lane (p + i)).scr = 0) ∧
    s.beginAlign p = { s with ports := (s.beginAlign p).ports, lanes := (s.beginAlign p).lanes } := by
  refine ⟨?_, fun i hi => ?_, ?_⟩
  · rw [Sw.beginAlign, (transmits_linesBegin ..).port, port_updPort_self]
  · rw [Sw.beginAlign, linesBegin_lane _ _ _ (mem_portLanes.mpr ⟨by omega, by rw [port_updPort_self]; simpa using hi⟩)]
    exact ⟨rfl, rfl, rfl⟩
  · obtain ⟨L, h⟩ := linesBegin_eq (s.updPort p (fun x => { x with st := .aligning })) p
    rw [Sw.beginAlign, h]
    rfl

/-- Neither PFC nor a step of shared billets changes a port's state or whether it is aligned. -/
theorem pfcCheck_up (s : Sw) (p c q : Nat) : (((s.pfcCheck p c).port q).st, ((s.pfcCheck p c).port q).locked) =
    ((s.port q).st, (s.port q).locked) := by
  have hu : ∀ (t : Sw) (f : PortSt → PortSt), (∀ x, (f x).st = x.st ∧ (f x).locked = x.locked) →
      (((t.updPort p f).port q).st, ((t.updPort p f).port q).locked) = ((t.port q).st, (t.port q).locked) := fun t f hf => by
    by_cases h : q = p
    · subst h; rw [port_updPort_self, (hf _).1, (hf _).2]
    · rw [port_updPort_ne _ _ _ h]
  unfold Sw.pfcCheck
  dsimp only
  split
  · rfl
  · split
    · exact hu _ _ fun _ => ⟨rfl, rfl⟩
    · split
      · exact hu _ _ fun _ => ⟨rfl, rfl⟩
      · rfl

theorem askStep_up (s : Sw) (p c q : Nat) (force : Bool) :
    (((s.askStep p c force).port q).st, ((s.askStep p c force).port q).locked) = ((s.port q).st, (s.port q).locked) := by
  unfold Sw.askStep
  dsimp only
  split
  · rfl
  · rw [pfcCheck_up]
    split <;> rfl

/-- A port that enters Up is Up and aligned. -/
theorem enterUp_spec (s : Sw) (p : Nat) : ((s.enterUp p).port p).st = .up ∧ ((s.enterUp p).port p).locked = true := by
  have h := foldl_keeps (fun t : Sw => ((t.port p).st, (t.port p).locked)) (fun s c =>
    let x := { (s.credit p c) with res := s.reserveOf p c, tx := 0, rxLast := 0 }
    let s := s.setCredit p c { x with total := (x.res - x.resUsed + x.shFree) % 65536 }
    s.askStep p c true) (List.range 8) ((s.linesTo p).updPort p (fun x => { x.quiet with
      st := .up, locked := true, pfc := x.plain && x.mode != 1, quietAt := s.now })) (fun t c => askStep_up ..)
  rw [port_updPort_self] at h
  exact Prod.mk.inj h

/-! ### Commas (12 R500, R501) -/

/-- A native port that is Up meets, or misses, a comma at one of its lanes. -/
def Sw.commaAt (s : Sw) (p n : Nat) (tag : Option Nat) : Sw :=
  let w := (s.linesTo p).setLane n (((s.linesTo p).lane n).comma (s.linesTo p).now tag)
  w.updPort p (fun x => { x with eidleRx := (w.portLanes p).any (fun n => (w.lane n).asleep) })

theorem commaAt_spec {s : Sw} {p n : Nat} (h : n ∈ s.portLanes p) (tag : Option Nat) :
    (s.commaAt p n tag).lane n = ((s.linesTo p).lane n).comma s.now tag ∧
    ((s.commaAt p n tag).port p).eidleRx = (s.portLanes p).any (fun k => ((s.commaAt p n tag).lane k).asleep) ∧
    (∀ k, k < p ∨ p + (s.port p).width ≤ k → (s.commaAt p n tag).lane k = s.lane k) ∧ s.LinkOnly (s.commaAt p n tag) := by
  have hl := transmits_linesTo s p
  have hm : n ∈ (s.linesTo p).portLanes p := by rwa [portLanes_of_port (s := s) (by rw [hl.port])]
  have hw := hl.trans (transmits_setLane hm (((s.linesTo p).lane n).comma (s.linesTo p).now tag))
  refine ⟨?_, ?_, hw.other, ?_⟩
  · rw [Sw.commaAt, lane_updPort, lane_setLane_self, hl.linkOnly.now]
  · rw [Sw.commaAt, port_updPort_self, portLanes_of_port (s := s) (by rw [hw.port])]
    rfl
  · rw [Sw.commaAt]
    exact hw.linkOnly.trans (linkOnly_updPort ..)

/-! ### Figures of merit (12 R514, R516) -/

/-- The next update is the next whole multiple of 10 µs at which there was none (R514). -/
theorem fomNext_spec (s : Sw) : s.now ≤ s.fomNext ∧ s.fomNext % 10000 = 0 ∧ s.fomAt ≠ some s.fomNext := by
  unfold Sw.fomNext nextTick cdiv
  cases s.fomAt with
  | none => exact ⟨by dsimp only; omega, by dsimp only; omega, by simp⟩
  | some l =>
    dsimp only
    split
    · exact ⟨by omega, by omega, fun e => by have := Option.some.inj e; omega⟩
    · exact ⟨by omega, by omega, fun e => by have := Option.some.inj e; omega⟩

/-- Temper's step (R516): one that lowered the figure by more than 8 is undone, else the next is one up or one down. -/
theorem temperStep_spec (s : Sw) (x : LaneSt) (f : Nat) : (s.temperStep x f).1.was = f ∧ (s.temperStep x f).1.inv = x.inv ∧
    (if x.step ≠ 0 ∧ f + 8 < x.was then (s.temperStep x f).1.eq = x.eq - x.step ∧ (s.temperStep x f).1.step = 0
      else ((s.temperStep x f).1.eq = x.eq + 1 ∨ (s.temperStep x f).1.eq = x.eq - 1) ∧
        (s.temperStep x f).1.step = (s.temperStep x f).1.eq - x.eq) ∧
    ∃ n, (s.temperStep x f).2 = { s with free := n } := by
  by_cases h : x.step ≠ 0 ∧ f + 8 < x.was
  · rw [Sw.temperStep, if_pos h, if_pos h]
    exact ⟨rfl, rfl, ⟨rfl, rfl⟩, _, rfl⟩
  · rw [Sw.temperStep, if_neg h, if_neg h]
    refine ⟨rfl, rfl, ⟨?_, by dsimp only; omega⟩, _, rfl⟩
    dsimp only
    split
    · exact .inl rfl
    · exact .inr rfl

/-- The lane is one of a port that is Up, and its direction is out of electrical idle. -/
def Sw.fomUp (s : Sw) (n : Nat) : Bool := (s.portOfLane n).any (fun p => s.portUp p && !(s.port p).eidleRx)

/-- The lane is one of a port that trains. -/
def Sw.fomTrains (s : Sw) (n : Nat) : Bool := (s.portOfLane n).any (fun p => (s.port p).st == .training)

/-- The lane with its new figure `f` before the step of the equaliser is stored, and the state past the draw. -/
def Sw.fomMove (s : Sw) (n f : Nat) : LaneSt × Sw :=
  if s.fomUp n then s.temperStep (s.lane n) f else ({ s.lane n with step := 0, was := f }, s)

theorem fomLane_eq (s : Sw) (n f : Nat) (inv : Bool) : s.fomLane n f inv = (s.fomMove n f).2.setLane n
    { (s.fomMove n f).1 with fom := f, inv := if s.fomTrains n then inv else (s.lane n).inv } := by
  unfold Sw.fomLane Sw.fomMove Sw.fomUp Sw.fomTrains
  cases s.portOfLane n <;> rfl

theorem fomMove_draws (s : Sw) (n f : Nat) : ∃ m, (s.fomMove n f).2 = { s with free := m } := by
  unfold Sw.fomMove
  split
  · obtain ⟨-, -, -, h⟩ := temperStep_spec s (s.lane n) f
    exact h
  · exact ⟨_, rfl⟩

/-- What an update of one lane changes: that lane, and the next free value. -/
structure Sw.LaneMoves (n : Nat) (s t : Sw) : Prop where
  frame : ∃ L m, t = { s with lanes := L, free := m }
  other : ∀ k, k ≠ n → t.lane k = s.lane k

theorem laneMoves_fomLane (s : Sw) (n f : Nat) (inv : Bool) : s.LaneMoves n (s.fomLane n f inv) := by
  obtain ⟨m, hm⟩ := fomMove_draws s n f
  rw [fomLane_eq, hm]
  exact ⟨⟨_, _, rfl⟩, fun k hk => lane_setLane_ne _ _ _ hk⟩

/-- The update of one lane of a powered port (R514, R516). -/
theorem fomLane_lane (s : Sw) (n f : Nat) (inv : Bool) : ((s.fomLane n f inv).lane n).fom = f ∧
    (∀ q, s.portOfLane n = some q →
      ((s.fomLane n f inv).lane n).inv = if (s.port q).st = .training then inv else (s.lane n).inv) ∧
    (∀ q, s.portOfLane n = some q → s.portUp q = true → (s.port q).eidleRx = false → ((s.fomLane n f inv).lane n).was = f ∧
      (if (s.lane n).step ≠ 0 ∧ f + 8 < (s.lane n).was then
        ((s.fomLane n f inv).lane n).eq = (s.lane n).eq - (s.lane n).step ∧ ((s.fomLane n f inv).lane n).step = 0
      else (((s.fomLane n f inv).lane n).eq = (s.lane n).eq + 1 ∨ ((s.fomLane n f inv).lane n).eq = (s.lane n).eq - 1) ∧
        ((s.fomLane n f inv).lane n).step = ((s.fomLane n f inv).lane n).eq - (s.lane n).eq)) := by
  rw [fomLane_eq, lane_setLane_self]
  refine ⟨rfl, fun q hq => ?_, fun q hq hu he => ?_⟩
  · simp [Sw.fomTrains, hq]
  · have hm : s.fomMove n f = s.temperStep (s.lane n) f := if_pos (by simp [Sw.fomUp, hq, hu, he])
    obtain ⟨hw, -, hstep, -⟩ := temperStep_spec s (s.lane n) f
    rw [hm]
    exact ⟨hw, hstep⟩

/-- One eye of an update: a lane that is powered off has none. -/
def Sw.fomEye (s : Sw) (e : LaneEye) : Sw := if s.lanePowered e.lane then s.fomLane e.lane (fomOf e) e.inv else s

theorem laneMoves_fomEye (s : Sw) (e : LaneEye) : s.LaneMoves e.lane (s.fomEye e) := by
  unfold Sw.fomEye
  split
  · exact laneMoves_fomLane ..
  · exact ⟨⟨_, _, rfl⟩, fun _ _ => rfl⟩

/-- Eyes of other lanes leave a lane alone, and all that its own update reads. -/
theorem fomEyes_other (l : List LaneEye) (s : Sw) : (∃ L m, l.foldl Sw.fomEye s = { s with lanes := L, free := m }) ∧
    ∀ k, (∀ e ∈ l, k ≠ e.lane.val) → (l.foldl Sw.fomEye s).lane k = s.lane k := by
  induction l generalizing s with
  | nil => exact ⟨⟨_, _, rfl⟩, fun _ _ => rfl⟩
  | cons e l ih =>
    obtain ⟨⟨L, m, he⟩, ho⟩ := laneMoves_fomEye s e
    obtain ⟨⟨L', m', hl⟩, hol⟩ := ih (s.fomEye e)
    refine ⟨⟨L', m', by rw [List.foldl_cons, hl, he]⟩, fun k hk => ?_⟩
    exact (hol k fun e' he' => hk e' (List.mem_cons_of_mem _ he')).trans (ho k (hk e List.mem_cons_self))

/-- Where the eyes are of different lanes, the one of lane `e` finds it as it was, and no later one changes it. -/
theorem fomEyes_lane {l : List LaneEye} (hd : l.Pairwise (fun a b => a.lane ≠ b.lane)) {e : LaneEye} (he : e ∈ l) (s : Sw) :
    ∃ L m, Sw.lane { s with lanes := L, free := m } e.lane = s.lane e.lane ∧
      (l.foldl Sw.fomEye s).lane e.lane = (Sw.fomEye { s with lanes := L, free := m } e).lane e.lane := by
  obtain ⟨l₁, l₂, rfl⟩ := List.append_of_mem he
  obtain ⟨-, h₂, h₁⟩ := List.pairwise_append.mp hd
  obtain ⟨⟨L, m, hf⟩, ho⟩ := fomEyes_other l₁ s
  obtain ⟨-, ho'⟩ := fomEyes_other l₂ ((l₁.foldl Sw.fomEye s).fomEye e)
  refine ⟨L, m, ?_, ?_⟩
  · rw [← hf]
    exact ho _ fun a ha h => h₁ a ha e List.mem_cons_self (Fin.ext h.symm)
  · rw [List.foldl_append, List.foldl_cons, ho', hf]
    exact fun a ha h => List.rel_of_pairwise_cons h₂ ha (Fin.ext h)

/-! ### The commands of a port on its way to Up -/

section
variable {s : State} {p : Lane}

theorem execNegotiationComplete_does (g : PartnerPages) (h : (s.sw.port p).st = .negotiating) :
    Does (.negotiationComplete p g) s (s.sw.negotiated p g) := by
  change execNegotiationComplete p g s = _
  rw [execNegotiationComplete, if_neg (by simp [h])]
  rfl

section
variable (h : (s.sw.port p).st = .training) (hm : (s.sw.port p).mode = 1)
include h hm

theorem execTrainingTimeout_fails :
    Does (.trainingTimeout p false) s ((s.sw.reach (deadline (s.sw.port p).trainAt 300000000)).failPort p 2) := by
  change execTrainingTimeout p false s = _
  simp only [execTrainingTimeout, h, hm, ne_eq, not_true, if_false, if_true, Bool.not_false]
  rfl

theorem execTrainingTimeout_aligns (hl : s.sw.lanesBelow p = []) :
    Does (.trainingTimeout p true) s ((s.sw.reach (deadline (s.sw.port p).trainAt 300000000)).beginAlign p) := by
  have hl' : (s.sw.reach (deadline (s.sw.port p).trainAt 300000000)).lanesBelow p = [] := hl
  change execTrainingTimeout p true s = _
  simp only [execTrainingTimeout, h, hm, hl', ne_eq, not_true, if_false, if_true, Bool.not_true, Bool.false_eq_true]
  rfl

end

theorem execPcsAlignmentLock_inverted
    (hi : (s.sw.portLanes p).any (fun n => (s.sw.lane n).inv != bit (s.sw.rd L.linkLanePol n) 1) = true) :
    exec (.pcsAlignmentLock p) s = .next s := if_pos (.inr (.inr hi))

theorem execPcsAlignmentLock_does (h : (s.sw.port p).st = .aligning) (hm : (s.sw.port p).mode ≠ 1)
    (hi : (s.sw.portLanes p).any (fun n => (s.sw.lane n).inv != bit (s.sw.rd L.linkLanePol n) 1) = false) :
    Does (.pcsAlignmentLock p) s (s.sw.enterUp p) :=
  if_neg (by simp only [h, hm, hi, ne_eq, not_true, Bool.false_eq_true, or_self, not_false_eq_true])

theorem execCommaReceive_does {l : Lane} {tag : Option (BitVec 32)} (hp : s.sw.portOfLane l = some p.val)
    (hm : (s.sw.port p).mode = 1) (hu : (s.sw.port p).st = .up) (hl : l.val < p.val + (s.sw.port p).width)
    (ha : (s.sw.lane l).asleep = false ∨ tag.isSome = true) :
    Does (.commaReceive l tag) s (s.sw.commaAt p l (tag.map BitVec.toNat)) := by
  have hn : ¬p.val + (s.sw.port p).width ≤ l.val := Nat.not_le.mpr hl
  have ha' : ¬((s.sw.lane l).asleep = true ∧ tag.isNone = true) := by
    rintro ⟨hs, ht⟩
    simp [hs, Option.isNone_iff_eq_none.mp ht] at ha
  change execCommaReceive l tag s = _
  simp only [execCommaReceive, hp, hm, hu, hn, ha', ne_eq, not_true, reduceCtorEq, and_false, or_self, if_false]
  rfl

theorem execPortUpTimeout_does (hn : s.sw.rd L.linkUpNs ≠ 0)
    (h : (s.sw.port p).st = .negotiating ∨ (s.sw.port p).st = .training ∨ (s.sw.port p).st = .aligning) :
    Does (.portUpTimeout p) s ((s.sw.reach (deadline (s.sw.port p).negAt (s.sw.rd L.linkUpNs))).failPort p 4) :=
  if_neg (by simp [hn, h])

theorem execFailedPortRetry_does (h : (s.sw.port p).st = .failed) (ho : (s.sw.port p).oos = false) :
    Does (.failedPortRetry p) s
      ((s.sw.reach (deadline (s.sw.port p).failAt 1000000000)).enterNeg p (s.sw.port p).width) := if_neg (by simp [h, ho])

theorem execSignalLoss_does (h : (s.sw.port p).st = .up) : Does (.signalLoss p) s (s.sw.downAndBack p 7) :=
  if_neg (by simp [portUp_of_st h])

theorem execLaneUnlockTimeout_does {l : Lane} {t : Nat} (h : (s.sw.port p).st = .up) (hp : s.sw.portOfLane l = some p.val)
    (ht : (s.sw.lane l).unlocked = some t) :
    Does (.laneUnlockTimeout l) s ((s.sw.reach (deadline t 1000000)).downAndBack p 6) := by
  change execLaneUnlockTimeout l s = _
  rw [execLaneUnlockTimeout, hp, ht]
  exact if_neg (by simp [portUp_of_st h])

end

theorem execTemperFomUpdate_does (eyes : List LaneEye) {s : State} {u : Sw}
    (hu : u = eyes.foldl Sw.fomEye { s.sw.reach s.sw.fomNext with fomAt := some s.sw.fomNext }) :
    Does (.temperFomUpdate eyes) s (u.cfgPortList.foldl (fun w q => w.fomPort (eyes.map (fun e => e.lane.val)) q) u) := by
  subst hu
  rfl

end Sys2Proof.Machine

open Sys2Proof Sys2Proof.Machine

/-- Settles O48: negotiation by the mode settled on (`negotiated_eq`), every failure by `failPort_spec`, and an update of the figures of
merit lane by lane, the lanes of different eyes being apart (`fomEyes_lane`, `fomLane_lane`). -/
theorem portsTrain : Obligations.PortsTrain := by
  rintro s p x rfl
  refine ⟨fun g hx => ⟨fun h0 => ?noCommon, fun h0 hclk => ?settled⟩, fun hx hm => ⟨?trainFails, fun hl => ?trained⟩, fun hx hm =>
    ⟨execPcsAlignmentLock_inverted, fun h => ⟨_, execPcsAlignmentLock_does hx hm h, enterUp_spec ..⟩⟩,
    fun l tag hp hm hu hlo hhi ha => ?comma, fun hn hx => ?timeout, fun hx ho => ?retry, ?temper,
    fun hu => ⟨execSignalLoss_does hu, fun l t hp ht => execLaneUnlockTimeout_does hu hp ht⟩⟩
  case noCommon =>
    have hdo := execNegotiationComplete_does g hx
    rw [negotiated_eq, if_pos h0] at hdo
    obtain ⟨hst, hc, -, f, hf⟩ := failPort_spec (s.sw.paged p g) p 1
    exact ⟨_, f, hdo, hst, hc, hf⟩
  case settled =>
    have hdo := execNegotiationComplete_does g hx
    rw [negotiated_eq, if_neg h0, hclk, if_neg Bool.false_ne_true] at hdo
    refine ⟨_, hdo, ?_, ?_, ?_, ?_, fun q hq => ?_, rfl, rfl⟩
    · rw [port_updPort_self]
    · rw [port_updPort_self]
    · rw [port_updPort_self, paged_port]
    · rw [port_updPort_self]
    · rw [port_updPort_ne _ _ _ hq, paged_port_ne _ _ hq]
  case trainFails =>
    obtain ⟨hst, hc, hnow, -⟩ := failPort_spec (s.sw.reach (deadline (s.sw.port p).trainAt 300000000)) p 2
    exact ⟨_, execTrainingTimeout_fails hx hm, hst, hc, hnow⟩
  case trained =>
    obtain ⟨hst, hl', hf⟩ := beginAlign_spec (s.sw.reach (deadline (s.sw.port p).trainAt 300000000)) p
    refine ⟨_, execTrainingTimeout_aligns hx hm hl, hst, fun i hi => ?_, hf⟩
    have hnow := congrArg Sw.now hf
    rw [hnow]
    exact hl' i hi
  case comma =>
    exact ⟨_, execCommaReceive_does hp hm hu hhi ha, commaAt_spec (mem_portLanes.mpr ⟨hlo, hhi⟩) _⟩
  case timeout =>
    obtain ⟨hst, hc, hnow, -⟩ := failPort_spec (s.sw.reach (deadline (s.sw.port p).negAt (s.sw.rd L.linkUpNs))) p 4
    exact ⟨_, execPortUpTimeout_does hn hx, hst, hc, hnow⟩
  case retry =>
    obtain ⟨hp, -, -, hf⟩ := enterNeg_spec (s.sw.reach (deadline (s.sw.port p).failAt 1000000000)) p (s.sw.port p).width
    refine ⟨_, execFailedPortRetry_does hx ho, by rw [hp]; rfl, by rw [hp]; rfl, ?_⟩
    rw [hf]
    rfl
  case temper =>
    rintro eyes u hu
    obtain ⟨hnow, hmod, hne⟩ := fomNext_spec s.sw
    refine ⟨hnow, hmod, hne, execTemperFomUpdate_does eyes hu, fun hd e he y hy hpow => ?_⟩
    subst hy
    obtain ⟨L, m, hsame, hlane⟩ := fomEyes_lane hd he { s.sw.reach s.sw.fomNext with fomAt := some s.sw.fomNext }
    have hu' : u.lane e.lane = (Sw.fomLane { s.sw.reach s.sw.fomNext with fomAt := some s.sw.fomNext, lanes := L, free := m }
        e.lane (fomOf e) e.inv).lane e.lane := by
      rw [hu]
      exact hlane.trans (congrArg (Sw.lane · _) (if_pos hpow))
    obtain ⟨hfom, hinv, hstep⟩ := fomLane_lane { s.sw.reach s.sw.fomNext with fomAt := some s.sw.fomNext, lanes := L, free := m }
      e.lane (fomOf e) e.inv
    rw [hsame] at hinv hstep
    rw [hu']
    exact ⟨hfom, hinv, hstep⟩
end

section
/-! SUPPORT. What every operation on the root of trust keeps (19 R719, R721, R731, R735): fuses never go back, and a state that chapter 19
allows stays one. -/

namespace Sys2Proof.Machine

/-! ### Keys that rise -/

theorem AMap.rising_cons {α : Type} (lo k : Nat) (v : α) (m : AMap α) :
    AMap.risingFrom lo ((k, v) :: m) = true ↔ lo ≤ k ∧ m.risingFrom (k + 1) = true := by simp [AMap.risingFrom]

/-- Keys that rise from one bound rise from any bound that none of them lies below. -/
theorem AMap.rising_of_le {α : Type} {m : AMap α} {lo k : Nat} (hm : m.risingFrom lo = true) (hk : ∀ c ∈ m, k ≤ c.1) :
    m.risingFrom k = true := by
  cases m with
  | nil => rfl
  | cons c m => exact (AMap.rising_cons ..).mpr ⟨hk c List.mem_cons_self, ((AMap.rising_cons ..).mp hm).2⟩

/-- Two tables of which the second lies above the first. -/
theorem AMap.rising_append {α : Type} {m n : AMap α} {lo k : Nat} (hm : m.risingFrom lo = true) (hk : ∀ c ∈ m, c.1 < k) (hlo : lo ≤ k)
    (hn : n.risingFrom k = true) : AMap.risingFrom lo (m ++ n) = true := by
  induction m generalizing lo with
  | nil => exact AMap.rising_mono n lo k hlo hn
  | cons c m ih =>
    obtain ⟨h0, hr⟩ := (AMap.rising_cons ..).mp hm
    exact (AMap.rising_cons ..).mpr
      ⟨h0, ih hr (fun e he => hk e (List.mem_cons_of_mem _ he)) (hk c List.mem_cons_self)⟩

/-- Keys moved down by what none of them lies below. -/
theorem AMap.rising_shift {α : Type} {m : AMap α} {lo d : Nat} (hm : m.risingFrom lo = true) (hd : d ≤ lo) :
    AMap.risingFrom (lo - d) (m.map (fun c => (c.1 - d, c.2))) = true := by
  induction m generalizing lo with
  | nil => rfl
  | cons c m ih =>
    obtain ⟨h0, hr⟩ := (AMap.rising_cons ..).mp hm
    have hk : c.1 + 1 - d = c.1 - d + 1 := by omega
    exact (AMap.rising_cons ..).mpr ⟨by omega, hk ▸ ih hr (by omega)⟩

/-! ### The NOR's canonical form -/

/-- Addresses rise, and no listed byte is an erased one. -/
def NorOk (m : List Host.Cell) : Prop := AMap.risingFrom 0 m = true ∧ ∀ c ∈ m, c.2 ≠ 0xFF

theorem norOk_filter {m : List Host.Cell} (p : Host.Cell → Bool) (h : NorOk m) : NorOk (m.filter p) :=
  ⟨AMap.rising_filter m p 0 h.1, fun c hc => h.2 c (List.mem_filter.mp hc).1⟩

theorem norOk_put {m : List Host.Cell} (a : Nat) (b : Byte) (h : NorOk m) : NorOk (AMap.put m a b 0xFF) := by
  unfold AMap.put
  split
  · exact ⟨AMap.rising_del m 0 a h.1, fun c hc => h.2 c (AMap.mem_del m a c hc)⟩
  · next hb =>
    refine ⟨AMap.rising_set m 0 a b (Nat.zero_le _) h.1, fun c hc => ?_⟩
    rcases AMap.mem_set m a b c hc with rfl | hc
    · exact hb
    · exact h.2 c hc

/-- A piece of the image, byte after byte. -/
theorem norOk_puts (a : Nat) (b : Bytes) (l : List Nat) {m : List Host.Cell} (h : NorOk m) :
    NorOk (l.foldl (fun m i => AMap.put m (a + i) (byteAt b i) 0xFF) m) := by
  induction l generalizing m with
  | nil => exact h
  | cons i l ih => exact ih (norOk_put _ _ h)

theorem norOk_erase {m : List Host.Cell} (k : Nat) (h : NorOk m) : NorOk (norErase m k) := norOk_filter _ h

/-- Bytes moved down below those that stay. -/
theorem norOk_shift_append {m n : List Host.Cell} {d : Nat} (hm : NorOk m) (hn : NorOk n) (hk : ∀ c ∈ m, d ≤ c.1 ∧ c.1 < d + d)
    (hd : ∀ c ∈ n, d ≤ c.1) : NorOk (m.map (fun c => (c.1 - d, c.2)) ++ n) := by
  have hlow : AMap.risingFrom d m = true := AMap.rising_of_le hm.1 (fun c hc => (hk c hc).1)
  have hmap : ∀ c ∈ m.map (fun c => (c.1 - d, c.2)), c.1 < d ∧ c.2 ≠ 0xFF := fun c hc => by
    obtain ⟨e, he, rfl⟩ := List.mem_map.mp hc
    exact ⟨by have := hk e he; dsimp only; omega, hm.2 e he⟩
  refine ⟨AMap.rising_append (by simpa using AMap.rising_shift hlow le_rfl) (fun c hc => (hmap c hc).1) (Nat.zero_le _)
    (AMap.rising_of_le hn.1 hd), fun c hc => ?_⟩
  rcases List.mem_append.mp hc with hc | hc
  · exact (hmap c hc).2
  · exact hn.2 c hc

/-- The copy of slot 1 lies below what slot 0's erasure leaves. -/
theorem norOk_copy {m : List Host.Cell} (h : NorOk m) : NorOk (norCopy m) := by
  refine norOk_shift_append (norOk_filter _ h) (norOk_erase 0 h) (fun c hc => ?_) (fun c hc => ?_)
  · simpa [slotBase, slotSize] using (List.mem_filter.mp hc).2
  · simpa [slotBase] using (List.mem_filter.mp hc).2

/-! ### Fuses, and states that chapter 19 allows -/

theorem Sec.inv_iff (x : Sec) :
    x.Inv = true ↔ x.debug ≤ 2 ∧ x.svnMin ≤ x.svnFuse ∧ x.sess.length ≤ 4 ∧ NorOk x.nor := by
  simp [Sec.Inv, NorOk, and_assoc]

theorem Sec.Grows.of_eq {x y : Sec} (hf : y.fuses = x.fuses) (hv : y.svnFuse = x.svnFuse) (hr : x.retired = true → y.retired = true) :
    x.Grows y := by
  have h : ∀ k, y.fuse k = x.fuse k := fun k => by rw [Sec.fuse, Sec.fuse, hf]
  exact ⟨fun k hk => by simp [h, hk], hv.ge, hr⟩

theorem Sec.Grows.trans {x y z : Sec} (h : x.Grows y) (g : y.Grows z) : x.Grows z := by
  obtain ⟨hf, hv, hr⟩ := h
  obtain ⟨gf, gv, gr⟩ := g
  refine ⟨fun k hk => ?_, hv.trans gv, gr ∘ hr⟩
  obtain ⟨h1, h2, h3⟩ := hf k hk
  obtain ⟨g1, g2, g3⟩ := gf k h1
  exact ⟨g1, g2.trans h2, g3 ∘ h3⟩

/-- What every change of the root of trust keeps. -/
structure Sec.Kept (x y : Sec) : Prop where
  grows : x.Grows y
  inv : x.Inv = true → y.Inv = true

namespace Sec.Kept

theorem refl (x : Sec) : x.Kept x := ⟨.of_eq rfl rfl id, id⟩

theorem trans {x y z : Sec} (h : x.Kept y) (g : y.Kept z) : x.Kept z := ⟨h.grows.trans g.grows, g.inv ∘ h.inv⟩

/-- A change of measurements, nonces, keys held or the running image, under which sessions may only end. -/
theorem of_eq {x y : Sec} (hf : y.fuses = x.fuses) (hv : y.svnFuse = x.svnFuse) (hr : x.retired = true → y.retired = true)
    (hm : y.svnMin = x.svnMin) (hd : y.debug = x.debug) (hn : y.nor = x.nor) (hs : y.sess.length ≤ x.sess.length) : x.Kept y where
  grows := .of_eq hf hv hr
  inv h := by
    rw [Sec.inv_iff] at h ⊢
    obtain ⟨h1, h2, h3, h4⟩ := h
    exact ⟨hd ▸ h1, hm ▸ hv ▸ h2, hs.trans h3, hn ▸ h4⟩

/-- A reset: debug is locked, every session ends, the floor is the fused version or 0. -/
theorem of_reset {x y : Sec} (hf : y.fuses = x.fuses) (hv : y.svnFuse = x.svnFuse) (hr : x.retired = true → y.retired = true)
    (hm : y.svnMin ≤ y.svnFuse) (hd : y.debug = 0) (hn : y.nor = x.nor) (hs : y.sess = []) : x.Kept y where
  grows := .of_eq hf hv hr
  inv h := by
    rw [Sec.inv_iff] at h ⊢
    exact ⟨hd.le.trans (Nat.zero_le _), hm, by simp [hs], hn ▸ h.2.2.2⟩

/-- A change of the NOR that keeps its canonical form. -/
theorem nor {x : Sec} {m : List Host.Cell} (h : NorOk x.nor → NorOk m) : x.Kept { x with nor := m } where
  grows := .of_eq rfl rfl id
  inv hx := by
    rw [Sec.inv_iff] at hx ⊢
    exact ⟨hx.1, hx.2.1, hx.2.2.1, h hx.2.2.2⟩

/-- A change of one slot's fuses that takes nothing from a fused one. -/
theorem fuse {x y : Sec} {k : Nat} {z : KeySlot} (hz : (x.fuse k).fused = true → z.fused = true ∧ z.hash = (x.fuse k).hash ∧
      ((x.fuse k).revoked = true → z.revoked = true)) (hy : y = { x with fuses := AMap.put x.fuses k z {}, fusing := y.fusing }) :
    x.Kept y where
  grows := by
    refine ⟨fun q hq => ?_, by rw [hy], by rw [hy]; exact id⟩
    have hyq : y.fuse q = if q = k then z else x.fuse q := by
      rw [hy]
      split
      · next h => rw [h]; exact AMap.getD_put_self ..
      · next h => exact AMap.getD_put_ne _ _ _ _ _ _ (Ne.symm h)
    rw [hyq]
    split
    · next h => rw [h] at hq ⊢; exact hz hq
    · exact ⟨hq, rfl, id⟩
  inv h := by
    rw [hy, Sec.inv_iff]
    exact (Sec.inv_iff x).mp h

end Sec.Kept

theorem Sec.extend_kept (x : Sec) (i : Nat) (d : Bytes) : x.Kept (x.extend i d) := .of_eq rfl rfl id rfl rfl rfl le_rfl
theorem Sec.rederive_kept (x : Sec) : x.Kept x.rederive := .of_eq rfl rfl id rfl rfl rfl (Nat.zero_le _)
theorem Sec.judge_kept (x : Sec) (k : Nat) : x.Kept (x.judge k) := .of_eq rfl rfl id rfl rfl rfl le_rfl
theorem Sec.warm_kept (x : Sec) : x.Kept x.warm where
  grows := .of_eq rfl rfl id
  inv h := by
    rw [Sec.inv_iff] at h ⊢
    exact ⟨Nat.zero_le _, h.2.1, Nat.zero_le _, h.2.2.2⟩

/-- A slot that a rail loss cuts keeps its hash; only its check word is spoilt. -/
theorem Sec.cutFuse_kept (x : Sec) (now : Nat) : x.Kept (x.cutFuse now) := by
  unfold Sec.cutFuse
  split
  · split
    · next k t _ _ => exact .fuse (z := { (x.fuse k) with good := false }) (fun h => ⟨h, rfl, id⟩) rfl
    · exact .refl x
  · exact .refl x

end Sys2Proof.Machine
end

section
/-! SUPPORT. What every operation on the whole state keeps: the queue of waiting commands, and of the root of trust what
`Sec.Kept` says. -/

namespace Sys2Proof.Machine

/-- What every command keeps. -/
structure State.Keeps (s t : State) : Prop where
  pending : t.pending = s.pending
  sec : s.sec.Kept t.sec

namespace State.Keeps

theorem of_sec_eq {s t : State} (hp : t.pending = s.pending) (h : t.sec = s.sec) : s.Keeps t := ⟨hp, h ▸ .refl _⟩
@[simp] theorem refl (s : State) : s.Keeps s := of_sec_eq rfl rfl
theorem trans {s t u : State} (h : s.Keeps t) (g : t.Keeps u) : s.Keeps u := ⟨g.pending.trans h.pending, h.sec.trans g.sec⟩
@[simp] theorem sw (s : State) (w : Sw) : s.Keeps { s with sw := w } := of_sec_eq rfl rfl
@[simp] theorem updSw (s : State) (f : Sw → Sw) : s.Keeps (s.updSw f) := of_sec_eq rfl rfl
@[simp] theorem updLexs (s : State) (f : LexSt → LexSt) : s.Keeps (s.updLexs f) := of_sec_eq rfl rfl
theorem updSec {s : State} {f : Sec → Sec} (h : s.sec.Kept (f s.sec)) : s.Keeps (s.updSec f) := ⟨rfl, h⟩

/-- What the switch stands at when the root of trust changes does not matter. -/
theorem of_sw {s t : State} {w : Sw} (h : ({ s with sw := w } : State).Keeps t) : s.Keeps t := (sw s w).trans h
theorem then_sw {s t : State} (w : Sw) (h : s.Keeps t) : s.Keeps { t with sw := w } := h.trans (sw t w)
theorem then_updSw {s t : State} (f : Sw → Sw) (h : s.Keeps t) : s.Keeps (t.updSw f) := h.trans (updSw t f)

end State.Keeps

/-! ### Writes of range 14 (19 R719 to R735) -/

theorem wrFuse_keeps (s : State) (slot hash : Nat) : s.Keeps (s.wrFuse slot hash).2 := by
  unfold State.wrFuse
  split
  · exact .refl s
  · next h =>
    exact ⟨rfl, .fuse (k := slot) (z := { hash := hash, fused := true }) (fun hf => absurd (.inr (.inr hf)) h) rfl⟩

theorem wrRevoke_keeps (s : State) (slot : Nat) : s.Keeps (s.wrRevoke slot).2 := by
  unfold State.wrRevoke
  split
  · exact .refl s
  · exact ⟨rfl, .fuse (k := slot) (z := { (s.sec.fuse slot) with revoked := true }) (fun hf => ⟨hf, rfl, fun _ => rfl⟩) rfl⟩

theorem wrKeyCmd_keeps (s : State) (b : Bytes) : s.Keeps (s.wrKeyCmd b).2 := by
  unfold State.wrKeyCmd
  dsimp only
  split
  · exact .refl s
  · split
    · exact wrFuse_keeps ..
    · exact wrRevoke_keeps ..
    · exact .refl s

/-- The security version advances to that of the running image, which the fuses do not exceed. -/
theorem wrSvnCmd_keeps (s : State) (v : Nat) : s.Keeps (s.wrSvnCmd v).2 := by
  unfold State.wrSvnCmd
  dsimp only
  split
  · exact .refl s
  · split
    · exact .refl s
    · next h =>
      have hle : s.sec.svnFuse ≤ s.sec.runSvn := not_lt.mp fun hlt => h (.inl hlt)
      refine ⟨rfl, ⟨fun _ hk => ⟨hk, rfl, id⟩, hle, id⟩, fun hi => ?_⟩
      rw [Sec.inv_iff] at hi ⊢
      exact ⟨hi.1, hi.2.1.trans hle, hi.2.2⟩

theorem wrImgOff_keeps (s : State) (v : Nat) : s.Keeps (s.wrImgOff v).2 := by
  unfold State.wrImgOff
  split
  · exact .refl s
  · exact .of_sec_eq rfl rfl

theorem wrImgData_keeps (s : State) (b : Bytes) : s.Keeps (s.wrImgData b).2 := by
  unfold State.wrImgData
  dsimp only
  split
  · exact .refl s
  · split
    · exact .refl s
    · generalize List.range 4096 = l
      exact ⟨rfl, .nor (norOk_puts _ b l)⟩

theorem wrImgCmd_keeps (s : State) (v : Nat) : s.Keeps (s.wrImgCmd v).2 := by
  unfold State.wrImgCmd
  split
  · exact .refl s
  · split
    · exact .refl s
    · exact ⟨rfl, .of_eq rfl rfl id rfl rfl rfl le_rfl⟩

theorem wrZeroize_keeps (s : State) (v : Nat) : s.Keeps (s.wrZeroize v).2 := by
  unfold State.wrZeroize
  split
  · exact ⟨rfl, .of_eq rfl rfl id rfl rfl rfl (Nat.zero_le _)⟩
  · exact ⟨rfl, .of_eq rfl rfl (fun _ => rfl) rfl rfl rfl (Nat.zero_le _)⟩
  · exact .refl s

theorem challenge_keeps (s : State) (r : Requester) : s.Keeps (s.challenge r).2 := ⟨rfl, .of_eq rfl rfl id rfl rfl rfl le_rfl⟩

/-- A response succeeds for a level of Table 19.10 only. -/
theorem level_le_of_dbgOk {s : State} {n : Nat} {b : Bytes} (h : s.dbgOk n b = true) : (byteAt b 0).toNat ≤ 2 := by
  unfold State.dbgOk at h
  dsimp only at h
  split at h
  · next h0 => exact h0.le.trans (Nat.zero_le 2)
  · split at h
    · exact absurd h Bool.false_ne_true
    · next hn => exact not_lt.mp fun hlt => hn (.inl hlt)

theorem dbgTest_keeps (s : State) (b : Bytes) : s.Keeps (s.dbgTest b).2 := by
  unfold State.dbgTest
  split
  · exact .refl s
  · dsimp only
    split
    · exact ⟨rfl, .of_eq rfl rfl id rfl rfl rfl le_rfl⟩
    · split
      · next hok =>
        refine ⟨rfl, .of_eq rfl rfl id, fun hi => ?_⟩
        rw [Sec.inv_iff] at hi ⊢
        exact ⟨level_le_of_dbgOk hok, hi.2.1, Nat.zero_le _, hi.2.2.2⟩
      · exact ⟨rfl, .of_eq rfl rfl id rfl rfl rfl le_rfl⟩

theorem wrLibLoad_keeps {s t : State} {b : Bytes} (h : s.wrLibLoad b = some t) : s.Keeps t := by
  unfold State.wrLibLoad at h
  dsimp only at h
  split at h
  · cases h
  · split at h
    · cases h
    · split at h
      · cases h
      · cases h
        exact (State.Keeps.updSec (Sec.extend_kept ..)).then_updSw _

/-- Every entry whose write is the root of trust's. -/
theorem putSec_keeps {s : State} {r : Reg} {v : Nat} {x : SecRes} (h : s.putSec r v = some x) : s.Keeps x.2 := by
  unfold State.putSec at h
  dsimp only at h
  split at h <;> cases h
  case h_1 =>
    split
    · next ht => exact wrLibLoad_keeps ht
    · exact .refl s
  case h_2 => exact wrKeyCmd_keeps ..
  case h_3 => exact wrSvnCmd_keeps ..
  case h_4 => exact wrImgOff_keeps ..
  case h_5 => exact wrImgData_keeps ..
  case h_6 => exact wrImgCmd_keeps ..
  case h_7 => exact dbgTest_keeps ..
  case h_8 => exact wrZeroize_keeps ..

/-! ### Image commands (19 R725, R726) -/

theorem activateImage_keeps (s : State) : s.Keeps s.activateImage := by
  have hj : s.Keeps (s.updSec (fun x => x.judge 1)) := .updSec (Sec.judge_kept ..)
  unfold State.activateImage
  dsimp only
  split
  · exact hj
  · refine hj.trans ⟨rfl, .trans (y := { (s.sec.judge 1) with sess := [] }) ?_ ?_⟩
    · exact .of_eq rfl rfl id rfl rfl rfl (Nat.zero_le _)
    · exact (Sec.Kept.nor norOk_copy).trans (.of_eq rfl rfl id rfl rfl rfl le_rfl)

theorem imgDone_keeps (s : State) : s.Keeps s.imgDone := by
  have ht : s.Keeps (s.updSec (fun x => { x with busy := none })) := .updSec (.of_eq rfl rfl id rfl rfl rfl le_rfl)
  unfold State.imgDone
  dsimp only
  split
  · exact ht.trans (.updSec (.nor (norOk_erase 1)))
  · exact ht.trans (.updSec (Sec.judge_kept ..))
  · exact ht.trans (activateImage_keeps _)
  · exact ht

theorem cutImage_keeps (s : State) : s.Keeps s.cutImage := by
  have hcut : ∀ (w : Sw) (n k : Nat),
      s.Keeps { s with sw := w, sec := if n = 1 then { s.sec with nor := norErase s.sec.nor k } else s.sec } := fun w n k => by
    split
    · exact (State.Keeps.updSec (f := fun x => { x with nor := norErase x.nor k }) (.nor (norOk_erase k))).then_sw w
    · exact .sw s w
  unfold State.cutImage
  dsimp only
  split
  · exact hcut ..
  · split
    · exact hcut ..
    · exact .refl s
  · exact .refl s

/-! ### SPDM (19 R731, R732) -/

theorem spdm_keeps (s : State) (q : SpdmReq) : s.Keeps (s.spdm q) := by
  unfold State.spdm
  dsimp only
  split
  · exact .updSw ..
  cases q with
  | getCertificate => exact .updSw ..
  | challenge n => exact (State.Keeps.sw s _).then_updSw _
  | getMeasurements i =>
    dsimp only
    split
    · exact .updSw ..
    · split
      · exact .updSw ..
      · split
        · exact .updSw ..
        · exact .updSw ..
  | keyExchange => exact .updSw ..
  | finish sid cert =>
    dsimp only
    split
    · exact (State.Keeps.updSec (.of_eq rfl rfl id rfl rfl rfl (List.length_map ..).le)).then_updSw _
    · exact .updSw ..
  | endSession sid =>
    dsimp only
    split
    · exact (State.Keeps.updSec (.of_eq rfl rfl id rfl rfl rfl (List.length_filter_le ..))).then_updSw _
    · exact .updSw ..

/-- A fifth session is never opened. -/
theorem spdmKex_keeps (s : State) (via : SpdmVia) : s.Keeps (s.spdmKex via) := by
  unfold State.spdmKex
  dsimp only
  split
  · exact .updSw ..
  · next h =>
    have hlen : s.sec.sess.length < 4 := not_le.mp fun hle => h (.inr (.inr hle))
    refine (State.Keeps.updSec ⟨.of_eq rfl rfl id, fun hi => ?_⟩).then_updSw _
    rw [Sec.inv_iff] at hi ⊢
    exact ⟨hi.1, hi.2.1, by simpa using hlen, hi.2.2.2⟩

/-! ### The lexicon engine (15 R597 to R607) -/

theorem freshRead_keeps (s : State) (q : Requester) (r : Reg) (o : Nat) : s.Keeps (s.freshRead q r o) := by
  unfold State.freshRead
  split
  · exact .refl s
  · split
    · exact .updSw ..
    · split
      · exact challenge_keeps ..
      · exact .refl s

theorem readSeg_keeps (s : State) (q : Requester) (x : LexRow) (r : Reg) (o n : Nat) : s.Keeps (s.readSeg q x r o n).2 := by
  have hf := freshRead_keeps s q r o
  unfold State.readSeg
  dsimp only
  split
  · exact hf.trans (.of_sec_eq rfl rfl)
  · split
    · exact hf
    · dsimp only
      split
      · exact hf.trans (.of_sec_eq rfl rfl)
      · exact hf.trans (.of_sec_eq rfl rfl)

theorem readSegs_keeps (q : Requester) (x : LexRow) (r : Reg) (k o : Nat) (s : State) : s.Keeps (State.readSegs q x r k o s).2 := by
  induction k generalizing o s with
  | zero => exact .refl s
  | succ k ih =>
    unfold State.readSegs
    split
    · exact .refl s
    · exact (readSeg_keeps ..).trans (ih ..)

theorem lexReadNow_keeps (s : State) (j : LexJob) : s.Keeps (s.lexReadNow j).2 := by
  unfold State.lexReadNow
  split
  · exact .of_sec_eq rfl rfl
  · exact readSegs_keeps ..
  · exact .refl s

theorem put_keeps {s t : State} {r : Reg} {us : List (Nat × Nat)} {n : Nat} (h : s.put r us = .ok (n, t)) : s.Keeps t := by
  unfold State.put at h
  split at h
  · next hx => cases h; exact putSec_keeps hx
  · split at h
    · cases h; exact .sw s _
    · cases h

theorem writeElems_keeps {s t : State} {q : Requester} {x : LexRow} {r : Reg} {o : Nat} {bs : Bytes} {n : Nat}
    (h : s.writeElems q x r o bs = .ok (n, t)) : s.Keeps t := by
  unfold State.writeElems at h
  extract_lets key w parts cur drop wide us staged keep at h
  have hkeep : ∀ u : State, u.Keeps (keep u) := fun u => by
    cases hl : staged.getLast? <;> exact .of_sec_eq (by simp [keep, hl]; rfl) (by simp [keep, hl]; rfl)
  split at h
  · cases h; exact hkeep s
  · split at h
    · next hp => cases h; exact (put_keeps hp).trans (hkeep _)
    · cases h; exact .updLexs ..
    · cases h

theorem writeOct_keeps {s t : State} {q : Requester} {x : LexRow} {r : Reg} {o : Nat} {bs : Bytes} {n : Nat}
    (h : s.writeOct q x r o bs = .ok (n, t)) : s.Keeps t := by
  unfold State.writeOct at h
  dsimp only at h
  split at h
  · split at h
    · next hp => cases h; exact put_keeps hp
    · next hp => cases h; exact (put_keeps hp).trans (.updLexs ..)
    · cases h
  · split at h
    · split at h
      · next hp => cases h; exact ((State.Keeps.updLexs ..).trans (.updLexs ..)).trans (put_keeps hp)
      · next hp =>
        cases h
        split
        · exact (((State.Keeps.updLexs ..).trans (.updLexs ..)).trans (put_keeps hp)).trans (.updLexs ..)
        · exact .updLexs ..
      · cases h
    · cases h; exact .updLexs ..

theorem lexWriteNow_keeps {s t : State} {j : LexJob} {n : Nat} (h : s.lexWriteNow j = .ok (n, t)) : s.Keeps t := by
  unfold State.lexWriteNow at h
  dsimp only at h
  split at h
  · cases h; exact .refl s
  · split at h
    · split at h
      · next hw =>
        cases h
        split at hw
        · exact .of_sw (writeOct_keeps hw)
        · exact .of_sw (writeElems_keeps hw)
      · split at h
        · exact writeOct_keeps h
        · split at h
          · next hw => cases h; exact writeElems_keeps hw
          · exact writeElems_keeps h
      · split at h
        · exact .of_sw (writeOct_keeps h)
        · exact .of_sw (writeElems_keeps h)
    · cases h; exact .refl s

theorem lexCount_keeps (s : State) (q : Requester) (n : Nat) : s.Keeps (s.lexCount q n) :=
  .of_sec_eq rfl rfl

/-- Whatever a requester asks of the engine. -/
theorem lexServe_keeps {s t : State} {j : LexJob} {n : Nat} {b : Bytes} (h : s.lexServe j = .ok (n, b, t)) : s.Keeps t := by
  unfold State.lexServe at h
  split at h
  · split at h
    · split at h
      · cases h; exact .refl s
      · cases h; exact lexReadNow_keeps ..
    · split at h
      · next hw =>
        split at h
        · cases h; exact .refl s
        · cases h; exact lexWriteNow_keeps hw
      · next hw => cases h; exact (lexWriteNow_keeps hw).trans (lexCount_keeps ..)
      · cases h
  · cases h; exact lexCount_keeps ..

end Sys2Proof.Machine
end

section
/-! SUPPORT. Resets, and the requests that wait or come now: what they keep (15 R602 to R604, 16 R631 to R641, 20 R753). -/

namespace Sys2Proof.Machine

/-! ### Folds that may stop -/

/-- A fold that a rule may stop keeps what each of its steps keeps. -/
theorem foldl_except_inv {α β : Type} {P : β → Prop} {f : Except Nat β → α → Except Nat β} (herr : ∀ e a, f (.error e) a = .error e)
    (hok : ∀ b c a, P b → f (.ok b) a = .ok c → P c) (l : List α) (r : Except Nat β) (hr : ∀ b, r = .ok b → P b) {c : β}
    (h : l.foldl f r = .ok c) : P c := by
  induction l generalizing r with
  | nil => exact hr c h
  | cons a l ih =>
    refine ih (f r a) (fun b hb => ?_) h
    cases r with
    | error e => exact absurd ((herr e a).symm.trans hb) (by simp)
    | ok b0 => exact hok b0 b a (hr b0 rfl) hb

/-- A mapped result that goes on comes of one that does. -/
theorem exists_of_map_ok {α β : Type} {r : Except Nat α} {f : α → β} {b : β} (h : r.map f = .ok b) : ∃ a, r = .ok a ∧ b = f a := by
  cases r with
  | error e => cases h
  | ok a => cases h; exact ⟨a, rfl, rfl⟩

/-! ### The image's values and step 8 (16 R639) -/

theorem applyImage_keeps {s t : State} {p : LexJob → Bool} (h : s.applyImage p = .ok t) : s.Keeps t := by
  refine foldl_except_inv (P := s.Keeps) (fun _ _ => rfl) (fun b c j hb hc => ?_) _ _ (fun b hb => ?_) h
  · dsimp only at hc
    split at hc
    · next hs => cases hc; exact hb.trans (lexServe_keeps hs)
    · next hs =>
      cases hc
      exact (hb.trans (lexServe_keeps hs)).trans (.updSec (.of_eq rfl rfl id rfl rfl rfl le_rfl))
    · cases hc
  · cases hb; exact .refl s

theorem linkStep_keeps {s t : State} (h : s.linkStep = .ok t) : s.Keeps t := by
  unfold State.linkStep at h
  split at h
  · cases h
  · next hi => cases h; exact (applyImage_keeps hi).then_updSw _

/-! ### Cold reset (16 R631 to R637) -/

/-- Keys and the floor of the security version are loaded from the fuses; nothing else of M stands but the NOR. -/
theorem coldBase_keeps (s : State) (f : BootFacts) : s.Keeps (s.coldBase f) := by
  obtain ⟨hp, hs⟩ := cutImage_keeps s
  refine ⟨hp, hs.trans (.of_reset rfl rfl id ?_ rfl rfl rfl)⟩
  unfold State.coldBase
  dsimp only
  split
  · exact le_rfl
  · exact Nat.zero_le _

theorem pickImage_keeps {s t : State} {k : Option Nat} (h : s.pickImage = (k, t)) : s.Keeps t := by
  have ha : s.Keeps (s.updSec (fun x => x.judge 0)) := .updSec (Sec.judge_kept ..)
  have hb := ha.trans (.updSec (f := fun x => x.judge 1) (Sec.judge_kept ..))
  unfold State.pickImage at h
  dsimp only at h
  split at h
  · cases h; exact ha
  · split at h
    · cases h; exact hb.then_updSw _
    · cases h; exact hb

theorem useImage_keeps (s : State) (k : Nat) : s.Keeps (s.useImage k) := by
  unfold State.useImage
  extract_lets h dig ext s1 s2
  have hext : ∀ i d (x : Sec), x.Kept (ext i d x) := fun i d x => by
    cases d with
    | none => exact .refl x
    | some d => exact Sec.extend_kept x i d
  have h1 : s.Keeps s1 := .updSec ((((Sec.extend_kept ..).trans (hext ..)).trans (hext ..)).trans (hext ..))
  have h2 : s1.Keeps s2 := ⟨rfl, .of_eq rfl rfl id rfl rfl rfl (Nat.zero_le _)⟩
  exact (h1.trans h2).then_updSw _

theorem coldStart_keeps {s t : State} {f : BootFacts} (h : s.coldStart f = .ok t) : s.Keeps t := by
  have hb := coldBase_keeps s f
  unfold State.coldStart at h
  dsimp only at h
  split at h
  · cases h; exact hb.then_updSw _
  have h1 : s.Keeps ((s.coldBase f).updSec (fun x => x.extend 1 (leBytes 32 Config.romDigest))) :=
    hb.trans (.updSec (Sec.extend_kept ..))
  split at h
  · cases h; exact (h1.then_updSw _).then_updSw _
  split at h
  · cases h; exact h1.trans ⟨rfl, .of_eq rfl rfl id rfl rfl rfl le_rfl⟩
  split at h
  · next ht =>
    cases h
    exact ((((h1.then_updSw _).then_updSw _).trans (pickImage_keeps ht)).trans (.updSec (Sec.rederive_kept _))).then_updSw _
  · next ht =>
    have hp := ((h1.then_updSw _).then_updSw _).trans (pickImage_keeps ht)
    split at h
    · cases h
    · next hi =>
      exact ((hp.trans (useImage_keeps ..)).trans (applyImage_keeps hi)).trans ((State.Keeps.updSw ..).trans (linkStep_keeps h))

/-! ### Warm reset (16 R639 to R641) -/

theorem warmStart_keeps {s t : State} {f : BootFacts} (h : s.warmStart f = .ok t) : s.Keeps t := by
  have h0 : s.Keeps { s with sec := s.sec.warm, sw := s.sw.warmBase f.ms.toNat } := ⟨rfl, Sec.warm_kept _⟩
  unfold State.warmStart at h
  dsimp only at h
  split at h
  · cases h; exact ((h0.then_updSw _).then_updSw _).then_updSw _
  split at h
  · cases h
  next hi =>
  split at h
  · cases h
  next hl =>
  cases h
  exact ((((h0.then_updSw _).then_updSw _).trans (applyImage_keeps hi)).then_updSw _).trans ((linkStep_keeps hl).then_updSw _)

/-! ### The stop under RESET_N low (20 R753) -/

theorem stopAll_keeps (s : State) : s.Keeps s.stopAll := by
  obtain ⟨hp, hs⟩ := cutImage_keeps s
  exact ⟨hp, hs.trans (.of_reset rfl rfl id (Nat.zero_le _) rfl rfl rfl)⟩

theorem critical_keeps (s : State) : s.Keeps s.critical := (State.Keeps.updSw ..).trans (stopAll_keeps _)

/-! ### The queue of requests (15 R602) -/

theorem lexFirst_keeps {s t : State} (h : s.lexFirst = .ok t) : s.Keeps t := by
  unfold State.lexFirst at h
  split at h
  · cases h; exact .refl _
  dsimp only at h
  split at h
  · cases h; exact .updLexs ..
  obtain ⟨a, hs, rfl⟩ := exists_of_map_ok h
  exact ((State.Keeps.updLexs ..).trans (lexServe_keeps hs)).then_updSw _

theorem lexAhead_keeps {s t : State} {n : Nat} (h : State.lexAhead n s = .ok t) : s.Keeps t := by
  induction n generalizing s with
  | zero => cases h; exact .refl _
  | succ n ih =>
    unfold State.lexAhead at h
    split at h
    · next hf => exact (lexFirst_keeps hf).trans (ih h)
    · cases h

theorem lexTurn_keeps {s t : State} {j : LexJob} {n : Nat} {b : Bytes} (h : s.lexTurn j = .ok (n, b, t)) : s.Keeps t := by
  unfold State.lexTurn at h
  split at h
  · next ha => exact (lexAhead_keeps ha).trans (lexServe_keeps h)
  · cases h

theorem issioRecs_keeps {s t : State} {q : Requester} {sid : Option Nat} {b out : Bytes} {n : Nat}
    (h : s.issioRecs q sid b n = .ok (out, t)) : s.Keeps t := by
  refine foldl_except_inv (P := fun x => s.Keeps x.2) (fun _ _ => rfl) (fun x y i hx hy => ?_) _ _ (fun x hx => ?_) h
  · obtain ⟨o, u⟩ := x
    dsimp only at hy
    split at hy
    · next hs => cases hy; exact hx.trans (lexServe_keeps hs)
    · cases hy
  · obtain ⟨u, ha, rfl⟩ := exists_of_map_ok hx
    exact lexAhead_keeps ha

/-! ### Clause cores and Feed (10 R441, 18 R704) -/

theorem opLexrd_keeps {s t : State} {j : CoreId} {rd a b : Nat} (h : s.opLexrd j rd a b = .ok t) : s.Keeps t := by
  unfold State.opLexrd at h
  split at h
  · cases h; exact (lexCount_keeps ..).then_updSw _
  · split at h
    · cases h
    · next ht => cases h; exact (lexTurn_keeps ht).then_updSw _

theorem opLexwr_keeps {s t : State} {j : CoreId} {rd a b : Nat} (h : s.opLexwr j rd a b = .ok t) : s.Keeps t := by
  unfold State.opLexwr at h
  split at h
  · cases h; exact (lexCount_keeps ..).then_updSw _
  · dsimp only at h
    split at h
    · cases h
    · next ht => cases h; exact (lexTurn_keeps ht).then_updSw _

/-- An extension that changes only the switch. -/
theorem onSw_keeps {s t : State} {r : Except Nat Sw} (h : r.map (fun w => { s with sw := w }) = .ok t) : s.Keeps t := by
  obtain ⟨w, -, rfl⟩ := exists_of_map_ok h
  exact .sw s w

theorem clauseOp_keeps {s t : State} {j : CoreId} {f3 f7 rd a b : Nat} (h : s.clauseOp j f3 f7 rd a b = some (.ok t)) : s.Keeps t := by
  unfold State.clauseOp at h
  dsimp only at h
  split at h
  case h_4 => exact opLexrd_keeps (Option.some.inj h)
  case h_5 => exact opLexwr_keeps (Option.some.inj h)
  case h_15 => cases h
  all_goals exact onSw_keeps (Option.some.inj h)

theorem replay_keeps {s t : State} {d n : Nat} {l : Bytes} (h : s.replay d n l = .ok (some t)) : s.Keeps t := by
  unfold State.replay at h
  dsimp only at h
  split at h
  · obtain ⟨w, -, ht⟩ := exists_of_map_ok h
    cases ht
    exact .sw s w
  · obtain ⟨r, -, ht⟩ := exists_of_map_ok h
    cases r with
    | none => cases ht
    | some w => cases ht; exact .sw s w
  · obtain ⟨⟨n, b, u⟩, hs, ht⟩ := exists_of_map_ok h
    cases ht
    exact lexServe_keeps hs

end Sys2Proof.Machine
end

section
/-! SUPPORT. What every command and every step keeps, with the theorems that settle O1, O5, O7, O8 and O9. -/

namespace Sys2Proof.Machine

/-! ### Ends of commands -/

/-- Whatever the outcome, if it goes on it keeps what `State.Keeps` says. -/
structure State.KeptBy (s : State) (o : Host.Outcome State Fault Refusal) : Prop where
  keeps : ∀ t, o = .next t → s.Keeps t

theorem keptBy_next {s t : State} (h : s.Keeps t) : s.KeptBy (.next t) := ⟨fun _ e => by cases e; exact h⟩
theorem keptBy_fault (s : State) (f : Fault) : s.KeptBy (.fault f) := ⟨fun _ h => by cases h⟩
theorem keptBy_ends {s t : State} (w : Sw) (h : s.Keeps t) : s.KeptBy (t.ends w) := keptBy_next (h.then_sw _)

theorem keptBy_written {s : State} {o : Host.Outcome State Fault Refusal} (i sub : Nat) (h : s.KeptBy o) : s.KeptBy (s.written i sub o) := by
  unfold State.written
  split
  · exact keptBy_next (.refl s)
  · exact h

theorem keptBy_endsOr (s : State) (r : Except Nat Sw) : s.KeptBy (s.endsOr r) := by
  cases r with
  | ok w => exact keptBy_ends w (.refl s)
  | error n => exact keptBy_fault ..

theorem keptBy_endsWr (s : State) (r : WrRes) : s.KeptBy (s.endsWr r) := by
  cases r with
  | ok x => exact keptBy_ends x.2 (.refl s)
  | error n => exact keptBy_fault ..

theorem keptBy_endsHost (s : State) (r : Except Nat (Option Sw)) : s.KeptBy (s.endsHost r) := by
  cases r with
  | error n => exact keptBy_fault ..
  | ok x =>
    cases x with
    | none => exact keptBy_next (.refl s)
    | some w => exact keptBy_ends w (.refl s)

theorem keptBy_coreDoesSw (s : State) (j : CoreId) (r : Except Nat Sw) : s.KeptBy (s.coreDoesSw j r) := by
  unfold State.coreDoesSw
  split
  · exact keptBy_endsOr ..
  · exact keptBy_next (.refl s)

theorem keptBy_i3cGet (s : State) (b : Bytes) : s.KeptBy (s.i3cGet b) := by
  unfold State.i3cGet
  split
  · exact keptBy_next (.refl s)
  · exact keptBy_ends _ (.refl s)

/-- A warm reset that a request asked for is part of the command that carried it. -/
theorem keptBy_finish {s t : State} (h : s.Keeps t) : s.KeptBy t.finish := by
  unfold State.finish
  split
  · dsimp only
    split
    · next hw => exact keptBy_ends _ ((h.then_sw _).trans (warmStart_keeps hw))
    · exact keptBy_fault ..
  · exact keptBy_ends _ h

theorem keptBy_endReset {s : State} {r : Except Nat State} (h : ∀ t, r = .ok t → s.Keeps t) : s.KeptBy (endReset r) := by
  cases r with
  | ok t => exact keptBy_ends _ (h t rfl)
  | error n => exact keptBy_fault ..

theorem keptBy_coreEnds {s : State} {r : Except Nat State} (h : ∀ t, r = .ok t → s.Keeps t) : s.KeptBy (State.coreEnds r) := by
  unfold State.coreEnds
  split
  · exact keptBy_finish (h _ rfl)
  · exact keptBy_fault ..

theorem keptBy_coreDoes {s : State} {j : CoreId} {r : Except Nat State} (h : ∀ t, r = .ok t → s.Keeps t) :
    s.KeptBy (s.coreDoes j r) := by
  unfold State.coreDoes
  split
  · exact keptBy_coreEnds h
  · exact keptBy_next (.refl s)

theorem keptBy_officer {s : State} {k sub : Nat} {ok : Bool} {f : State → SecRes} (h : ∀ t : State, t.Keeps (f t).2) :
    s.KeptBy (s.officer k sub ok f) := by
  unfold State.officer
  split
  · exact keptBy_next (.refl s)
  · split
    · exact keptBy_next (.refl s)
    · split
      · exact keptBy_finish (h s)
      · exact keptBy_finish (lexCount_keeps ..)

/-! ### Resets and pins -/

theorem execColdReset_kept (f : BootFacts) (s : State) : s.KeptBy (execColdReset f s) := by
  unfold execColdReset
  split
  · exact keptBy_endReset fun _ => coldStart_keeps
  · exact keptBy_next (.updSw ..)

theorem execRailRestoreTimeout_kept (f : BootFacts) (s : State) : s.KeptBy (execRailRestoreTimeout f s) := by
  unfold execRailRestoreTimeout
  dsimp only
  split
  · exact keptBy_next (.refl s)
  · split
    · exact keptBy_endReset fun _ ht => (State.Keeps.updSw ..).trans (coldStart_keeps ht)
    · exact keptBy_next (.updSw ..)

theorem execRailLoss_kept (s : State) : s.KeptBy (execRailLoss s) :=
  keptBy_next (((State.Keeps.updSw ..).trans (.updSec (Sec.cutFuse_kept ..))).trans (stopAll_keeps _))

theorem execResetNFall_kept (s : State) : s.KeptBy (execResetNFall s) :=
  keptBy_next (((State.Keeps.updSw ..).trans (stopAll_keeps _)).then_updSw _)

theorem execSensorSample_kept (l : List (Sensor × Int)) (s : State) : s.KeptBy (execSensorSample l s) := by
  unfold execSensorSample
  dsimp only
  split
  · split
    · exact keptBy_next ((State.Keeps.sw ..).trans (critical_keeps _))
    · exact keptBy_next (.sw ..)
  · split
    · exact keptBy_next (.sw ..)
    · exact keptBy_ends _ (.refl s)

theorem execThermCritical_kept (x : Sensor) (s : State) : s.KeptBy (execThermCritical x s) := by
  unfold execThermCritical
  split
  · exact keptBy_next (.refl s)
  · exact keptBy_next ((State.Keeps.updSw ..).trans (critical_keeps _))

theorem execParkEntryComplete_kept (s : State) : s.KeptBy (execParkEntryComplete s) := by
  unfold execParkEntryComplete
  split
  · exact keptBy_ends _ ⟨rfl, .of_eq rfl rfl id rfl rfl rfl le_rfl⟩
  · exact keptBy_next (.refl s)

/-! ### Transports of the lexicon -/

theorem lexDo_kept (s : State) (r : LexReq) (op : Nat) : s.KeptBy (s.lexDo r op) := by
  unfold State.lexDo
  split
  · exact keptBy_next (.refl s)
  · split
    · split
      · split
        · next h => exact keptBy_finish (lexFirst_keeps h)
        · exact keptBy_fault ..
      · exact keptBy_next (.refl s)
    · split
      · next h => exact keptBy_finish ((lexTurn_keeps h).then_updSw _)
      · exact keptBy_fault ..

theorem execLexReqReceive_kept (i : Ingress) (w : Word256) (s : State) : s.KeptBy (execLexReqReceive i w s) := by
  have h0 : s.Keeps (s.updSw (fun x => x.takeCtl w)) := .updSw ..
  unfold execLexReqReceive
  dsimp only
  split
  · exact keptBy_next h0
  · split
    · exact keptBy_finish ((h0.trans (lexCount_keeps ..)).then_updSw _)
    · split
      · exact keptBy_finish ((h0.trans (lexCount_keeps ..)).then_updSw _)
      · split
        · exact keptBy_finish (((h0.trans (lexCount_keeps ..)).then_updSw _).then_updSw _)
        · split
          · next h => exact keptBy_finish ((h0.trans (lexTurn_keeps h)).then_updSw _)
          · exact keptBy_fault ..

theorem execIssioDatagram_kept (ip : BitVec 32) (p dp : BitVec 16) (sid : Option Nat) (b : Bytes) (s : State) :
    s.KeptBy (execIssioDatagram ip p dp sid b s) := by
  unfold execIssioDatagram
  extract_lets q h n dseq body reply busy
  split
  · exact keptBy_next (.refl s)
  · split
    · exact keptBy_finish (lexCount_keeps ..)
    · split
      · exact keptBy_finish (lexCount_keeps ..)
      · split
        · exact keptBy_finish (.updSw ..)
        · split
          · exact keptBy_finish ((State.Keeps.updSw ..).then_updSw _)
          · split
            · next h => exact keptBy_finish ((issioRecs_keeps h).then_updSw _)
            · exact keptBy_fault ..

theorem execI3cPrivateWrite_kept (b : Bytes) (s : State) : s.KeptBy (execI3cPrivateWrite b s) := by
  unfold execI3cPrivateWrite
  split
  · exact keptBy_next (.refl s)
  · split
    · exact keptBy_finish (lexCount_keeps ..)
    · split
      · exact keptBy_finish ((lexCount_keeps ..).then_updSw _)
      · exact keptBy_finish ((State.Keeps.updSw ..).then_updSw _)

theorem execEntdaa_kept (a : BitVec 7) (s : State) : s.KeptBy (execEntdaa a s) := by
  unfold execEntdaa
  split
  · exact keptBy_next (.refl s)
  · exact keptBy_finish ((State.Keeps.updSw ..).then_updSw _)

/-- A change of the I3C target, where the target is on the bus. -/
theorem keptBy_i3c {s : State} {p : Prop} [Decidable p] (f : I3c → I3c) : s.KeptBy (if p then .next s else (s.updI3c f).finish) := by
  split
  · exact keptBy_next (.refl s)
  · exact keptBy_finish (.updSw ..)

/-! ### Clause cores and Feed -/

theorem execRv32imcInstruction_kept (j : CoreId) (s : State) : s.KeptBy (execRv32imcInstruction j s) := by
  unfold execRv32imcInstruction
  split
  · exact keptBy_next (.refl s)
  · split
    · exact keptBy_ends _ (.refl s)
    · exact keptBy_ends _ (.refl s)
    · split
      · next h => exact keptBy_coreEnds fun t ht => clauseOp_keeps (ht ▸ h)
      · exact keptBy_ends _ (.refl s)

theorem execFeedRelease_kept (s : State) : s.KeptBy (execFeedRelease s) := by
  unfold execFeedRelease
  split
  · exact keptBy_next (.refl s)
  · split
    · exact keptBy_ends _ (.refl s)
    · dsimp only
      split
      · exact keptBy_ends _ (.refl s)
      · split
        · exact keptBy_fault ..
        · exact keptBy_next (.refl s)
        · next h => exact keptBy_finish ((State.Keeps.of_sw (replay_keeps h)).then_sw _)

/-! ### The root of trust -/

theorem execImgCommandComplete_kept (s : State) : s.KeptBy (execImgCommandComplete s) := by
  unfold execImgCommandComplete
  exact keptBy_finish (imgDone_keeps s)

theorem execDbgChallenge_kept (r : Requester) (s : State) : s.KeptBy (execDbgChallenge r s) := by
  unfold execDbgChallenge
  split
  · exact keptBy_next (.refl s)
  · split
    · exact keptBy_finish (challenge_keeps ..)
    · exact keptBy_finish (lexCount_keeps ..)

theorem execDbgResponse_kept (r : Requester) (b : Bytes) (s : State) : s.KeptBy (execDbgResponse r b s) := by
  unfold execDbgResponse
  split
  · exact keptBy_next (.refl s)
  · split
    · exact keptBy_finish (dbgTest_keeps ..)
    · exact keptBy_finish (lexCount_keeps ..)

theorem execSpdmRequest_kept (v : SpdmVia) (q : SpdmReq) (s : State) : s.KeptBy (execSpdmRequest v q s) := by
  unfold execSpdmRequest
  split
  · exact keptBy_next (.refl s)
  · split
    · exact keptBy_finish (spdmKex_keeps ..)
    · exact keptBy_finish (spdm_keeps ..)

theorem execLibLoad_kept (b : Bytes) (s : State) : s.KeptBy (execLibLoad b s) := by
  refine keptBy_written _ _ ?_
  split
  · next h => exact keptBy_finish (wrLibLoad_keeps h)
  · exact keptBy_next (.refl s)

/-! ### All commands, and a step -/

/-- The commands of the resets, the lexicon and the root of trust one by one; the effect of every other command is on the switch alone,
and ends, goes on without one, or is undefined, along each of its branches. -/
theorem exec_kept (c : Instr) (s : State) : s.KeptBy (exec c s) := by
  cases c
  case coldReset => exact execColdReset_kept ..
  case warmReset => exact keptBy_written _ _ (keptBy_endReset fun _ => warmStart_keeps)
  case railRestoreTimeout => exact execRailRestoreTimeout_kept ..
  case railLoss => exact execRailLoss_kept ..
  case resetNFall => exact execResetNFall_kept ..
  case sensorSample => exact execSensorSample_kept ..
  case thermCritical => exact execThermCritical_kept ..
  case parkEntryComplete => exact execParkEntryComplete_kept ..
  case lexRead => exact lexDo_kept ..
  case lexWrite => exact lexDo_kept ..
  case lexReqReceive => exact execLexReqReceive_kept ..
  case issioDatagram => exact execIssioDatagram_kept ..
  case i3cPrivateWrite => exact execI3cPrivateWrite_kept ..
  case entdaa => exact execEntdaa_kept ..
  case setdasa => exact keptBy_i3c _
  case rstdaa => exact keptBy_i3c _
  case enec => exact keptBy_i3c _
  case disec => exact keptBy_i3c _
  case lexrd => exact keptBy_coreDoes fun _ => opLexrd_keeps
  case lexwr => exact keptBy_coreDoes fun _ => opLexwr_keeps
  case rv32imcInstruction => exact execRv32imcInstruction_kept ..
  case feedRelease => exact execFeedRelease_kept ..
  case keyFuse => exact keptBy_officer fun _ => wrFuse_keeps ..
  case keyRevoke => exact keptBy_officer fun _ => wrRevoke_keeps ..
  case svnAdvance => exact keptBy_officer fun _ => wrSvnCmd_keeps ..
  case imgErase => exact keptBy_officer fun _ => wrImgCmd_keeps ..
  case imgDataWrite => exact keptBy_officer fun _ => wrImgData_keeps ..
  case imgVerify => exact keptBy_officer fun _ => wrImgCmd_keeps ..
  case imgActivate => exact keptBy_officer fun _ => wrImgCmd_keeps ..
  case imgCommandComplete => exact execImgCommandComplete_kept s
  case dbgChallenge => exact execDbgChallenge_kept ..
  case dbgResponse => exact execDbgResponse_kept ..
  case zeroize => exact keptBy_officer fun _ => wrZeroize_keeps ..
  case retire => exact keptBy_officer fun _ => wrZeroize_keeps ..
  case spdmRequest => exact execSpdmRequest_kept ..
  case libLoad => exact execLibLoad_kept ..
  all_goals
    simp only [exec, State.written,
      execRateMonitorWindow, execHsWindowWrite, execD2dWordCorrected, execD2dLinkStop, execDataHeaderReceive,
      execControlPacketReceive, execDataEndWordReceive, execCreditReceive, execCrossbarCellSlot, execDepthReportRefresh,
      execSprayHalvingExpire, execHoleTimerExpire, execEgressSelect, execEgressPacketComplete, execSignalHoldExpire,
      execBilletAllocate, execBilletFree, execFreeRingRefill, execFreeRingWriteback, execPoolUnitsWrite, execDeepGibWrite,
      execBilletRebuildComplete, execQuotaWrite, execBilletStarvationTimeout, execBelModeWrite, execBellowsParamWrite,
      execTelRingMibWrite, execTelPeriodWrite, execTelemetrySweep, execCollDescriptorReceive, execAnvilContribution,
      execAnvilRootFormed, execWithdrawReceive, execCollAbortReceive, execCollCommitReceive, execResultReceive,
      execCollCompleteReceive, execCollectiveFinish, execCollAbortWrite, execCrossDieAbort, execAnvilLingerExpire,
      execAnvilSpillTimeout, execSpillReadbackComplete, execContextStarvationTimeout, execCollectiveStallTimeout,
      execResultStagingTimeout, execUpdateBlockReceive, execGroupEntryWrite, execEvwait, execEvpoll, execPktsend, execBalloc,
      execBallocn, execBfree, execMove, execHjob, execSjob, execCabort, execGather, execTime, execHearthJobSubmit,
      execHearthJobStart, execRecipeStep, execHearthJobComplete, execCopyLine, execLinePortAccess, execPatrolRead,
      execSwageOpSubmit, execSwageOpValidate, execSwageLoadComplete, execSwagePassComplete, execSwageDrainComplete,
      execSwageStreamWrite, execSwageStreamTimeout, execAgreeArrive, execAgreeRelease, execAgrForce, execAgrBindWrite,
      execLendReportStart, execPortEnable, execPortDisable, execPortRetrain, execPortEnterIdle, execNegotiationComplete,
      execTemperFomUpdate, execTrainingTimeout, execCommaReceive, execCodewordReceive, execReplayTimeout, execLaneUnlockTimeout,
      execSignalLoss, execPortUpTimeout, execFailedPortRetry, execEidleAutoEntry, execEidleAckWaitTimeout, execEidleExitComplete,
      execEthFrameReceive, execPfcReceive, execPfcPauseExpire, execPfcRepeat, execHostWrite, execHostRead, execHostReadResp,
      execHostReadTimeout, execReverseWindowRequest, execHostCompletionReceive, execReverseReadTimeout, execMsiWrite,
      execMemPortEnumerate, execCxlAccess, execCxlResponse, execMemDeviceTimeout, execDeviceEventRecord, execHostLinkLoss,
      execFunctionLevelReset, execPerstNFall, execMemDeviceDown, execBrgPortEnable, execBrgPortDisable, execBrgPortRetrain,
      execBrgPortRelease, execTenActivate, execTenQuench, execTenAcknowledge, execTenQuenchAll, execTenRebind,
      execQuenchDrainComplete, execQuenchDrainTimeout, execQuenchClearComplete, execRebindApplyComplete,
      execGranuleClearComplete, execBlockReset, execBlockResetComplete, execMailboxWrite, execI3cPrivateRead, execGetpid,
      execGetbcr, execGetdcr, execArpRequest, execIcmpEcho, execBootLinkTimeout, execMemPortReturnTimeout, execEnginePark,
      execEngineWakeComplete, execPark, execUnpark, execUnparkComplete, execPowerSample, execPowerWindowEnd, execCoolingWrite,
      execFaultRaise, execFaultRecordClose, execFltAck, execFltClr, execRecRecord, execRecCompare, execRecFeed, execRecStop,
      execRecDump, execRecDumpComplete, execDetSigRead, execPpsInEdge, execPpsLossTimeout, execPpsOutSecond, execJtagInstruction,
      execMemPerstRelease, execMgtPhyResetRelease, execSkewAllowanceExpire, execPcsAlignmentLock, execHostLinkUp,
      execHostConfigWrite, execMsixTableWrite, execPtpMessageReceive, execPtpSourceLoss, execDhcpReply, execRefclkLoss,
      execShadowLoadComplete]
    (repeat' split) <;> simp only [keptBy_next, keptBy_fault, keptBy_ends, keptBy_endsOr, keptBy_endsWr, keptBy_endsHost,
      keptBy_coreDoesSw, keptBy_i3cGet, State.Keeps.refl, State.Keeps.sw, State.Keeps.updSw]

/-- A step runs a command, or ticks. -/
theorem step_kept {s t : State} (h : step s = .next t) : s.sec.Kept t.sec := by
  unfold step at h
  split at h
  · cases h; exact .refl _
  · exact ((exec_kept _ _).keeps _ h).sec

end Sys2Proof.Machine

open Sys2Proof Sys2Proof.Machine

/-- Settles O1: it is the definition of a step. -/
theorem stepRunsTheFrontCommand : Obligations.StepRunsTheFrontCommand := fun _ _ _ => rfl

/-- Settles O5, for every command at once (`exec_kept`). -/
theorem noCommandTouchesTheQueue : Obligations.NoCommandTouchesTheQueue := fun c s t h => ((exec_kept c s).keeps t h).pending

/-- Settles O7: the root of trust after reset has no session, no fuse and an erased NOR. -/
theorem rootOfTrustHoldsAtReset : Obligations.RootOfTrustHoldsAtReset :=
  (Sec.inv_iff _).mpr ⟨Nat.zero_le _, le_rfl, Nat.zero_le _, rfl, fun _ h => absurd h List.not_mem_nil⟩

/-- Settles O8: each operation on the root of trust keeps its invariant (`Sec.Kept`), and every command is made of those. -/
theorem rootOfTrustIsKept : Obligations.RootOfTrustIsKept := fun _ _ hi h => (step_kept h).inv hi

/-- Settles O9: a slot is fused only where it is not, revoked only where it is fused; what a reset or a rail loss leaves of M are its
fuses. -/
theorem fusesNeverGoBack : Obligations.FusesNeverGoBack := fun _ _ h => (step_kept h).grows
end

section
/-! SUPPORT. The elements of the lexicon, the state after reset and the end of a command (15 R592, R593; 16 R633, R642; 05 R194, R197),
with the theorems that settle O3, O4 and O6. -/

namespace Sys2Proof.Machine

/-! ### Units -/

/-- Units of Table 16.4 have numbers of their own. -/
theorem unitNo_injective : Function.Injective unitNo := by
  intro u v h
  cases u <;> cases v <;> simp only [unitNo] at h
  case anvil.anvil a b => exact congrArg ParkUnit.anvil (Fin.ext h)
  case swage.swage a b => exact congrArg ParkUnit.swage (Fin.ext (by omega))
  case core.core a b => exact congrArg ParkUnit.core (Fin.ext (by omega))
  case hearth.hearth a b => exact congrArg ParkUnit.hearth (Fin.ext (by omega))
  all_goals omega

/-- One value set at many keys: a key among them has it, any other what it had. -/
theorem get?_foldl_set {α β : Type} (f : β → Nat) (x : α) (q : Nat) (l : List β) (m : AMap α) :
    (l.foldl (fun m u => AMap.set m (f u) x) m).get? q = if q ∈ l.map f then some x else m.get? q := by
  induction l generalizing m with
  | nil => simp
  | cons u l ih =>
    rw [List.foldl_cons, ih, List.map_cons]
    by_cases hl : q ∈ l.map f
    · rw [if_pos hl, if_pos (List.mem_cons_of_mem _ hl)]
    · by_cases hu : q = f u
      · rw [if_neg hl, if_pos (hu ▸ List.mem_cons_self), hu, AMap.get?_set_self]
      · rw [if_neg hl, if_neg (by simp [hu, hl]), AMap.get?_set_ne _ _ _ _ (Ne.symm hu)]

/-! ### The end of a command -/

/-- Units that start to wake pass from the parked ones to the waking ones. -/
theorem wakeAsked_eq (s : Sw) : ∃ pk wk, s.wakeAsked = s.updPwr (fun p => { p with parked := pk, waking := wk }) ∧
    ∀ u, (u ∈ pk ∨ u ∈ wk) ↔ (u ∈ s.pwr.parked ∨ u ∈ s.pwr.waking) := by
  unfold Sw.wakeAsked
  split
  · exact ⟨s.pwr.parked, s.pwr.waking, rfl, fun _ => .rfl⟩
  · dsimp only
    split
    · exact ⟨s.pwr.parked, s.pwr.waking, rfl, fun _ => .rfl⟩
    · refine ⟨_, _, rfl, fun u => ?_⟩
      by_cases hi : s.unitIdle u = true <;> simp [hi, or_comm]

/-- The units that have become idle begin an idle period now; the periods of the others stand. -/
theorem idleMark_eq (s : Sw) : ∃ ia, s.idleMark = s.updPwr (fun p => { p with busy := s.busyUnits, idleAt := ia }) ∧
    (∀ u, u ∈ s.pwr.busy → u ∉ s.busyUnits → ia.get? (unitNo u) = some (s.now, s.rd L.pwrParkIdleNs)) ∧
    (∀ u, u ∉ s.pwr.busy ∨ u ∈ s.busyUnits → ia.get? (unitNo u) = s.pwr.idleAt.get? (unitNo u)) := by
  unfold Sw.idleMark
  dsimp only
  split
  · next h => exact ⟨s.pwr.idleAt, by rw [h]; rfl, fun u hu hn => absurd (h ▸ hu) hn, fun _ _ => rfl⟩
  · have hmem : ∀ u, unitNo u ∈ (s.pwr.busy.filter (fun u => !s.busyUnits.contains u)).map unitNo ↔
        u ∈ s.pwr.busy ∧ u ∉ s.busyUnits := fun u => by
      rw [List.mem_map_of_injective unitNo_injective]
      simp
    refine ⟨_, rfl, fun u hu hn => ?_, fun u hu => ?_⟩
    · rw [get?_foldl_set, if_pos ((hmem u).mpr ⟨hu, hn⟩)]
    · exact (get?_foldl_set ..).trans (if_neg fun h => hu.elim (· ((hmem u).mp h).1) (((hmem u).mp h).2 ·))

/-- Only the schedulers take note of what became eligible. -/
theorem eligSync_eq (s : Sw) : s.eligSync = { s with bel := s.eligSync.bel } := by
  have htag : ∀ (v s : Sw) (p : Nat), ({ s.tagUp v p with bel := {} } : Sw) = { s with bel := {} } := fun v s p =>
    foldl_keeps (fun w : Sw => { w with bel := {} }) _ _ _ fun b c => by dsimp only; split <;> rfl
  have h : ({ s.eligSync with bel := {} } : Sw) = { s with bel := {} } := by
    unfold Sw.eligSync
    split
    · rfl
    · exact foldl_keeps (fun w : Sw => { w with bel := {} }) _ _ _ fun b p => htag s.bellowsUp b p
  exact congrArg (fun w : Sw => { w with bel := s.eligSync.bel }) h

end Sys2Proof.Machine

open Sys2Proof Sys2Proof.Machine

/-- Settles O3: nothing is listed in the state after reset, so each read gives its default. -/
theorem resetLeaves : Obligations.ResetLeaves :=
  ⟨rfl, rfl, rfl, rfl, fun _ => rfl, fun _ _ => rfl, fun _ => rfl, by decide, by decide, rfl⟩

/-- Settles O6, from the reads after a write of the lexicon's store (`Sw.rd_wr_self`, `Sw.rd_wr_ne`). -/
theorem elementsKeepTheirValues : Obligations.ElementsKeepTheirValues := fun s r q el k v =>
  ⟨s.rd_wr_self r el v, fun h => s.rd_wr_ne r q el k v (Ne.symm h), rfl⟩

/-- Settles O4: at rest the end of a command is `wakeAsked`, `idleMark` and `eligSync` alone (`Sw.settle_rest`). -/
theorem endOfACommandOnlyWakes : Obligations.EndOfACommandOnlyWakes := by
  intro w hw
  have hset : w.settle = w.wakeAsked.idleMark.eligSync := by
    simp only [Sw.rests, Bool.and_eq_true, List.isEmpty_iff, Bool.not_eq_true', beq_iff_eq, Option.isNone_iff_eq_none] at hw
    obtain ⟨⟨⟨⟨⟨hdue, hrec⟩, hsum⟩, hlink⟩, hlinger⟩, hlost⟩ := hw
    exact w.settle_rest hdue hrec hsum hlink hlost hlinger
  obtain ⟨pk, wk, hwake, hmem⟩ := wakeAsked_eq w
  obtain ⟨ia, hidle, hnew, hold⟩ := idleMark_eq w.wakeAsked
  rw [hwake] at hidle hnew hold
  have hall : w.settle = ({ w with pwr := { w.pwr with parked := pk, waking := wk, busy := w.busyUnits, idleAt := ia } } : Sw).eligSync := by
    rw [hset, hwake, hidle]
    rfl
  have hbel := eligSync_eq { w with pwr := { w.pwr with parked := pk, waking := wk, busy := w.busyUnits, idleAt := ia } }
  rw [← hall] at hbel
  refine ⟨pk, wk, ia, hall, fun hp hb => ?_, hmem, hnew, hold, hbel, fun hq hd => ?_⟩
  · rw [hset]
    simp [Sw.wakeAsked, Sw.idleMark, hp, hb]
  · rw [hall, Sw.eligSync_idle]
    · exact hq
    · exact hd
end

section
/-! SUPPORT. The commands of the root of trust (19 R715 to R735), with the theorem that settles O59. -/

namespace Sys2Proof.Machine

/-! ### Ends where no warm reset was asked for -/

theorem unasked_of_boot {s t : State} (h : t.sw.boot = s.sw.boot) (hs : s.unasked = true) : t.unasked = true := by
  rw [State.unasked, h]
  exact hs

theorem finish_unasked {t : State} (h : t.unasked = true) : t.finish = .next { t with sw := t.sw.settle } := by
  rw [State.unasked, Bool.not_eq_true'] at h
  rw [State.finish, h]
  rfl

theorem doesAll_of_finish {c : Instr} {s t : State} (he : exec c s = t.finish) (h : t.unasked = true) : DoesAll c s t :=
  he.trans (finish_unasked h)

/-- The same for a command that leaves the root of trust as it was. -/
theorem does_of_finish {c : Instr} {s t : State} {w : Sw} (he : exec c s = t.finish) (h : t.unasked = true) (ht : t = { s with sw := w }) :
    Does c s w := by
  rw [Does, he, finish_unasked h, ht]

/-! ### Who is served -/

section
variable {s : State} {i sub : Nat} (h : s.busyFor i sub = false)
include h

theorem busyFor_parts : s.sw.held = false ∧ s.sec.busy ≠ some 3 ∧ (i ≠ 0xC002 → s.sw.boot.error = false) := by
  simp only [State.busyFor, Bool.or_eq_false_iff, beq_eq_false_iff_ne, Bool.and_eq_false_iff, bne_eq_false_iff_eq] at h
  obtain ⟨⟨⟨hb, hh⟩, he⟩, -⟩ := h
  exact ⟨hh, hb, fun hi => he.resolve_right hi⟩

end

section
variable {s : State} {k sub : Nat} {f : State → SecRes} (hb : ∀ k sub, s.busyFor (0xC000 + k) sub = false) (hu : s.unasked = true)
include hb

theorem officer_inside : s.officer k sub true f = (f s).2.finish := by
  have he := (busyFor_parts (hb 0 0)).2.2 (by decide)
  simp [State.officer, hb, (busyFor_parts (hb 0 0)).1, he]

include hu

/-- Inside a Crypto Officer session a command does what the write does. -/
theorem doesAll_officer {c : Instr} {ok : Bool} (hc : exec c s = s.officer k sub ok f) (hok : ok = true)
    (hboot : (f s).2.sw.boot = s.sw.boot) : DoesAll c s (f s).2 :=
  doesAll_of_finish (by rw [hc, hok, officer_inside hb]) (unasked_of_boot hboot hu)

/-- Outside one it is denied, and counted (R715). -/
theorem does_officer_outside {c : Instr} {ok : Bool} (hc : exec c s = s.officer k sub ok f) (hok : ok = false) :
    Does c s (s.sw.inc (L.lexDenied.at 1)) := by
  have he := (busyFor_parts (hb 0 0)).2.2 (by decide)
  refine does_of_finish (t := s.lexCount (.issio 0 0) 6) ?_ hu rfl
  simp [hc, hok, State.officer, hb, (busyFor_parts (hb 0 0)).1, he]

end

section
variable (s : State) (sid : Option Nat)

theorem exec_keyFuse (slot : BitVec 8) (hash : BitVec 256) : exec (.keyFuse sid slot hash) s =
    s.officer 1 3 (s.sec.inOfficer sid || (sid.isNone && !s.sec.opOnly)) (fun s => s.wrFuse slot.toNat hash.toNat) := rfl

theorem exec_keyRevoke (slot : BitVec 8) : exec (.keyRevoke sid slot) s =
    s.officer 1 3 (s.sec.inOfficer sid) (fun s => s.wrRevoke slot.toNat) := rfl

theorem exec_svnAdvance : exec (.svnAdvance sid) s = s.officer 1 5 (s.sec.inOfficer sid) (fun s => s.wrSvnCmd 1) := rfl

theorem exec_imgErase : exec (.imgErase sid) s = s.officer 2 3 (s.sec.inOfficer sid) (fun s => s.wrImgCmd 1) := rfl

theorem exec_imgDataWrite (b : Bytes) : exec (.imgDataWrite sid b) s =
    s.officer 2 2 (s.sec.inOfficer sid) (fun s => s.wrImgData b) := rfl

theorem exec_imgVerify : exec (.imgVerify sid) s = s.officer 2 3 (s.sec.inOfficer sid) (fun s => s.wrImgCmd 2) := rfl

theorem exec_imgActivate : exec (.imgActivate sid) s = s.officer 2 3 (s.sec.inOfficer sid) (fun s => s.wrImgCmd 3) := rfl

theorem exec_zeroize : exec (.zeroize sid) s = s.officer 4 2 (s.sec.inOfficer sid) (fun s => s.wrZeroize 1) := rfl

theorem exec_retire : exec (.retire sid) s = s.officer 4 2 (s.sec.inOfficer sid) (fun s => s.wrZeroize 2) := rfl

end

/-! ### Fuses and the security version (R719, R721) -/

section
variable {s : State} {slot : Nat}

theorem wrFuse_refused (hash : Nat) (h : slot = 0 ∨ 4 < slot ∨ (s.sec.fuse slot).fused = true) : s.wrFuse slot hash = (4, s) := by
  rw [State.wrFuse, if_pos h]

theorem wrFuse_fuses (hash : Nat) (h0 : 0 < slot) (h4 : slot ≤ 4) (hf : (s.sec.fuse slot).fused = false) : s.wrFuse slot hash =
    (0, { s with sec := { s.sec with fuses := AMap.put s.sec.fuses slot { hash := hash, fused := true } {}, fusing := some (slot, s.sw.now) } }) := by
  rw [State.wrFuse, if_neg]
  · rfl
  rintro (h | h | h)
  · omega
  · omega
  · exact Bool.false_ne_true (hf.symm.trans h)

theorem wrRevoke_revokes (h0 : 0 < slot) (h4 : slot ≤ 4) (hf : (s.sec.fuse slot).fused = true)
    (hi : ∀ k, k < 2 → iKey (s.sec.imgHeader k) ≠ slot ∨ s.sec.valid k = false) : s.wrRevoke slot =
    (0, { s with sec := { s.sec with fuses := AMap.put s.sec.fuses slot { (s.sec.fuse slot) with revoked := true } {} } }) := by
  rw [State.wrRevoke, if_neg]
  · rfl
  rintro (h | h | h | h)
  · omega
  · omega
  · simp [hf] at h
  · obtain ⟨k, hk, hv⟩ := List.any_eq_true.mp h
    rw [Bool.and_eq_true, beq_iff_eq] at hv
    rcases hi k (List.mem_range.mp hk) with hn | hn
    · exact hn hv.1
    · exact Bool.false_ne_true (hn.symm.trans hv.2)

theorem fuse_put_self (x : Sec) (k : Nat) (z : KeySlot) : Sec.fuse { x with fuses := AMap.put x.fuses k z {} } k = z :=
  AMap.getD_put_self ..

theorem fuse_put_ne (x : Sec) {k q : Nat} (z : KeySlot) (h : q ≠ k) : Sec.fuse { x with fuses := AMap.put x.fuses k z {} } q = x.fuse q :=
  AMap.getD_put_ne _ _ _ _ _ _ (Ne.symm h)

/-- The security version advances where the fuses and both images allow it, and else stands. -/
theorem wrSvnCmd_eq (s : State) : (s.wrSvnCmd 1).2 = { s with sec := { s.sec with svnFuse :=
    if s.sec.svnFuse ≤ s.sec.runSvn ∧ (∀ k : Fin 2, s.sec.runSvn ≤ iSvn (s.sec.imgHeader k) ∧ s.sec.valid k = true)
    then s.sec.runSvn else s.sec.svnFuse } } := by
  have hall : (List.range 2).all (fun k => decide (s.sec.runSvn ≤ iSvn (s.sec.imgHeader k)) && s.sec.valid k) = true ↔
      ∀ k : Fin 2, s.sec.runSvn ≤ iSvn (s.sec.imgHeader k) ∧ s.sec.valid k = true := by
    simp [List.all_eq_true, List.mem_range, Fin.forall_iff]
  unfold State.wrSvnCmd
  dsimp only
  rw [if_neg (by simp)]
  by_cases h : s.sec.svnFuse ≤ s.sec.runSvn ∧ ∀ k : Fin 2, s.sec.runSvn ≤ iSvn (s.sec.imgHeader k) ∧ s.sec.valid k = true
  · rw [if_neg, if_pos h]
    · rfl
    · rintro (hn | hn)
      · exact absurd h.1 (not_le.mpr hn)
      · rw [hall.mpr h.2] at hn
        exact absurd hn (by decide)
  · rw [if_pos, if_neg h]
    by_contra hn
    rw [not_or, not_lt] at hn
    exact h ⟨hn.1, hall.mp (by simpa using hn.2)⟩

end

/-! ### The image (R725) -/

/-- Bytes put from address `a` upward, one by one. -/
theorem getD_foldl_put_from (a : Nat) (f : Nat → Byte) (d : Byte) (n : Nat) (m : List Host.Cell) (x : Nat) :
    AMap.getD ((List.range n).foldl (fun m i => AMap.put m (a + i) (f i) d) m) x d =
      if a ≤ x ∧ x < a + n then f (x - a) else AMap.getD m x d := by
  induction n with
  | zero => simp only [List.range_zero, List.foldl_nil]; rw [if_neg (by omega)]
  | succ n ih =>
    rw [List.range_succ, List.foldl_append, List.foldl_cons, List.foldl_nil]
    by_cases hx : x = a + n
    · subst hx
      rw [AMap.getD_put_self, if_pos ⟨Nat.le_add_right .., Nat.lt_succ_self _⟩, Nat.add_sub_cancel_left]
    · rw [AMap.getD_put_ne _ _ _ _ _ _ (Ne.symm hx), ih]
      exact if_congr (by omega) rfl rfl

/-- The NOR after a piece of 4,096 bytes at `a` (R725). -/
@[irreducible] def norPiece (m : List Host.Cell) (a : Nat) (b : Bytes) : List Host.Cell :=
  (List.range 4096).foldl (fun m i => AMap.put m (a + i) (byteAt b i) 0xFF) m

theorem getD_norPiece (m : List Host.Cell) (a : Nat) (b : Bytes) (x : Nat) : AMap.getD (norPiece m a b) x 0xFF =
    if a ≤ x ∧ x < a + 4096 then byteAt b (x - a) else AMap.getD m x 0xFF := by
  unfold norPiece
  exact getD_foldl_put_from ..

section
variable {s : State} (hb : s.sec.busy = none) (he : s.sec.err = false)
include hb he

theorem wrImgCmd_starts {v : Nat} (h0 : v ≠ 0) (h3 : v ≤ 3) : s.wrImgCmd v = (0, { s with sec := { s.sec with busy := some v } }) := by
  rw [State.wrImgCmd, hb, he, if_neg (by simp), if_neg (by simp [h0, not_lt.mpr h3])]
  rfl

theorem wrImgData_piece (b : Bytes) (ho : s.sw.rd L.secImgOff < slotSize) : (s.wrImgData b).2 = { s with
    sec := { s.sec with nor := norPiece s.sec.nor (slotBase 1 + s.sw.rd L.secImgOff) b }
    sw := s.sw.wr L.secImgOff 0 (s.sw.rd L.secImgOff + 4096) } := by
  rw [State.wrImgData, hb, he, if_neg (by simp), if_neg (by simp [not_le.mpr ho])]
  unfold norPiece State.updSec State.updSw
  generalize 4096 = n
  rfl

end

/-- An erased slot reads erased, and no other address is touched. -/
theorem getD_norErase (m : List Host.Cell) (k a : Nat) : AMap.getD (norErase m k) a 0xFF =
    if slotBase k ≤ a ∧ a < slotBase k + slotSize then 0xFF else AMap.getD m a 0xFF := by
  rw [AMap.getD, norErase]
  split
  · next h => rw [AMap.get?_filter_in _ _ _ fun v => decide_eq_false (by dsimp only; omega)]; rfl
  · next h => rw [AMap.get?_filter_out _ _ _ fun v => decide_eq_true (by dsimp only; omega)]; rfl

/-- What is verified does not depend on the command under way. -/
theorem verify_busy (x : Sec) (b : Option Nat) (k : Nat) : Sec.verify { x with busy := b } k = x.verify k := rfl

section
variable {s : State}

theorem doesAll_imgDone (h : s.imgDone.unasked = true) : DoesAll .imgCommandComplete s s.imgDone :=
  (show exec .imgCommandComplete s = s.imgDone.finish from rfl).trans (finish_unasked h)

theorem imgDone_idle (h : s.sec.busy = none) : s.imgDone = s := by
  simp only [State.imgDone, State.updSec, h]
  exact congrArg (fun b => { s with sec := { s.sec with busy := b } }) h.symm

theorem imgDone_erases (h : s.sec.busy = some 1) :
    s.imgDone = { s with sec := { s.sec with busy := none, nor := norErase s.sec.nor 1 } } := by
  simp only [State.imgDone, State.updSec, h]

theorem imgDone_verifies (h : s.sec.busy = some 2) :
    s.imgDone = { s with sec := { s.sec with busy := none, imgSlot := 1, imgFail := s.sec.verify 1 } } := by
  simp only [State.imgDone, State.updSec, h, Sec.judge, verify_busy]

end

/-! ### Debug unlock and SPDM (R731, R734) -/

section
variable {s : State} {r : Requester}

theorem dbgTest_exhausted (b : Bytes) (hh : s.sec.holds r = true) (h3 : 3 ≤ s.sec.dbgfail) :
    (s.dbgTest b).2 = { s with sec := { s.sec with nonce := none } } := by
  unfold Sec.holds at hh
  unfold State.dbgTest
  split at hh
  · next hn => rw [hn]; dsimp only; rw [if_pos h3]; rfl
  · exact absurd hh Bool.false_ne_true

theorem dbgTest_fails {n : Nat} {b : Bytes} (hn : s.sec.nonce = some (n, r)) (h3 : s.sec.dbgfail < 3) (hk : s.dbgOk n b = false) :
    (s.dbgTest b).2 = { s with sec := { s.sec with nonce := none, dbgfail := s.sec.dbgfail + 1 } } := by
  rw [State.dbgTest, hn]
  dsimp only
  rw [if_neg (not_le.mpr h3), hk]
  rfl

end

/-- The responder sends, and draws nonces; the switch's bring-up is not its own. -/
theorem spdm_boot (s : State) (q : SpdmReq) : (s.spdm q).sw.boot = s.sw.boot := by
  unfold State.spdm
  dsimp only
  split
  · rfl
  · cases q with
    | getMeasurements i =>
      dsimp only
      split
      · rfl
      · split
        · rfl
        · split <;> rfl
    | finish sid cert => dsimp only; split <;> rfl
    | endSession sid => dsimp only; split <;> rfl
    | _ => rfl

theorem exec_spdmRequest_heard {s : State} {v : SpdmVia} {q : SpdmReq} (hv : s.spdmHeard v = true) (hq : q ≠ .keyExchange) :
    exec (.spdmRequest v q) s = (s.spdm q).finish := by
  change execSpdmRequest v q s = _
  rw [execSpdmRequest, hv, if_neg (by simp)]
  exact hq

theorem spdmKex_opens {s : State} (v : SpdmVia) (hs : s.sec.serves = true) (hd : s.sec.derived = true) (hl : s.sec.sess.length < 4) :
    s.spdmKex v = { s with
      sec := { s.sec with sess := s.sec.sess ++ [{ id := s.sec.nextSess, via := v }], nextSess := s.sec.nextSess + 1 },
      sw := s.sw.send (.spdm 4 (leBytes 2 s.sec.nextSess ++ Config.mldsaSign s.sec.aliasSeed (leBytes 2 s.sec.nextSess))) } := by
  rw [State.spdmKex, hs, hd]
  exact if_neg (by simp [not_le.mpr hl])

end Sys2Proof.Machine

open Sys2Proof Sys2Proof.Machine

/-- Settles O59: each command of range 14 is its write inside a session and a count outside one (`doesAll_officer`,
`does_officer_outside`). -/
theorem rootOfTrustCommands : Obligations.RootOfTrustCommands := by
  intro s sid hb hu
  refine ⟨fun hout slot b c hc => ?outside, fun hin => ⟨fun slot hash => ⟨fun h => ?fused, fun h0 h4 hf => ?fuses, fun h0 h4 hf hi => ?revokes⟩,
    ?svn, fun hbusy herr => ⟨?erase, ?verify, ?activate, fun b ho => ?piece⟩, ?zeroize, ?retire⟩, fun hn => ?idle, fun h1 => ?erased,
    fun h2 => ?verified, fun r => ⟨fun ha hst => ?challenge, fun b ha hh => ⟨fun h3 => ?exhausted, fun n hn h3 hk => ?fails⟩⟩,
    fun v hv => ⟨fun q hq => ?spdm, fun hs hd hl => ?kex⟩⟩
  case outside =>
    simp only [List.mem_cons, List.not_mem_nil, or_false] at hc
    rcases hc with rfl | rfl | rfl | rfl | rfl | rfl | rfl | rfl
    · exact does_officer_outside hb hu (exec_keyRevoke ..) hout
    · exact does_officer_outside hb hu (exec_svnAdvance ..) hout
    · exact does_officer_outside hb hu (exec_imgErase ..) hout
    · exact does_officer_outside hb hu (exec_imgDataWrite ..) hout
    · exact does_officer_outside hb hu (exec_imgVerify ..) hout
    · exact does_officer_outside hb hu (exec_imgActivate ..) hout
    · exact does_officer_outside hb hu (exec_zeroize ..) hout
    · exact does_officer_outside hb hu (exec_retire ..) hout
  case fused =>
    have hdo := doesAll_officer hb hu (exec_keyFuse s sid slot hash) (by simp [hin]) (by rw [wrFuse_refused _ h])
    rwa [wrFuse_refused _ h] at hdo
  case fuses =>
    have hw := wrFuse_fuses (s := s) hash.toNat h0 h4 hf
    have hdo := doesAll_officer hb hu (exec_keyFuse s sid slot hash) (by simp [hin]) (by rw [hw])
    rw [hw] at hdo
    exact ⟨_, hdo, fuse_put_self .., fun k hk => fuse_put_ne _ _ hk, rfl⟩
  case revokes =>
    have hw := wrRevoke_revokes h0 h4 hf hi
    have hdo := doesAll_officer hb hu (exec_keyRevoke s sid slot) hin (by rw [hw])
    rw [hw] at hdo
    exact ⟨_, hdo, fuse_put_self .., rfl⟩
  case svn =>
    have hdo := doesAll_officer hb hu (exec_svnAdvance s sid) hin (by rw [wrSvnCmd_eq])
    rwa [wrSvnCmd_eq] at hdo
  case erase =>
    have hw := wrImgCmd_starts hbusy herr (v := 1) (by decide) (by decide)
    have hdo := doesAll_officer hb hu (exec_imgErase s sid) hin (by rw [hw])
    rwa [hw] at hdo
  case verify =>
    have hw := wrImgCmd_starts hbusy herr (v := 2) (by decide) (by decide)
    have hdo := doesAll_officer hb hu (exec_imgVerify s sid) hin (by rw [hw])
    rwa [hw] at hdo
  case activate =>
    have hw := wrImgCmd_starts hbusy herr (v := 3) (by decide) (by decide)
    have hdo := doesAll_officer hb hu (exec_imgActivate s sid) hin (by rw [hw])
    rwa [hw] at hdo
  case piece =>
    have hw := wrImgData_piece hbusy herr b ho
    have hdo := doesAll_officer hb hu (exec_imgDataWrite s sid b) hin (by rw [hw]; exact Sw.wr_boot ..)
    rw [hw] at hdo
    generalize s.sw.rd L.secImgOff + 4096 = v at hdo ⊢
    exact ⟨_, hdo, Sw.rd_wr_self .., fun a => getD_norPiece .., rfl⟩
  case zeroize => exact doesAll_officer hb hu (exec_zeroize s sid) hin rfl
  case retire =>
    have hdo := doesAll_officer hb hu (exec_retire s sid) hin rfl
    simpa [State.wrZeroize, State.updSec, Sec.rederive, Sec.serves] using hdo
  case idle =>
    have hdo := doesAll_imgDone (s := s) (by rw [imgDone_idle hn]; exact hu)
    rwa [imgDone_idle hn] at hdo
  case erased =>
    have hd := imgDone_erases h1
    exact ⟨_, hd ▸ doesAll_imgDone (by rw [hd]; exact hu), rfl, getD_norErase _ 1, rfl⟩
  case verified =>
    have hd := imgDone_verifies h2
    exact hd ▸ doesAll_imgDone (by rw [hd]; exact hu)
  case challenge =>
    refine doesAll_of_finish (t := (s.challenge r).2) ?_ hu
    change execDbgChallenge r s = _
    rw [execDbgChallenge, (busyFor_parts (hb 0 0)).1, if_neg (by simp), if_pos ⟨ha, by simp [hst]⟩]
  case exhausted =>
    have he : exec (.dbgResponse r b) s = (s.dbgTest b).2.finish := by
      change execDbgResponse r b s = _
      rw [execDbgResponse, hb 3 2, if_neg (by simp), if_pos ⟨ha, hh⟩]
    rw [dbgTest_exhausted b hh h3] at he
    exact doesAll_of_finish he hu
  case fails =>
    have he : exec (.dbgResponse r b) s = (s.dbgTest b).2.finish := by
      change execDbgResponse r b s = _
      rw [execDbgResponse, hb 3 2, if_neg (by simp), if_pos ⟨ha, hh⟩]
    rw [dbgTest_fails hn h3 hk] at he
    exact doesAll_of_finish he hu
  case spdm =>
    refine doesAll_of_finish ?_ (unasked_of_boot (spdm_boot s q) hu)
    exact exec_spdmRequest_heard hv hq
  case kex =>
    have he : exec (.spdmRequest v .keyExchange) s = (s.spdmKex v).finish := by
      change execSpdmRequest v .keyExchange s = _
      rw [execSpdmRequest, hv, if_neg (by simp)]
    rw [spdmKex_opens v hs hd hl] at he
    exact ⟨_, doesAll_of_finish he hu, rfl, rfl⟩
end

section
/-! SUPPORT. The fault collector at rest (17 R664 to R675), with the theorem that settles O57. -/

namespace Sys2Proof.Machine

/-! ### The end of a command as the collector sees it -/

/-- An interrupt is sent, or pending. -/
theorem msix_eq (s : Sw) (v : Nat) : ∃ (b : Brg) (l : List Tx), s.msix v = { s with brg := b, tx := l } := by
  unfold Sw.msix
  by_cases h : !s.hostRole ∨ (s.bport 0).st ≠ .ready ∨ !s.msixOn
  · rw [if_pos h]; exact ⟨_, _, rfl⟩
  · rw [if_neg h]
    generalize 2 ^ 32 = n
    simp only [reduceIte]
    split
    · exact ⟨_, _, rfl⟩
    · exact ⟨_, _, rfl⟩

theorem ibi_eq (s : Sw) : ∃ l : List Tx, s.ibi = { s with tx := l } := by
  unfold Sw.ibi
  split
  · exact ⟨_, rfl⟩
  · exact ⟨_, rfl⟩

/-- A rise of the summary word signals by interrupts alone (R677). -/
theorem fltSignal_eq (s : Sw) : ∃ (n : Nat) (t : Option Nat) (b : Brg) (l : List Tx),
    s.fltSignal = { s with flt := { s.flt with seen := n, sigAt := t }, brg := b, tx := l } := by
  unfold Sw.fltSignal
  generalize s.fltSum = n
  dsimp only
  split
  · exact ⟨_, _, _, _, rfl⟩
  · generalize (List.range 128).any _ = rose
    split
    · obtain ⟨b, l, hm⟩ := msix_eq { s with flt := { s.flt with seen := n, sigAt := if rose then some s.now else s.flt.sigAt } } 0
      rw [hm]
      obtain ⟨l', hi⟩ := ibi_eq _
      exact ⟨_, _, _, _, hi⟩
    · exact ⟨_, _, _, _, rfl⟩

/-- What the end of a command does once the faults due are taken and the records are closed. -/
def Sw.afterFaults (s : Sw) : Sw := s.fltSignal.wakeAsked.idleMark.bootTick.eligSync

theorem idleMark_wakeAsked_spec (s : Sw) : ∃ f : Pwr → Pwr, s.wakeAsked.idleMark = s.updPwr f := by
  obtain ⟨f, hwake⟩ := s.wakeAsked_spec
  obtain ⟨g, hidle⟩ := s.wakeAsked.idleMark_spec
  exact ⟨fun p => g (f p), by rw [hidle, hwake]; rfl⟩

/-- Without a bring-up under way it leaves the records and the lexicon as they were. -/
theorem afterFaults_keeps (s : Sw) (hb : s.boot.linkAt = none) : s.afterFaults.flt.recs = s.flt.recs ∧
    s.afterFaults.flt.due = s.flt.due ∧ s.afterFaults.flt.ovf = s.flt.ovf ∧ s.afterFaults.lex = s.lex := by
  rw [Sw.afterFaults]
  obtain ⟨n, t, b, l, hsig⟩ := fltSignal_eq s
  obtain ⟨f, hpwr⟩ := idleMark_wakeAsked_spec s.fltSignal
  rw [hpwr, hsig]
  have hboot : ∀ w : Sw, w.boot.linkAt = none → w.bootTick = w := fun w hw => by simp [Sw.bootTick, hw]
  have helig : ∀ w : Sw, ∃ e, w.eligSync = { w with bel := e } := fun w => ⟨_, eligSync_eq w⟩
  rw [hboot]
  · obtain ⟨e, he⟩ := helig (Sw.updPwr { s with flt := { s.flt with seen := n, sigAt := t }, brg := b, tx := l } f)
    rw [he]
    exact ⟨rfl, rfl, rfl, rfl⟩
  · exact hb

/-- A record, no more open where its time is over. -/
def FltRec.closed (r : FltRec) (now : Nat) : FltRec := if r.due now then { r with open_ := false } else r

theorem closed_of_not_due {r : FltRec} {now : Nat} (h : r.due now = false) : r.closed now = r := by simp [FltRec.closed, h]

theorem mem_of_get? {α : Type} {m : AMap α} {i : Nat} {x : α} (h : m.get? i = some x) : (i, x) ∈ m := by
  induction m with
  | nil => cases h
  | cons kv m ih =>
    obtain ⟨k, v⟩ := kv
    rw [AMap.get?] at h
    split at h
    · next hk =>
      cases h
      exact hk ▸ List.mem_cons_self
    · exact List.mem_cons_of_mem _ (ih h)

theorem get?_map_closed (now i : Nat) (m : AMap FltRec) :
    AMap.get? (m.map (fun kv => if kv.2.due now then (kv.1, { kv.2 with open_ := false }) else kv)) i =
      (AMap.get? m i).map (·.closed now) := by
  induction m with
  | nil => rfl
  | cons kv m ih =>
    obtain ⟨k, r⟩ := kv
    by_cases hd : r.due now = true <;> by_cases hk : k = i <;> simp [AMap.get?, FltRec.closed, hd, hk, ih]

/-- Records whose time is over close, the others stand (R670). -/
theorem closeDue_get? (s : Sw) (i : Nat) : s.closeDue.flt.recs.get? i = (s.flt.recs.get? i).map (·.closed s.now) := by
  unfold Sw.closeDue
  split
  · exact get?_map_closed ..
  · next h =>
    cases hg : s.flt.recs.get? i with
    | none => rfl
    | some r =>
      have hr := List.any_eq_false.mp (Bool.eq_false_of_not_eq_true h) _ (mem_of_get? hg)
      rw [Option.map_some, closed_of_not_due (Bool.eq_false_of_not_eq_true hr)]

theorem closeDue_rest (s : Sw) : s.closeDue = { s with flt := { s.flt with recs := s.closeDue.flt.recs } } := by
  unfold Sw.closeDue
  split <;> rfl

/-! ### One fault at rest -/

/-- A fault that the part can raise is due at the end of its command; an uncorrectable word also fails what lay there (R665). -/
theorem exec_faultRaise_known {s : State} {f : FaultInfo} (hf : faultKnown f = true) : exec (.faultRaise f) s =
    s.ends (if f.code = 4 then
        Sw.sramLost { s.sw with flt := { s.sw.flt with due := s.sw.flt.due ++ [f] } } f.source (fld f.detail.toNat 0 40)
      else { s.sw with flt := { s.sw.flt with due := s.sw.flt.due ++ [f] } }) := by
  change execFaultRaise f s = _
  rw [execFaultRaise, hf]
  rfl

/-- A fault merges into its source's open record, takes a free one, or is lost (R670 to R672). -/
theorem collect_merges {s : Sw} {f : FaultInfo} {i : Nat} {r : FltRec} (ts : List Nat) (ho : s.openRec f.source = some (i, r)) :
    s.collect f ts = s.updFlt (fun x => { x with recs := AMap.set x.recs i { r with
      merges := min 0xFFFF (r.merges + 1), last := f.code, cls := max r.cls (faultClass f.code)
      waits := r.waits ++ ts, closeAt := max r.closeAt s.closeTime
      lastAt := s.now, lately := if r.lastAt = s.now then r.lately ++ [f] else [f] } }) := by
  rw [Sw.collect, ho]

theorem collect_records {s : Sw} {f : FaultInfo} {i : Nat} (ts : List Nat) (ho : s.openRec f.source = none)
    (hi : s.recSlot (faultClass f.code) = some i) :
    s.collect f ts = s.updFlt (fun x => { x with recs := AMap.set x.recs i {
      time := s.now, code := f.code, cls := faultClass f.code, source := f.source, ten := f.ten.map BitVec.toNat
      inc := s.sourceInc f, detail := f.detail.toNat, aux := f.aux.toNat, last := f.code, waits := ts, closeAt := s.closeTime
      lastAt := s.now, lately := [f] } }) := by
  rw [Sw.collect, ho]
  dsimp only
  rw [hi]

theorem collect_loses {s : Sw} {f : FaultInfo} (ts : List Nat) (ho : s.openRec f.source = none)
    (hi : s.recSlot (faultClass f.code) = none) :
    s.collect f ts = (s.inc L.fltLost).updFlt (fun x => { x with ovf := true, ovfAt := s.now }) := by
  rw [Sw.collect, ho]
  dsimp only
  rw [hi]

/-- Of the collector it leaves the faults due, and of the switch the bring-up. -/
theorem collect_keeps (s : Sw) (f : FaultInfo) (ts : List Nat) :
    (s.collect f ts).flt.due = s.flt.due ∧ (s.collect f ts).boot = s.boot := by
  rw [Sw.collect]
  split
  · exact ⟨rfl, rfl⟩
  · split
    · exact ⟨rfl, rfl⟩
    · exact ⟨rfl, rfl⟩

/-- What a record that a fault merges into becomes is open, and its time is not over. -/
theorem openRec_not_due {s : Sw} {src i : Nat} {r : FltRec} (hr : s.flt.recs.any (fun kv => kv.2.due s.now) = false)
    (ho : s.openRec src = some (i, r)) : r.open_ = true ∧ (r.waits.isEmpty && decide (r.closeAt ≤ s.now)) = false := by
  have hopen : r.open_ = true := by
    have := List.find?_some ho
    rw [Bool.and_eq_true] at this
    exact this.2
  have hdue := List.any_eq_false.mp hr _ (List.mem_of_find?_eq_some ho)
  refine ⟨hopen, ?_⟩
  rw [FltRec.due, hopen, Bool.true_and] at hdue
  exact Bool.eq_false_of_not_eq_true hdue

section
variable {s : Sw} (hs : s.rests = true)
include hs

theorem rests_parts : s.flt.due = [] ∧ s.flt.recs.any (fun kv => kv.2.due s.now) = false ∧ s.boot.linkAt = none := by
  simp only [Sw.rests, Bool.and_eq_true, List.isEmpty_iff, Bool.not_eq_true', Option.isNone_iff_eq_none] at hs
  obtain ⟨⟨⟨⟨⟨hdue, hrec⟩, -⟩, hlink⟩, -⟩, -⟩ := hs
  exact ⟨hdue, hrec, hlink⟩

/-- A fault that is not fatal and leads to no other is collected, and that is all the faults there are. -/
theorem settle_one_fault {f : FaultInfo} (hc : faultClass f.code ≤ 2) :
    Sw.settle { s with flt := { s.flt with due := s.flt.due ++ [f] } } = (s.collect f []).closeDue.afterFaults := by
  obtain ⟨hdue, hrec, -⟩ := rests_parts hs
  obtain ⟨v, hv⟩ : ∃ v : Sw, v = { s with flt := { s.flt with due := s.flt.due ++ [f] } } := ⟨_, rfl⟩
  have hlost : v.lostNow = v := v.lostNow_none (by
    simp only [Sw.rests, Bool.and_eq_true, List.isEmpty_iff] at hs
    exact hv ▸ hs.2)
  have hling : v.lingerNow = v := v.lingerNow_none (by
    simp only [Sw.rests, Bool.and_eq_true, List.isEmpty_iff] at hs
    exact hv ▸ hs.1.2)
  have hclose : v.closeDue = v := v.closeDue_none (by rw [hv]; exact hrec)
  have hvd : v.flt.due = [f] := by rw [hv, hdue]; rfl
  have hempty : v.updFlt (fun x => { x with due := [] }) = s := by rw [hv, Sw.updFlt, ← hdue]
  have htake : s.takeFault f = s.collect f [] := if_neg (by omega)
  have hnone : (s.collect f []).flt.due = [] := (collect_keeps s f []).1.trans hdue
  rw [← hv, Sw.settle, hlost, hling, hvd, if_neg (by simp), hclose, Sw.collectAll, hvd, if_neg (by simp), hempty]
  simp only [List.foldl_cons, List.foldl_nil, insFault, htake]
  rw [Sw.collectAll, if_pos (by rw [hnone]; rfl)]
  rfl

end

/-! ### Clearing (R675) -/

/-- Where no record that is cleared took a fault at this instant, none is made anew. -/
theorem clearRecs_stale {s : Sw} {p : Nat → FltRec → Bool} (ovf : Bool)
    (h : ∀ kv ∈ s.flt.recs, p kv.1 kv.2 = true → kv.2.lastAt ≠ s.now) : s.clearRecs p ovf = s.updFlt (fun x => { x with
      recs := x.recs.filter (fun kv => !p kv.1 kv.2), ovf := x.ovf && (!ovf || x.ovfAt == s.now) }) := by
  have hnil : s.flt.recs.filter (fun kv => p kv.1 kv.2 && kv.2.lastAt == s.now) = [] := by
    rw [List.filter_eq_nil_iff]
    intro kv hkv hp
    rw [Bool.and_eq_true, beq_iff_eq] at hp
    exact h kv hkv hp.1 hp.2
  rw [Sw.clearRecs, hnil]
  rfl

end Sys2Proof.Machine

open Sys2Proof Sys2Proof.Machine

/-- Settles O57: at rest a fault is collected alone (`settle_one_fault`), and its record closes where its time is over
(`closeDue_get?`). -/
theorem faultRecords : Obligations.FaultRecords := by
  intro s
  refine ⟨fun f hf => ?unknown, fun f hf => ⟨?raised, fun hr h4 hc => ?rests⟩, fun i r hg ho hw => ?closes,
    fun v hb => ⟨fun hv => ?ack, fun hv => ?ackNone⟩, fun v hb => ⟨fun hv => ?clrAll, fun hv => ?clrSource, fun hv hne => ?clrNone⟩⟩
  case unknown =>
    change execFaultRaise f s = _
    rw [execFaultRaise, hf]
    rfl
  case raised =>
    rintro w rfl
    exact ⟨fun h4 => (exec_faultRaise_known hf).trans (by rw [if_neg h4]; rfl),
      fun h4 => (exec_faultRaise_known hf).trans (by rw [if_pos h4]; rfl)⟩
  case rests =>
    have hexec : exec (.faultRaise f) s = .next { s with sw := (s.sw.collect f []).closeDue.afterFaults } := by
      rw [exec_faultRaise_known hf, if_neg h4, ← settle_one_fault hr hc]
      rfl
    obtain ⟨hdue, hrec, hlink⟩ := rests_parts hr
    obtain ⟨hx, hboot⟩ := collect_keeps s.sw f []
    have hcl := closeDue_rest (s.sw.collect f [])
    obtain ⟨hrecs, hdues, hovf, hlex⟩ := afterFaults_keeps (s.sw.collect f []).closeDue (by rw [hcl]; exact hboot ▸ hlink)
    refine ⟨_, hexec, ?_, fun i r ho => ?merges, fun i ho hi => ?new, fun h => if_neg h, fun h => if_pos h, fun ho hi => ?lost⟩
    · rw [hdues, hcl]
      exact hx.trans hdue
    case merges =>
      rw [hrecs, closeDue_get?]
      obtain ⟨hopen, hnot⟩ := openRec_not_due hrec ho
      rw [collect_merges [] ho, Sw.updFlt]
      dsimp only
      rw [AMap.get?_set_self, Option.map_some, closed_of_not_due, List.append_nil]
      simp only [Bool.and_eq_false_iff, decide_eq_false_iff_not] at hnot
      simp only [FltRec.due, List.append_nil, hopen, Bool.true_and, Bool.and_eq_false_iff, decide_eq_false_iff_not, max_le_iff, not_and]
      exact hnot.imp_right fun h h' => absurd h' h
    case new =>
      rw [hrecs, closeDue_get?, collect_records [] ho hi, Sw.updFlt]
      dsimp only
      rw [AMap.get?_set_self, Option.map_some, FltRec.closed, FltRec.due]
      by_cases hn : s.sw.closeTime ≤ s.sw.now
      · simp [hn]
      · simp [hn, not_le.mp hn]
    case lost =>
      have hcollect := collect_loses [] ho hi
      have hsame : (s.sw.collect f []).closeDue = s.sw.collect f [] := Sw.closeDue_none _ (by rw [hcollect]; exact hrec)
      have hcount : Sw.rd (s.sw.inc L.fltLost) L.fltLost = (s.sw.rd L.fltLost + 1) % 256 ^ L.fltLost.width := Sw.rd_wr_self ..
      have hother : (s.sw.collect f []).flt.recs = s.sw.flt.recs ∧ (s.sw.collect f []).flt.ovf = true ∧
          (s.sw.collect f []).lex = (s.sw.inc L.fltLost).lex := by rw [hcollect]; exact ⟨rfl, rfl, rfl⟩
      obtain ⟨hr', ho', hl'⟩ := hother
      rw [hsame] at hrecs hovf hlex ⊢
      exact ⟨hovf.trans ho', hrecs.trans hr', by rw [Sw.rd, hlex, hl']; exact hcount⟩
  case closes => exact ⟨_, by
      change execFaultRecordClose i s = _
      rw [execFaultRecordClose, hg]
      dsimp only
      rw [if_neg (by simp [ho, hw])]
      rfl, AMap.get?_set_self .., fun k hk => AMap.get?_set_ne _ _ _ _ (Ne.symm hk), rfl⟩
  case ack =>
    have he : Does (.fltAck v) s (s.sw.clearRecs (fun i _ => i == v.toNat) false) := by
      change execFltAck v s = _
      rw [execFltAck, State.written_ends _ _ _ _ hb, Sw.wrFltAck, if_neg (by omega)]
      rfl
    refine ⟨_, rfl, he, fun hk => ?_⟩
    rw [clearRecs_stale _ fun kv hkv hp => hk kv hkv (by simpa using hp)]
    exact ⟨rfl, by simp [Sw.updFlt], rfl⟩
  case ackNone =>
    change execFltAck v s = _
    rw [execFltAck, State.written_ends _ _ _ _ hb, Sw.wrFltAck, if_pos hv]
    rfl
  case clrAll =>
    refine ⟨s.sw.clearRecs (fun _ _ => true) true, ?_, fun hk => ?_⟩
    · change execFltClr v s = _
      rw [execFltClr, State.written_ends _ _ _ _ hb, Sw.wrFltClr, if_pos (by rw [hv]; rfl)]
      rfl
    · rw [clearRecs_stale _ fun kv hkv _ => hk kv hkv]
      exact ⟨by simp [Sw.updFlt], fun ho => by simp [Sw.updFlt, ho]⟩
  case clrSource =>
    refine ⟨s.sw.clearRecs (fun _ r => r.source == v.toNat) false, ?_, fun hk => ?_⟩
    · change execFltClr v s = _
      rw [execFltClr, State.written_ends _ _ _ _ hb, Sw.wrFltClr, if_neg (by omega), if_neg (by omega)]
      rfl
    · rw [clearRecs_stale _ fun kv hkv hp => hk kv hkv (by simpa using hp)]
      exact ⟨rfl, by simp [Sw.updFlt]⟩
  case clrNone =>
    have h255 : v.toNat ≠ 0xFF := fun h => hne (BitVec.eq_of_toNat_eq h)
    change execFltClr v s = _
    rw [execFltClr, State.written_ends _ _ _ _ hb, Sw.wrFltClr, if_neg h255, if_pos hv]
    rfl
end

section
/-! SUPPORT. What sending an answer leaves alone (02 R79 to R83, 03 R101), and the loss of the host, with the theorem that settles O52. -/

namespace Sys2Proof.Machine

/-! ### Sending -/

/-- `g` sees nothing of what a packet of the switch's own changes: the fabric, the billets, free values drawn, faults raised, and the
counts of what is not routed or not allowed. -/
structure SendBlind {α : Type} (g : Sw → α) : Prop extends BilletBlind g where
  fab     : ∀ (s : Sw) x, g { s with fab := x } = g s
  free    : ∀ (s : Sw) n, g { s with free := n } = g s
  noroute : ∀ (s : Sw) d, g (s.inc (L.fwdDropNoroute.at d)) = g s
  qdrop   : ∀ (s : Sw) d, g (s.inc (L.tenQdrop.at d)) = g s
  viol    : ∀ (s : Sw) d, g (s.inc (L.tenViol.at d)) = g s

/-- The bridge's own state. -/
theorem sendBlind_brg : SendBlind Sw.brg where
  bil _ _ := rfl
  bad _ _ := rfl
  flt _ _ := rfl
  lost _ _ _ := rfl
  uncorr _ _ := rfl
  fab _ _ := rfl
  free _ _ := rfl
  noroute _ _ := rfl
  qdrop _ _ := rfl
  viol _ _ := rfl

section
variable {α : Type} {g : Sw → α} (hg : SendBlind g)
include hg

theorem SendBlind.forceCells (n : Nat) (qs : List Nat) (s : Sw) (d : Nat) (o : Owner) (x : Option Ten) (r : List Nat × Sw)
    (e : Sw.forceCells n qs s d o x = .ok r) : g r.2 = g s := by
  induction n generalizing s qs r with
  | zero => unfold Sw.forceCells at e; cases e; rfl
  | succ n ih =>
    unfold Sw.forceCells at e
    split at e
    · cases e
    · split at e
      · next hgot =>
        cases hr : Sw.forceCells n (qs.drop 1) _ d o x with
        | error b => rw [hr] at e; cases e
        | ok r' => rw [hr] at e; cases e; exact (ih _ _ _ hr).trans (hg.grant _ _ _ _ _ _ _ hgot)
      · cases e
      · cases e

theorem SendBlind.cellsFor (s : Sw) (k : DPkt) (d : Nat) (o : Owner) (x : Option Ten) (r : List Nat × Sw)
    (e : s.cellsFor k d o x = .ok r) : g r.2 = g s := by
  unfold Sw.cellsFor at e
  split at e
  · cases e
  split at e
  · exact hg.forceCells _ _ _ _ _ _ _ e
  · exact hg.allocCells _ _ _ _ _ _ e

theorem SendBlind.askCells (s : Sw) (i d : Nat) (o : Owner) (x : Option Ten) : g (s.askCells i d o x) = g s := by
  unfold Sw.askCells
  split
  · rfl
  · split
    · next hc => exact (hg.fab ..).trans (hg.cellsFor _ _ _ _ _ _ hc)
    · exact (hg.bil ..).trans (hg.fab ..)

theorem SendBlind.drawMember (s : Sw) (d c : Nat) (ms : List Nat) : g (s.drawMember d c ms).2 = g s := hg.free ..

theorem SendBlind.report (s : Sw) (d p c : Nat) : g (s.report d p c).2 = g s := by
  unfold Sw.report
  generalize (if laneDie p = d then _ else _) = n
  dsimp only
  split
  · exact hg.fab ..
  · rfl

theorem SendBlind.spray (s : Sw) (d c : Nat) (ms : List Nat) : g (s.spray d c ms).2 = g s := by
  unfold Sw.spray
  dsimp only
  split
  · rw [hg.report, hg.report, hg.drawMember, hg.drawMember]
  · rw [hg.drawMember, hg.drawMember]

theorem SendBlind.route (s : Sw) (d i c src e : Nat) (sp : Bool) (near : List Nat) : g (s.route d i c src e sp near).2 = g s := by
  unfold Sw.route
  split
  · rfl
  dsimp only
  split
  · split <;> rfl
  · split
    · rfl
    · split
      · exact hg.spray ..
      · rfl
  · rfl

theorem SendBlind.ownFail (s : Sw) (d t src dst c ent chk : Nat) : g (s.ownFail d t src dst c ent chk) = g s := by
  unfold Sw.ownFail
  split
  · exact hg.qdrop ..
  · exact (hg.fault ..).trans (hg.viol ..)

theorem SendBlind.loseRes (s : Sw) (h : Word256) : g (s.loseRes h) = g s := by
  unfold Sw.loseRes
  split
  · exact hg.fab ..
  · rfl

theorem SendBlind.nextSeq (s : Sw) (k t : Nat) : g (s.nextSeq k t).2 = g s := hg.fab ..

theorem SendBlind.sendCtl (s : Sw) (d : Nat) (w : Word256) (ck : Checks) : g (s.sendCtl d w ck) = g s := by
  unfold Sw.sendCtl
  dsimp only
  split
  · exact hg.ownFail ..
  split
  · exact hg.ownFail ..
  split
  · exact (hg.fab ..).trans (hg.route ..)
  · exact (hg.fab ..).trans (hg.route ..)
  · exact (hg.noroute ..).trans (hg.route ..)

theorem SendBlind.sendData (s : Sw) (d : Nat) (w : Word256) (pay : Bytes) (ck : Checks) (own : Owner) (fan : Option Nat) :
    g (s.sendData d w pay ck own fan) = g s := by
  unfold Sw.sendData
  dsimp only
  split
  · exact (hg.loseRes ..).trans (hg.ownFail ..)
  split
  · exact (hg.loseRes ..).trans (hg.ownFail ..)
  split
  · exact ((hg.askCells ..).trans (hg.fab ..)).trans ((hg.route ..).trans (hg.nextSeq ..))
  · exact ((hg.askCells ..).trans (hg.fab ..)).trans ((hg.route ..).trans (hg.nextSeq ..))
  · exact ((hg.loseRes ..).trans (hg.noroute ..)).trans ((hg.route ..).trans (hg.nextSeq ..))

theorem SendBlind.answer (s : Sw) (d : Nat) (h : Word256) (st inc : Nat) (data : Bytes) (ck : Checks) :
    g (s.answer d h st inc data ck) = g s := by
  unfold Sw.answer
  split
  · exact hg.sendData ..
  · split
    · exact hg.sendCtl ..
    · rfl

theorem SendBlind.bridgeAnswer (s : Sw) (d : Nat) (h : Word256) (st inc : Nat) (data : Bytes) :
    g (s.bridgeAnswer d h st inc data) = g s := by
  unfold Sw.bridgeAnswer
  split
  · rfl
  · exact hg.answer ..

theorem SendBlind.revAnswer (s : Sw) (d : Nat) (h : Word256) (st : Nat) (data : Bytes) : g (s.revAnswer d h st data) = g s :=
  hg.bridgeAnswer ..

end

/-! ### The bridge's ports -/

theorem bport_setBport_self (s : Sw) (p : Nat) (x : BPortSt) : (s.setBport p x).bport p = x := AMap.getD_put_self ..

theorem bport_updBport_self (s : Sw) (p : Nat) (f : BPortSt → BPortSt) : (s.updBport p f).bport p = f (s.bport p) :=
  bport_setBport_self ..

/-! ### Loss of the host (R551, R534) -/

/-- What is outstanding toward the host. -/
def Sw.hostClear (s : Sw) : Prop := s.brg.reads = [] ∧ s.brg.revs = [] ∧ s.brg.revWait = []

/-- The bridge as the requests that waited are answered. -/
def Sw.hostAnswered (s : Sw) : Sw :=
  (s.brg.revs.map (fun r => (r.req, r.die)) ++ s.brg.revWait.map (fun x => (x.1, x.2.2))).foldl
    (fun s x => s.revAnswer x.2 x.1 stTargetReset []) (s.updBrg (fun b => { b with
      reads := [], revs := [], revWait := []
      late := (s.brg.reads.flatMap HostRd.waiting).foldl (fun l t => insertNat t l) b.late }))

theorem hostAnswered_brg (s : Sw) : s.hostAnswered.brg = { s.brg with
    reads := [], revs := [], revWait := []
    late := (s.brg.reads.flatMap HostRd.waiting).foldl (fun l t => insertNat t l) s.brg.late } :=
  foldl_keeps Sw.brg _ _ _ fun _ _ => sendBlind_brg.revAnswer ..

theorem hostLost_eq (s : Sw) (k : Nat) : s.hostLost k =
    ((s.hostAnswered.bump (incBport 0)).updBport 0 (fun b => { b with cause := k })).bportFault 0 0x50 k := rfl

theorem hostLost_clear (s : Sw) (k : Nat) : (s.hostLost k).hostClear := by
  have hsame : (s.hostLost k).hostClear ↔ s.hostAnswered.hostClear := Iff.rfl
  rw [hsame, Sw.hostClear, hostAnswered_brg]
  exact ⟨rfl, rfl, rfl⟩

/-- The port of the host keeps its link; the cause is shown. -/
theorem hostLost_bport (s : Sw) (k : Nat) : (s.hostLost k).bport 0 = { s.bport 0 with cause := k } := by
  have hport : s.hostAnswered.bport 0 = s.bport 0 := by rw [Sw.bport, hostAnswered_brg]; rfl
  rw [← hport]
  exact bport_updBport_self (s.hostAnswered.bump (incBport 0)) 0 (fun b => { b with cause := k })

theorem hostLost_fault (s : Sw) (k : Nat) : (s.hostLost k).flt.due.getLast? = some ⟨0x50, 64, none, BitVec.ofNat 64 (detL 4 0 k 0 0), 0⟩ :=
  List.getLast?_concat ..

theorem ready_of_hostUp (s : Sw) (h : s.hostUp = true) : (s.bport 0).st = .ready := by
  simpa using (Bool.and_eq_true_iff.mp h).2

theorem hostReset_bport (s : Sw) (k : Nat) : (s.hostReset k).bport 0 =
    { (s.hostLost k).bport 0 with st := .training, width := 0, rate := 0, cxl := false, flit := false } :=
  bport_updBport_self ((s.hostLost k).funcReset.updBrg (fun b => { b with winLog := s.rd L.brgWinLog2 })) 0
    (fun b => { b with st := .training, width := 0, rate := 0, cxl := false, flit := false })

/-- What a reset of the host's port leaves (Table 13.6). -/
theorem hostReset_spec (s : Sw) (k : Nat) : (s.hostReset k).hostClear ∧ ((s.hostReset k).bport 0).cause = k ∧
    (s.hostReset k).flt.due.getLast? = some ⟨0x50, 64, none, BitVec.ofNat 64 (detL 4 0 k 0 0), 0⟩ ∧
    ((s.hostReset k).bport 0).st = .training ∧
    (s.hostReset k).brg.pba = [] ∧ (s.hostReset k).brg.msix = [] ∧ (s.hostReset k).brg.cfg = [] := by
  refine ⟨hostLost_clear s k, ?_, hostLost_fault s k, ?_, rfl, rfl, rfl⟩
  · rw [hostReset_bport, hostLost_bport]
  · rw [hostReset_bport]

end Sys2Proof.Machine

open Sys2Proof Sys2Proof.Machine

/-- Settles O52: what waits is dropped before it is answered, and no answer touches the bridge (`sendBlind_brg`). -/
theorem lossOfTheHost : Obligations.LossOfTheHost := by
  intro s
  refine ⟨fun hup c k hc => ?lost, fun hdown => ⟨?noLink, ?noFlr, ?noPerst⟩, fun hr ht => ?up⟩
  case lost =>
    rcases hc with ⟨rfl, rfl⟩ | ⟨rfl, rfl⟩ | ⟨rfl, rfl⟩ | ⟨rfl, rfl⟩
    · have hport := bport_updBport_self (s.sw.hostLost 1) 0 (fun b => b.unlinked .training)
      obtain ⟨hreads, hrevs, hwait⟩ := hostLost_clear s.sw 1
      refine ⟨(s.sw.hostLost 1).updBport 0 (fun b => b.unlinked .training), ?_, hreads, hrevs, hwait, ?_, hostLost_fault s.sw 1, ?_,
        fun h => absurd rfl h⟩
      · change execHostLinkLoss .linkDown s = _
        rw [execHostLinkLoss, hup]
        rfl
      · rw [hport, BPortSt.unlinked, hostLost_bport]
      · rw [hport]
        rfl
    · obtain ⟨⟨hreads, hrevs, hwait⟩, hcause, hflt, hst, hclear⟩ := hostReset_spec s.sw 2
      refine ⟨_, ?_, hreads, hrevs, hwait, hcause, hflt, hst, fun _ => hclear⟩
      change execHostLinkLoss .hotReset s = _
      rw [execHostLinkLoss, hup]
      rfl
    · obtain ⟨⟨hreads, hrevs, hwait⟩, hcause, hflt, hst, hclear⟩ := hostReset_spec s.sw 2
      refine ⟨_, ?_, hreads, hrevs, hwait, hcause, hflt, hst, fun _ => hclear⟩
      change execPerstNFall s = _
      rw [execPerstNFall, hup]
      rfl
    · obtain ⟨hreads, hrevs, hwait⟩ := hostLost_clear s.sw 3
      have hport : (s.sw.hostLost 3).funcReset.bport 0 = { s.sw.bport 0 with cause := 3 } := hostLost_bport s.sw 3
      refine ⟨(s.sw.hostLost 3).funcReset, ?_, hreads, hrevs, hwait, by rw [hport], hostLost_fault s.sw 3, ?_, fun _ => ⟨rfl, rfl, rfl⟩⟩
      · change execFunctionLevelReset s = _
        rw [execFunctionLevelReset, hup]
        rfl
      · rw [hport]
        exact ready_of_hostUp _ hup
  case noLink =>
    change execHostLinkLoss .linkDown s = _
    rw [execHostLinkLoss, hdown]
    rfl
  case noFlr =>
    change execFunctionLevelReset s = _
    rw [execFunctionLevelReset, hdown]
    rfl
  case noPerst =>
    change execPerstNFall s = _
    rw [execPerstNFall, hdown]
    rfl
  case up =>
    obtain ⟨w, hw⟩ : ∃ w, w = s.sw.draw.2.linkUp 0 .ready (s.sw.draw.1 % 2 == 1) := ⟨_, rfl⟩
    refine ⟨w, ?_, ?_, by rw [hw]; rfl⟩
    · change execHostLinkUp s = _
      rw [execHostLinkUp, hr, ht, hw]
      rfl
    · have hst : (w.bport 0).st = .ready := by rw [hw]; exact congrArg BPortSt.st (bport_updBport_self ..)
      have hrole : w.hostRole = true := by rw [hw]; exact hr
      rw [Sw.hostUp, hrole, hst]
      rfl
end

section
/-! SUPPORT. CXL memory ports (13 R547 to R555), with the theorem that settles O53. -/

namespace Sys2Proof.Machine

/-! ### Enumeration (R547) -/

section
variable {s : Sw} {p : Nat}

theorem linkUp_bport (st : BState) (c : Bool) : ((s.linkUp p st c).bport p).st = st ∧
    ((s.linkUp p st c).bport p).unclear = (s.bport p).unclear := by
  unfold Sw.linkUp
  dsimp only
  rw [bport_updBport_self]
  exact ⟨rfl, rfl⟩

theorem enumerate_ready_bport (cap : Nat) : ((s.enumerate p true cap).bport p).st = .ready ∧
    ((s.enumerate p true cap).bport p).cap = min (2 ^ 42) (cap / 2 ^ 28 * 2 ^ 28) ∧
    ((s.enumerate p true cap).bport p).unclear = (s.bport p).unclear := by
  rw [Sw.enumerate, if_neg (by simp)]
  generalize min (2 ^ 42) (cap / 2 ^ 28 * 2 ^ 28) = n
  dsimp only
  rw [bport_updBport_self]
  exact ⟨(linkUp_bport ..).1, rfl, (linkUp_bport ..).2⟩

theorem enumerate_unsupported_bport (cap : Nat) : ((s.enumerate p false cap).bport p).st = .unsupported ∧
    ((s.enumerate p false cap).bport p).cause = 6 := by
  rw [Sw.enumerate, if_pos (by rfl), bport_updBport_self]
  exact ⟨(linkUp_bport ..).1, rfl⟩

/-- A device that was Ready before is not cleared; its slice is no longer condemned. -/
theorem deviceReady_known (hr : (s.bport p).st = .ready) (hu : (s.bport p).unclear = false) : s.deviceReady p = s.restore (.bridge p) := by
  rw [Sw.deviceReady, if_pos hr, Sw.clearDevice]
  exact if_neg (by rw [show (s.restore (.bridge p)).bport p = s.bport p from rfl, hu]; exact Bool.false_ne_true)

theorem deviceReady_not_ready (hr : (s.bport p).st ≠ .ready) : s.deviceReady p = s := if_neg hr

end

theorem exec_memPortEnumerate_new {s : State} {p : BPort} (sup : Bool) (cap : Nat) (hm : s.sw.memRole p = true)
    (hd : (s.sw.bport p).st ≠ .disabled) (hr : (s.sw.bport p).st ≠ .ready) (ha : s.sw.awaited p = none) (hl : (s.sw.bport p).lost = false) :
    exec (.memPortEnumerate p sup cap) s = s.ends ((s.sw.enumerate p sup cap).deviceReady p) := by
  change execMemPortEnumerate p sup cap s = _
  rw [execMemPortEnumerate, if_neg (by simp [hm, hd, hr]), ha]
  dsimp only
  rw [if_neg (by simp [hl])]

/-! ### Lines that return (R549, R550) -/

/-- A line of a read that no packet asked for: the poison of the line is remembered, and the access has one line less. -/
theorem exec_cxlResponse_read {s : State} {p : BPort} {line : Nat} {x : CxlAcc} (poison : Bool)
    (hx : s.sw.brg.cxl.find? (fun y => y.port == p.val && y.lines.contains line) = some x) (hw : x.wr = none) (hr : x.req = none) :
    ∃ l, Does (.cxlResponse p line poison) s { s.sw with
      brg := { s.sw.brg with cxl := l }, cxlBad := if poison then insertNat (p.val * 2 ^ 36 + line) s.sw.cxlBad else s.sw.cxlBad } := by
  have hline : (s.sw.cxlLine x line poison).2 = s.sw ∧ (s.sw.cxlLine x line poison).1.req = none := by
    rw [Sw.cxlLine, hw]
    exact ⟨rfl, hr⟩
  obtain ⟨hsw, hreq⟩ := hline
  have hfin : ∀ w : Sw, w.cxlFinish (s.sw.cxlLine x line poison).1 = w := fun w => by rw [Sw.cxlFinish, hreq]
  have hexec : exec (.cxlResponse p line poison) s = execCxlResponse p line poison s := rfl
  rw [execCxlResponse, hx] at hexec
  simp only [hsw, hw, hfin, Option.isNone_none, Bool.true_or, Bool.and_true, Option.isSome_none, Bool.false_eq_true, if_false] at hexec
  split at hexec
  · exact ⟨_, hexec⟩
  · exact ⟨_, hexec⟩

/-! ### A device that is lost (Table 13.6) -/

theorem memDown_spec (s : Sw) (p c : Nat) : ((s.memDown p c).bport p).st = .down ∧ ((s.memDown p c).bport p).cause = c ∧
    ((s.memDown p c).bport p).cap = 0 ∧
    (s.memDown p c).flt.due.getLast? = some ⟨0x54, 64 + p, none, BitVec.ofNat 64 (detL 4 p c 0 0), 0⟩ := by
  have hport : (s.memDown p c).bport p = (((s.cxlFlush p).bump (incBport p)).updBport p
      (fun b => { b.unlinked .down with cause := c, released := false, lost := true })).bport p := by
    unfold Sw.memDown
    dsimp only
    split
    · rfl
    · split
      · rfl
      · rfl
  rw [hport, bport_updBport_self]
  exact ⟨rfl, rfl, rfl, List.getLast?_concat ..⟩

/-! ### Port commands (R555) -/

theorem incOf_bump (s : Sw) (el : Nat) : (s.bump el).incOf el = (s.incOf el + 1) % 256 := Sw.rd_wr_self ..

end Sys2Proof.Machine

open Sys2Proof Sys2Proof.Machine

/-- Settles O53. -/
theorem memoryPorts : Obligations.MemoryPorts := by
  intro s p hm
  refine ⟨fun hd hr ha hl hu cap => ⟨?ready, ?unsupported⟩, fun a n bs => ⟨fun hn hj => ?reads, fun hb hj => ?writes⟩,
    fun line x hx hw hr => ⟨?poisoned, ?clean⟩, fun x t hx ht => ?timeout, fun a => ⟨?uncorrectable, ?corrected⟩,
    fun hr c k hk => ?down, fun hb => ⟨fun hd => ?enable, fun hd => ⟨?enableNone, ?retrain⟩, ?disable, fun hd => ?release⟩⟩
  case ready =>
    obtain ⟨hst, hcap, hunc⟩ := enumerate_ready_bport (s := s.sw) (p := p.val) cap
    refine ⟨_, exec_memPortEnumerate_new true cap hm hd hr ha hl, ?_⟩
    rw [deviceReady_known hst (hunc.trans hu)]
    exact ⟨hst, hcap, rfl⟩
  case unsupported =>
    obtain ⟨hst, hcause⟩ := enumerate_unsupported_bport (s := s.sw) (p := p.val) cap
    refine ⟨_, exec_memPortEnumerate_new false cap hm hd hr ha hl, ?_⟩
    rw [deviceReady_not_ready (by rw [hst]; decide)]
    exact ⟨hst, hcause⟩
  case reads =>
    change execCxlAccess p a (.read n) s = _
    rw [execCxlAccess, if_neg (by simp [hn, hj])]
    rfl
  case writes =>
    change execCxlAccess p a (.write bs) s = _
    rw [execCxlAccess, if_neg (by simp [hb, hj])]
    rfl
  case poisoned =>
    obtain ⟨l, h⟩ := exec_cxlResponse_read true hx hw hr
    exact ⟨_, h, mem_insertNat .., rfl⟩
  case clean =>
    obtain ⟨l, h⟩ := exec_cxlResponse_read false hx hw hr
    exact ⟨_, h, rfl⟩
  case timeout =>
    change execMemDeviceTimeout p s = _
    rw [execMemDeviceTimeout, hx, Option.bind_some, ht]
    rfl
  case uncorrectable =>
    change execDeviceEventRecord p true a s = _
    rw [execDeviceEventRecord, hm]
    rfl
  case corrected =>
    change execDeviceEventRecord p false a s = _
    rw [execDeviceEventRecord, hm]
    rfl
  case down =>
    refine ⟨s.sw.memDown p k, ?_, memDown_spec ..⟩
    rw [hk]
    exact if_neg (by simp [hm, hr])
  case enable =>
    refine ⟨s.sw.updBport p (fun b => { b with st := .training, enAt := s.sw.now }), ?_, ?_, ?_, rfl⟩
    · change execBrgPortEnable p s = _
      rw [execBrgPortEnable, State.written_ends _ _ _ _ hb, Sw.bportEnable, if_pos hd]
      rfl
    · rw [bport_updBport_self]
    · rw [bport_updBport_self]
  case enableNone =>
    change execBrgPortEnable p s = _
    rw [execBrgPortEnable, State.written_ends _ _ _ _ hb, Sw.bportEnable, if_neg hd]
    rfl
  case retrain =>
    refine ⟨(s.sw.bportStop p .training).updBport p (fun b => { b with enAt := (s.sw.bportStop p .training).now }), ?_, ?_⟩
    · change execBrgPortRetrain p s = _
      rw [execBrgPortRetrain, State.written_ends _ _ _ _ hb, Sw.bportRetrain, if_neg hd]
      rfl
    · rw [bport_updBport_self, Sw.bportStop, bport_updBport_self]
      rfl
  case disable =>
    refine ⟨s.sw.bportDisable p, ?_, ?_, ?_⟩
    · change execBrgPortDisable p s = _
      rw [execBrgPortDisable, State.written_ends _ _ _ _ hb]
      rfl
    · have hport : (s.sw.bportDisable p).bport p = (s.sw.bportStop p .disabled).bport p := rfl
      rw [hport, Sw.bportStop, bport_updBport_self]
      rfl
    · simp [Sw.bportDisable]
  case release =>
    refine ⟨(s.sw.bump (incBport p)).updBport p (fun b => { b with released := true }), ?_, ?_, incOf_bump .., rfl⟩
    · change execBrgPortRelease p s = _
      rw [execBrgPortRelease, State.written_ends _ _ _ _ hb, Sw.bportRelease, if_pos hd]
      rfl
    · rw [bport_updBport_self]
end

section
/-! SUPPORT. The recorder's commands (18 R693 to R705), with the theorem that settles O58. -/

namespace Sys2Proof.Machine

/-- Of a loop the round of `d` sets what it shows, and no other round changes it. -/
theorem foldl_sets {α β γ : Type} [DecidableEq α] (g : β → γ) (f : β → α → β) (d : α) (v : γ) (hd : ∀ b, g (f b d) = v)
    (hne : ∀ b a, a ≠ d → g (f b a) = g b) (l : List α) (b : β) (h : d ∈ l ∨ g b = v) : g (l.foldl f b) = v := by
  induction l generalizing b with
  | nil => exact h.resolve_left (List.not_mem_nil)
  | cons a l ih =>
    by_cases ha : a = d
    · exact ih _ (Or.inr (ha ▸ hd b))
    · refine ih _ (h.imp (fun hm => ?_) fun hg => (hne b a ha).trans hg)
      exact (List.mem_cons.mp hm).resolve_left fun he => ha he.symm

/-! ### Lines that the recorder reads and writes -/

theorem hbmStack_lt (s : Sw) (off : Nat) : (s.hbmStack off).1 < 6 := by
  unfold Sw.hbmStack Sw.hbmDie
  have hk : off / s.dieRegion % 4 < 4 := Nat.mod_lt _ (by decide)
  dsimp only
  split
  · dsimp only; omega
  · dsimp only; omega

theorem rd_uncorr (s : Sw) (off reader : Nat) {r : Reg} {el : Nat} (h : r.key el < 0x680407 * 65536 ∨ 0x68040d * 65536 ≤ r.key el) :
    (s.uncorr off reader).rd r el = s.rd r el := by
  have hk := hbmStack_lt s off
  refine Sw.rd_wr_ne _ _ _ _ _ _ ?_
  simp only [Reg.key, Reg.at, L.hbmEccUncorr] at h ⊢
  omega

theorem writeLine_recd (s : Sw) (off : Nat) (bs : Bytes) (reader : Nat) : (s.writeLine off bs reader).2.recd = s.recd := by
  unfold Sw.writeLine
  rw [touchHbm_frame]
  split
  · rfl
  · dsimp only
    split
    · rfl
    · split <;> rfl

theorem rd_writeLine (s : Sw) (off : Nat) (bs : Bytes) (reader : Nat) {r : Reg} {el : Nat}
    (h : r.key el < 0x680407 * 65536 ∨ 0x68040d * 65536 ≤ r.key el) : (s.writeLine off bs reader).2.rd r el = s.rd r el := by
  unfold Sw.writeLine
  rw [touchHbm_frame]
  split
  · rfl
  · dsimp only
    split
    · rfl
    · split
      · exact rd_uncorr _ _ _ h
      · rfl

/-- A search of a ring counts and tells the uncorrectable lines it meets, and does nothing else. -/
theorem ringMeets_eq (s : Sw) (d a b : Nat) : ∃ x y, s.ringMeets d a b = { s with lex := x, flt := { s.flt with due := y } } := by
  have h : ({ s.ringMeets d a b with lex := [], flt := { (s.ringMeets d a b).flt with due := [] } } : Sw) =
      { s with lex := [], flt := { s.flt with due := [] } } :=
    foldl_keeps (fun w : Sw => { w with lex := [], flt := { w.flt with due := [] } }) (fun s l => s.uncorr (64 * l) rdSystem) _ _
      fun _ _ => rfl
  exact ⟨_, _, congrArg (fun w : Sw => { w with
    lex := (s.ringMeets d a b).lex, flt := { w.flt with due := (s.ringMeets d a b).flt.due } }) h⟩

/-! ### The determinism signature (R693, R694) -/

/-- An entry of `det.list` is a row of the tables, and none that counts uncorrectable words. -/
theorem detList_rows : ∀ e ∈ detList, ∀ r ∈ lexRow? e.1 e.2, r.reg.index ≠ 0x6804 ∧ r.reg.sub + (e.2 - r.reg.sub) < 256 ∧ r.count ≤ 65536 := by
  decide +kernel

theorem uncorr_detEntry (s : Sw) (off reader : Nat) {e : Nat × Nat} (he : e ∈ detList) :
    (s.uncorr off reader).detEntry e.1 e.2 = s.detEntry e.1 e.2 := by
  unfold Sw.detEntry
  cases hr : lexRow? e.1 e.2 with
  | none => rfl
  | some r =>
    obtain ⟨hi, hsub, hc⟩ := detList_rows e he r hr
    refine List.flatMap_congr fun i hm => congrArg (leBytes _) (rd_uncorr _ _ _ ?_)
    have hlt := List.mem_range.mp hm
    simp only [Reg.key, Reg.at]
    omega

theorem uncorr_detDigest (s : Sw) (off reader : Nat) : (s.uncorr off reader).detDigest = s.detDigest := by
  unfold Sw.detDigest
  rw [rd_uncorr _ _ _ (Or.inl (by decide)), List.flatMap_congr fun e he => uncorr_detEntry s off reader he]
  rfl

theorem readDetSig_spec (s : Sw) : s.readDetSig.rd L.detSig = leNat s.detDigest % 256 ^ L.detSig.width ∧
    s.readDetSig = { s with lex := s.readDetSig.lex } := by
  unfold Sw.readDetSig
  generalize leNat s.detDigest = n
  exact ⟨Sw.rd_wr_self .., rfl⟩

/-- What a search of a ring meets does not change the comparison with the start record. -/
theorem sigMatches_ringMeets (s : Sw) (d a b : Nat) : (s.ringMeets d a b).sigMatches = s.sigMatches := by
  refine foldl_keeps Sw.sigMatches _ _ _ fun w l => ?_
  unfold Sw.sigMatches
  rw [uncorr_detDigest]
  rfl

/-! ### Start (R696, R702) -/

theorem sigStop_spec (s : Sw) : s.sigStop.recd.st = 4 ∧ s.sigStop.recd.cause = 5 ∧ s.sigStop.recd.diverged = true ∧
    s.sigStop = { s with lex := s.sigStop.lex, recd := s.sigStop.recd } := ⟨rfl, rfl, rfl, rfl⟩

/-- A recorder that was armed just now has its counts at 0. -/
def Sw.armed (s : Sw) : Sw :=
  ((List.range 4).foldl (fun s d => (s.wr (L.recWp.at d) 0 0).wr (L.recLost.at d) 0 0) s).updRec (fun _ => { st := 1 })

theorem rd_armed (s : Sw) {d : Nat} (hd : d < 4) : s.armed.rd (L.recWp.at d) = 0 := by
  refine foldl_sets (fun w : Sw => w.rd (L.recWp.at d)) _ d 0 (fun w => ?_) (fun w e he => ?_) _ _ (Or.inl (List.mem_range.mpr hd))
  · rw [Sw.rd_wr_ne]
    · exact (Sw.rd_wr_self ..).trans (Nat.zero_mod _)
    · simp only [Reg.key, Reg.at, L.recWp, L.recLost]; omega
  · rw [Sw.rd_wr_ne, Sw.rd_wr_ne]
    · simp only [Reg.key, Reg.at, L.recWp]; omega
    · simp only [Reg.key, Reg.at, L.recWp, L.recLost]; omega

/-- The first record of an empty recorder is line 0 of F0's ring. -/
theorem record_first {s : Sw} (hr : s.recd = { st := 1 }) (hw : s.rd (L.recWp.at 0) = 0) (dig : Bytes) (m : RecMeta) :
    ∃ a l f, s.record 0 dig m [] = ((s.writeLine a l rdSystem).2.wr (L.recWp.at 0) 0 1).updRec f ∧ ∀ r : Recd, (f r).st = r.st := by
  have hst : s.recd.st = 1 := by rw [hr]
  have hstage : s.staged 0 = 0 := by rw [Sw.staged, hr]; rfl
  have hgap : s.recd.gap.getD 0 0 = 0 := by rw [hr]; rfl
  have hfree : s.ringFree 0 1 = s := by rw [Sw.ringFree, hw]; exact if_pos (by decide)
  rw [Sw.record, Sw.recordAt, if_neg (by simp [hst]), hstage, if_neg (by simp), hgap]
  simp only [if_true, hst, ne_eq, not_true_eq_false, if_false]
  rw [Sw.ringPut, hw, hstage]
  dsimp only [List.length_nil]
  rw [if_neg (by simp [ringLines]), if_neg (by simp [ringLines])]
  simp only [Sw.ringRaw, List.range_zero, List.map_nil, Nat.zero_min, List.drop_nil, renumber, List.append_nil, List.zipIdx_cons,
    List.zipIdx_nil, List.foldl_cons, List.foldl_nil, hfree]
  exact ⟨_, _, _, rfl, fun r => rfl⟩

theorem recArm_spec (s : Sw) : s.recArm.recd.st = 1 ∧ s.recArm.rd (L.recWp.at 0) = 1 ∧
    ∀ d, d < 4 → d ≠ 0 → s.recArm.rd (L.recWp.at d) = 0 := by
  obtain ⟨a, l, f, he, hf⟩ := record_first (s := s.armed) rfl (rd_armed s (by decide)) s.armed.detDigest { kind := 7, port := 0 }
  have harm : s.recArm = s.armed.record 0 s.armed.detDigest { kind := 7, port := 0 } [] := rfl
  rw [harm, he]
  refine ⟨?_, Sw.rd_wr_self (s.armed.writeLine a l rdSystem).2 (L.recWp.at 0) 0 1, fun d hd h0 => ?_⟩
  · refine (hf _).trans ?_
    rw [Sw.wr_recd, writeLine_recd]
    rfl
  · refine (Sw.rd_wr_ne (s.armed.writeLine a l rdSystem).2 (L.recWp.at 0) (L.recWp.at d) 0 0 1 ?_).trans ((rd_writeLine _ _ _ _ ?_).trans (rd_armed s hd))
    · simp only [Reg.key, Reg.at, L.recWp]; omega
    · simp only [Reg.key, Reg.at, L.recWp]; omega

/-! ### A control packet that Feed brings in (R704) -/

theorem boot_of_bare {s t : Sw} (h : t.bare = s.bare) : t.boot = s.boot := by
  change t.bare.boot = s.bare.boot
  rw [h]

theorem bare_passRec (s : Sw) (key n : Nat) (l : Bytes) : (s.passRec key n l).bare = s.bare := bare_consumed _

theorem bare_recPacket (s : Sw) (p t : Nat) (w : Bytes) : (s.recPacket p t w none).bare = s.bare := by
  unfold Sw.recPacket
  dsimp only [Option.isSome_none]
  rw [if_neg Bool.false_ne_true]
  split
  · rfl
  split
  · split
    · exact bare_record ..
    · exact bare_record ..
  split
  · split
    · exact (bare_diverge ..).trans (bare_ringMeets ..)
    · rw [if_neg Bool.false_ne_true, bare_passRec]
      split
      · exact bare_ringMeets ..
      · exact (bare_diverge ..).trans (bare_ringMeets ..)
  · rfl

/-- The bring-up is not among what a packet of the switch's own changes. -/
theorem sendBlind_boot : SendBlind Sw.boot where
  bil _ _ := rfl
  bad _ _ := rfl
  flt _ _ := rfl
  lost _ _ _ := rfl
  uncorr _ _ := rfl
  fab _ _ := rfl
  free _ _ := rfl
  noroute _ _ := rfl
  qdrop _ _ := rfl
  viol _ _ := rfl

theorem portAtt_boot (s : Sw) (p : Nat) : (s.portAtt p).2.boot = s.boot := by
  unfold Sw.portAtt
  simp only [apply_ite Prod.snd, apply_ite Sw.boot, ite_self]

theorem guard_boot (s : Sw) (p : Nat) : (s.guard p).2.boot = s.boot := by
  unfold Sw.guard
  simp only [apply_ite Prod.snd, apply_ite Sw.boot, ite_self]

theorem forwardCtl_boot (s : Sw) (d : Nat) (i : Ingress) (w : Word256) : (s.forwardCtl d i w).boot = s.boot := by
  unfold Sw.forwardCtl
  extract_lets g
  have hg : g.2.boot = s.boot := by
    cases i with
    | port p => exact (apply_ite (fun x : Nat × Sw => x.2.boot) _ _ _).trans (by rw [guard_boot, ite_self])
    | bridge d => rfl
  clear_value g
  split
  · exact hg
  rename_i r a _
  have hr : r.2.boot = s.boot := (sendBlind_boot.route ..).trans hg
  have ha : a.2.boot = s.boot := by
    cases i with
    | port p => exact (portAtt_boot ..).trans hr
    | bridge d => exact hr
  clear_value r a
  split
  · split
    · exact ha
    · exact ha
  · exact ha
  · exact hr

/-- A control packet that is taken in leaves the bring-up alone. -/
theorem ctlIn_boot (s : Sw) (i : Ingress) (w : Word256) : (s.ctlIn i w).boot = s.boot := by
  have hrec : ∀ q t, (s.recPacket q t (wordBytes w) none).boot = s.boot := fun q t => boot_of_bare (bare_recPacket ..)
  unfold Sw.ctlIn
  extract_lets d p t v
  have hv : v.boot = s.boot := by
    cases i with
    | port q => exact hrec q t
    | bridge e => rfl
  by_cases hm : ctlMalformed w = true
  · rw [if_pos hm]
    exact hv
  rw [if_neg hm]
  by_cases hk : pKind w = 6 ∨ pKind w = 7
  · rw [if_pos hk]
    split
    · exact hv
    · exact (forwardCtl_boot ..).trans hv
  · rw [if_neg hk]
    split
    · exact (forwardCtl_boot ..).trans hv
    · exact hv
    · exact hv
    · exact hv
    · exact hv
    · exact hv

theorem fedPast_boot (s : Sw) (d n : Nat) (l : Bytes) : (s.fedPast d n l).boot = s.boot := by
  unfold Sw.fedPast Sw.recLast
  split <;> rfl

/-- A packet that Feed brings in at a lane port, where its rest is not lost. -/
theorem replay_ctl {s : State} {d n : Nat} {l : Bytes} (hk : lKind l = 0) (hc : pCtl (BitVec.ofNat 256 (leNat (l.take 32))) = 1) :
    s.replay d n l =
      .ok (some { s with sw := s.sw.ctlIn (.port (Fin.ofNat 512 (lPort l))) (BitVec.ofNat 256 (leNat (l.take 32))) }) := by
  rw [State.replay, hk]
  dsimp only
  rw [Sw.inject, if_pos hc]
  rfl

/-! ### FEED_RELEASE (R704) -/

/-- The switch as Feed reads the record that is next. -/
def Sw.fedAt (s : Sw) (d n : Nat) (l : Bytes) : Sw :=
  let v := s.reach (s.recd.feedAt + cdiv ((lTime l - s.recd.feedT0) * s.rd L.recPace) 16)
  v.ringMeets d (v.recd.cur.getD (1024 + d) (v.ringStart d)) (n + lSpan l - 1)

theorem fedAt_boot (s : Sw) (d n : Nat) (l : Bytes) : (s.fedAt d n l).boot = s.boot :=
  boot_of_bare (s := s.reach (s.recd.feedAt + cdiv ((lTime l - s.recd.feedT0) * s.rd L.recPace) 16)) (bare_ringMeets ..)

section
variable {s : State} (h3 : s.sw.recd.st = 3)
include h3

theorem exec_feedRelease_last (hn : s.sw.fedNext = none) : Does .feedRelease s s.sw.recLast := by
  change execFeedRelease s = _
  rw [execFeedRelease, if_neg (by simp [h3]), hn]
  rfl

variable {d n : Nat} {l : Bytes} (hn : s.sw.fedNext = some (d, n, l))
include hn

theorem exec_feedRelease_stops (h : (lKind l = 0 ∧ lFull l = false) ∨ (s.sw.fedAt d n l).payLost d n l = true) :
    Does .feedRelease s ((s.sw.fedAt d n l).fedStop d l) := by
  change execFeedRelease s = _
  rw [execFeedRelease, if_neg (by simp [h3]), hn]
  exact if_pos (h.imp_left fun hk => ⟨hk.1, by rw [hk.2]; rfl⟩)

theorem exec_feedRelease_replays (h : lKind l ≠ 0 ∨ lFull l = true) (hp : (s.sw.fedAt d n l).payLost d n l = false) {t : State}
    (hr : State.replay { s with sw := s.sw.fedAt d n l } d n l = .ok (some t)) (hu : (t.sw.fedPast d n l).boot.asked = false) :
    DoesAll .feedRelease s { t with sw := t.sw.fedPast d n l } := by
  have hexec : exec .feedRelease s = execFeedRelease s := rfl
  rw [execFeedRelease, if_neg (by simp [h3]), hn] at hexec
  rw [DoesAll, hexec, ← finish_unasked (by rw [State.unasked, hu]; rfl)]
  refine (if_neg ?_).trans ?_
  · change ¬((lKind l = 0 ∧ (!lFull l) = true) ∨ (s.sw.fedAt d n l).payLost d n l = true)
    rw [hp]
    rcases h with h | h <;> simp [h]
  · change (match State.replay { s with sw := s.sw.fedAt d n l } d n l with
      | .error r => _ | .ok none => _ | .ok (some t) => State.finish { t with sw := t.sw.fedPast d n l }) = _
    rw [hr]

/-- A control packet that Feed brings in. -/
theorem exec_feedRelease_ctl (hk : lKind l = 0) (hf : lFull l = true) (hp : (s.sw.fedAt d n l).payLost d n l = false)
    (hc : pCtl (BitVec.ofNat 256 (leNat (l.take 32))) = 1) (hu : s.unasked = true) :
    Does .feedRelease s (((s.sw.fedAt d n l).ctlIn (.port (Fin.ofNat 512 (lPort l))) (BitVec.ofNat 256 (leNat (l.take 32)))).fedPast d n l) := by
  have hreplay := replay_ctl (s := { s with sw := s.sw.fedAt d n l }) (d := d) (n := n) hk hc
  have hboot := (fedPast_boot ((s.sw.fedAt d n l).ctlIn (.port (Fin.ofNat 512 (lPort l))) (BitVec.ofNat 256 (leNat (l.take 32)))) d n l).trans
    ((ctlIn_boot ..).trans (fedAt_boot ..))
  have hasked : s.sw.boot.asked = false := by simpa [State.unasked] using hu
  have hdo := exec_feedRelease_replays h3 hn (Or.inr hf) hp hreplay (by rw [hboot, hasked])
  generalize Sw.ctlIn _ _ _ = v at hdo ⊢
  exact hdo

end

end Sys2Proof.Machine

open Sys2Proof Sys2Proof.Machine

/-- Settles O58. -/
theorem recorderCommands : Obligations.RecorderCommands := by
  intro s
  refine ⟨fun hb => ⟨fun hi => ?record, fun hi => ?recordNone, fun h4 => ⟨?compareNone, ?feedNone, ?dumpNone⟩,
    fun h4 => ⟨fun hm => ⟨?compare, ?feed⟩, fun hm c hc => ?differs, fun hd => ?dump, fun hd => ?dumpDenied⟩, fun hi => ?stopNone,
    fun h5 => ?stopDump, fun hi h5 => ?stop⟩, fun h3 => ?notFeeding, fun h3 => ⟨fun hn hl => ?fedAll, fun hn hl => ?fedSome,
    fun d n l v w hn hv hw => ?fed⟩, fun h5 => ?dumped, ?signature⟩
  case record =>
    refine ⟨s.sw.recArm, ?_, recArm_spec s.sw⟩
    change execRecRecord s = _
    rw [execRecRecord, State.written_ends _ _ _ _ hb, Sw.wrRecord, if_pos hi]
    rfl
  case recordNone =>
    change execRecRecord s = _
    rw [execRecRecord, State.written_ends _ _ _ _ hb, Sw.wrRecord, if_neg (by simp [hi])]
    rfl
  case compareNone =>
    change execRecCompare s = _
    rw [execRecCompare, State.written_ends _ _ _ _ hb, Sw.wrCompare, if_neg h4]
    rfl
  case feedNone =>
    change execRecFeed s = _
    rw [execRecFeed, State.written_ends _ _ _ _ hb, Sw.wrFeed, if_neg h4]
    rfl
  case dumpNone =>
    change execRecDump s = _
    rw [execRecDump, State.written_ends _ _ _ _ hb, Sw.wrDump]
    split
    · rfl
    · rfl
  case compare =>
    change execRecCompare s = _
    rw [execRecCompare, State.written_ends _ _ _ _ hb, Sw.wrCompare, if_pos h4]
    rfl
  case feed =>
    change execRecFeed s = _
    rw [execRecFeed, State.written_ends _ _ _ _ hb, Sw.wrFeed, if_pos h4]
    rfl
  case differs =>
    have hstop : (!(s.sw.ringMeets 0 0 0).sigMatches) = true := by rw [sigMatches_ringMeets, hm]; rfl
    obtain ⟨hst, hcause, hdiv, hrest⟩ := sigStop_spec (s.sw.ringMeets 0 0 0)
    obtain ⟨x, y, hmeets⟩ := ringMeets_eq s.sw 0 0 0
    refine ⟨(s.sw.ringMeets 0 0 0).sigStop, ?_, hst, hcause, hdiv, ?_⟩
    · rcases hc with rfl | rfl
      · change execRecCompare s = _
        rw [execRecCompare, State.written_ends _ _ _ _ hb, Sw.wrCompare, if_pos h4, Sw.compareStart]
        dsimp only
        rw [if_pos hstop]
        rfl
      · change execRecFeed s = _
        rw [execRecFeed, State.written_ends _ _ _ _ hb, Sw.wrFeed, if_pos h4, Sw.feedStart]
        dsimp only
        rw [if_pos hstop]
        rfl
    · rw [hrest, hmeets]
  case dump =>
    change execRecDump s = _
    rw [execRecDump, State.written_ends _ _ _ _ hb, Sw.wrDump, if_neg (by simp [hd]), if_pos h4]
    rfl
  case dumpDenied =>
    change execRecDump s = _
    rw [execRecDump, State.written_ends _ _ _ _ hb, Sw.wrDump, if_pos (by simp [hd])]
    rfl
  case stopNone =>
    change execRecStop s = _
    rw [execRecStop, State.written_ends _ _ _ _ hb, Sw.recHalt, if_pos hi]
    rfl
  case stopDump =>
    have hi : s.sw.recIdle = false := by rw [Sw.recIdle, h5]; rfl
    refine ⟨(s.sw.draw.2.dumpSend (s.sw.draw.1 % (s.sw.dumpLines.length + 1))).recStop 0, ?_, rfl, rfl⟩
    change execRecStop s = _
    rw [execRecStop, State.written_ends _ _ _ _ hb, Sw.recHalt, if_neg (by simp [hi]), if_pos h5]
    rfl
  case stop =>
    change execRecStop s = _
    rw [execRecStop, State.written_ends _ _ _ _ hb, Sw.recHalt, if_neg (by simp [hi]), if_neg h5]
    rfl
  case notFeeding =>
    change execFeedRelease s = _
    rw [execFeedRelease, if_pos h3]
  case fedAll =>
    have hdo := exec_feedRelease_last h3 hn
    rwa [Sw.recLast, if_pos ⟨hl, Or.inr ⟨h3, hn⟩⟩] at hdo
  case fedSome =>
    have hdo := exec_feedRelease_last h3 hn
    rwa [Sw.recLast, if_neg fun h => hl h.1] at hdo
  case fed =>
    have hat : w = s.sw.fedAt d n l := by rw [hw, hv]; rfl
    subst hat
    refine ⟨exec_feedRelease_stops h3 hn, fun h he hk hf hp hc hu => ?_, fun t hk hp hr ha => exec_feedRelease_replays h3 hn hk hp hr ha⟩
    subst he
    exact exec_feedRelease_ctl h3 hn hk hf hp hc hu
  case dumped =>
    refine ⟨(s.sw.dumpSend s.sw.dumpLines.length).recStop 4, ?_, rfl, rfl⟩
    change execRecDumpComplete s = _
    rw [execRecDumpComplete, if_neg (by simp [h5])]
    rfl
  case signature =>
    obtain ⟨hrd, hrest⟩ := readDetSig_spec s.sw
    exact ⟨s.sw.readDetSig, rfl, hrd, hrest⟩
end

section
/-! SUPPORT. What billets that return and requests that wait for them leave alone (04 R154 to R166, 12 R512): all that is neither of the
fabric, the billets, the contexts, the cores, the lane ports nor memory. -/

namespace Sys2Proof.Machine

/-- The switch without the Lexicon's store, the fabric, credit, billets, lane ports, faults, memory, cores, contexts, the recorder, what
has left, and free values. -/
def Sw.still (s : Sw) : Sw := { s with
  free := 0, lex := [], fab := {}, cred := [], bil := {}, ports := [], flt := {}, hbm := [], hbmBad := [], clr := [], cores := []
  anv := {}, recd := {}, tx := [] }

theorem sendBlind_still : SendBlind Sw.still where
  bil _ _ := rfl
  bad _ _ := rfl
  flt _ _ := rfl
  lost _ _ _ := rfl
  uncorr _ _ := rfl
  fab _ _ := rfl
  free _ _ := rfl
  noroute _ _ := rfl
  qdrop _ _ := rfl
  viol _ _ := rfl

section
variable {s t : Sw} (h : t.still = s.still)
include h

/-- The pins, the bring-up, the power manager, the engine's requesters and time are among what stays. -/
theorem pins_of_still : t.pins = s.pins := by
  change t.still.pins = s.still.pins
  rw [h]

theorem boot_of_still : t.boot = s.boot := by
  change t.still.boot = s.still.boot
  rw [h]

theorem pwr_of_still : t.pwr = s.pwr := by
  change t.still.pwr = s.still.pwr
  rw [h]

theorem lexs_of_still : t.lexs = s.lexs := by
  change t.still.lexs = s.still.lexs
  rw [h]

theorem held_of_still : t.held = s.held := by rw [Sw.held, Sw.held, pins_of_still h]

end

theorem still_writeback (s : Sw) (d p : Nat) : (s.writeback d p).still = s.still := by
  unfold Sw.writeback
  dsimp only
  split <;> rfl

theorem still_putHandle (s : Sw) (h : Nat) : (s.putHandle h).still = s.still := by
  unfold Sw.putHandle
  refine (sendBlind_still.setStore ..).trans ?_
  split
  · exact still_writeback ..
  · rfl

theorem still_release (s : Sw) (h : Nat) : (s.release h).still = s.still := by
  unfold Sw.release
  split
  · exact still_putHandle ..
  · rfl

theorem still_releaseAll (s : Sw) (hs : List Nat) : (s.releaseAll hs).still = s.still :=
  foldl_keeps Sw.still _ _ _ still_release

theorem still_grantTo (s : Sw) (r : BilReq) (h : Nat) : (s.grantTo r h).still = s.still := by
  unfold Sw.grantTo
  split
  · rfl
  · rfl
  · split
    · exact still_release ..
    · split
      · exact still_release ..
      · split
        · exact still_release ..
        · rfl
  · rfl

theorem still_pfcCheck (s : Sw) (p c : Nat) : (s.pfcCheck p c).still = s.still := by
  unfold Sw.pfcCheck
  dsimp only
  split
  · rfl
  · split
    · rfl
    · split <;> rfl

theorem still_askStep (s : Sw) (p c : Nat) (f : Bool) : (s.askStep p c f).still = s.still := by
  unfold Sw.askStep
  dsimp only
  split
  · rfl
  · refine (still_pfcCheck ..).trans ?_
    split <;> rfl

theorem still_serve {s t : Sw} {r : BilReq} (e : s.serve r = some t) : t.still = s.still := by
  unfold Sw.serve at e
  dsimp only at e
  split at e
  · split at e
    · cases e; rfl
    · split at e
      · next hc => cases e; exact sendBlind_still.cellsFor _ _ _ _ _ _ hc
      · cases e; rfl
      · cases e
  · split at e
    · cases e; rfl
    · next k _ =>
      cases hc : Sw.allocCells k.cells s r.die r.owner r.ten with
      | error b => rw [hc] at e; cases e
      | ok x => rw [hc] at e; cases e; exact sendBlind_still.allocCells _ _ _ _ _ _ hc
  · split at e
    · next ha => cases e; exact (still_grantTo ..).trans ((sendBlind_still.bil ..).trans (sendBlind_still.allocate _ _ _ _ _ _ _ ha))
    · cases e
    · cases e; exact still_grantTo ..
  · split at e
    · next ha => cases e; exact (still_grantTo ..).trans ((sendBlind_still.bil ..).trans (sendBlind_still.allocate _ _ _ _ _ _ _ ha))
    · cases e

theorem still_retryOne {s t : Sw} (e : s.retryOne = some t) : t.still = s.still := by
  obtain ⟨l₁, r, l₂, -, hr, -⟩ := List.findSome?_eq_some_iff.mp e
  obtain ⟨w, hw, rfl⟩ := Option.map_eq_some_iff.mp hr
  exact (sendBlind_still.bil ..).trans (still_serve hw)

theorem still_bilRetry (s : Sw) : s.bilRetry.still = s.still := by
  unfold Sw.bilRetry
  refine (foldl_keeps Sw.still _ _ _ fun s kv => ?_).trans (forN_keeps Sw.still _ _ _ fun _ s => ?_)
  · split
    · exact still_askStep ..
    · rfl
  · cases h : s.retryOne with
    | none => rfl
    | some t => exact still_retryOne h

theorem still_freeBil (s : Sw) (hs : List Nat) : (s.freeBil hs).still = s.still := by
  unfold Sw.freeBil
  split
  · rfl
  · exact (still_bilRetry _).trans (still_releaseAll ..)

/-- A packet that waited at the service ID is taken. -/
theorem still_takeIn (s : Sw) (h : Word256) (pay : Bytes) : (s.takeIn h pay).still = s.still := by
  unfold Sw.takeIn
  refine (still_freeBil ..).trans ?_
  unfold Sw.takeKeep
  split <;> rfl

end Sys2Proof.Machine
end

section
/-! SUPPORT. The lexicon engine (15 R597 to R609): a request that it refuses, a read, and a write of `coll.stall_ns`. -/

namespace Sys2Proof.Machine

/-! ### Refusals, reads and writes -/

theorem lexCount_boot (s : State) (q : Requester) (n : Nat) : (s.lexCount q n).sw.boot = s.sw.boot := by
  unfold State.lexCount
  dsimp only [State.updSw]
  split <;> rfl

theorem writtenBytes_read {s : State} {j : LexJob} (h : j.op ≠ 1) : s.writtenBytes j = [] := if_pos h

theorem lexServe_refused {s : State} {j : LexJob} {n : Nat} (h : s.lexCheck j = n) (hn : n ≠ 0) :
    s.lexServe j = .ok (n, s.writtenBytes j, s.lexCount j.q n) := by
  rw [State.lexServe, h]
  cases n with
  | zero => exact absurd rfl hn
  | succ n => rfl

theorem lexServe_read_bad {s : State} {j : LexJob} (h : s.lexCheck j = 0) (ho : j.op = 0) (hb : s.lexBad j = true) :
    s.lexServe j = .ok (10, [], s) := by
  rw [State.lexServe, h]
  dsimp only
  rw [if_pos ho, if_pos hb]
  rfl

theorem lexServe_read_good {s : State} {j : LexJob} (h : s.lexCheck j = 0) (ho : j.op = 0) (hb : s.lexBad j = false) :
    s.lexServe j = .ok (0, (s.lexReadNow j).1, (s.lexReadNow j).2) := by
  rw [State.lexServe, h]
  dsimp only
  rw [if_pos ho, if_neg (by simp [hb])]
  rfl

theorem readDetSig_boot (s : Sw) : s.readDetSig.boot = s.boot := by
  unfold Sw.readDetSig
  exact Sw.wr_boot ..

theorem lexServe_write {s t : State} {j : LexJob} (h : s.lexCheck j = 0) (ho : j.op = 1) (hb : s.lexBad j = false)
    (hw : s.lexWriteNow j = .ok (0, t)) : s.lexServe j = .ok (0, t.writtenBytes j, t) := by
  rw [State.lexServe, h]
  simp only [ho, hw, hb, Nat.one_ne_zero, if_false, Bool.false_eq_true]

theorem freshRead_boot (s : State) (q : Requester) (r : Reg) (o : Nat) : (s.freshRead q r o).sw.boot = s.sw.boot := by
  unfold State.freshRead
  split
  · rfl
  · split
    · exact readDetSig_boot s.sw
    · split <;> rfl

theorem readSeg_boot (s : State) (q : Requester) (x : LexRow) (r : Reg) (o n : Nat) : (s.readSeg q x r o n).2.sw.boot = s.sw.boot := by
  rw [← freshRead_boot s q r o]
  unfold State.readSeg
  generalize s.freshRead q r o = t
  extract_lets key other drop
  split
  · rfl
  · split
    · rfl
    · split <;> rfl

theorem readSegs_boot (q : Requester) (x : LexRow) (r : Reg) (k o : Nat) (s : State) :
    (State.readSegs q x r k o s).2.sw.boot = s.sw.boot := by
  induction k generalizing o s with
  | zero => rfl
  | succ k ih =>
    unfold State.readSegs
    split
    · rfl
    · exact (ih ..).trans (readSeg_boot ..)

theorem lexReadNow_boot (s : State) (j : LexJob) : (s.lexReadNow j).2.sw.boot = s.sw.boot := by
  unfold State.lexReadNow
  split
  · rfl
  · exact readSegs_boot ..
  · rfl

/-- A code above 1 is malformed, or refused before that is seen. -/
theorem lexCheck_malformed (s : State) {j : LexJob} (h : 2 ≤ j.op) : s.lexCheck j ≠ 0 := by
  unfold State.lexCheck
  dsimp only
  split
  · decide
  · decide

/-- What is no write is answered whatever it names, and no bring-up is asked for by it. -/
theorem lexServe_read (s : State) {j : LexJob} (h : j.op ≠ 1) : ∃ st bytes t, s.lexServe j = .ok (st, bytes, t) ∧ t.sw.boot = s.sw.boot := by
  by_cases hc : s.lexCheck j = 0
  · have ho : j.op = 0 := by
      by_contra hne
      exact lexCheck_malformed s (by omega) hc
    cases hb : s.lexBad j with
    | true => exact ⟨_, _, _, lexServe_read_bad hc ho hb, rfl⟩
    | false => exact ⟨_, _, _, lexServe_read_good hc ho hb, lexReadNow_boot ..⟩
  · exact ⟨_, _, _, lexServe_refused rfl hc, lexCount_boot ..⟩

/-! ### A write of `coll.stall_ns` (10 Table 10.8) -/

/-- The row of `coll.stall_ns`. -/
def stallRow : LexRow := ⟨L.collStallNs, 1, .u32, .rw, .n, 1, false⟩

theorem lexEnt?_stall : lexEnt? 0x7800 3 = some (.row stallRow) := rfl

/-- A recorder that does not record takes no write. -/
theorem recWrite_idle {s : Sw} (j : LexJob) (h : s.recd.st ≠ 1) : s.recWrite j = s := by
  unfold Sw.recWrite
  refine List.foldl_fixed' (fun i => ?_) _
  exact if_neg fun hr => h hr.2

/-- Four bytes over an element of four are its value. -/
theorem valueOver_four (v : Nat) {bs : Bytes} (h : bs.length = 4) : valueOver v 4 (cellsOver [] 0 bs) = leNat bs := by
  match bs, h with
  | [a, b, c, d], _ => rfl

theorem coverOf_four {bs : Bytes} (h : bs.length = 4) : coverOf 4 0 bs = [(0, cellsOver [] 0 bs, true)] := by
  have hc : cdiv (0 % 4 + 4) 4 = 1 := rfl
  rw [coverOf, h, hc]
  simp [List.take_of_length_le (Nat.le_of_eq h)]

theorem put_stall (s : State) (v : Nat) : s.put L.collStallNs [(0, v)] = .ok (0, { s with sw := s.sw.wr L.collStallNs 0 v }) := rfl

theorem writeElems_stall (s : State) (q : Requester) {bs : Bytes} (h : bs.length = 4) :
    ∃ l, s.writeElems q stallRow L.collStallNs 0 bs =
      .ok (0, { s with sw := { s.sw.wr L.collStallNs 0 (leNat bs) with lexs := l } }) := by
  have hw : L.collStallNs.width = 4 := rfl
  unfold State.writeElems
  simp only [hw, coverOf_four h, List.filter_cons, List.filter_nil, List.map_cons, List.map_nil, Bool.true_or, if_true, valueOver_four _ h, put_stall,
    List.isEmpty_cons, Bool.false_eq_true, if_false, Bool.not_true, Bool.and_false, List.getLast?_nil]
  exact ⟨_, rfl⟩

section
variable {s : State} {j : LexJob} (hi : j.index = 0x7800) (hs : j.sub = 3) (hseg : j.seg = 0) (hl : j.len = 4) (hr : s.sw.recd.st ≠ 1)
include hi hs hseg hl hr

theorem lexWriteNow_stall {t : State} (hw : s.writeElems j.q stallRow L.collStallNs 0 (slice j.value 0 4) = .ok (0, t)) :
    s.lexWriteNow j = .ok (0, t) := by
  have hentry : stallRow.entry 0x7800 3 = L.collStallNs := rfl
  have htyp : stallRow.typ ≠ .octets := by decide
  rw [State.lexWriteNow, hi, hs, lexEnt?_stall, hseg, hl, State.updSw, recWrite_idle j hr, if_neg (by decide)]
  simp only [hentry, htyp, if_false, Nat.mul_zero, hw]

/-- A write of `coll.stall_ns` that nothing refuses is stored. -/
theorem lexServe_stall (ho : j.op = 1) (hc : s.lexCheck j = 0) (hb : s.lexBad j = false) : ∃ bytes l, s.lexServe j =
    .ok (0, bytes, { s with sw := { s.sw.wr L.collStallNs 0 (leNat (slice j.value 0 4)) with lexs := l } }) := by
  obtain ⟨l, hw⟩ := writeElems_stall s j.q (slice_length j.value 0 4)
  exact ⟨_, l, lexServe_write hc ho hb (lexWriteNow_stall hi hs hseg hl hr hw)⟩

end

/-! ### Who waits -/

/-- Where none waits a request is served as it comes (R602). -/
theorem lexTurn_alone {s : State} (j : LexJob) (h : s.sw.lexs.order = []) : s.lexTurn j = s.lexServe j := by
  have hb : s.sw.lexBefore j.q = 0 := by simp [Sw.lexBefore, h]
  rw [State.lexTurn, hb]
  rfl

theorem lexFull_alone {s : Sw} {n : Nat} (h : s.lexs.order = []) (hn : n ≤ 64) : s.lexFull n = false := by
  simp only [Sw.lexFull, h, List.length_nil, decide_eq_false_iff_not]
  omega

end Sys2Proof.Machine
end

section
/-! SUPPORT. LEXRD, LEXWR and library images (15 R623, 10 R442, 19 R728), with the theorem that settles O36. -/

namespace Sys2Proof.Machine

section
variable {s : State} {j : CoreId} (hu : s.unasked = true) (hr : s.sw.coreReady j = true) (ho : s.sw.lexs.order = [])

theorem coreDoes_ready {r : Except Nat State} (hr : s.sw.coreReady j = true) : s.coreDoes j r = State.coreEnds r := if_pos hr

include ho

/-- LEXRD where none waits ends as the engine serves it (R602). -/
theorem opLexrd_served (rd a b : Nat) {st : Nat} {bytes : Bytes} {t : State} (h : s.lexServe (coreJob j a b 0 4 []) = .ok (st, bytes, t)) :
    s.opLexrd j rd a b = .ok { t with sw :=
      if st = 0 then (t.sw.setCore j { t.sw.core j with sel := b }).coreGoes j rd (leNat (bytes.take 4))
      else (t.sw.setCore j { t.sw.core j with sel := b }).coreFree j rd } := by
  rw [State.opLexrd, lexFull_alone ho (by decide), lexTurn_alone _ ho, h]
  rfl

/-- The same for LEXWR. -/
theorem opLexwr_served (rd a b : Nat) {st : Nat} {bytes : Bytes} {t : State}
    (h : s.lexServe (coreJob j a (s.sw.core j).sel 1 (wordLen a (s.sw.core j).sel) (leBytes (wordLen a (s.sw.core j).sel) b)) =
      .ok (st, bytes, t)) : s.opLexwr j rd a b = .ok { t with sw := t.sw.coreGoes j rd st } := by
  rw [State.opLexwr, lexFull_alone ho (by decide)]
  simp only [Bool.false_eq_true, if_false]
  rw [lexTurn_alone _ ho, h]
  rfl

include hu hr

theorem lexrd_completes (rd a b : BitVec 5) : ∃ (st : Nat) (bytes : Bytes) (t : State),
    s.lexServe (coreJob j (s.xreg j a) (s.xreg j b) 0 4 []) = .ok (st, bytes, t) ∧
      DoesAll (.lexrd j rd a b) s { t with sw :=
        if st = 0 then (t.sw.setCore j { t.sw.core j with sel := s.xreg j b }).coreGoes j rd.toNat (leNat (bytes.take 4))
        else (t.sw.setCore j { t.sw.core j with sel := s.xreg j b }).coreFree j rd.toNat } := by
  obtain ⟨st, bytes, t, h, hb⟩ := lexServe_read s (j := coreJob j (s.xreg j a) (s.xreg j b) 0 4 []) (by decide : (0 : Nat) ≠ 1)
  refine ⟨st, bytes, t, h, doesAll_of_finish ((coreDoes_ready hr).trans (congrArg State.coreEnds (opLexrd_served ho _ _ _ h))) ?_⟩
  refine unasked_of_boot (Eq.trans ?_ hb) hu
  dsimp only
  split <;> rfl

omit hu in
theorem lexwr_serves (rd a b : BitVec 5) {st : Nat} {bytes : Bytes} {t : State}
    (h : s.lexServe (coreJob j (s.xreg j a) (s.sw.core j).sel 1 (wordLen (s.xreg j a) (s.sw.core j).sel)
      (leBytes (wordLen (s.xreg j a) (s.sw.core j).sel) (s.xreg j b))) = .ok (st, bytes, t)) (hu : t.unasked = true) :
    DoesAll (.lexwr j rd a b) s { t with sw := t.sw.coreGoes j rd.toNat st } :=
  doesAll_of_finish ((coreDoes_ready hr).trans (congrArg State.coreEnds (opLexwr_served ho _ _ _ h))) hu

end

theorem leNat_leBytes (n v : Nat) : leNat (leBytes n v) = v % 256 ^ n := by
  induction n generalizing v with
  | zero => simp [leBytes, leNat, Nat.mod_one]
  | succ n ih =>
    have hb : (BitVec.ofNat 8 v).toNat = v % 256 := BitVec.toNat_ofNat ..
    rw [leBytes, leNat, ih, hb, Nat.pow_succ, Nat.mul_comm (256 ^ n), Nat.mod_mul]

theorem rd_stall (s : Sw) (v : Nat) (l : LexSt) : ({ s.wr L.collStallNs 0 v with lexs := l } : Sw).rd L.collStallNs = v % 2 ^ 32 :=
  Sw.rd_wr_self s L.collStallNs 0 v

/-- The address of `coll.stall_ns` (10 Table 10.8). -/
theorem stall_named {a : Nat} (h : a % 2 ^ 24 = 0x780003) : fld a 8 16 = 0x7800 ∧ fld a 0 8 = 3 := by
  simp only [fld, Nat.shiftRight_eq_div_pow]
  omega

theorem wordLen_stall {a : Nat} (h : a % 2 ^ 24 = 0x780003) : wordLen a 0 = 4 := by
  obtain ⟨hi, hs⟩ := stall_named h
  have hz : (LexEnt.row stallRow).size = 4 := rfl
  rw [wordLen, hi, hs, lexEnt?_stall]
  simp [hz]

/-- LEXWR of `coll.stall_ns` stores the value and gives 0. -/
theorem lexwr_stall {s : State} {j : CoreId} (hu : s.unasked = true) (hr : s.sw.coreReady j = true) (ho : s.sw.lexs.order = [])
    (rd a b : BitVec 5) {x : LexJob} (hA : s.xreg j a % 2 ^ 24 = 0x780003) (h0 : (s.sw.core j).sel = 0)
    (hx : x = coreJob j (s.xreg j a) (s.sw.core j).sel 1 (wordLen (s.xreg j a) (s.sw.core j).sel)
      (leBytes (wordLen (s.xreg j a) (s.sw.core j).sel) (s.xreg j b)))
    (hc : s.lexCheck x = 0) (hb : s.lexBad x = false) (hd : s.sw.recd.st ≠ 1) :
    ∃ t, DoesAll (.lexwr j rd a b) s t ∧ t.sw.rd L.collStallNs = s.xreg j b % 2 ^ 32 ∧
      t.sw.core j = ((s.sw.core j).setReg rd.toNat 0).adv 4 ∧
      t = { s with sw := { s.sw with lex := t.sw.lex, lexs := t.sw.lexs, cores := t.sw.cores } } := by
  obtain ⟨hi, hs⟩ := stall_named hA
  have hv : x.value = leBytes 4 (s.xreg j b) := by rw [hx, h0, wordLen_stall hA]; rfl
  obtain ⟨bytes, l, h⟩ := lexServe_stall (j := x) (hx ▸ hi) (hx ▸ hs) (by rw [hx]; exact h0)
    (by rw [hx, h0, wordLen_stall hA]; rfl) hd (hx ▸ rfl) hc hb
  rw [hv, slice_whole _ 4 (leBytes_length ..), leNat_leBytes] at h
  rw [hx] at h
  refine ⟨_, lexwr_serves hr ho rd a b h hu, ?_, core_coreGoes _ j rd.toNat 0, rfl⟩
  exact (rd_stall s.sw _ l).trans (Nat.mod_mod ..)

/-! ### Library images (19 R728) -/

section
variable {s : State} {image : Bytes} (hf : progForm image = true) (he : s.sec.err = false) (hk : (byteAt image 9).toNat ≠ 0)
  (hh : s.sec.keyHash (byteAt image 9).toNat = some (leNat (sha3 ((image.drop 32).take 1312))))
include hf he hk hh

theorem wrLibLoad_usable : s.wrLibLoad image =
    if Config.mldsaVerify ((image.drop 32).take 1312) (sha3 (image.take 32 ++ image.drop 3764)) ((image.drop 1344).take 2420) = true ∧
        s.sw.lib.get? (byteAt image 8).toNat = none then
      some { s with sec := s.sec.extend 6 (sha3 (image.take 32 ++ image.drop 3764))
                    sw := { s.sw with lib := AMap.set s.sw.lib (byteAt image 8).toNat (progLib image (byteAt image 9).toNat) } }
    else none := by
  rw [State.wrLibLoad, if_neg (by simp [hf, he])]
  simp only [if_neg hk, hh, ne_eq, not_true, false_or, Bool.not_eq_true', Option.isSome_iff_ne_none]
  by_cases hg : Config.mldsaVerify ((image.drop 32).take 1312) (sha3 (image.take 32 ++ image.drop 3764)) ((image.drop 1344).take 2420) = true ∧
      s.sw.lib.get? (byteAt image 8).toNat = none
  · rw [if_pos hg, if_neg (by simp [hg])]
    rfl
  · rw [if_neg hg, if_pos]
    rwa [not_and_or, Bool.not_eq_true] at hg

theorem libLoad_usable (hw : s.busyFor 0x7805 2 = false) (hu : s.unasked = true) : exec (.libLoad image) s = .next (
    if Config.mldsaVerify ((image.drop 32).take 1312) (sha3 (image.take 32 ++ image.drop 3764)) ((image.drop 1344).take 2420) = true ∧
        s.sw.lib.get? (byteAt image 8).toNat = none then
      { s with sec := s.sec.extend 6 (sha3 (image.take 32 ++ image.drop 3764))
               sw := { s.sw with lib := AMap.set s.sw.lib (byteAt image 8).toNat (progLib image (byteAt image 9).toNat) }.settle }
    else s) := by
  refine (s.written_ends 0x7805 2 _ hw).trans ?_
  rw [wrLibLoad_usable hf he hk hh]
  by_cases hg : Config.mldsaVerify ((image.drop 32).take 1312) (sha3 (image.take 32 ++ image.drop 3764)) ((image.drop 1344).take 2420) = true ∧
      s.sw.lib.get? (byteAt image 8).toNat = none
  · rw [if_pos hg, if_pos hg]
    exact finish_unasked (unasked_of_boot (s := s) rfl hu)
  · rw [if_neg hg, if_neg hg]

end

end Sys2Proof.Machine

open Sys2Proof Sys2Proof.Machine

/-- Settles O36: LEXRD and LEXWR end as the engine serves them; a library image is loaded where its signature verifies. -/
theorem coresAndTheLexicon : Obligations.CoresAndTheLexicon := by
  unfold Obligations.CoresAndTheLexicon
  intro s hu
  refine ⟨?_, ?_⟩
  · rintro j rd a b A B x hr ho rfl rfl hx
    refine ⟨lexrd_completes hu hr ho rd a b, ?_, fun hA h0 hc hb hd => lexwr_stall hu hr ho rd a b hA h0 hx hc hb hd⟩
    intro st bytes t h ht
    subst hx
    exact lexwr_serves hr ho rd a b h ht
  · rintro image pub dig sig k slot hw hf he rfl rfl rfl rfl rfl hk hh
    exact libLoad_usable hf he hk hh hw hu

end

section
/-! SUPPORT. The transports of the lexicon (15 R597 to R622), with the theorem that settles O55. -/

namespace Sys2Proof.Machine

/-- An element below entry 0x4015, where the counts of packets that are dropped begin. -/
theorem sendBlind_rd (r : Reg) (el : Nat) (h : r.key el < 0x401500 * 65536) : SendBlind (fun s => s.rd r el) where
  toBilletBlind := billetBlind_rd r el (by omega)
  fab _ _ := rfl
  free _ _ := rfl
  noroute _ _ := Sw.rd_wr_ne _ _ _ _ _ _ (by simp only [Reg.key, Reg.at, L.fwdDropNoroute] at h ⊢; omega)
  qdrop _ _ := Sw.rd_wr_ne _ _ _ _ _ _ (by simp only [Reg.key, Reg.at, L.tenQdrop] at h ⊢; omega)
  viol _ _ := Sw.rd_wr_ne _ _ _ _ _ _ (by simp only [Reg.key, Reg.at, L.tenViol] at h ⊢; omega)

theorem leNat_lt (bs : Bytes) : leNat bs < 256 ^ bs.length := by
  induction bs with
  | nil => exact Nat.one_pos
  | cons b bs ih =>
    have hb := b.isLt
    rw [leNat, List.length_cons, Nat.pow_succ]
    omega

/-! ### Requests that are served as they come (R602) -/

theorem lexAnswer_boot (s : Sw) (r : LexReq) (st : Nat) (bytes : Bytes) : (s.lexAnswer r st bytes).boot = s.boot := by
  unfold Sw.lexAnswer
  split
  · exact sendBlind_boot.sendCtl ..
  · rfl
  · rfl

theorem lexReply_boot (s : Sw) (q : Requester) (st : Nat) (bytes : Bytes) : (s.lexReply q st bytes).boot = s.boot := by
  unfold Sw.lexReply
  split <;> rfl

section
variable {s : State} (hh : s.sw.held = false)
include hh

theorem lexDo_arrives {r : LexReq} {op : Nat} {st : Nat} {bytes : Bytes} {t : State} (ho : s.sw.lexs.order = [])
    (h3 : reqTransport r.by_ ≠ 3) (h4 : reqTransport r.by_ ≠ 4) (h : s.lexServe (jobOf r op) = .ok (st, bytes, t)) :
    s.lexDo r op = (t.updSw (fun w => w.lexAnswer r st bytes)).finish := by
  rw [State.lexDo, if_neg (by simp [hh]), if_neg (by simp [h3, h4]), lexTurn_alone _ ho, h]

/-- One that waits, but not at the front, is not served (R602). -/
theorem lexDo_waits {r : LexReq} {op : Nat} {q : Requester} {rest : List Requester} (ho : s.sw.lexs.order = q :: rest)
    (hq : r.by_ ≠ q) (h34 : reqTransport r.by_ = 3 ∨ reqTransport r.by_ = 4) : s.lexDo r op = .next s := by
  rw [State.lexDo, if_neg (by simp [hh]), if_pos h34, if_neg]
  rintro ⟨hd, -⟩
  rw [ho, List.head?_cons] at hd
  exact hq (Option.some.inj hd).symm

end

/-- Those that wait are of the mailbox and of I3C. -/
theorem reqTransport_of_waits {s : Sw} {q : Requester} {j : LexJob} (h : s.lexWaits q = some j) :
    reqTransport q = 3 ∨ reqTransport q = 4 := by
  cases q with
  | inband => cases h
  | issio => cases h
  | core => cases h
  | mailbox => exact .inr rfl
  | i3c => exact .inl rfl

/-- The front of the queue is served and answered. -/
theorem lexDo_front {s t : State} {r : LexReq} {op st : Nat} {bytes : Bytes} {q : Requester} {rest : List Requester} {j : LexJob}
    (hh : s.sw.held = false) (ho : s.sw.lexs.order = q :: rest) (hw : s.sw.lexWaits q = some j) (hq : r.by_ = q) (hj : j.op = op)
    (h : (s.updLexs (fun l => { l with order := rest })).lexServe j = .ok (st, bytes, t)) :
    s.lexDo r op = (t.updSw (fun w => w.lexReply q st bytes)).finish := by
  have hw' : (s.updLexs (fun l => { l with order := rest })).sw.lexWaits q = some j := by
    rw [← hw]
    cases q <;> rfl
  have hf : s.lexFirst = .ok (t.updSw (fun w => w.lexReply q st bytes)) := by
    rw [State.lexFirst, ho]
    simp only [hw', h]
    rfl
  rw [State.lexDo, if_neg (by simp [hh]), hq, if_pos (reqTransport_of_waits hw), if_pos (by simp [ho, hw, hj]), hf]

/-- A write of `coll.stall_ns` that nothing refuses is stored, and answered. -/
theorem lexWrite_stall {s : State} {r : LexReq} (hh : s.sw.held = false) (hu : s.unasked = true) (ho : s.sw.lexs.order = [])
    (h3 : reqTransport r.by_ ≠ 3) (h4 : reqTransport r.by_ ≠ 4) (hop : r.op = 1) (hi : r.index.toNat = 0x7800) (hs : r.sub.toNat = 3)
    (hg : r.seg = 0) (hl : r.len = 4) (hc : s.lexCheck (jobOf r 1) = 0) (hb : s.lexBad (jobOf r 1) = false) (hr : s.sw.recd.st ≠ 1) :
    ∃ (bytes : Bytes) (t : State), s.lexServe (jobOf r 1) = .ok (0, bytes, t) ∧
      DoesAll (.lexWrite r) s (t.updSw (fun w => w.lexAnswer r 0 bytes)) ∧ t.sw.rd L.collStallNs = leNat (slice r.value 0 4) ∧
      t = { s with sw := { s.sw with lex := t.sw.lex, lexs := t.sw.lexs } } := by
  have hop' : (jobOf r 1).op = 1 := if_pos (by rw [hop]; rfl)
  have hseg : (jobOf r 1).seg = 0 := by change r.seg.toNat = 0; rw [hg]; rfl
  obtain ⟨bytes, l, h⟩ := lexServe_stall (j := jobOf r 1) hi hs hseg hl hr hop' hc hb
  refine ⟨bytes, _, h, doesAll_of_finish (lexDo_arrives hh ho h3 h4 h) (unasked_of_boot (lexAnswer_boot ..) hu), ?_, rfl⟩
  refine (rd_stall s.sw _ l).trans (Nat.mod_eq_of_lt ?_)
  exact (leNat_lt _).trans_eq (congrArg (256 ^ ·) (slice_length ..))

/-- What the front of the queue asks for, where it reads, is served and answered. -/
theorem lexRead_front {s : State} {r : LexReq} {q : Requester} {rest : List Requester} {j : LexJob} (hh : s.sw.held = false)
    (hu : s.unasked = true) (ho : s.sw.lexs.order = q :: rest) (hw : s.sw.lexWaits q = some j) (hq : r.by_ = q) (hj : j.op = 0) :
    ∃ (st : Nat) (bytes : Bytes) (t : State), (s.updLexs (fun l => { l with order := rest })).lexServe j = .ok (st, bytes, t) ∧
      DoesAll (.lexRead r) s (t.updSw (fun w => w.lexReply q st bytes)) := by
  obtain ⟨st, bytes, t, h, hb⟩ := lexServe_read (s.updLexs (fun l => { l with order := rest })) (j := j) (by omega)
  exact ⟨st, bytes, t, h, doesAll_of_finish (lexDo_front hh ho hw hq hj h) (unasked_of_boot ((lexReply_boot ..).trans hb) hu)⟩

/-! ### In-band (R611, R612) -/

/-- The request of a LEX_REQ. -/
def inbandJob (w : Word256) : LexJob :=
  { q := .inband (BitVec.ofNat 16 (pSrc w)) (BitVec.ofNat 8 (cTen w)), index := xIndex w, sub := xSub w
    seg := xSeg w, op := xOp w, len := xLen w, value := leBytes 8 (hf w 144 64) }

/-- The answer to it. -/
def State.inbandAnswer (t : State) (i : Ingress) (w : Word256) (st : Nat) (bytes : Bytes) : State := t.updSw (fun x =>
  x.sendCtl (ingDie i) (mkLexResp w x.selfEp (x.incOf incM) st bytes.length (leNat (bytes.take 8))) .both)

theorem inbandAnswer_boot (t : State) (i : Ingress) (w : Word256) (st : Nat) (bytes : Bytes) :
    (t.inbandAnswer i w st bytes).sw.boot = t.sw.boot :=
  sendBlind_boot.sendCtl ..

section
variable {s u : State} {i : Ingress} {w : Word256} (hk : pKind w = 6) (hu : u = s.updSw (fun x => x.takeCtl w)) (hh : s.sw.held = false)
include hk hu hh

theorem inband_open : ¬ (pKind w ≠ 6 ∨ u.sw.held = true) := by
  have hx : u.sw.held = false := hu ▸ hh
  simp [hk, hx]

theorem lexReqReceive_busy (hb : u.sw.lexFull 1 = true ∨ u.lexBusy (inbandJob w) = true) :
    exec (.lexReqReceive i w) s =
      ((u.lexCount (inbandJob w).q 7).inbandAnswer i w 7 (u.writtenBytes (inbandJob w))).finish := by
  have hopen := inband_open hk hu hh
  subst hu
  exact (if_neg hopen).trans (if_pos hb)

theorem lexReqReceive_served (hb : ¬ (u.sw.lexFull 1 = true ∨ u.lexBusy (inbandJob w) = true)) (ho : s.sw.lexs.order = [])
    (hx : xOp w < 2) (ha : u.sw.inbandAdmits i w = true) {st : Nat} {bytes : Bytes} {t : State}
    (h : u.lexServe (inbandJob w) = .ok (st, bytes, t)) :
    exec (.lexReqReceive i w) s = (t.inbandAnswer i w st bytes).finish := by
  have hopen := inband_open hk hu hh
  have ht : u.lexTurn (inbandJob w) = .ok (st, bytes, t) := (lexTurn_alone _ (by rw [hu]; exact ho)).trans h
  have ha' : ¬ (!u.sw.inbandAdmits i w) = true := by rw [ha]; decide
  subst hu
  refine (if_neg hopen).trans ((if_neg hb).trans ((if_neg (by omega)).trans ((if_neg ha').trans ?_)))
  exact (congrArg (fun x : LexAns => match x with
    | .ok (st, bytes, t) => (t.inbandAnswer i w st bytes).finish
    | .error n => .fault (.undefinedUse n)) ht).trans rfl

end

theorem lexBusy_read {s : State} {j : LexJob} (h : j.op ≠ 1) : s.lexBusy j = false := by
  simp [State.lexBusy, h]

/-- A LEX_REQ that is answered Busy counts as one. -/
theorem lexReqReceive_counts {s : State} {i : Ingress} {w : Word256} (hk : pKind w = 6) (hh : s.sw.held = false) (hu : s.unasked = true)
    (hb : (s.updSw (fun x => x.takeCtl w)).sw.lexFull 1 = true ∨ (s.updSw (fun x => x.takeCtl w)).lexBusy (inbandJob w) = true) :
    ∃ v, Does (.lexReqReceive i w) s v ∧ v.rd (L.lexBusy.at 0) = (s.sw.rd (L.lexBusy.at 0) + 1) % 256 ^ (L.lexBusy.at 0).width := by
  have he := lexReqReceive_busy (i := i) hk rfl hh hb
  generalize (s.updSw (fun x => x.takeCtl w)).writtenBytes (inbandJob w) = bytes at he
  refine ⟨_, does_of_finish he (unasked_of_boot ((inbandAnswer_boot ..).trans (lexCount_boot ..)) hu) rfl, ?_⟩
  exact ((sendBlind_rd (L.lexBusy.at 0) 0 (by decide)).sendCtl ..).trans (Sw.rd_wr_self ..)

/-- A LEX_REQ that reads is served as it comes. -/
theorem lexReqReceive_reads {s : State} {i : Ingress} {w : Word256} (hk : pKind w = 6) (hh : s.sw.held = false) (hu : s.unasked = true)
    (ho : s.sw.lexs.order = []) (hx : xOp w = 0) (ha : (s.updSw (fun x => x.takeCtl w)).sw.inbandAdmits i w = true) :
    ∃ (st : Nat) (bytes : Bytes) (t : State), (s.updSw (fun x => x.takeCtl w)).lexServe { inbandJob w with op := 0 } = .ok (st, bytes, t) ∧
      DoesAll (.lexReqReceive i w) s (t.inbandAnswer i w st bytes) := by
  have hjob : inbandJob w = { inbandJob w with op := 0 } := by rw [← hx]; rfl
  have hop : (inbandJob w).op ≠ 1 := by change xOp w ≠ 1; omega
  obtain ⟨st, bytes, t, h, hb⟩ := lexServe_read (s.updSw (fun x => x.takeCtl w)) hop
  have hbusy : ¬ ((s.updSw (fun x => x.takeCtl w)).sw.lexFull 1 = true ∨ (s.updSw (fun x => x.takeCtl w)).lexBusy (inbandJob w) = true) := by
    rw [lexFull_alone (s := (s.updSw (fun x => x.takeCtl w)).sw) ho (by decide), lexBusy_read hop]
    decide
  refine ⟨st, bytes, t, hjob ▸ h, doesAll_of_finish (lexReqReceive_served hk rfl hh hbusy ho (by omega) ha h) ?_⟩
  exact unasked_of_boot ((inbandAnswer_boot ..).trans hb) hu

/-! ### Mailbox (R613 to R615) -/

/-- A request that comes when no other of its instant waits goes to the end (R602). -/
theorem lexJoin_last (s : Sw) (q : Requester) (h : s.lexs.at_ ≠ s.now) : (s.lexJoin q).lexs.order = s.lexs.order ++ [q] := by
  have hf : s.lexFresh = 0 := if_neg h
  simp [Sw.lexJoin, Sw.lexBefore, hf]

section
variable {s : State} {i : Ingress} {h : Word256} {pay : Bytes} {u : Sw} (hu : u = s.sw.takeIn h pay) (hk : pKind h = 0)
  (ho : hOff h < 4096) (hh : s.sw.held = false)
include hu hk ho hh

theorem mailboxWrite_denied (ha : u.mboxAdmits (pSrc h) (ingFrom i) = false) : Does (.mailboxWrite i h pay) s
    ((u.inc (L.lexDenied.at 3)).answer (ingDie i) h stDenied ((u.inc (L.lexDenied.at 3)).incOf incM) [] .both) := by
  have hv : (s.sw.takeIn h pay).held = false := (held_of_still (still_takeIn ..)).trans hh
  subst hu
  exact (if_neg (by simp [hk, hv]; omega)).trans (if_pos (by simp [ha]))

theorem mailboxWrite_put (ha : u.mboxAdmits (pSrc h) (ingFrom i) = true) (hp : hPlen h = 1) (ht : hTail h = 0) (hm : hOff h % 64 = 0)
    (hl : fld (u.mbox.getD (hOff h / 64) 0) 64 8 ≠ 1) (hf : u.lexFull 1 = false) {v : Sw}
    (hv : v = ({ u with mbox := AMap.put u.mbox (hOff h / 64) (mboxPending (leNat (slice pay 0 64))) 0 } : Sw).lexJoin
      (.mailbox (Fin.ofNat 64 (hOff h / 64)))) :
    Does (.mailboxWrite i h pay) s (v.answer (ingDie i) h stOk (v.incOf incM) [] .both) := by
  have hx : (s.sw.takeIn h pay).held = false := (held_of_still (still_takeIn ..)).trans hh
  subst hu hv
  exact (if_neg (by simp [hk, hx]; omega)).trans ((if_neg (by simp [ha])).trans ((if_neg (by simp [hp, ht, hm])).trans
    ((if_neg hl).trans (if_neg (by simp [hf])))))

end

/-- A line that is put waits at the end of the queue where no other came at its instant. -/
theorem mailboxWrite_joins {s : State} {i : Ingress} {h : Word256} {pay : Bytes} {u : Sw} (hu : u = s.sw.takeIn h pay) (hk : pKind h = 0)
    (ho : hOff h < 4096) (hh : s.sw.held = false) (ha : u.mboxAdmits (pSrc h) (ingFrom i) = true) (hp : hPlen h = 1) (ht : hTail h = 0)
    (hm : hOff h % 64 = 0) (hl : fld (u.mbox.getD (hOff h / 64) 0) 64 8 ≠ 1) (hf : u.lexFull 1 = false) :
    ∃ v : Sw, v = ({ u with mbox := AMap.put u.mbox (hOff h / 64) (mboxPending (leNat (slice pay 0 64))) 0 } : Sw).lexJoin
        (.mailbox (Fin.ofNat 64 (hOff h / 64))) ∧
      (u.lexs.at_ ≠ u.now → v.lexs.order = u.lexs.order ++ [.mailbox (Fin.ofNat 64 (hOff h / 64))]) ∧
      Does (.mailboxWrite i h pay) s (v.answer (ingDie i) h stOk (v.incOf incM) [] .both) := by
  obtain ⟨v, hv⟩ : ∃ v : Sw, v = ({ u with mbox := AMap.put u.mbox (hOff h / 64) (mboxPending (leNat (slice pay 0 64))) 0 } : Sw).lexJoin
      (.mailbox (Fin.ofNat 64 (hOff h / 64))) := ⟨_, rfl⟩
  refine ⟨v, hv, fun hat => ?_, mailboxWrite_put hu hk ho hh ha hp ht hm hl hf hv⟩
  rw [hv]
  exact lexJoin_last _ _ hat

/-! ### Issio (R616 to R619) -/

/-- The records of a datagram, one after another. -/
def State.issioRec (q : Requester) (sid : Option Nat) (b : Bytes) (r : Except Nat (Bytes × State)) (i : Nat) : Except Nat (Bytes × State) :=
  match r with
  | .ok (out, t) =>
    let x := (b.drop (16 * i)).take 16
    (match t.lexServe (recJob q sid x) with
     | .ok (st, bytes, u) => .ok (out ++ recAns x st (bytes.take 8), u)
     | .error e => .error e)
  | e => e

/-- Where none waits its first record is served at once. -/
theorem issioRecs_alone {s : State} (q : Requester) (sid : Option Nat) (b : Bytes) (n : Nat) (ho : s.sw.lexs.order = []) :
    s.issioRecs q sid b n = (List.range n).foldl (State.issioRec q sid b) (.ok ([], s)) := by
  have hb : s.sw.lexBefore q = 0 := by simp [Sw.lexBefore, ho]
  rw [State.issioRecs, hb, ite_self]
  rfl

/-- Records that write nothing are all answered, and no bring-up is asked for by them. -/
theorem issioRecs_reads (q : Requester) (sid : Option Nat) (b : Bytes) (is : List Nat) (out : Bytes) (s : State)
    (h : ∀ i ∈ is, (recJob q sid ((b.drop (16 * i)).take 16)).op ≠ 1) :
    ∃ recs t, is.foldl (State.issioRec q sid b) (.ok (out, s)) = .ok (recs, t) ∧ t.sw.boot = s.sw.boot := by
  induction is generalizing out s with
  | nil => exact ⟨out, s, rfl, rfl⟩
  | cons i is ih =>
    obtain ⟨st, bytes, u, hs, hb⟩ := lexServe_read s (h i (List.mem_cons_self ..))
    have hr : State.issioRec q sid b (.ok (out, s)) i = .ok (out ++ recAns ((b.drop (16 * i)).take 16) st (bytes.take 8), u) := by
      simp only [State.issioRec, hs]
    obtain ⟨recs, t, ht, hbt⟩ := ih (out ++ recAns ((b.drop (16 * i)).take 16) st (bytes.take 8)) u
      fun k hk => h k (List.mem_cons_of_mem _ hk)
    exact ⟨recs, t, by rw [List.foldl_cons, hr, ht], hbt.trans hb⟩

/-- The answer to a datagram is sent, and kept (R619). -/
def Sw.issioReply (w : Sw) (ip : BitVec 32) (p : BitVec 16) (q n : Nat) (recs : Bytes) : Sw :=
  (w.send (.udp ip.toNat p.toNat (issioAns q n 1 0 recs))).issioKeep ip.toNat p.toNat [(q, issioAns q n 3 0 recs)]

section
variable {s : State} {ip : BitVec 32} {p dp : BitVec 16} {sid : Option Nat} {b : Bytes} (hh : s.sw.held = false)
  (he : s.sw.boot.error = false) (hip : s.sw.rd L.lexEthIp4Now ≠ 0) (hport : s.sw.rd L.lexIssioPort ≠ 0)
  (hdp : dp.toNat = s.sw.rd L.lexIssioPort)
include hh he hip hport hdp

theorem issio_open : ¬ (s.sw.held = true ∨ (s.sw.boot.error = true ∧ s.sw.boot.cause ≠ 1) ∨ s.sw.rd L.lexEthIp4Now = 0 ∨
    s.sw.rd L.lexIssioPort = 0 ∨ dp.toNat ≠ s.sw.rd L.lexIssioPort) := by
  simp [hh, he, hip, hport, hdp]

theorem issioDatagram_short (hl : b.length < 16) :
    exec (.issioDatagram ip p dp sid b) s = (s.lexCount (.issio ip p) 9).finish :=
  (if_neg (issio_open hh he hip hport hdp)).trans (if_pos (.inl hl))

variable {n q : Nat} (hn : n = fld (leNat (b.take 16)) 64 16) (hq : q = fld (leNat (b.take 16)) 32 32)
  (hm : fld (leNat (b.take 16)) 0 16 = 0x1550) (hv : fld (leNat (b.take 16)) 16 8 = 1) (h64 : n ≤ 64) (hl : b.length = 16 + 16 * n)
include hn hm hv h64 hl

omit hh he hip hport hdp in
theorem issio_wellFormed : ¬ (b.length < 16 ∨ fld (leNat (b.take 16)) 0 16 ≠ 0x1550 ∨ fld (leNat (b.take 16)) 16 8 ≠ 1 ∨
    64 < fld (leNat (b.take 16)) 64 16 ∨ b.length ≠ 16 + 16 * fld (leNat (b.take 16)) 64 16) := by
  rw [← hn, hm, hv]
  omega

theorem issioDatagram_outside (h1 : s.sw.rd L.lexIssioSecure = 1) (hs : s.sec.inSession sid = false) :
    exec (.issioDatagram ip p dp sid b) s = (s.lexCount (.issio ip p) 6).finish :=
  (if_neg (issio_open hh he hip hport hdp)).trans ((if_neg (issio_wellFormed hn hm hv h64 hl)).trans (if_pos ⟨h1, by simp [hs]⟩))

variable (h1 : s.sw.rd L.lexIssioSecure ≠ 1)
include hq h1

theorem issioDatagram_again {c : Bytes} (hc : s.sw.issioCached ip.toNat p.toNat q = some c) :
    exec (.issioDatagram ip p dp sid b) s =
      (s.updSw (fun w => (w.send (.udp ip.toNat p.toNat c)).issioKeep ip.toNat p.toNat [])).finish := by
  subst hq
  refine (if_neg (issio_open hh he hip hport hdp)).trans ((if_neg (issio_wellFormed hn hm hv h64 hl)).trans
    ((if_neg fun h => h1 h.1).trans ?_))
  simp only [hc]

theorem issioDatagram_served (hc : s.sw.issioCached ip.toNat p.toNat q = none) (ho : s.sw.lexs.order = []) {recs : Bytes} {t : State}
    (hr : s.issioRecs (.issio ip p) sid (b.drop 16) n = .ok (recs, t)) :
    exec (.issioDatagram ip p dp sid b) s = (t.updSw (fun w => w.issioReply ip p q n recs)).finish := by
  subst hq hn
  refine (if_neg (issio_open hh he hip hport hdp)).trans ((if_neg (issio_wellFormed rfl hm hv h64 hl)).trans
    ((if_neg fun h => h1 h.1).trans ?_))
  simp only [hc, lexFull_alone ho h64, Bool.false_eq_true, if_false, hr]
  rfl

end

/-! ### I3C (R620, R621) -/

section
variable {s : State} (hh : s.sw.held = false)
include hh

theorem i3cOn_of_held : s.sw.i3cOn = true := by simp [Sw.i3cOn, hh]

theorem i3c_open (ha : s.sw.i3c.addr.isSome = true) : ¬ ((!s.sw.i3cOn) = true ∨ s.sw.i3c.addr.isNone = true) := by
  simp [i3cOn_of_held hh, Option.ne_none_iff_isSome, ha]

theorem i3cPrivateWrite_joins (ha : s.sw.i3c.addr.isSome = true) {b : Bytes} (hb : b.length = 16) (hf : s.sw.lexFull 1 = false) :
    exec (.i3cPrivateWrite b) s = ((s.updI3c (fun x => { x with req := x.req ++ [b], resp := none, over_ := false })).updSw
      (fun w => w.lexJoin .i3c)).finish :=
  (if_neg (i3c_open hh ha)).trans ((if_neg (not_not_intro hb)).trans (if_neg (by simp [hf])))

theorem i3cPrivateWrite_full (ha : s.sw.i3c.addr.isSome = true) {b : Bytes} (hb : b.length = 16) (hf : s.sw.lexFull 1 = true) :
    exec (.i3cPrivateWrite b) s = ((s.lexCount .i3c 7).updI3c (fun x => { x with
      resp := some (recAns b 7 (s.writtenBytes (recJob .i3c none b))), over_ := true })).finish :=
  (if_neg (i3c_open hh ha)).trans ((if_neg (not_not_intro hb)).trans (if_pos hf))

theorem i3cPrivateRead_answers (ha : s.sw.i3c.addr.isSome = true) {b : Bytes} (hb : s.sw.i3c.resp = some b) :
    Does .i3cPrivateRead s { s.sw with tx := .i3c b :: s.sw.tx } := by
  have he : exec .i3cPrivateRead s =
      if (!s.sw.i3cOn) = true ∨ s.sw.i3c.addr.isNone = true then .next s else s.ends (s.sw.send (.i3c b)) := by
    change execI3cPrivateRead s = _
    rw [execI3cPrivateRead, hb]
  exact he.trans (if_neg (i3c_open hh ha))

/-- A GET command is answered at the dynamic address. -/
theorem i3cGet_answers (ha : s.sw.i3c.addr.isSome = true) (b : Bytes) :
    s.i3cGet b = .next { s with sw := ({ s.sw with tx := .i3c b :: s.sw.tx } : Sw).settle } :=
  if_neg (i3c_open hh ha)

end

section
variable {s : State} (hh : s.sw.held = false) (hu : s.unasked = true)
include hh hu

/-- A request that finds the queue full is counted, and answered Busy (R621). -/
theorem i3cPrivateWrite_counts (ha : s.sw.i3c.addr.isSome = true) {b : Bytes} (hb : b.length = 16) (hf : s.sw.lexFull 1 = true) :
    ∃ w, Does (.i3cPrivateWrite b) s w ∧ w.rd (L.lexBusy.at 2) = (s.sw.rd (L.lexBusy.at 2) + 1) % 256 ^ (L.lexBusy.at 2).width ∧
      w.i3c.resp = some (recAns b 7 (s.writtenBytes (recJob .i3c none b))) ∧ w.lexs = s.sw.lexs := by
  have he := i3cPrivateWrite_full hh ha hb hf
  generalize s.writtenBytes (recJob .i3c none b) = bytes at he ⊢
  exact ⟨_, does_of_finish he hu rfl, Sw.rd_wr_self .., rfl, rfl⟩

/-- A target without a dynamic address takes one. -/
theorem entdaa_takes (ha : s.sw.i3c.addr = none) (a : BitVec 7) : Does (.entdaa a) s { s.sw with
    tx := .i3c i3cId :: s.sw.tx, i3c := { s.sw.i3c with addr := some a.toNat } } :=
  does_of_finish (if_neg (by simp [i3cOn_of_held hh, ha])) hu rfl

theorem setdasa_takes (ha : s.sw.i3c.addr = none) (sa a : BitVec 7) (h0 : s.sw.rd L.lexI3cSa ≠ 0) (h : sa.toNat = s.sw.rd L.lexI3cSa) :
    Does (.setdasa sa a) s { s.sw with i3c := { s.sw.i3c with addr := some a.toNat } } :=
  does_of_finish (if_neg (by simp [i3cOn_of_held hh, ha, h0, h])) hu rfl

end

/-- An address is the part's where it is the one in force. -/
theorem myIp_of_rd {s : Sw} {a : BitVec 32} (hh : s.held = false) (h : s.rd L.lexEthIp4Now = a.toNat) (ha : a ≠ 0) : s.myIp a = true := by
  have h0 : a.toNat ≠ 0 := fun h => ha (BitVec.eq_of_toNat_eq h)
  simp [Sw.myIp, hh, h, h0]

theorem not_myIp_of_rd {s : Sw} {a : BitVec 32} (h : s.rd L.lexEthIp4Now ≠ a.toNat) : ¬ s.myIp a = true := by
  simp [Sw.myIp, h]

end Sys2Proof.Machine

open Sys2Proof Sys2Proof.Machine

/-- Settles O55, transport by transport: a request that nothing refuses is served and answered by the transport it came by. -/
theorem lexiconTransports : Obligations.LexiconTransports := by
  unfold Obligations.LexiconTransports
  intro s hh hu
  have hon := i3cOn_of_held hh
  refine ⟨?_, ?_, ?_, ?_, ?_, ?_, ?_, ?_, ?_, ?_, ?_, ?_⟩
  · rintro j n rfl
    exact ⟨lexServe_refused rfl, writtenBytes_read, lexServe_read_bad⟩
  · intro r ho h3 h4
    refine ⟨?_, ?_, ?_⟩
    · have hop : (jobOf r 0).op ≠ 1 := by
        change (if r.op.toNat = 0 then 0 else 2) ≠ 1
        split <;> decide
      obtain ⟨st, bytes, t, h, hb⟩ := lexServe_read s hop
      exact ⟨st, bytes, t, h, doesAll_of_finish (lexDo_arrives hh ho h3 h4 h) (unasked_of_boot ((lexAnswer_boot ..).trans hb) hu)⟩
    · exact lexWrite_stall hh hu ho h3 h4
    · intro st bytes t ht h
      exact doesAll_of_finish (lexDo_arrives hh ho h3 h4 h) (unasked_of_boot (lexAnswer_boot ..) ht)
  · rintro q rest j u ho hw rfl
    refine ⟨fun r hq => ⟨lexRead_front hh hu ho hw hq, fun st bytes t hj ht h => ?_⟩,
      fun r hq h34 => ⟨lexDo_waits hh ho hq h34, lexDo_waits hh ho hq h34⟩⟩
    exact doesAll_of_finish (lexDo_front hh ho hw hq hj h) (unasked_of_boot (lexReply_boot ..) ht)
  · rintro i w u rfl hk
    refine ⟨?_, ?_⟩
    · rintro j hb rfl
      exact lexReqReceive_counts hk hh hu hb
    · rintro j ho hx ha rfl
      exact lexReqReceive_reads hk hh hu ho hx ha
  · intro i h pay u hu hk ho
    exact ⟨mailboxWrite_denied hu hk ho hh, mailboxWrite_joins hu hk ho hh⟩
  · intro ip p dp sid b n q he hip hport hdp hn hq
    refine ⟨fun hl => does_of_finish (issioDatagram_short hh he hip hport hdp hl) (unasked_of_boot (lexCount_boot ..) hu) rfl, ?_⟩
    intro hm hv h64 hl
    refine ⟨fun h1 hs => does_of_finish (issioDatagram_outside hh he hip hport hdp hn hm hv h64 hl h1 hs)
      (unasked_of_boot (lexCount_boot ..) hu) rfl, fun h1 => ⟨fun c hc => ?_, fun hc ho hr => ?_⟩⟩
    · exact ⟨_, does_of_finish (issioDatagram_again hh he hip hport hdp hn hq hm hv h64 hl h1 hc) hu rfl, rfl, rfl⟩
    · obtain ⟨recs, t, h, hb⟩ := issioRecs_reads (.issio ip p) sid (b.drop 16) (List.range n) [] s fun i hi => hr i (List.mem_range.mp hi)
      have h' := (issioRecs_alone (.issio ip p) sid (b.drop 16) n ho).trans h
      exact ⟨recs, t, h', doesAll_of_finish (issioDatagram_served hh he hip hport hdp hn hq hm hv h64 hl h1 hc ho h') (unasked_of_boot hb hu)⟩
  · intro ha
    refine ⟨fun b hb hf => does_of_finish (i3cPrivateWrite_joins hh ha hb hf) hu rfl, fun b hb hf => i3cPrivateWrite_counts hh hu ha hb hf,
      fun b hb => i3cPrivateRead_answers hh ha hb, i3cGet_answers hh ha _, i3cGet_answers hh ha _, i3cGet_answers hh ha _⟩
  · intro ha
    exact ⟨entdaa_takes hh hu ha, setdasa_takes hh hu ha, fun b => if_pos (by simp [ha])⟩
  · exact does_of_finish (if_neg (by simp [hon])) hu rfl
  · exact does_of_finish (if_neg (by simp [hon])) hu rfl
  · exact does_of_finish (if_neg (by simp [hon])) hu rfl
  · intro a b
    exact ⟨fun h ha => ⟨if_pos (myIp_of_rd hh h ha), if_pos (myIp_of_rd hh h ha)⟩,
      fun h => ⟨if_neg (not_myIp_of_rd h), if_neg (not_myIp_of_rd h)⟩⟩

end

section
/-! SUPPORT. The records of jobs and operations that end (08 R331, 09 R384), the recorder and the events of the cores leave alone what
returning billets do: time among it. -/

namespace Sys2Proof.Machine

theorem now_of_still {s t : Sw} (h : t.still = s.still) : t.now = s.now := by
  change t.still.now = s.still.now
  rw [h]

theorem still_wr (s : Sw) (r : Reg) (el v : Nat) : (s.wr r el v).still = s.still := rfl

theorem still_updRec (s : Sw) (f : Recd → Recd) : (s.updRec f).still = s.still := rfl

/-! ### Memory lines -/

theorem still_touchHbm (s : Sw) (off : Nat) : (s.touchHbm off).still = s.still := by
  rw [touchHbm_frame]
  rfl

theorem still_writeLine (s : Sw) (off : Nat) (bs : Bytes) (reader : Nat) : (s.writeLine off bs reader).2.still = s.still := by
  unfold Sw.writeLine
  split
  · rfl
  · rw [← still_touchHbm s off]
    generalize s.touchHbm off = t
    dsimp only
    split
    · rfl
    · split <;> rfl

theorem still_writeLinesN (n : Nat) (s : Sw) (off : Nat) (bs : Bytes) (reader : Nat) :
    (Sw.writeLinesN n s off bs reader).2.still = s.still := by
  induction n generalizing s off bs with
  | zero => rfl
  | succ n ih =>
    unfold Sw.writeLinesN
    split
    · rfl
    · exact (ih ..).trans (still_writeLine ..)

/-! ### The recorder (18 R697 to R703) -/

theorem still_ringMeets (s : Sw) (d a b : Nat) : (s.ringMeets d a b).still = s.still :=
  foldl_keeps Sw.still _ _ _ fun _ _ => rfl

theorem still_ringFree (s : Sw) (d n : Nat) : (s.ringFree d n).still = s.still := by
  unfold Sw.ringFree
  dsimp only
  split <;> rfl

theorem still_ringPut (s : Sw) (d : Nat) (first : Bytes) (m : RecMeta) (payload : List Bytes) :
    (s.ringPut d first m payload).2.still = s.still := by
  unfold Sw.ringPut
  extract_lets wp k n wraps old i a behind next rno line w v
  split
  · rfl
  · have hw : w.still = s.still := (foldl_keeps Sw.still _ _ _ fun _ _ => still_writeLine ..).trans (still_ringFree ..)
    have hv : v.still = w.still := rfl
    dsimp only
    split <;> exact hv.trans hw

theorem still_record (s : Sw) (d : Nat) (first : Bytes) (m : RecMeta) (payload : List Bytes) :
    (s.record d first m payload).still = s.still := by
  unfold Sw.record Sw.recordAt
  dsimp only
  split
  · rfl
  · split
    · rfl
    · have h : ∀ t : Sw, t.still = s.still → (if t.recd.st ≠ 1 then (none, t) else t.ringPut d first m payload).2.still = s.still := by
        intro t ht
        split
        · exact ht
        · exact (still_ringPut ..).trans ht
      refine h _ ?_
      split
      · rfl
      · exact (still_updRec ..).trans (still_ringPut ..)

theorem still_diverge (s : Sw) (rno port die kind cause : Nat) : (s.diverge rno port die kind cause).still = s.still := by
  unfold Sw.diverge
  split
  · exact still_wr ..
  · exact (still_updRec ..).trans (still_wr ..)

theorem still_consumed (s : Sw) : s.consumed.still = s.still := by
  unfold Sw.consumed Sw.recLast
  split <;> rfl

theorem still_recDigest (s : Sw) (d kind tag : Nat) (out : Bytes) : (s.recDigest d kind tag out).still = s.still := by
  unfold Sw.recDigest
  split
  · rfl
  dsimp only
  split
  · exact still_record ..
  split
  · generalize List.findSome? _ _ = hit
    have hm : ((List.range 4).foldl (fun s k =>
        match hit with
        | none => s.ringMeets k (s.ringStart k) (s.rd (L.recWp.at k) - 1)
        | some (h, n, _) => if k < h then s.ringMeets k (s.ringStart k) (s.rd (L.recWp.at k) - 1)
          else if k = h then s.ringMeets k (s.ringStart k) n else s) s).still = s.still := by
      refine foldl_keeps Sw.still _ _ _ fun w k => ?_
      cases hit with
      | none => exact still_ringMeets ..
      | some x =>
        dsimp only
        split
        · exact still_ringMeets ..
        · split
          · exact still_ringMeets ..
          · rfl
    cases hit with
    | none => exact (still_diverge ..).trans hm
    | some x =>
      refine (still_consumed _).trans (Eq.trans ?_ hm)
      split
      · rfl
      · exact still_diverge ..
  · rfl

/-! ### Events of the cores (10 R444) -/

theorem still_evFlush (s : Sw) : s.evFlush.still = s.still := by
  refine foldl_keeps Sw.still _ _ _ fun w x => ?_
  split
  · rfl
  · split <;> rfl

theorem still_postJobDone (s : Sw) (core status index : Nat) : (s.postJobDone core status index).still = s.still := still_evFlush _

/-! ### Ends of jobs and operations -/

theorem still_jobDone (s : Sw) (j : Job) (status : Nat) (ck : Checks) (inc : Nat) :
    (s.jobDone j status ck inc).still = ({ s with jobs := s.jobs.filter (fun x => x.no != j.no) } : Sw).still := by
  unfold Sw.jobDone
  extract_lets d k t u r v
  have hu : u.still = t.still := still_recDigest ..
  have hv : v.still = t.still := by
    refine Eq.trans ?_ hu
    change (if _ then _ else _ : Sw).still = _
    split
    · exact sendBlind_still.sendData ..
    · rfl
  split
  · exact hv
  · exact (still_postJobDone ..).trans hv

theorem still_streamOrphan (s : Sw) (a : Nat) (ck : Checks) (p : Stored) : (s.streamOrphan a ck p).still = s.still :=
  (sendBlind_still.answer ..).trans (still_freeBil ..)

theorem still_sendC (s : Sw) (x : SwOp) (bs : List Host.Cell) (ck : Checks) : (s.sendC x bs ck).still = s.still := by
  unfold Sw.sendC
  dsimp only
  refine foldl_keeps Sw.still _ _ _ fun w r => (foldl_keeps Sw.still _ _ _ fun _ _ => sendBlind_still.sendData ..).trans ?_
  generalize (if r.1 % 64 = 0 ∨ fld (wOgfa x.desc) 40 16 ≠ w.selfEp + 1 then 0 else _) = head
  split
  · exact still_writeLinesN ..
  · rfl

theorem still_opDone (s : Sw) (x : SwOp) (status : Nat) (ck : Checks) (inc : Nat) :
    (s.opDone x status ck inc).still = ({ s with ops := s.ops.filter (fun y => y.no != x.no) } : Sw).still := by
  unfold Sw.opDone
  extract_lets d k t u v w total nfail ffail r y z
  have hw : w.still = t.still :=
    (still_recDigest ..).trans ((still_sendC ..).trans (foldl_keeps Sw.still _ _ _ fun _ _ => still_streamOrphan ..))
  have hz : z.still = t.still := by
    refine Eq.trans ?_ hw
    change (if _ then _ else _ : Sw).still = _
    split
    · exact sendBlind_still.sendData ..
    · rfl
  split
  · exact hz
  · exact (still_postJobDone ..).trans hz

theorem still_opEnd (s : Sw) (x : SwOp) (k : Nat) (ck : Checks) (inc : Nat) :
    (s.opEnd x k ck inc).still = ({ s with ops := s.ops.filter (fun y => y.no != x.no) } : Sw).still := still_opDone ..

/-- What the records of jobs and operations that a warm reset ended leave alone. -/
def Sw.stiller (s : Sw) : Sw := { s.still with jobs := [], ops := [], lostJobs := [], lostOps := [] }

theorem stiller_lostRecords (s : Sw) : s.lostRecords.stiller = s.stiller := by
  have hj : ∀ (w : Sw) (j : Job) (n k : Nat) (c : Checks), (w.jobDone j n c k).stiller = w.stiller := fun w j n k c =>
    congrArg (fun t : Sw => { t with jobs := [], ops := [], lostJobs := [], lostOps := [] }) (still_jobDone w j n c k)
  have ho : ∀ (w : Sw) (x : SwOp) (n k : Nat) (c : Checks), (w.opEnd x n c k).stiller = w.stiller := fun w x n k c =>
    congrArg (fun t : Sw => { t with jobs := [], ops := [], lostJobs := [], lostOps := [] }) (still_opEnd w x n c k)
  exact (foldl_keeps Sw.stiller _ _ _ fun _ _ => ho ..).trans (foldl_keeps Sw.stiller _ _ _ fun _ _ => hj ..)

theorem now_of_stiller {s t : Sw} (h : t.stiller = s.stiller) : t.now = s.now := by
  change t.stiller.now = s.stiller.now
  rw [h]

theorem pwr_of_stiller {s t : Sw} (h : t.stiller = s.stiller) : t.pwr = s.pwr := by
  change t.stiller.pwr = s.stiller.pwr
  rw [h]

end Sys2Proof.Machine
end

section
/-! SUPPORT. Bring-up and resets (16 R631 to R641), with the theorem that settles O60. -/

namespace Sys2Proof.Machine

/-! ### Cold reset (R631 to R637) -/

/-- An image command under way is cut at slot `k`: whether the image there is lost is a free value. -/
def State.cutAt (s : State) (k : Nat) : State :=
  { s with sw := s.sw.draw.2, sec := if s.sw.draw.1 % 2 = 1 then { s.sec with nor := norErase s.sec.nor k } else s.sec }

theorem cutAt_spec (s : State) (k : Nat) : ∃ n m, s.cutAt k = { s with sec := { s.sec with nor := m }, sw := { s.sw with free := n } } := by
  unfold State.cutAt
  split
  · exact ⟨_, _, rfl⟩
  · exact ⟨_, _, rfl⟩

/-- An image command that is cut takes away an image of the NOR at most. -/
theorem cutImage_spec (s : State) : ∃ n m, s.cutImage = { s with sec := { s.sec with nor := m }, sw := { s.sw with free := n } } ∧
    (s.sec.busy = none → m = s.sec.nor) := by
  have he : s.cutImage = match s.sec.busy with
    | some 1 => s.cutAt 1
    | some 3 => if s.sec.valid 1 then s.cutAt 0 else s
    | _ => s := rfl
  cases hb : s.sec.busy with
  | none => exact ⟨_, _, by rw [he, hb], fun _ => rfl⟩
  | some c =>
    have hc : s.cutImage = s ∨ ∃ k, s.cutImage = s.cutAt k := by
      rw [he, hb]
      split
      · exact .inr ⟨_, rfl⟩
      · split
        · exact .inr ⟨_, rfl⟩
        · exact .inl rfl
      · exact .inl rfl
    obtain hs | ⟨k, hk⟩ := hc
    · exact ⟨_, _, hs, nofun⟩
    · obtain ⟨n, m, h⟩ := cutAt_spec s k
      exact ⟨n, m, hk.trans h, nofun⟩

theorem coldBase_ident (s : State) (f : BootFacts) : (s.coldBase f).sw.ident = s.sw.ident := by
  obtain ⟨n, m, h, -⟩ := cutImage_spec s
  rw [State.coldBase, h]

theorem coldBase_fuses (s : State) (f : BootFacts) : (s.coldBase f).sec.fuses = s.sec.fuses := by
  obtain ⟨n, m, h, -⟩ := cutImage_spec s
  rw [State.coldBase, h]

theorem coldBase_nor (s : State) (f : BootFacts) (hb : s.sec.busy = none) : (s.coldBase f).sec.nor = s.sec.nor := by
  obtain ⟨n, m, h, hm⟩ := cutImage_spec s
  rw [State.coldBase, h, ← hm hb]

/-- The switch without the Lexicon's store. -/
def Sw.storeless (s : Sw) : Sw := { s with lex := [] }

theorem eq_of_storeless {s t : Sw} (h : t.storeless = s.storeless) : ∃ x, t = { s with lex := x } :=
  ⟨t.lex, congrArg (fun w : Sw => { w with lex := t.lex }) h⟩

theorem showAlign_eq (s : Sw) (which : Nat → Bool) (l : List Nat) : ∃ x, s.showAlign which l = { s with lex := x } :=
  eq_of_storeless (foldl_keeps Sw.storeless _ _ _ fun _ _ => rfl)

theorem showAlign_keeps (s : Sw) (which : Nat → Bool) (l : List Nat) : (s.showAlign which l).ident = s.ident ∧
    (s.showAlign which l).boot = s.boot ∧ (s.showAlign which l).now = s.now ∧ (s.showAlign which l).ten = s.ten ∧
    (s.showAlign which l).jobs = s.jobs ∧ (s.showAlign which l).ops = s.ops := by
  obtain ⟨x, h⟩ := showAlign_eq s which l
  rw [h]
  exact ⟨rfl, rfl, rfl, rfl, rfl, rfl⟩

/-- Which image is picked: only what M has verified last, and a fault due, are new. -/
theorem pickImage_eq (s : State) : ∃ n m x, s.pickImage.2 = { s with
    sec := { s.sec with imgSlot := n, imgFail := m }, sw := { s.sw with flt := x } } ∧ ∀ k, s.pickImage.1 = some k → k < 2 := by
  unfold State.pickImage
  extract_lets a b
  split
  · exact ⟨_, _, _, rfl, fun k h => by cases h; decide⟩
  · split
    · exact ⟨_, _, _, rfl, fun k h => by cases h; decide⟩
    · exact ⟨_, _, _, rfl, fun k h => by cases h⟩

/-- A section is looked up in the NOR. -/
theorem secOf_of_nor {x y : Sec} (h : x.nor = y.nor) (k t : Nat) : x.secOf k t = y.secOf k t := by
  simp only [Sec.secOf, Sec.imgSecs, Sec.imgHeader, Sec.norRd, h]

/-- A measurement is extended where there is a digest. -/
theorem extend_nor (x : Sec) (i : Nat) (d : Option Bytes) : (match d with | some d => x.extend i d | none => x).nor = x.nor := by
  cases d <;> rfl

theorem retain_empty (s : State) (k : Nat) (h : s.sec.secOf k 2 = none) :
    ∃ l, s.retain k = { s with sw := { s.sw with boot := { s.sw.boot with image := [] }, libImage := l } } := by
  unfold State.retain
  simp only [h]
  exact ⟨_, rfl⟩

/-- An image without lexicon values that is put to use leaves none retained. -/
theorem useImage_boot (s : State) (k : Nat) (h : s.sec.secOf k 2 = none) : ∃ x l, s.useImage k = { s with
    sec := x, sw := { s.sw with boot := { s.sw.boot with image := [], slot := k }, lib := l, libImage := l } } := by
  unfold State.useImage
  extract_lets hd dig ext u v w
  have hext : ∀ (i : Nat) (d : Option Bytes) (x : Sec), (ext i d x).nor = x.nor := fun i d x => extend_nor x i d
  have hnor : u.sec.nor = s.sec.nor := (hext ..).trans ((hext ..).trans (hext ..))
  obtain ⟨l, hl⟩ := retain_empty ({ u with sec := { u.sec with runSvn := iSvn hd, runKey := iKey hd, sess := [], derived := _ } } : State) k
    ((secOf_of_nor (y := s.sec) hnor k 2).trans h)
  exact ⟨_, _, congrArg (fun t : State => t.updSw (fun w => { w with lib := w.libImage, boot := { w.boot with slot := k } })) hl⟩

/-! ### Step 8 -/

theorem applyImage_empty (s : State) (p : LexJob → Bool) (h : s.sw.boot.image = []) : s.applyImage p = .ok s := by
  rw [State.applyImage, h]
  rfl

/-- Step 8 begins where the image holds no lexicon values. -/
theorem linkStep_empty (s : State) (h : s.sw.boot.image = []) : ∃ n l, s.linkStep = .ok (s.updSw (fun w => { w with boot := { w.boot with
    stage := 7, ready := false, linkAt := some w.now, linkNs := n, enable := l } })) := by
  rw [State.linkStep, applyImage_empty s _ h]
  exact ⟨_, _, rfl⟩

/-- Training of the stacks: those that fail are noted, and raise their faults. -/
theorem trainHbm_eq (s : Sw) (fail : BitVec 6) : ∃ b c x, s.trainHbm fail = { s with boot := { s.boot with hbmBad := b, cause := c }, flt := x } := by
  unfold Sw.trainHbm
  extract_lets bad boot t
  have h : ∀ (l : List Nat) (w : Sw), ∃ x, l.foldl (fun s n => s.fault 0x42 (40 + n) none (detL 3 n 0 0 0) 0) w = { w with flt := x } := by
    intro l
    induction l with
    | nil => exact fun w => ⟨_, rfl⟩
    | cons n l ih => exact fun w => ih _
  obtain ⟨x, hx⟩ := h bad t
  exact ⟨_, _, x, hx⟩

theorem clearAll_trainHbm (w : Sw) (fail : BitVec 6) : ∃ b c, (w.trainHbm fail).clearAll.boot = { w.boot with hbmBad := b, cause := c } ∧
    (w.trainHbm fail).clearAll.now = w.now := by
  obtain ⟨b, c, x, h⟩ := trainHbm_eq w fail
  rw [h]
  exact ⟨b, c, rfl, rfl⟩

/-! ### The whole of a cold reset -/

section
variable (s : State) {f : BootFacts}

theorem coldStart_noFuses (h : f.fuseOk = false) : s.coldStart f = .ok ((s.coldBase f).bootStop 0 2) := by
  rw [State.coldStart]
  exact if_pos (by simp [h])

variable (f) in
/-- The state as the crossings show their offsets. -/
def State.coldShown : State :=
  ((s.coldBase f).updSec (fun x => x.extend 1 (leBytes 32 Config.romDigest))).updSw (fun w => w.showAlign (fun _ => true) f.align)

theorem coldShown_spec : (s.coldShown f).sw.ident = s.sw.ident ∧ (s.coldShown f).sw.boot = (s.coldBase f).sw.boot ∧
    (s.coldShown f).sw.now = (s.coldBase f).sw.now ∧ (s.coldShown f).sec.nor = (s.coldBase f).sec.nor := by
  obtain ⟨hi, hb, hn, -⟩ := showAlign_keeps (s.coldBase f).sw (fun _ => true) f.align
  exact ⟨hi.trans (coldBase_ident s f), hb, hn, rfl⟩

theorem coldStart_crossing (h : f.fuseOk = true) (ha : alignOk s.sw.ident.grade f.align = false) :
    s.coldStart f = .ok ((s.coldShown f).bootStop 1 4) := by
  have hs : alignOk (s.coldShown f).sw.ident.grade f.align = false := by rw [(coldShown_spec s).1, ha]
  rw [State.coldStart]
  exact (if_neg (by simp [h])).trans (if_pos (by rw [Bool.not_eq_true']; exact hs))

variable (f) in
/-- The state as an image is to be picked. -/
def State.coldLinked : State := (s.coldShown f).updSw Sw.linksAligned

/-- Steps 5 to 8 of a cold reset. -/
def State.coldRest (u : State) (f : BootFacts) : State := u.updSw (fun w =>
  ({ w with ten := [], rebind := none, bel := {}, brg := { w.brg with winLog := w.rd L.brgWinLog2 } }.trainHbm f.hbmFail).clearAll)

theorem coldStart_picks (h : f.fuseOk = true) (ha : alignOk s.sw.ident.grade f.align = true) (hk : f.katOk = true) :
    s.coldStart f = match (s.coldLinked f).pickImage with
      | (none, t) => .ok ((t.updSec (fun x => x.rederive)).bootStop 4 1)
      | (some k, t) =>
        match (t.useImage k).applyImage (fun j => !portCmdJob j) with
        | .error n => .error n
        | .ok u => (u.coldRest f).linkStep := by
  have hs : alignOk (s.coldShown f).sw.ident.grade f.align = true := by rw [(coldShown_spec s).1, ha]
  rw [State.coldStart]
  refine (if_neg (by simp [h])).trans ((if_neg (by rw [Bool.not_eq_true', Bool.not_eq_false]; exact hs)).trans
    ((if_neg (by simp [hk])).trans ?_))
  unfold State.coldLinked State.coldShown
  generalize State.pickImage _ = r
  obtain ⟨k, t⟩ := r
  cases k <;> rfl

theorem coldRest_boot (u : State) : ∃ b c, (u.coldRest f).sw.boot = { u.sw.boot with hbmBad := b, cause := c } ∧
    (u.coldRest f).sw.now = u.sw.now := by
  exact clearAll_trainHbm { u.sw with
    ten := [], rebind := none, bel := {}, brg := { u.sw.brg with winLog := u.sw.rd L.brgWinLog2 } } f.hbmFail

/-- With images that hold no lexicon values a cold reset stops where none is picked, or comes to step 8. -/
theorem coldStart_ends (h : f.fuseOk = true) (ha : alignOk s.sw.ident.grade f.align = true) (hk : f.katOk = true)
    (hlex : ∀ k, k < 2 → (s.coldBase f).sec.secOf k 2 = none) :
    ∃ t, s.coldStart f = .ok t ∧ t.sw.boot.ready = false ∧
      ((s.coldLinked f).pickImage.1 = none → t.sw.boot.error = true ∧ t.sw.boot.stage = 4 ∧ t.sw.boot.cause = 1) ∧
      (∀ k, (s.coldLinked f).pickImage.1 = some k → t.sw.boot.error = false ∧ t.sw.boot.stage = 7 ∧ t.sw.boot.slot = k ∧
        t.sw.boot.linkAt = some t.sw.now ∧ t.sw.now = f.ms.toNat * 1000000) := by
  have hstart := coldStart_picks s h ha hk
  obtain ⟨-, hboot, hnow, hnor⟩ := coldShown_spec s (f := f)
  obtain ⟨n, m, x, hp, hlt⟩ := pickImage_eq (s.coldLinked f)
  generalize hpick : (s.coldLinked f).pickImage = r at hstart hp hlt ⊢
  obtain ⟨k, t⟩ := r
  cases k with
  | none => exact ⟨_, hstart, rfl, fun _ => ⟨rfl, rfl, rfl⟩, fun k hk => absurd hk.symm (Option.some_ne_none k)⟩
  | some k =>
    dsimp only at hp
    have hsec : t.sec.secOf k 2 = none := by
      rw [← hlex k (hlt k rfl)]
      refine secOf_of_nor (Eq.trans ?_ hnor) k 2
      rw [hp]
      rfl
    obtain ⟨y, l, hu⟩ := useImage_boot t k hsec
    have himg : (t.useImage k).sw.boot.image = [] := by rw [hu]
    obtain ⟨b, c, hrb, hrn⟩ := coldRest_boot (f := f) (t.useImage k)
    obtain ⟨ln, en, hl⟩ := linkStep_empty ((t.useImage k).coldRest f) (by rw [hrb]; exact himg)
    simp only [applyImage_empty _ _ himg, hl] at hstart
    have ht : t.sw.boot = (s.coldBase f).sw.boot ∧ t.sw.now = (s.coldBase f).sw.now := by
      rw [hp]
      exact ⟨hboot, hnow⟩
    have hub : (t.useImage k).sw.boot = { (s.coldBase f).sw.boot with image := [], slot := k } ∧
        (t.useImage k).sw.now = (s.coldBase f).sw.now := by
      rw [hu, ← ht.1, ← ht.2]
      exact ⟨rfl, rfl⟩
    refine ⟨_, hstart, rfl, fun hn => absurd hn (Option.some_ne_none k), fun k' hk' => ?_⟩
    obtain rfl : k = k' := Option.some.inj hk'
    dsimp only [State.updSw]
    rw [hrb, hrn, hub.1, hub.2]
    exact ⟨rfl, rfl, rfl, rfl, rfl⟩

end

/-! ### Warm reset (R639 to R641) -/

/-- What the end of a warm reset does not look at: all but memory, its clearing, and what the ports know. -/
def Sw.memless (s : Sw) : Sw := { s with hbm := [], cxl := [], hbmBad := [], cxlBad := [], clr := [], brg := {}, lex := [], recd := {}, tx := [] }

theorem memless_clearUnbound (s old : Sw) : (s.clearUnbound old).memless = s.memless := by
  unfold Sw.clearUnbound
  refine (foldl_keeps Sw.memless _ _ _ fun w e => ?_).trans (foldl_keeps Sw.memless _ _ _ fun w e => ?_)
  · split <;> rfl
  · split <;> rfl

theorem eq_of_memless {s t : Sw} (h : t.memless = s.memless) : t.boot = s.boot ∧ t.ident = s.ident ∧ t.ten = s.ten ∧
    t.jobs = s.jobs ∧ t.ops = s.ops := by
  change t.memless.boot = s.memless.boot ∧ t.memless.ident = s.memless.ident ∧ t.memless.ten = s.memless.ten ∧
    t.memless.jobs = s.memless.jobs ∧ t.memless.ops = s.memless.ops
  rw [h]
  exact ⟨rfl, rfl, rfl, rfl, rfl⟩

theorem warmBase_keeps (s : Sw) (ms : Nat) : (s.warmBase ms).ident = s.ident ∧ (s.warmBase ms).boot.image = s.boot.image := by
  unfold Sw.warmBase
  extract_lets a b mem inc c now back d e g
  have ha : a.memless = s.memless := by
    change (if _ then _ else _ : Sw).memless = _
    split <;> rfl
  have hb : b.memless = a.memless := foldl_keeps Sw.memless _ _ _ fun _ _ => rfl
  have hc : c.memless = b.memless := foldl_keeps Sw.memless _ _ _ fun _ _ => rfl
  have hd : d.memless = c.memless := foldl_keeps Sw.memless _ _ _ fun _ _ => rfl
  have he : e.memless = d.memless := foldl_keeps Sw.memless _ _ _ fun w kv => by split <;> rfl
  have hg : g.memless = e.memless := foldl_keeps Sw.memless _ _ _ fun _ _ => rfl
  obtain ⟨hboot, hident, -⟩ := eq_of_memless (hg.trans (he.trans (hd.trans (hc.trans (hb.trans ha)))))
  refine ⟨hident, ?_⟩
  change g.boot.image = _
  rw [hboot]

theorem warmBase_fresh (s : Sw) (ms : Nat) : (s.warmBase ms).boot.error = false ∧ (s.warmBase ms).ten = [] ∧ (s.warmBase ms).jobs = [] ∧
    (s.warmBase ms).ops = [] := by
  unfold Sw.warmBase
  extract_lets
  exact ⟨rfl, rfl, rfl, rfl⟩

theorem linksAligned_image (t : State) : (t.updSw Sw.linksAligned).sw.boot.image = t.sw.boot.image := rfl

theorem linkedBoot (w old : Sw) (fail : BitVec 6) : ∃ v : Sw, v = ({ w.linksAligned with bel := {} }.clearUnbound old).trainHbm fail ∧
    v.boot.image = w.boot.image ∧ v.boot.error = w.boot.error ∧ v.ten = w.ten ∧ v.jobs = w.jobs ∧ v.ops = w.ops := by
  obtain ⟨b, c, x, h⟩ := trainHbm_eq (({ w.linksAligned with bel := {} } : Sw).clearUnbound old) fail
  obtain ⟨hboot, -, hten, hjobs, hops⟩ := eq_of_memless (memless_clearUnbound ({ w.linksAligned with bel := {} } : Sw) old)
  have hi := congrArg Boot.image hboot
  have he := congrArg Boot.error hboot
  exact ⟨_, h.symm, hi, he, hten, hjobs, hops⟩

section
variable (s : State) {f : BootFacts}

variable (f) in
/-- The part as the dies under reset have lost their state, and the crossings show their offsets. -/
def State.warmShown : State :=
  { s with sec := s.sec.warm, sw := (s.sw.warmBase f.ms.toNat).showAlign (fun i => decide (i < 54 ∨ 58 < i)) f.align }

theorem warmShown_spec : (s.warmShown f).sw.ident = s.sw.ident ∧ (s.warmShown f).sw.boot.image = s.sw.boot.image ∧
    (s.warmShown f).sw.boot.error = false ∧ (s.warmShown f).sw.ten = [] ∧ (s.warmShown f).sw.jobs = [] ∧ (s.warmShown f).sw.ops = [] := by
  obtain ⟨hi', hb', -, ht', hj', ho'⟩ := showAlign_keeps (s.sw.warmBase f.ms.toNat) (fun i => decide (i < 54 ∨ 58 < i)) f.align
  obtain ⟨hi, hb⟩ := warmBase_keeps s.sw f.ms.toNat
  obtain ⟨he, ht, hj, ho⟩ := warmBase_fresh s.sw f.ms.toNat
  have himg := congrArg Boot.image hb'
  have herr := congrArg Boot.error hb'
  exact ⟨hi'.trans hi, himg.trans hb, herr.trans he, ht'.trans ht, hj'.trans hj, ho'.trans ho⟩

/-- A bring-up is marked as that of a warm reset. -/
def State.markWarm (t : State) : State := t.updSw (fun w => { w with boot := { w.boot with warm := true } })

theorem warmStart_crossing (ha : alignOk s.sw.ident.grade f.align = false) :
    s.warmStart f = .ok ((s.warmShown f).markWarm.bootStop 1 4) := by
  have hs : alignOk (s.warmShown f).sw.ident.grade f.align = false := by rw [(warmShown_spec s).1, ha]
  rw [State.warmStart]
  exact if_pos (by rw [Bool.not_eq_true']; exact hs)

variable (f) in
/-- The part as step 8 of a warm reset begins. -/
def State.warmLinked : State :=
  ((s.warmShown f).updSw Sw.linksAligned).updSw (fun w => ({ w with bel := {} }.clearUnbound s.sw).trainHbm f.hbmFail)

theorem warmLinked_spec : (s.warmLinked f).sw.boot.image = s.sw.boot.image ∧ (s.warmLinked f).sw.boot.error = false ∧
    (s.warmLinked f).sw.ten = [] ∧ (s.warmLinked f).sw.jobs = [] ∧ (s.warmLinked f).sw.ops = [] := by
  obtain ⟨-, hi, he, ht, hj, ho⟩ := warmShown_spec s (f := f)
  obtain ⟨v, hv, hi', he', ht', hj', ho'⟩ := linkedBoot (s.warmShown f).sw s.sw f.hbmFail
  have hsw : (s.warmLinked f).sw = v := hv.symm
  rw [hsw]
  exact ⟨hi'.trans hi, he'.trans he, ht'.trans ht, hj'.trans hj, ho'.trans ho⟩

/-- A warm reset of a part that retains no lexicon values comes to step 8. -/
theorem warmStart_ends (ha : alignOk s.sw.ident.grade f.align = true) (himg : s.sw.boot.image = []) :
    ∃ t, s.warmStart f = .ok t ∧ t.sw.boot.ready = false ∧ t.sw.boot.error = false ∧ t.sw.boot.warm = true ∧ t.sw.boot.stage = 7 ∧
      t.sw.boot.linkAt = some t.sw.now ∧ t.sw.ten = [] ∧ t.sw.jobs = [] ∧ t.sw.ops = [] := by
  have hs : alignOk (s.warmShown f).sw.ident.grade f.align = true := by rw [(warmShown_spec s).1, ha]
  obtain ⟨-, hshow, -⟩ := warmShown_spec s (f := f)
  have hshown := (linksAligned_image (s.warmShown f)).trans (hshow.trans himg)
  obtain ⟨hi, he, ht, hj, ho⟩ := warmLinked_spec s (f := f)
  obtain ⟨n, l, hl⟩ := linkStep_empty (s.warmLinked f) (hi.trans himg)
  have hstart : s.warmStart f = match ((s.warmShown f).updSw Sw.linksAligned).applyImage (fun j => classN j) with
      | .error n => .error n
      | .ok t =>
        match (t.updSw (fun w => ({ w with bel := {} }.clearUnbound s.sw).trainHbm f.hbmFail)).linkStep with
        | .error n => .error n
        | .ok u => .ok u.markWarm := by
    rw [State.warmStart]
    refine (if_neg (by rw [Bool.not_eq_true', Bool.not_eq_false]; exact hs)).trans ?_
    unfold State.warmShown
    rfl
  rw [applyImage_empty _ _ hshown] at hstart
  unfold State.warmLinked at hl
  simp only [hl] at hstart
  unfold State.warmLinked at he ht hj ho
  generalize State.updSw _ _ = v at he ht hj ho hstart
  exact ⟨_, hstart, rfl, he, rfl, rfl, rfl, ht, hj, ho⟩

end

/-! ### READY (R631 to R633) -/

theorem rd_belMode_setMode (s : Sw) (d e v : Nat) : (s.setMode d v).rd (L.belMode.at e) = if d = e then v % 256 else s.rd (L.belMode.at e) := by
  have h : (s.setMode d v).rd (L.belMode.at e) = (s.wr (L.belMode.at d) 0 v).rd (L.belMode.at e) := by
    unfold Sw.setMode
    dsimp only
    split
    · rfl
    · split <;> rfl
  rw [h]
  split
  · next hde => rw [hde]; exact Sw.rd_wr_self ..
  · next hde => exact Sw.rd_wr_ne _ _ _ _ _ _ (by simp only [Reg.key, Reg.at, L.belMode]; omega)

theorem rd_belMode_foldl (l : List Nat) (s : Sw) (e : Nat) : (l.foldl (fun s d => s.setMode d 1) s).rd (L.belMode.at e) =
    if e ∈ l then 1 else s.rd (L.belMode.at e) := by
  induction l generalizing s with
  | nil => rfl
  | cons d l ih =>
    rw [List.foldl_cons, ih, rd_belMode_setMode]
    by_cases hl : e ∈ l
    · simp [hl]
    · by_cases hd : d = e
      · simp [hd]
      · simp [hl, hd, Ne.symm hd]

theorem setMode_now (s : Sw) (d v : Nat) : (s.setMode d v).now = s.now := by
  unfold Sw.setMode
  dsimp only
  split
  · rfl
  · split <;> rfl

theorem rd_belMode_bootTime (s : Sw) (p : Pwr → Pwr) (n : Nat) (b : Boot) (d : Die) :
    ({ (s.updPwr p).wr L.devBootTime 0 n with boot := b } : Sw).rd (L.belMode.at d) = s.rd (L.belMode.at d) := by
  have hd := d.isLt
  exact Sw.rd_wr_ne (s.updPwr p) L.devBootTime (L.belMode.at d) 0 0 _ (by
    simp only [Reg.key, Reg.at, L.belMode, L.devBootTime]
    omega)

theorem now_bootTime (s : Sw) (p : Pwr → Pwr) (n : Nat) (b : Boot) : ({ (s.updPwr p).wr L.devBootTime 0 n with boot := b } : Sw).now = s.now := rfl

theorem bootReady_spec (s : Sw) : s.bootReady.boot.ready = true ∧ s.bootReady.boot.stage = 9 ∧ s.bootReady.now = s.now ∧
    ∀ d : Die, s.bootReady.rd (L.belMode.at d) = 1 := by
  unfold Sw.bootReady
  extract_lets b u v w x
  refine ⟨rfl, rfl, ?_, fun d => ?_⟩
  · exact (now_bootTime ..).trans ((foldl_keeps Sw.now _ _ _ fun _ _ => setMode_now ..).trans (now_of_stiller (stiller_lostRecords s)))
  · exact (rd_belMode_bootTime ..).trans ((rd_belMode_foldl ..).trans (if_pos (List.mem_range.mpr d.isLt)))

end Sys2Proof.Machine
end

section
/-! SUPPORT. The pins of the part (20 R753 to R764), with the theorem that settles O60. -/

namespace Sys2Proof.Machine

/-! ### Held in reset (R753, R757, R764) -/

/-- `t` is `s` stopped as under RESET_N low. -/
structure Stopped (s t : State) : Prop where
  pending : t.pending = s.pending
  ready   : t.sw.boot.ready = false
  resetN  : t.sw.pins.resetN = s.sw.pins.resetN
  critN   : t.sw.pins.thermCritN = s.sw.pins.thermCritN
  railLow : t.sw.pins.railLow = s.sw.pins.railLow
  fuses   : t.sec.fuses = s.sec.fuses
  svnFuse : t.sec.svnFuse = s.sec.svnFuse
  nor     : s.sec.busy = none → t.sec.nor = s.sec.nor
  derived : t.sec.derived = false
  ident   : t.sw.ident = s.sw.ident
  ports   : t.sw.ports = []
  hbm     : t.sw.hbm = []
  lex     : t.sw.lex = []

theorem stopAll_stopped (s : State) : Stopped s s.stopAll := by
  obtain ⟨n, m, h, hm⟩ := cutImage_spec s
  rw [State.stopAll, h]
  exact ⟨rfl, rfl, rfl, rfl, rfl, rfl, rfl, hm, rfl, rfl, rfl, rfl, rfl⟩

theorem faultN_held {s : Sw} (h : s.held = true) : s.faultN = false := by simp [Sw.faultN, h]

/-- While the board holds the part FAULT_N is low. -/
theorem Stopped.faultN {s t : State} (h : Stopped s t) (hh : s.sw.held = true) : t.sw.faultN = false :=
  faultN_held (by rw [Sw.held, h.resetN, h.critN, h.railLow]; exact hh)

theorem critEnds_eq (s : Sw) : ∃ x, s.critEnds = { s with pins := { s.pins with thermCritN := x } } := by
  unfold Sw.critEnds
  split
  · exact ⟨_, rfl⟩
  · exact ⟨_, rfl⟩

theorem cutFuse_other {x : Sec} {now : Nat} (h : ∀ k, x.fusing ≠ some (k, now)) : x.cutFuse now = x := by
  rw [Sec.cutFuse]
  split
  · next k t hf =>
    rw [if_neg]
    rintro rfl
    exact h k hf
  · rfl

theorem cutFuse_fusing {x : Sec} {now k : Nat} (h : x.fusing = some (k, now)) :
    x.cutFuse now = { x with fuses := AMap.put x.fuses k { (x.fuse k) with good := false } {} } := by
  rw [Sec.cutFuse, h]
  exact if_pos rfl

theorem cutFuse_rest (x : Sec) (now : Nat) : ∃ l, x.cutFuse now = { x with fuses := l } := by
  unfold Sec.cutFuse
  split
  · split
    · exact ⟨_, rfl⟩
    · exact ⟨_, rfl⟩
  · exact ⟨_, rfl⟩

/-- A rail is low: the part stops, and a slot that is being fused is left spoilt. -/
theorem railLoss_stops (s : State) : ∃ t, exec .railLoss s = .next t ∧ t.sw.faultN = false ∧
    (∀ k, s.sec.fusing = some (k, s.sw.now) → t.sec.fuse k = { (s.sec.fuse k) with good := false }) ∧
    ((∀ k, s.sec.fusing ≠ some (k, s.sw.now)) → t.sec.fuses = s.sec.fuses) ∧
    ∃ u : State, Stopped u t ∧ u.pending = s.pending ∧ u.sec.svnFuse = s.sec.svnFuse ∧ u.sec.nor = s.sec.nor ∧ u.sec.busy = s.sec.busy ∧
      u.sw.ident = s.sw.ident := by
  obtain ⟨l, hl⟩ := cutFuse_rest s.sec s.sw.now
  obtain ⟨u, hu⟩ : ∃ u : State, u = (s.updSw (fun w => w.updPins (fun x => { x with railLow := true }))).updSec (fun x => x.cutFuse s.sw.now) :=
    ⟨_, rfl⟩
  have hsec : u.sec = s.sec.cutFuse s.sw.now := by rw [hu]; rfl
  have hstop := stopAll_stopped u
  refine ⟨u.stopAll, by rw [hu]; rfl, hstop.faultN (by rw [hu]; simp [State.updSw, State.updSec, Sw.updPins, Sw.held]), fun k hk => ?_,
    fun hk => ?_, u, hstop, by rw [hu]; rfl, by rw [hsec, hl], by rw [hsec, hl], by rw [hsec, hl], by rw [hu]; rfl⟩
  · rw [Sec.fuse, hstop.fuses, hsec, cutFuse_fusing hk]
    exact AMap.getD_put_self ..
  · rw [hstop.fuses, hsec, cutFuse_other hk]

theorem resetNFall_stops (s : State) : ∃ t, exec .resetNFall s = .next t ∧ t.sw.faultN = false ∧ ∃ u v : State, Stopped u v ∧
    t = { v with sw := v.sw.critEnds } ∧ u.pending = s.pending ∧ u.sec = s.sec ∧ u.sw.ident = s.sw.ident := by
  obtain ⟨u, hu⟩ : ∃ u : State, u = s.updSw (fun w => w.updPins (fun x => { x with resetN := false })) := ⟨_, rfl⟩
  have hstop := stopAll_stopped u
  have hlow : u.stopAll.sw.critEnds.pins.resetN = false := by
    obtain ⟨x, hx⟩ := critEnds_eq u.stopAll.sw
    rw [hx]
    exact hstop.resetN.trans (by rw [hu]; rfl)
  refine ⟨{ u.stopAll with sw := u.stopAll.sw.critEnds }, by rw [hu]; rfl, faultN_held ?_, u, _, hstop, rfl, by rw [hu]; rfl, by rw [hu]; rfl,
    by rw [hu]; rfl⟩
  rw [Sw.held, hlow]
  rfl

/-- A sensor at its critical threshold stops the part. -/
theorem critical_stops (s : State) : s.critical.sw.pins.thermCritN = false ∧ s.critical.sw.faultN = false ∧
    s.critical.sw.boot.ready = false := by
  have hstop := stopAll_stopped (s.updSw (fun w => w.updPins (fun x => { x with thermCritN := false })))
  exact ⟨hstop.critN, hstop.faultN (by simp [State.updSw, Sw.updPins, Sw.held]), hstop.ready⟩

/-! ### Time sources (R760) -/

theorem rd_servo_state (s : Sw) (heard : Bool) : (s.servo heard).rd L.telPtpState =
    if s.pins.ppsLock = true ∨ s.pins.ptpLock = true then 2 else if s.rd L.telPtpState = 2 then 3
      else if s.rd L.telPtpState = 0 ∧ heard = true then 1 else s.rd L.telPtpState := by
  unfold Sw.servo
  dsimp only
  split
  · exact Sw.rd_wr_self ..
  · split
    · exact Sw.rd_wr_self s L.telPtpState 0 3
    · split
      · exact Sw.rd_wr_self s L.telPtpState 0 1
      · rfl

theorem rd_servo_offset (s : Sw) (heard : Bool) : (s.servo heard).rd L.telPtpOffset = s.rd L.telPtpOffset := by
  have h : ∀ v, (s.wr L.telPtpState 0 v).rd L.telPtpOffset = s.rd L.telPtpOffset := fun v => Sw.rd_wr_ne _ _ _ _ _ _ (by decide)
  unfold Sw.servo
  dsimp only
  split
  · exact h 2
  · split
    · exact h 3
    · split
      · exact h 1
      · rfl

theorem servo_pins (s : Sw) (heard : Bool) : (s.servo heard).pins = s.pins ∧ (s.servo heard).now = s.now := by
  unfold Sw.servo
  dsimp only
  split
  · exact ⟨rfl, rfl⟩
  · split
    · exact ⟨rfl, rfl⟩
    · split <;> exact ⟨rfl, rfl⟩

/-- The servo loses its last source. -/
theorem servo_holdover {s : Sw} (h1 : s.pins.ppsLock = false) (h2 : s.pins.ptpLock = false) (h : s.rd L.telPtpState = 2) :
    s.servo false = (s.wr L.telPtpState 0 3).fault 0x68 70 none (s.rd L.telPtpOffset) 0 := by
  rw [Sw.servo, if_neg (by simp [h1, h2])]
  exact if_pos h

/-! ### Memory ports that do not return (16 R640) -/

theorem sendBlind_now : SendBlind Sw.now where
  bil _ _ := rfl
  bad _ _ := rfl
  flt _ _ := rfl
  lost _ _ _ := rfl
  uncorr _ _ := rfl
  fab _ _ := rfl
  free _ _ := rfl
  noroute _ _ := rfl
  qdrop _ _ := rfl
  viol _ _ := rfl

theorem cxlFlush_now (s : Sw) (p : Nat) : (s.cxlFlush p).now = s.now := by
  unfold Sw.cxlFlush
  refine foldl_keeps Sw.now _ _ _ fun w x => ?_
  split
  · exact sendBlind_now.bridgeAnswer ..
  · rfl

theorem memDown_now (s : Sw) (p c : Nat) : (s.memDown p c).now = s.now := by
  refine Eq.trans ?_ (cxlFlush_now s p)
  unfold Sw.memDown
  dsimp only
  split
  · rfl
  · split <;> rfl

theorem memPortReturnTimeout_downs {s : State} {p : BPort} {c t : Nat}
    (h : s.sw.boot.returns.find? (fun r => r.1 == p.val) = some (p.val, c, some t)) :
    ∃ w, Does (.memPortReturnTimeout p) s w ∧ (w.bport p).st = .down ∧ (w.bport p).cause = 1 ∧ w.now = max s.sw.now t := by
  have he : exec (.memPortReturnTimeout p) s = s.ends (({ s.sw.reach t with boot := { (s.sw.reach t).boot with
      returns := (s.sw.reach t).boot.returns.filter (fun x => x.1 != p.val) } } : Sw).memDown p 1) := by
    change execMemPortReturnTimeout p s = _
    rw [execMemPortReturnTimeout, h]
  obtain ⟨hst, hcause, -⟩ := memDown_spec ({ s.sw.reach t with boot := { (s.sw.reach t).boot with
      returns := (s.sw.reach t).boot.returns.filter (fun x => x.1 != p.val) } } : Sw) p 1
  exact ⟨_, he, hst, hcause, memDown_now ..⟩

theorem bootLinkTimeout_readies {s : State} {t : Nat} (h : s.sw.boot.linkAt = some t) : ∃ w, Does .bootLinkTimeout s w ∧
    w.boot.ready = true ∧ w.boot.stage = 9 ∧ w.now = max s.sw.now (deadline t s.sw.boot.linkNs) ∧ ∀ d : Die, w.rd (L.belMode.at d) = 1 := by
  have he : exec .bootLinkTimeout s = s.ends (s.sw.reach (deadline t s.sw.boot.linkNs)).bootReady := by
    change execBootLinkTimeout s = _
    rw [execBootLinkTimeout, h]
  obtain ⟨hr, hs, hn, hm⟩ := bootReady_spec (s.sw.reach (deadline t s.sw.boot.linkNs))
  exact ⟨_, he, hr, hs, hn, hm⟩

/-! ### The resets -/

/-- A reset that comes to an end is what the command does. -/
theorem doesAll_of_endReset {c : Instr} {s : State} {r : Except Nat State} (he : exec c s = endReset r) {t : State} (h : r = .ok t) :
    DoesAll c s t := by
  rw [DoesAll, he, h]
  rfl

/-- A bring-up begins: RESET_N rises, or a rail is back. -/
theorem exec_cold {s s0 : State} {f : BootFacts} {c : Instr}
    (h : (c = .coldReset f ∧ s.sw.mayStart = true ∧ s0 = s) ∨
      (c = .railRestoreTimeout f ∧ s.sw.pins.railLow = true ∧ s.sw.pins.resetN = true ∧ s.sw.pins.thermCritN = true ∧
        s0 = { s with sw := { s.sw with pins := { s.sw.pins with railLow := false } } })) :
    exec c s = endReset (s0.coldStart f) ∧ s0.sw.ident = s.sw.ident ∧ s0.sec = s.sec := by
  obtain ⟨rfl, hm, rfl⟩ | ⟨rfl, hl, hr, hc, rfl⟩ := h
  · exact ⟨if_pos hm, rfl, rfl⟩
  · exact ⟨(if_neg (by simp [hl])).trans (if_pos ⟨hr, by simp [Sw.mayStart, State.updSw, Sw.updPins, hc]⟩), rfl, rfl⟩

theorem exec_warmReset {s : State} {f : BootFacts} (hb : s.busyFor 0x2000 2 = false) : exec (.warmReset f) s = endReset (s.warmStart f) :=
  s.written_ends 0x2000 2 _ hb

/-! ### The pins, one by one -/

section
variable {s : State} (hh : s.sw.held = false)
include hh

theorem sensorSample_cool {l : List (Sensor × Int)} {w : Sw} (hw : w = ((s.sw.reach (nextTick 10000 s.sw.now s.sw.pwr.sensedAt)).updPwr
      (fun p => { p with sensedAt := some (nextTick 10000 s.sw.now s.sw.pwr.sensedAt) })).sense l)
    (hcool : w.pwr.temps.any (fun kv => decide (critAt kv.1 ≤ kv.2)) = false) :
    Does (.sensorSample l) s (Sw.trips { w with pins := { w.pins with thermWarnN := !w.hot } }) := by
  have hheld : ¬ w.held = true := by
    have h : w.held = s.sw.held := by rw [hw]; rfl
    rw [h, hh]
    decide
  subst hw
  exact (if_neg (by rw [hcool]; decide)).trans (if_neg hheld)

theorem ppsInEdge_valid {n : Nat} (h1 : 1000 ≤ n) (h2 : n ≤ 500000000) :
    Does (.ppsInEdge n) s (Sw.servo { s.sw with pins := s.sw.pins.edge s.sw.now } true) :=
  if_neg (by simp [hh]; omega)

theorem ppsOutSecond_sends : ∃ t, t = max (cdiv s.sw.now 1000000000 * 1000000000) (s.sw.pins.ppsOut + 1000000000) ∧
    Does .ppsOutSecond s { s.sw with now := max s.sw.now t, pins := { s.sw.pins with ppsOut := t }, tx := .pps t :: s.sw.tx } :=
  ⟨_, rfl, if_neg (by simp [hh])⟩

/-- A message gives the servo its offset, and tells whether it holds lock. -/
theorem ptpMessageReceive_servo (o : Int) (k : Bool) : ∃ w, Does (.ptpMessageReceive o k) s w ∧
    w.rd L.telPtpOffset = (BitVec.ofInt 64 o).toNat ∧ w.pins.ptpLock = k ∧
    w.rd L.telPtpState = (if s.sw.pins.ppsLock || k then 2 else if s.sw.rd L.telPtpState = 2 then 3
      else if s.sw.rd L.telPtpState = 0 then 1 else s.sw.rd L.telPtpState) := by
  obtain ⟨v, hv⟩ : ∃ v : Sw, v = (s.sw.updPins (fun x => { x with ptpLock := k })).wr L.telPtpOffset 0 (BitVec.ofInt 64 o).toNat := ⟨_, rfl⟩
  have hoff : v.rd L.telPtpOffset = (BitVec.ofInt 64 o).toNat := by
    rw [hv]
    exact (Sw.rd_wr_self ..).trans (Nat.mod_eq_of_lt (BitVec.ofInt 64 o).isLt)
  have hst : v.rd L.telPtpState = s.sw.rd L.telPtpState := by
    rw [hv]
    exact Sw.rd_wr_ne _ _ _ _ _ _ (by decide)
  have hpins : v.pins = { s.sw.pins with ptpLock := k } := by rw [hv]; rfl
  refine ⟨v.servo true, ?_, (rd_servo_offset ..).trans hoff, ?_, ?_⟩
  · rw [hv]
    exact if_neg (by simp [hh])
  · rw [(servo_pins v true).1, hpins]
  · rw [rd_servo_state, hst, hpins]
    simp only [Bool.or_eq_true, and_true]

theorem ptpSourceLoss_holdover (h1 : s.sw.pins.ppsLock = false) (h2 : s.sw.rd L.telPtpState = 2) :
    ∃ w, Does .ptpSourceLoss s w ∧ w.rd L.telPtpState = 3 ∧
      w.flt.due = s.sw.flt.due ++ [⟨0x68, 70, none, BitVec.ofNat 64 (s.sw.rd L.telPtpOffset), 0⟩] := by
  refine ⟨(s.sw.updPins (fun x => { x with ptpLock := false })).servo false, if_neg (by simp [hh]), ?_, ?_⟩
  · rw [rd_servo_state, if_neg (by simp [Sw.updPins, h1])]
    exact if_pos h2
  · rw [servo_holdover (s := s.sw.updPins (fun x => { x with ptpLock := false })) h1 rfl h2]
    rfl

theorem ptpSourceLoss_locked (h1 : s.sw.pins.ppsLock = true) : ∃ w, Does .ptpSourceLoss s w ∧ w.rd L.telPtpState = 2 := by
  refine ⟨(s.sw.updPins (fun x => { x with ptpLock := false })).servo false, if_neg (by simp [hh]), ?_⟩
  rw [rd_servo_state]
  exact if_pos (.inl h1)

theorem refclkLoss_fails {d : LinkDie} {w : Sw} (hw : w = { s.sw with pins := { s.sw.pins with noClk := insertNat d.val s.sw.pins.noClk } }) :
    Does (.refclkLoss d) s ((w.cfgPortList.filter (fun p => p / 64 == d.val)).foldl Sw.clockFail w) := by
  have hheld : ¬ w.held = true := by
    have h : w.held = s.sw.held := by rw [hw]; rfl
    rw [h, hh]
    decide
  subst hw
  exact if_neg hheld

end

theorem ppsLossTimeout_unlocks {s : State} {t : Nat} (h : s.sw.pins.ppsLast = some t) : ∃ w, Does .ppsLossTimeout s w ∧
    w.pins.ppsLock = false ∧ w.pins.ppsRun = 0 ∧ w.now = max s.sw.now (deadline t 2000000000) := by
  obtain ⟨v, hv⟩ : ∃ v : Sw, v = (s.sw.reach (deadline t 2000000000)).updPins (fun x => { x with ppsLast := none, ppsRun := 0, ppsLock := false }) :=
    ⟨_, rfl⟩
  have he : exec .ppsLossTimeout s = s.ends (v.servo false) := by
    change execPpsLossTimeout s = _
    rw [execPpsLossTimeout, h, hv]
  obtain ⟨hp, hn⟩ := servo_pins v false
  refine ⟨_, he, ?_, ?_, ?_⟩
  · rw [hp, hv]; rfl
  · rw [hp, hv]; rfl
  · rw [hn, hv]; rfl

theorem memPerstRelease_releases {s : State} {p : BPort} (hm : s.sw.memRole p = true) (hd : (s.sw.bport p).st ≠ .disabled)
    (hn : (s.sw.bport p).st ≠ .down) : ∃ w, Does (.memPerstRelease p) s w ∧ p.val ∈ w.pins.memUp ∧
      w = { s.sw with now := max s.sw.now (deadline (s.sw.bport p).enAt 1000000), pins := { s.sw.pins with memUp := w.pins.memUp } } :=
  ⟨_, if_neg (by simp [hm, hd, hn]), mem_insertNat .., rfl⟩

end Sys2Proof.Machine

open Sys2Proof Sys2Proof.Machine

/-- Settles O60: bring-ups by what stops them, stops by what they keep, and the pins one by one. -/
theorem resetsAndPins : Obligations.ResetsAndPins := by
  unfold Obligations.ResetsAndPins
  intro s
  refine ⟨?_, ?_, fun t h => bootLinkTimeout_readies h, fun p c t h => memPortReturnTimeout_downs h, ?_, ?_, ?_, ?_, ?_,
    fun i => rfl, ?_⟩
  · intro f c s0 h
    obtain ⟨he, hi, hs⟩ := exec_cold h
    rw [← hi, ← hs]
    refine ⟨fun hf => ?_, fun hf ha => ?_, ?_, fun t ht => doesAll_of_endReset he ht⟩
    · exact ⟨_, doesAll_of_endReset he (coldStart_noFuses s0 hf), rfl, rfl, rfl, coldBase_fuses .., coldBase_nor s0 f, rfl⟩
    · exact ⟨_, doesAll_of_endReset he (coldStart_crossing s0 hf ha), rfl, rfl, rfl⟩
    · rintro hf ha hk hl b rfl
      obtain ⟨t, ht, hends⟩ := coldStart_ends s0 hf ha hk hl
      exact ⟨t, doesAll_of_endReset he ht, hends⟩
  · intro f
    refine ⟨fun h => if_neg (by simp [h]), fun hl hr => ?_, fun hb => ⟨fun ha => ?_, fun ha himg => ?_, fun t ht => ?_⟩⟩
    · exact (if_neg (by simp [hl])).trans (if_neg (by simp [State.updSw, Sw.updPins, hr]))
    · exact ⟨_, doesAll_of_endReset (exec_warmReset hb) (warmStart_crossing s ha), rfl, rfl, rfl⟩
    · obtain ⟨t, ht, hends⟩ := warmStart_ends s ha himg
      exact ⟨t, doesAll_of_endReset (exec_warmReset hb) ht, hends⟩
    · exact doesAll_of_endReset (exec_warmReset hb) ht
  · rintro c (rfl | rfl)
    · obtain ⟨t, he, hn, hspoilt, hkept, u, h, hp, hsvn, hnor, hbusy, hident⟩ := railLoss_stops s
      exact ⟨t, he, hn, h.ready, fun hk => hkept (hk.resolve_left nofun), fun k _ => hspoilt k, h.svnFuse.trans hsvn,
        fun hb => (h.nor (hbusy.trans hb)).trans hnor, h.ident.trans hident, h.ports, h.hbm, h.lex, h.derived, h.pending.trans hp⟩
    · obtain ⟨t, he, hn, u, v, h, rfl, hp, hsec, hident⟩ := resetNFall_stops s
      obtain ⟨x, hx⟩ := critEnds_eq v.sw
      rw [hx] at he hn
      exact ⟨_, he, hn, h.ready, fun _ => h.fuses.trans (by rw [hsec]), nofun, h.svnFuse.trans (by rw [hsec]),
        fun hb => (h.nor (by rw [hsec, hb])).trans (by rw [hsec]), h.ident.trans hident, h.ports, h.hbm, h.lex, h.derived, h.pending.trans hp⟩
  · intro x hx hc
    obtain ⟨hcrit, hn, hr⟩ := critical_stops (s.updSw (fun w => w.sense [(x, max (critAt (sensorNo x)) (w.pwr.temps.getD (sensorNo x) 0))]))
    exact ⟨_, if_neg (by simp [hx, hc]), hcrit, hn, hr⟩
  · exact fun l w hh hw hcool => sensorSample_cool hh hw hcool
  · intro hh
    refine ⟨fun n => ⟨fun h => if_pos (.inr h), ppsInEdge_valid hh⟩, ppsOutSecond_sends hh, ptpMessageReceive_servo hh,
      ptpSourceLoss_holdover hh, ptpSourceLoss_locked hh, fun he hst => if_pos (.inr ⟨he, hst⟩), fun h => if_neg ?_,
      fun d w hw => refclkLoss_fails hh hw, fun a => ⟨fun h => if_pos (.inr h), fun h => if_neg (by simp [hh, h])⟩⟩
    rintro (h1 | ⟨h1, h2⟩)
    · rw [hh] at h1
      exact Bool.false_ne_true h1
    · rw [h1] at h
      exact h.elim nofun (Nat.not_le.mpr h2)
  · exact fun t ht => ppsLossTimeout_unlocks ht
  · exact fun p hm hd hn => memPerstRelease_releases hm hd hn

end

section
/-! SUPPORT. The commands of Table 14.4 and block resets (14 R570 to R583), with the theorem that settles O54. -/

namespace Sys2Proof.Machine

theorem tenSt_setTen_self (s : Sw) (t : Nat) (x : TenSt) : (s.setTen t x).tenSt t = x := AMap.getD_put_self ..

theorem tenSt_setTen_ne (s : Sw) {t u : Nat} (x : TenSt) (h : u ≠ t) : (s.setTen t x).tenSt u = s.tenSt u :=
  AMap.getD_put_ne _ _ _ _ _ _ (Ne.symm h)

theorem endsWr_ok {s : State} {n : Nat} {w : Sw} {r : WrRes} (h : r = .ok (n, w)) : s.endsWr r = .next { s with sw := w.settle } := by
  rw [h]
  rfl

/-! ### Activation (Table 14.4) -/

/-- The key of an element of a table lies in the table's range. -/
theorem key_range (r : Reg) {el : Nat} (h : el < 65536) : (r.key 0 ≤ r.key el ∧ r.key el < r.key 0 + 65536) ∧ r.key el - r.key 0 = el := by
  unfold Reg.key
  omega

/-- A valid group stands among the entries of the group table. -/
theorem group_mem {s : Sw} {g : Nat} (hg : g < 4096) (hv : gValid (s.group g) = true) : (g, s.group g) ∈ s.elems L.collGroup := by
  cases h : s.lex.get? (L.collGroup.key g) with
  | none =>
    have h0 : s.group g = 0 := by
      rw [Sw.group, Sw.rd, AMap.getD, h]
      rfl
    rw [h0] at hv
    exact absurd hv (by decide)
  | some v =>
    have hgv : s.group g = v := by rw [Sw.group, Sw.rd, AMap.getD, h]; rfl
    rw [hgv, Sw.elems, List.mem_map]
    obtain ⟨hin, hsub⟩ := key_range L.collGroup (el := g) (by omega)
    exact ⟨(L.collGroup.key g, v), List.mem_filter.mpr ⟨mem_of_get? h, decide_eq_true hin⟩, congrArg (·, v) hsub⟩

/-- The groups of `gs` are open. -/
theorem collClosed_foldl (gs : List Nat) (s : Sw) : ∃ x, gs.foldl (fun s g => s.wr L.collClosed g 0) s = { s with lex := x } ∧
    ∀ g, g ∈ gs ∨ s.rd L.collClosed g = 0 → ({ s with lex := x } : Sw).rd L.collClosed g = 0 := by
  induction gs generalizing s with
  | nil => exact ⟨_, rfl, fun g h => h.resolve_left (List.not_mem_nil)⟩
  | cons a gs ih =>
    obtain ⟨x, hx, hr⟩ := ih (s.wr L.collClosed a 0)
    refine ⟨x, hx, fun g h => hr g ?_⟩
    by_cases ha : g = a
    · right
      rw [ha]
      exact Sw.rd_wr_self ..
    · refine h.imp (fun h => (List.mem_cons.mp h).resolve_left ha) fun h => ?_
      refine Eq.trans (Sw.rd_wr_ne _ _ _ _ _ _ ?_) h
      simp only [Reg.key]
      omega

/-- What Activate leaves of the switch. -/
structure Activated (s : Sw) (t : Nat) (w : Sw) : Prop where
  active : (w.tenSt t).st = .active
  open_  : (w.tenSt t).open_ = [0, 1, 2, 3]
  others : ∀ u, u ≠ t → w.tenSt u = s.tenSt u
  flows  : w.fab.flows = s.fab.flows.filter (fun kv => kv.2.ten != t)
  groups : ∀ g, g < 4096 → gValid (s.group g) = true → gTen (s.group g) = t → w.rd L.collClosed g = 0
  rest   : w = { s with ten := w.ten, fab := w.fab, bel := w.bel, anv := w.anv, lex := w.lex }

theorem activate_free {s : Sw} {t : Nat} (hq : (s.tenSt t).st = .quenched) (hs : (s.tenSt t).stopped = false) (hf : s.ctxFree t = true) :
    ∃ w, s.activate t = some w ∧ Activated s t w := by
  rw [Sw.activate]
  dsimp only
  rw [if_neg (by simp [hq, hs, hf])]
  generalize hx : ({ s.tenSt t with st := TState.active, rbfail := false, open_ := [0, 1, 2, 3], closing := [] } : TenSt) = x
  have hgs : ∀ g, g < 4096 → gValid (s.group g) = true → gTen (s.group g) = t →
      g ∈ (((s.setTen t x).elems L.collGroup).filter (fun e => gTen e.2 == t)).map Prod.fst := fun g hg hv ht =>
    List.mem_map.mpr ⟨_, List.mem_filter.mpr ⟨group_mem (s := s.setTen t x) hg hv, beq_iff_eq.mpr ht⟩, rfl⟩
  generalize (((s.setTen t x).elems L.collGroup).filter (fun e => gTen e.2 == t)).map Prod.fst = gs at hgs ⊢
  obtain ⟨l, hl, hr⟩ := collClosed_foldl gs (s.setTen t x)
  rw [hl]
  refine ⟨_, rfl, ⟨?_, ?_, fun u hu => tenSt_setTen_ne s x hu, rfl, fun g hg hv ht => hr g (.inl (hgs g hg hv ht)), rfl⟩⟩
  · exact (congrArg TenSt.st (tenSt_setTen_self s t x)).trans (by rw [← hx])
  · exact (congrArg TenSt.open_ (tenSt_setTen_self s t x)).trans (by rw [← hx])

theorem activate_refused {s : Sw} {t : Nat} (h : (s.tenSt t).st ≠ .quenched ∨ (s.tenSt t).stopped = true ∨ s.ctxFree t = false) :
    s.activate t = none := by
  rw [Sw.activate]
  refine if_pos ?_
  simpa using h

section
variable {s : State} {t : Ten} (hb : s.busyFor 0x9000 1 = false)
include hb

theorem tenActivate_free (hq : (s.sw.tenSt t.toNat).st = .quenched) (hs : (s.sw.tenSt t.toNat).stopped = false)
    (hf : s.sw.ctxFree t.toNat = true) (hp : s.sw.pwr.state ≠ .parked) : ∃ w, Does (.tenActivate t) s w ∧ Activated s.sw t.toNat w := by
  obtain ⟨w, hw, ha⟩ := activate_free hq hs hf
  refine ⟨w, (s.written_ends 0x9000 1 _ hb).trans (endsWr_ok (n := 0) ?_), ha⟩
  rw [Sw.wrActivate, if_neg hp, hw]
  rfl

theorem tenActivate_refused (h : (s.sw.tenSt t.toNat).st ≠ .quenched ∨ (s.sw.tenSt t.toNat).stopped = true ∨
    s.sw.ctxFree t.toNat = false ∨ s.sw.pwr.state = .parked) : Does (.tenActivate t) s s.sw := by
  refine (s.written_ends 0x9000 1 _ hb).trans (endsWr_ok (n := 4) ?_)
  unfold Sw.wrActivate
  by_cases hp : s.sw.pwr.state = .parked
  · exact if_pos hp
  · rw [if_neg hp, activate_refused (h.imp_right fun h => h.imp_right fun h => h.resolve_right hp)]
    rfl

/-- An acknowledged tenancy may be activated again; no other is touched. -/
theorem tenAcknowledge_starts : ∃ w, Does (.tenAcknowledge t) s w ∧ w.tenSt t.toNat = { s.sw.tenSt t.toNat with stopped := false } ∧
    (∀ u, u ≠ t.toNat → w.tenSt u = s.sw.tenSt u) ∧ w = { s.sw with ten := w.ten } :=
  ⟨_, s.written_ends 0x9000 1 _ hb, tenSt_setTen_self .., fun _ hu => tenSt_setTen_ne _ _ hu, rfl⟩

end

/-! ### Quench (R573, R574) -/

theorem tenSt_startClear (s : Sw) (t : Nat) :
    (s.startClear t).tenSt t = { s.tenSt t with st := .clearing, drained := true, drainAt := none, closing := [] } := tenSt_setTen_self ..

theorem quenchDrainTimeout_drops {s : State} {t : Ten} {d : Nat} (hq : (s.sw.tenSt t.toNat).st = .quenching)
    (hd : (s.sw.tenSt t.toNat).drainAt = some d) : Does (.quenchDrainTimeout t) s (((s.sw.reach d).drainDrop t.toNat).startClear t.toNat) := by
  change execQuenchDrainTimeout t s = _
  rw [execQuenchDrainTimeout, hd]
  exact if_pos hq

theorem tenSt_quenched (s : Sw) (t : Nat) :
    (s.quenched t).tenSt t = { s.tenSt t with st := .quenched, drainAt := none, drained := false, closing := [] } := tenSt_setTen_self ..

theorem tenSt_quenchEnds (s : Sw) (t u : Nat) : (s.quenchEnds t).tenSt u = s.tenSt u := rfl

/-- The clear over, the tenancy is Quenched. -/
theorem quenchClearComplete_quenched {s : State} {t : Ten} (hc : (s.sw.tenSt t.toNat).st = .clearing) :
    ∃ w, Does (.quenchClearComplete t) s w ∧ (w.tenSt t.toNat).st = .quenched := by
  refine ⟨((s.sw.tenClear t.toNat).quenched t.toNat).quenchEnds t.toNat, if_pos hc, ?_⟩
  rw [tenSt_quenchEnds, tenSt_quenched]

/-! ### Re-bind (R577) -/

section
variable {s : State} {t : Ten} {v : BitVec 32} (hb : s.busyFor 0x9000 2 = false)
include hb

theorem tenRebind_busy (h : s.sw.rebind.isSome = true) : Does (.tenRebind v) s s.sw :=
  (s.written_ends 0x9000 2 _ hb).trans (endsWr_ok (n := 7) (if_pos h))

theorem tenRebind_begins (ht : fld v.toNat 0 8 = t.toNat) (h : s.sw.rebind = none) (hq : (s.sw.tenSt t.toNat).st ≠ .active)
    (ha : bit v.toNat 16 = false) : Does (.tenRebind v) s { s.sw with rebind := some ⟨t.toNat, fld v.toNat 8 8, false⟩ } := by
  refine (s.written_ends 0x9000 2 _ hb).trans (endsWr_ok (n := 0) ?_)
  rw [Sw.wrRebind]
  dsimp only
  rw [if_neg (by simp [h]), if_neg (by simp [ha]), ht, ha, Sw.wrQuench, if_neg hq]
  rfl

end

/-- The last step of a re-bind waits for the old tenancy, and moves its words. -/
theorem rebindApply_of_idle {s : Sw} {r : Rebind} (h : s.rebind = some r) (ha : r.act = false) : s.rebindApply =
    if (s.tenSt r.old).st ≠ .quenched then s else { (s.moveBindings r.old r.new) with rebind := none } := by
  rw [Sw.rebindApply, h]
  by_cases hq : (s.tenSt r.old).st ≠ .quenched
  · exact (if_pos hq).trans (if_pos hq).symm
  · exact (if_neg hq).trans ((if_neg (by simp [ha])).trans (if_neg hq).symm)

/-! ### Block resets (R582, R583) -/

section
variable {s : State} {v : BitVec 16} (hb : s.busyFor 0x9006 1 = false)
include hb

theorem blockReset_none (h : s.sw.blockOf v.toNat = none) : Does (.blockReset v) s s.sw :=
  (s.written_ends 0x9006 1 _ hb).trans (endsWr_ok (n := 4) (by rw [Sw.wrBlkCmd, h]; rfl))

theorem blockReset_stops {b : Block} (h : s.sw.blockOf v.toNat = some b) : Does (.blockReset v) s (s.sw.blockStop b) :=
  (s.written_ends 0x9006 1 _ hb).trans (endsWr_ok (n := 0) (by rw [Sw.wrBlkCmd, h]; rfl))

/-- A core that is reset halts; no other is touched. -/
theorem blockReset_core {c : CoreId} (h : s.sw.blockOf v.toNat = some (.core c)) : ∃ w, Does (.blockReset v) s w ∧ .core c ∈ w.blkRst ∧
    (w.core c).halted = true ∧ (∀ k, k ≠ c.val → w.core k = s.sw.core k) ∧ w = { s.sw with blkRst := w.blkRst, cores := w.cores } := by
  refine ⟨_, blockReset_stops hb h, List.mem_append_right _ (List.mem_singleton_self _), ?_, fun k hk => ?_, rfl⟩
  · exact congrArg Core.halted (core_setCore_self ..)
  · exact AMap.getD_put_ne _ _ _ _ _ _ (Ne.symm hk)

end

theorem blkDone_eq (s : Sw) (b : Block) : ∃ c a, s.blkDone b =
    { s.bump (blockInc b) with blkRst := s.blkRst.filter (fun x => x != b), cores := c, anv := a } := by
  unfold Sw.blkDone
  cases b <;> exact ⟨_, _, rfl⟩

/-- Its reset over, a block takes requests again in its next incarnation. -/
theorem blockResetComplete_done {s : State} {b : Block} (h : s.sw.blkRst.contains b = true) : ∃ w, Does (.blockResetComplete b) s w ∧
    b ∉ w.blkRst ∧ w.incOf (blockInc b) = (s.sw.incOf (blockInc b) + 1) % 256 ^ L.tenBlkInc.width ∧
    ∀ k, k ≠ blockInc b → w.incOf k = s.sw.incOf k := by
  obtain ⟨c, a, hw⟩ := blkDone_eq s.sw b
  refine ⟨s.sw.blkDone b, if_pos h, ?_, ?_, fun k hk => ?_⟩
  · rw [hw]
    simp
  · rw [hw]
    exact Sw.rd_wr_self ..
  · rw [hw]
    refine Sw.rd_wr_ne _ _ _ _ _ _ ?_
    simp only [Reg.key]
    omega

end Sys2Proof.Machine

open Sys2Proof Sys2Proof.Machine

/-- Settles O54, command by command. -/
theorem tenanciesAndBlocks : Obligations.TenanciesAndBlocks := by
  unfold Obligations.TenanciesAndBlocks
  rintro s t x rfl
  refine ⟨fun hb => ⟨fun hq hs hf hp => ?_, tenActivate_refused hb, fun ha => ?_, fun ha => ?_, tenAcknowledge_starts hb,
    s.written_ends 0x9000 1 _ hb⟩, fun v hb ht => ⟨tenRebind_busy hb, fun h hq ha => tenRebind_begins hb ht h hq ha⟩,
    fun hq => ⟨fun hd => if_neg (by simp [hd]), fun hd => ?_, fun d hd => ?_⟩, quenchClearComplete_quenched, fun hr => ?_, fun r hr ha => ⟨fun hq => ?_, fun hq => ?_⟩,
    fun g => ⟨fun hp => if_pos hp, fun hp => ⟨_, if_neg hp, AMap.get?_del_self .., rfl⟩⟩,
    fun v hb => ⟨blockReset_none hb, fun b => blockReset_stops hb, fun c => blockReset_core hb⟩, fun b hb => blockResetComplete_done hb⟩
  · obtain ⟨w, hw, ha⟩ := tenActivate_free hb hq hs hf hp
    exact ⟨w, hw, ha.active, ha.open_, ha.others, ha.flows, ha.groups, ha.rest⟩
  · exact (s.written_ends 0x9000 1 _ hb).trans (congrArg s.ends (if_pos ha))
  · exact (s.written_ends 0x9000 1 _ hb).trans (congrArg s.ends (if_neg ha))
  · refine ⟨_, rfl, if_pos ⟨hq, hd⟩, ?_, ?_, ?_⟩ <;> rw [tenSt_startClear]
  · refine ⟨_, rfl, quenchDrainTimeout_drops hq hd, ?_, ?_⟩ <;> rw [tenSt_startClear]
  · exact congrArg s.ends (show s.sw.rebindApply = s.sw by rw [Sw.rebindApply, hr])
  · exact congrArg s.ends ((rebindApply_of_idle hr ha).trans (if_pos hq))
  · exact congrArg s.ends ((rebindApply_of_idle hr ha).trans (if_neg (not_not_intro hq)))

end

section
/-! SUPPORT. The collective machinery (07, 10 R419 to R440) leaves alone what returning billets do: the power manager among it. -/

namespace Sys2Proof.Machine

theorem still_inc (s : Sw) (r : Reg) (el n : Nat) : (s.inc r el n).still = s.still := rfl

theorem still_fault (s : Sw) (code src : Nat) (t : Option Nat) (det aux : Nat) : (s.fault code src t det aux).still = s.still := rfl

theorem still_updAnv (s : Sw) (f : Anv → Anv) : (s.updAnv f).still = s.still := rfl

theorem still_updColl (s : Sw) (t g q : Nat) (f : Coll → Coll) : (s.updColl t g q f).still = s.still := rfl

theorem still_updSlot (s : Sw) (c i : Nat) (f : Slot → Slot) : (s.updSlot c i f).still = s.still := by
  unfold Sw.updSlot
  split <;> rfl

/-! ### Billets, packets and lines -/

theorem still_returned (s : Sw) (hs : List Nat) : (s.releaseAll hs).bilRetry.still = s.still :=
  (still_bilRetry _).trans (still_releaseAll ..)

theorem still_recharge (s : Sw) (h : Nat) (o : Owner) : (s.recharge h o).still = s.still := by
  unfold Sw.recharge
  split <;> rfl

theorem still_creditBack (s : Sw) (src : From) (c res sh : Nat) : (s.creditBack src c res sh).still = s.still := by
  unfold Sw.creditBack
  split
  · split
    · rfl
    · exact still_pfcCheck ..
  · rfl

theorem still_freePkt (s : Sw) (p : DPkt) : (s.freePkt p).still = s.still := by
  unfold Sw.freePkt
  exact (still_bilRetry _).trans ((still_creditBack ..).trans (still_releaseAll ..))

theorem still_readLines (s : Sw) (off units reader : Nat) : (s.readLines off units reader).2.still = s.still := by
  unfold Sw.readLines
  split
  · rfl
  · extract_lets u bad v
    have hu : u.still = s.still := forN_keeps Sw.still _ _ _ fun _ _ => still_touchHbm ..
    have hv : v.still = u.still := foldl_keeps Sw.still _ _ _ fun _ _ => rfl
    exact hv.trans hu

theorem still_readList (s : Sw) (g : Nat) : (s.readList g).2.still = s.still := by
  unfold Sw.readList
  refine foldl_keeps (fun a : List Bytes × Sw => a.2.still) _ _ _ fun a i => ?_
  dsimp only
  split <;> exact still_readLines ..

theorem still_sendColl (s : Sw) (d dst t g q op status level : Nat) (ck : Checks) (dig : Nat) :
    (s.sendColl d dst t g q op status level ck dig).still = s.still := sendBlind_still.sendCtl ..

theorem still_postEvent (s : Sw) (g cseq kind status arg : Nat) : (s.postEvent g cseq kind status arg).still = s.still := by
  unfold Sw.postEvent
  dsimp only
  split
  · rfl
  · exact still_evFlush _

/-! ### Aborts and ends -/

theorem still_dropSlot (s : Sw) (c i : Nat) : (s.dropSlot c i).still = s.still :=
  (still_returned ..).trans (still_updSlot s c i _)

theorem still_lingerCheck (s : Sw) (c : Nat) : (s.lingerCheck c).still = s.still := by
  unfold Sw.lingerCheck
  split <;> rfl

theorem still_stopPartials (s : Sw) (d t g q : Nat) : (s.stopPartials d t g q).still = s.still :=
  foldl_keeps Sw.still _ _ _ fun _ _ => still_freePkt ..

theorem still_slotAbort (s : Sw) (c i cause : Nat) (found up : Bool) (ck : Checks) : (s.slotAbort c i cause found up ck).still = s.still := by
  unfold Sw.slotAbort
  split
  · rfl
  · next x _ =>
    extract_lets y d g u v w
    have hv : v.still = s.still := by
      refine Eq.trans ?_ (still_stopPartials s d x.ten x.group y.cseq)
      change (if _ then _ else _ : Sw).still = _
      split
      · exact sendBlind_still.sendCtl ..
      · rfl
    have hw : w.still = s.still := (still_updSlot ..).trans ((still_dropSlot ..).trans hv)
    clear_value w
    split
    · exact (still_fault ..).trans hw
    · exact hw

theorem still_resultLost (s : Sw) (h : Word256) : (s.resultLost h).still = s.still := by
  unfold Sw.resultLost
  split <;> rfl

theorem still_takeLost (s : Sw) : s.takeLost.still = s.still :=
  foldl_keeps Sw.still Sw.resultLost s.fab.lostRes s still_resultLost

theorem still_collClose (s : Sw) (t g q : Nat) : (s.collClose t g q).still = s.still := by
  refine foldl_keeps Sw.still _ _ _ fun w cy => ?_
  split
  · exact still_updSlot ..
  · exact (still_lingerCheck ..).trans ((still_updSlot ..).trans (still_dropSlot ..))

theorem still_collDrain (s : Sw) (t g q : Nat) (ck : Checks) (dig : Nat) : (s.collDrain t g q ck dig).still = s.still := by
  rw [← still_takeLost s]
  unfold Sw.collDrain
  generalize s.takeLost = u
  dsimp only
  split
  · rfl
  · split
    · exact (still_collClose ..).trans ((still_updColl ..).trans (foldl_keeps Sw.still _ _ _ fun _ _ => still_sendColl ..))
    · exact (still_updColl ..).trans (foldl_keeps Sw.still _ _ _ fun _ _ => still_sendColl ..)

theorem still_collEnd (s : Sw) (t g q status level : Nat) (ck : Checks) (dig : Nat) :
    (s.collEnd t g q status level ck dig).still = s.still :=
  (still_collDrain ..).trans ((still_postEvent ..).trans (still_updColl ..))

theorem still_abortUp (s : Sw) (t g q cause sent dig : Nat) : (s.abortUp t g q cause sent dig).still = s.still := by
  unfold Sw.abortUp
  dsimp only
  split
  · rfl
  · split
    · exact still_collEnd ..
    · exact (still_postEvent ..).trans ((still_updColl ..).trans (still_sendColl ..))

theorem still_aborted (s : Sw) (t g q : Nat) : (s.aborted t g q).still = s.still := by
  unfold Sw.aborted
  split
  · exact still_collClose ..
  · split
    · refine (still_abortUp ..).trans (foldl_keeps Sw.still _ _ _ fun w cy => ?_)
      split
      · exact still_updSlot ..
      · rfl
    · rfl

theorem still_abortHere (s : Sw) (c i cause : Nat) (found : Bool) : (s.abortHere c i cause found).still = s.still := by
  unfold Sw.abortHere
  split
  · rfl
  · exact (still_aborted ..).trans (still_slotAbort ..)

/-! ### Held values and spills -/

theorem still_spillItem (s : Sw) (c i b : Nat) (it : Item) : (s.spillItem c i b it).still = s.still := by
  unfold Sw.spillItem
  dsimp only
  split
  · split
    · exact still_abortHere ..
    · exact (still_returned ..).trans ((still_updSlot ..).trans (still_writeLinesN ..))
  · rfl

theorem still_spillFor (n : Nat) (s : Sw) (c bytes : Nat) : (Sw.spillFor n s c bytes).still = s.still := by
  induction n generalizing s with
  | zero => rfl
  | succ n ih =>
    unfold Sw.spillFor
    dsimp only
    split
    · rfl
    · split
      · rfl
      · exact (ih _).trans (still_spillItem ..)

theorem still_holdItem (s : Sw) (c i b bytes : Nat) : (s.holdItem c i b bytes).still = s.still := by
  unfold Sw.holdItem
  dsimp only
  rw [← still_spillFor (s.heldItems c) s c bytes]
  generalize Sw.spillFor (s.heldItems c) s c bytes = u
  split
  · rfl
  · split
    · next h => exact (still_grantTo ..).trans (sendBlind_still.allocate _ _ _ _ _ _ _ h)
    · rfl
    · rfl
    · rfl

theorem still_spillWaiting (n : Nat) (s : Sw) (c : Nat) : (Sw.spillWaiting n s c).still = s.still := by
  induction n generalizing s with
  | zero => rfl
  | succ n ih =>
    unfold Sw.spillWaiting
    split
    · rfl
    · split
      · rfl
      · exact (ih _).trans (still_spillItem ..)

theorem still_sendBlock (s : Sw) (d c kind t g q dig level gfa flags : Nat) (bs : Bytes) (fan : Option Nat) :
    (s.sendBlock d c kind t g q dig level gfa flags bs fan).still = s.still :=
  (still_spillWaiting ..).trans (sendBlind_still.sendData ..)

/-! ### Commits -/

theorem still_updateWrite (s : Sw) (t g q b p w : Nat) (bs : Bytes) (list : List Bytes) :
    (s.updateWrite t g q b p w bs list).still = s.still := by
  unfold Sw.updateWrite
  split
  · rfl
  · next e _ =>
    extract_lets r u v x need done
    have hr : r.2.still = s.still := still_writeLinesN ..
    split
    · exact hr
    · have hv : v.still = s.still := (still_updColl ..).trans hr
      clear_value v
      split
      · exact (still_postEvent ..).trans ((still_updColl ..).trans hv)
      · exact hv

theorem still_updateBlock (s : Sw) (c q b : Nat) (ps : List (Nat × Bytes)) : (s.updateBlock c q b ps).still = s.still := by
  unfold Sw.updateBlock
  split
  · rfl
  · next x _ =>
    dsimp only
    refine Eq.trans ?_ (still_readList s x.group)
    split
    · exact foldl_keeps Sw.still _ _ _ fun _ _ => still_updateWrite ..
    · split
      · rfl
      · exact foldl_keeps Sw.still _ _ _ fun _ _ => still_sendBlock ..

theorem still_sendResults (s : Sw) (c q b : Nat) (ps : List (Nat × Bytes)) : (s.sendResults c q b ps).still = s.still := by
  unfold Sw.sendResults
  split
  · rfl
  · refine foldl_keeps Sw.still _ _ _ fun w pb => ?_
    dsimp only
    split
    · rfl
    · refine foldl_keeps Sw.still _ _ _ fun v m => ?_
      split
      · rfl
      · split
        · exact still_sendBlock ..
        · rfl

theorem still_outDigest (s : Sw) (d t g q coll w : Nat) : (s.outDigest d t g q coll w).still = s.still := by
  unfold Sw.outDigest
  dsimp only
  split
  · exact (still_updColl ..).trans (still_recDigest ..)
  · rfl

theorem still_commit (s : Sw) (c q b : Nat) (bs : Bytes) (gathered : Bool) : (s.commit c q b bs gathered).still = s.still := by
  unfold Sw.commit
  split
  · rfl
  · extract_lets y coll rec_ u phase1 v w z ps
    have hu : u.still = s.still := by
      change (if _ then _ else _ : Sw).still = _
      split
      · exact foldl_keeps Sw.still _ _ _ fun _ _ => still_sendColl ..
      · rfl
    have hz : z.still = s.still := (still_postEvent ..).trans ((still_outDigest ..).trans ((still_updColl ..).trans hu))
    clear_value z
    split
    · exact (still_updateBlock ..).trans hz
    · exact (still_sendResults ..).trans hz

theorem still_commitReady (s : Sw) (c q : Nat) : (s.commitReady c q).still = s.still := by
  unfold Sw.commitReady
  split
  · rfl
  · dsimp only
    split
    · exact (foldl_keeps Sw.still _ _ _ fun _ _ => still_commit ..).trans (still_updSlot ..)
    · rfl

theorem still_drainCheck (s : Sw) (c q : Nat) : (s.drainCheck c q).still = s.still := by
  unfold Sw.drainCheck
  split
  · rfl
  · dsimp only
    split
    · refine (apply_ite Sw.still _ _ _).trans ?_
      rw [still_updSlot, ite_self]
    · rfl

/-! ### Arrival (Table 7.6) -/

theorem still_openSlot (s : Sw) (c q : Nat) (digest : Option Nat) : (s.openSlot c q digest).still = s.still := by
  unfold Sw.openSlot
  split
  · rfl
  · extract_lets y u x v
    have hv : v.still = s.still := (still_updAnv ..).trans (still_updSlot ..)
    clear_value v
    split
    · exact hv
    · exact (still_postEvent ..).trans ((still_updColl ..).trans hv)

theorem still_dupContrib (s : Sw) (d t g q src : Nat) : (s.dupContrib d t g q src).still = s.still := rfl

theorem still_holdBlock (s : Sw) (c i n : Nat) : (s.holdBlock c i n).still = s.still := by
  unfold Sw.holdBlock
  dsimp only
  split
  · exact (forN_keeps Sw.still _ _ _ fun _ _ => still_holdItem ..).trans (still_updSlot ..)
  · rfl

theorem still_formAt (s : Sw) (c i n : Nat) : (s.formAt c i n).still = s.still := by
  unfold Sw.formAt
  split
  · rfl
  · dsimp only
    split
    · split
      · rfl
      · exact (still_holdBlock ..).trans ((still_returned ..).trans (still_updSlot ..))
    · rfl

theorem still_gatherOne (s : Sw) (c q : Nat) (p : Stored) (m : Member) (pay : Nat) : (s.gatherOne c q p m pay).still = s.still := by
  unfold Sw.gatherOne
  split
  · rfl
  · extract_lets y w coll n bs u v
    have hv : v.still = s.still := (still_returned ..).trans (still_updSlot ..)
    clear_value v
    split
    · exact still_abortHere ..
    · split
      · exact (still_drainCheck ..).trans ((still_commitReady ..).trans ((still_updSlot ..).trans hv))
      · exact (still_drainCheck ..).trans ((still_sendBlock ..).trans hv)

theorem still_progress (s : Sw) (c q : Nat) : (s.progress c q).still = s.still := by
  unfold Sw.progress
  split
  · rfl
  · dsimp only
    split
    · split
      · split
        · exact still_abortHere ..
        · refine (still_drainCheck ..).trans ((still_commitReady ..).trans (foldl_keeps Sw.still _ _ _ fun w p => ?_))
          split
          · split
            · exact still_gatherOne ..
            · rfl
          · rfl
      · exact (still_drainCheck ..).trans ((still_commitReady ..).trans (foldl_keeps Sw.still _ _ _ fun _ _ => still_formAt ..))
    · rfl

theorem still_storeContrib (s : Sw) (c q : Nat) (p : Stored) : (s.storeContrib c q p).still = s.still := by
  unfold Sw.storeContrib
  extract_lets n u y
  have hu : u.still = s.still := foldl_keeps Sw.still _ _ _ fun _ _ => still_recharge ..
  split
  · exact (still_updSlot ..).trans hu
  · split
    · exact (still_updSlot ..).trans hu
    · exact (still_updSlot ..).trans hu

theorem still_openBeyond (s : Sw) (c q : Nat) : (s.openBeyond c q).still = s.still := by
  unfold Sw.openBeyond
  refine (foldl_keeps Sw.still _ _ _ fun w p => ?_).trans (still_updSlot s c q _)
  dsimp only
  split
  · split
    · exact (still_progress ..).trans (still_storeContrib ..)
    · exact (still_formAt ..).trans (still_storeContrib ..)
  · exact still_storeContrib ..

theorem still_gatherAll (s : Sw) (c q : Nat) : (s.gatherAll c q).still = s.still :=
  (forN_keeps Sw.still _ _ _ fun _ _ => still_openBeyond ..).trans (still_progress ..)

theorem still_inc96 (s : Sw) (r : Reg) (n : Nat) : (s.inc96 r n).still = s.still :=
  (still_wr ..).trans ((still_wr ..).trans (still_wr ..))

theorem still_takeContrib (s : Sw) (c q : Nat) (p : Stored) : (s.takeContrib c q p).still = s.still :=
  (still_inc96 ..).trans (still_storeContrib ..)

theorem still_contribAt (s : Sw) (c : Nat) (p : Stored) : (s.contribAt c p).still = s.still := by
  unfold Sw.contribAt
  split
  · rfl
  · extract_lets q y d drop k n again
    have hdrop : (drop s).still = s.still := still_returned ..
    clear_value drop
    split
    · exact (still_inc ..).trans hdrop
    · split
      · exact (still_takeContrib ..).trans (still_openSlot ..)
      · split
        · exact (still_dupContrib ..).trans hdrop
        · split
          · exact (still_abortHere ..).trans hdrop
          · split
            · exact (still_dupContrib ..).trans hdrop
            · split
              · exact still_takeContrib ..
              · split
                · exact (still_abortHere ..).trans hdrop
                · split
                  · exact (still_gatherAll ..).trans (still_takeContrib ..)
                  · exact (still_drainCheck ..).trans ((still_formAt ..).trans (still_takeContrib ..))

theorem still_upDescriptor (s : Sw) (c q : Nat) : (s.upDescriptor c q).still = s.still := by
  unfold Sw.upDescriptor
  split
  · rfl
  · next x _ =>
    dsimp only
    split
    · rfl
    · have hu : (if (s.coll x.ten x.group q).alldesc = true then s
          else (s.updColl x.ten x.group q (fun r => { r with alldesc := true })).postEvent x.group q 2 0 0).still = s.still := by
        split
        · rfl
        · exact (still_postEvent ..).trans (still_updColl ..)
      generalize (if (s.coll x.ten x.group q).alldesc = true then s else _ : Sw) = u at hu ⊢
      split
      · exact hu
      · refine (still_updColl ..).trans ((still_sendBlock ..).trans (Eq.trans ?_ hu))
        split
        · exact still_readList ..
        · rfl

theorem still_descAt (s : Sw) (c : Nat) (h : Word256) (p : Nat) (told : List Nat) : (s.descAt c h p told).still = s.still := by
  unfold Sw.descAt
  split
  · rfl
  · extract_lets q y d k bad u z
    have hbad : ∀ (w : Sw) (n : Nat), (bad w n).still = w.still := fun w n => still_abortHere ..
    have hu : u.still = s.still := by
      change (if _ then _ else _ : Sw).still = _
      split
      · exact still_openSlot ..
      · rfl
    clear_value bad u
    split
    · exact still_inc ..
    · split
      · exact still_inc ..
      · split
        · exact (hbad ..).trans hu
        · split
          · exact (hbad ..).trans hu
          · split
            · split
              · exact (hbad ..).trans hu
              · split
                · exact (hbad ..).trans hu
                · split
                  · exact (still_inc ..).trans hu
                  · exact (still_upDescriptor ..).trans ((still_commitReady ..).trans ((still_gatherAll ..).trans ((still_updSlot ..).trans hu)))
            · split
              · exact (hbad ..).trans hu
              · split
                · exact (hbad ..).trans ((still_updSlot ..).trans hu)
                · exact (still_upDescriptor ..).trans ((still_gatherAll ..).trans ((still_updSlot ..).trans hu))

/-! ### Admission (10 R420 to R422) -/

theorem still_bindCtx {s t : Sw} {d x g c : Nat} (e : s.bindCtx d x g = some (c, t)) : t.still = s.still := by
  unfold Sw.bindCtx at e
  dsimp only at e
  split at e
  · cases e
  · split at e
    · cases e; rfl
    · cases e

theorem still_placeColl {s t : Sw} {d x g q c : Nat} (e : s.placeColl d x g q = some (c, t)) : t.still = s.still := by
  unfold Sw.placeColl at e
  split at e
  · cases e; rfl
  · exact still_bindCtx e

theorem still_abortOn {s u : Sw} {d t g q cause : Nat} (e : s.abortOn d t g q cause = some u) : u.still = s.still := by
  unfold Sw.abortOn at e
  split at e
  · split at e
    · cases e; rfl
    · cases e; exact still_slotAbort ..
  · cases e; exact (still_lingerCheck ..).trans (still_updSlot ..)
  · cases e; rfl
  · split at e
    · cases e
    · next h => cases e; exact (still_lingerCheck ..).trans ((still_updSlot ..).trans (still_bindCtx h))

theorem still_giveDesc (s : Sw) (c : Nat) (h : Word256) (p : Nat) (told : List Nat) : (s.giveDesc c h p told).2.still = s.still := by
  unfold Sw.giveDesc
  dsimp only
  split
  · exact still_descAt ..
  · exact (still_updAnv ..).trans (still_descAt ..)

theorem still_admitOne (s : Sw) (e : Adm) : (s.admitOne e).still = s.still := by
  unfold Sw.admitOne
  split
  · rfl
  · extract_lets h gone g q
    have hgone : ∀ w : Sw, (gone w).still = w.still := fun _ => rfl
    clear_value gone
    split
    · split
      · next ha => exact (hgone _).trans (still_abortOn ha)
      · rfl
    · split
      · exact (still_inc ..).trans ((still_releaseAll ..).trans (hgone _))
      · split
        · rfl
        · next hp =>
          split
          · exact (still_giveDesc ..).trans ((still_releaseAll ..).trans ((hgone _).trans (still_placeColl hp)))
          · exact (still_contribAt ..).trans ((hgone _).trans (still_placeColl hp))

theorem still_admitScan (s : Sw) : s.admitScan.still = s.still := by
  refine forN_keeps Sw.still _ _ _ fun _ w => foldl_keeps Sw.still _ _ _ fun v e => ?_
  split
  · exact still_admitOne ..
  · rfl

theorem still_freeCtx (s : Sw) (c : Nat) : (s.freeCtx c).still = s.still := by
  unfold Sw.freeCtx
  split
  · rfl
  · refine (still_admitScan _).trans ((still_updAnv ..).trans (foldl_keeps Sw.still _ _ _ fun w q => ?_))
    split
    · rfl
    · exact (still_updAnv ..).trans (still_wr ..)

/-! ### The end of a command -/

theorem still_lingerNow (s : Sw) : s.lingerNow.still = s.still := foldl_keeps Sw.still _ _ _ fun _ _ => still_freeCtx ..

theorem still_lostNow (s : Sw) : s.lostNow.still = s.still := by
  unfold Sw.lostNow
  split
  · rfl
  · exact (still_admitScan _).trans ((foldl_keeps Sw.still _ _ _ fun _ _ => still_collDrain ..).trans (still_takeLost s))

end Sys2Proof.Machine
end

section
/-! SUPPORT. The end of a command keeps the power limit in force where it leaves no fault record and asserts no READY. The end of a
power window while M's firmware is replaced (16 R650, 14 R587). -/

namespace Sys2Proof.Machine

/-! ### A fault that is taken leaves its mark -/

/-- A record is valid, or a fault was lost (R672). -/
def Sw.marked (s : Sw) : Prop := s.flt.recs ≠ [] ∨ s.flt.ovf = true

theorem amap_set_ne_nil {α : Type} (m : AMap α) (k : Nat) (v : α) : AMap.set m k v ≠ [] := by
  cases m with
  | nil => exact List.cons_ne_nil _ _
  | cons kv m =>
    obtain ⟨j, x⟩ := kv
    rw [AMap.set]
    split
    · exact List.cons_ne_nil _ _
    · split <;> exact List.cons_ne_nil _ _

theorem marked_collect (s : Sw) (f : FaultInfo) (ts : List Nat) : (s.collect f ts).marked := by
  unfold Sw.collect
  extract_lets
  split
  · exact .inl (amap_set_ne_nil _ _ _)
  · split
    · exact .inl (amap_set_ne_nil _ _ _)
    · exact .inr rfl

theorem marked_takeFault (s : Sw) (f : FaultInfo) : (s.takeFault f).marked := by
  unfold Sw.takeFault
  split
  · exact marked_collect ..
  · exact marked_collect ..

theorem marked_foldl_takeFault {fs : List FaultInfo} {s : Sw} (h : fs ≠ [] ∨ s.marked) : (fs.foldl Sw.takeFault s).marked := by
  induction fs generalizing s with
  | nil => exact h.resolve_left fun hne => hne rfl
  | cons f fs ih => exact ih (.inr (marked_takeFault s f))

theorem insFault_ne_nil (f : FaultInfo) (l : List FaultInfo) : insFault f l ≠ [] := by
  cases l with
  | nil => exact List.cons_ne_nil _ _
  | cons g gs =>
    rw [insFault]
    split <;> exact List.cons_ne_nil _ _

theorem foldl_insFault_ne_nil {fs l : List FaultInfo} (h : fs ≠ [] ∨ l ≠ []) : fs.foldl (fun l f => insFault f l) l ≠ [] := by
  induction fs generalizing l with
  | nil => exact h.resolve_left fun hne => hne rfl
  | cons f fs ih => exact ih (.inr (insFault_ne_nil f l))

theorem marked_collectAll {n : Nat} {s : Sw} (h : s.marked ∨ n ≠ 0 ∧ s.flt.due ≠ []) : (Sw.collectAll n s).marked := by
  induction n generalizing s with
  | zero => exact h.resolve_right fun hn => hn.1 rfl
  | succ n ih =>
    rw [Sw.collectAll]
    split
    · next hdue => exact h.resolve_right fun hn => hn.2 (List.isEmpty_iff.mp hdue)
    · next hdue =>
      have hne : s.flt.due ≠ [] := fun he => hdue (List.isEmpty_iff.mpr he)
      exact ih (.inl (marked_foldl_takeFault (.inl (foldl_insFault_ne_nil (.inl hne)))))

theorem marked_closeDue {s : Sw} (h : s.marked) : s.closeDue.marked := by
  unfold Sw.closeDue
  split
  · exact h.imp_left fun hne hnil => hne (List.map_eq_nil_iff.mp hnil)
  · exact h

/-! ### What the end of a command keeps -/

theorem cfgLimit_idleMark_wakeAsked (s : Sw) : s.wakeAsked.idleMark.pwr.cfgLimit = s.pwr.cfgLimit := by
  have hidle (w : Sw) : w.idleMark.pwr.cfgLimit = w.pwr.cfgLimit := by
    unfold Sw.idleMark
    extract_lets
    split <;> rfl
  refine (hidle _).trans ?_
  unfold Sw.wakeAsked
  split
  · rfl
  · extract_lets
    split <;> rfl

/-- A bring-up that has not asserted READY has not moved. -/
theorem bootTick_of_not_ready {s : Sw} (h : s.bootTick.boot.ready = false) : s.bootTick = s := by
  unfold Sw.bootTick at h ⊢
  split at h
  · rfl
  · split at h
    · exact absurd ((bootReady_spec s).1.symm.trans h) Bool.noConfusion
    · next hports => exact if_neg hports

theorem eligSync_keeps (s : Sw) : s.eligSync.boot = s.boot ∧ s.eligSync.pwr = s.pwr ∧ s.eligSync.flt = s.flt := by
  obtain ⟨e, he⟩ : ∃ e, s.eligSync = { s with bel := e } := ⟨_, eligSync_eq s⟩
  rw [he]
  exact ⟨rfl, rfl, rfl⟩

theorem fltSignal_keeps (s : Sw) : s.fltSignal.pwr = s.pwr ∧ s.fltSignal.flt.recs = s.flt.recs ∧ s.fltSignal.flt.ovf = s.flt.ovf := by
  obtain ⟨n, t, b, l, hsig⟩ := fltSignal_eq s
  rw [hsig]
  exact ⟨rfl, rfl, rfl⟩

theorem flt_idleMark_wakeAsked (s : Sw) : s.wakeAsked.idleMark.flt = s.flt := by
  obtain ⟨f, hf⟩ := idleMark_wakeAsked_spec s
  rw [hf]
  rfl

/-- Once the faults are taken, what is left of the end of a command keeps the marks, and without READY the limit in force. -/
theorem afterFaults_unready {s : Sw} (hb : s.afterFaults.boot.ready = false) : s.afterFaults.pwr.cfgLimit = s.pwr.cfgLimit ∧
    s.afterFaults.flt.recs = s.flt.recs ∧ s.afterFaults.flt.ovf = s.flt.ovf := by
  obtain ⟨hpwr, hrecs, hovf⟩ := fltSignal_keeps s
  have hlim := (cfgLimit_idleMark_wakeAsked s.fltSignal).trans (congrArg Pwr.cfgLimit hpwr)
  have hflt := flt_idleMark_wakeAsked s.fltSignal
  rw [Sw.afterFaults] at hb ⊢
  obtain ⟨hboot, hp, hf⟩ := eligSync_keeps s.fltSignal.wakeAsked.idleMark.bootTick
  rw [hboot] at hb
  rw [hp, hf, bootTick_of_not_ready hb, hflt]
  exact ⟨hlim, hrecs, hovf⟩

/-- The faults that are due are taken. -/
def Sw.takeDue (s : Sw) : Sw := if s.flt.due.isEmpty then s else Sw.collectAll 8 s.closeDue

theorem settle_eq (s : Sw) : s.settle = s.lostNow.lingerNow.takeDue.closeDue.afterFaults := rfl

theorem takeDue_of_not_marked {s : Sw} (h : ¬ s.takeDue.marked) : s.takeDue = s := by
  unfold Sw.takeDue at h ⊢
  split
  · rfl
  · next hdue =>
    rw [if_neg hdue] at h
    have hne : s.closeDue.flt.due ≠ [] := by
      rw [closeDue_rest]
      exact fun he => hdue (List.isEmpty_iff.mpr he)
    exact absurd (marked_collectAll (.inr ⟨by decide, hne⟩)) h

theorem pwr_closeDue (s : Sw) : s.closeDue.pwr = s.pwr := by
  rw [closeDue_rest]

theorem marked_congr {s t : Sw} (hrecs : s.flt.recs = t.flt.recs) (hovf : s.flt.ovf = t.flt.ovf) : s.marked ↔ t.marked := by
  rw [Sw.marked, Sw.marked, hrecs, hovf]

theorem afterTakeDue_cfgLimit {s : Sw} (hm : ¬ s.takeDue.closeDue.afterFaults.marked)
    (hb : s.takeDue.closeDue.afterFaults.boot.ready = false) : s.takeDue.closeDue.afterFaults.pwr.cfgLimit = s.pwr.cfgLimit := by
  obtain ⟨hlim, hrecs, hovf⟩ := afterFaults_unready hb
  rw [marked_congr hrecs hovf] at hm
  have hmark : ¬ s.takeDue.marked := fun h => hm (marked_closeDue h)
  rw [hlim, pwr_closeDue, takeDue_of_not_marked hmark]

/-- A command that ends without a mark and without READY took no fault, and left the limit in force. -/
theorem settle_cfgLimit {s : Sw} (hm : ¬ s.settle.marked) (hb : s.settle.boot.ready = false) :
    s.settle.pwr.cfgLimit = s.pwr.cfgLimit := by
  have hstill := pwr_of_still ((still_lingerNow s.lostNow).trans (still_lostNow s))
  rw [settle_eq] at hm hb ⊢
  exact (afterTakeDue_cfgLimit hm hb).trans (congrArg Pwr.cfgLimit hstill)

/-! ### The end of a window while M's firmware is replaced -/

theorem next_sw_inj {s : State} {x y : Sw}
    (h : (Host.Outcome.next { s with sw := x } : Host.Outcome State Fault Refusal) = .next { s with sw := y }) : x = y := by
  injection h with hstate
  exact congrArg State.sw hstate

/-- Of the effects that a command may be said to have, all leave the limit that its end leaves in force. -/
theorem cfgLimit_of_does {c : Instr} {s : State} {u w : Sw} (hu : Does c s u) (hm : ¬ u.settle.marked)
    (hb : u.settle.boot.ready = false) (hw : Does c s w) : w.pwr.cfgLimit = u.pwr.cfgLimit := by
  have hend : u.settle = w.settle := next_sw_inj (Eq.trans (Eq.symm hu) hw)
  have hlim := settle_cfgLimit hm hb
  rw [hend] at hm hb hlim
  exact (settle_cfgLimit hm hb).symm.trans hlim

theorem does_powerWindowEnd (s : State) : Does .powerWindowEnd s (s.sw.windowEnd (s.sec.busy == some 3)) := rfl

/-- Held by the replacement of M's firmware, the settings of the window stay in force (14 R587). -/
theorem cfgLimit_windowEnd_frozen (s : Sw) : (s.windowEnd true).pwr.cfgLimit = s.pwr.cfgLimit := rfl

theorem flt_wakeAsked_idleMark_eligSync (s : Sw) : s.wakeAsked.idleMark.eligSync.flt = s.flt :=
  (eligSync_keeps _).2.2.trans (flt_idleMark_wakeAsked s)

theorem boot_wakeAsked_idleMark_eligSync (s : Sw) : s.wakeAsked.idleMark.eligSync.boot = s.boot := by
  obtain ⟨f, hf⟩ := idleMark_wakeAsked_spec s
  refine (eligSync_keeps _).1.trans ?_
  rw [hf]
  rfl

/-- The switch after reset, but for READY and for a limit of 1000 W that software has written. -/
def frozenWindowSw : Sw := ({ ident := Ident.reset, boot := { ready := false } } : Sw).wr L.pwrLimit 0 1000

/-- M's firmware is being replaced. -/
def frozenWindow : State := { sw := frozenWindowSw, sec := { busy := some 3 } }

theorem rd_pwrLimit_frozenWindow : frozenWindow.sw.rd L.pwrLimit = 1000 := Sw.rd_wr_self _ L.pwrLimit 0 1000

theorem settle_frozenWindow : (frozenWindow.sw.windowEnd true).settle =
    (frozenWindow.sw.windowEnd true).wakeAsked.idleMark.eligSync :=
  Sw.settle_rest _ rfl rfl rfl rfl rfl rfl

theorem not_marked_frozenWindow : ¬ (frozenWindow.sw.windowEnd true).settle.marked := by
  rw [settle_frozenWindow, Sw.marked, flt_wakeAsked_idleMark_eligSync]
  exact fun h => h.elim (fun hne => hne rfl) Bool.noConfusion

theorem unready_frozenWindow : (frozenWindow.sw.windowEnd true).settle.boot.ready = false := by
  rw [settle_frozenWindow, boot_wakeAsked_idleMark_eligSync]
  rfl

theorem cfgLimit_frozenWindow : frozenWindow.sw.pwr.cfgLimit = 1650 :=
  congrArg Pwr.cfgLimit (Sw.wr_pwr { ident := Ident.reset, boot := { ready := false } } L.pwrLimit 0 1000)

/-- Any effect that ends as this window does has the limit of reset in force. -/
theorem cfgLimit_of_does_frozenWindow {w : Sw} (h : Does .powerWindowEnd frozenWindow w) : w.pwr.cfgLimit = 1650 :=
  calc w.pwr.cfgLimit = (frozenWindow.sw.windowEnd true).pwr.cfgLimit :=
        cfgLimit_of_does (does_powerWindowEnd frozenWindow) not_marked_frozenWindow unready_frozenWindow h
    _ = frozenWindow.sw.pwr.cfgLimit := cfgLimit_windowEnd_frozen frozenWindow.sw
    _ = 1650 := cfgLimit_frozenWindow

end Sys2Proof.Machine

open Sys2Proof Sys2Proof.Machine

/-- Refutes O56: a window that ends while M's firmware is replaced keeps the limit in force, whatever has been written to `pwr.limit`
(14 R587), where the statement asks for the value written: after reset 1650 W, with 1000 W written. -/
theorem not_powerAndParking : ¬ Obligations.PowerAndParking := by
  unfold Obligations.PowerAndParking
  intro h
  obtain ⟨-, -, -, -, -, -, ⟨w, hdoes, -, -, -, -, hlim⟩, -⟩ := h frozenWindow
  rw [cfgLimit_of_does_frozenWindow hdoes, rd_pwrLimit_frozenWindow] at hlim
  exact absurd hlim (by decide)
end
